-- ==== Sys2Proof/Word.lean ====
section
/-! DEFINITION. The word types of the block: 32-bit registers (R8), bytes, and the 64- and 128-bit quantities of
register pairs (R14) and message headers (R252). -/
namespace Sys2Proof

/-- A register, and every 32-bit field (R8). -/
abbrev Word := BitVec 32
/-- One byte, the unit of every scratchpad layout (R7). -/
abbrev Byte := BitVec 8
/-- A 64-bit quantity held in a register pair (R14), a hash or a seed. -/
abbrev DWord := BitVec 64
/-- A P3 or lane header (R252, R257). -/
abbrev Header := BitVec 128
/-- One 96-bit entry of the rhizome or of a sorus (R86). -/
abbrev Entry := BitVec 96

end Sys2Proof
end

