-- ==== Sys2Proof/Syntax.lean ====
section
/-! DEFINITION. The commands of the block: one constructor per row of the opcode table, in its order. Messages carry
their raw headers; a command that is a register write carries its requester and the written word (whose OP or TARGET
field is the row's own, whatever the word holds there). -/
namespace Sys2Proof

/-- Who makes a register access: a control core on P2 (R261) or the REST link on P5 (R268). -/
inductive Requester where
  | core (c : Fin 16)
  | rest
  deriving DecidableEq, Repr

/-- Where a tree message comes in: on P4, or as REMOTE on P3 (R262). -/
inductive TreeVia where
  | p4
  | remote
  deriving DecidableEq, Repr

/-- The path of a credit word (R265): P1 of a lane group, P3, P4, or P5. -/
inductive CreditPath where
  | lane (g : Fin 8)
  | arrive
  | tree
  | rest
  deriving DecidableEq, Repr

/-- A credit word for the block's own tree messages (R265): who gives it, an instance of the chip or the chip fabric
(`none`), and the word. -/
structure CreditGiven where
  giver : Option (Fin 16)
  word : Word
  deriving DecidableEq, Repr

/-- A tree message (Table 12.7): its 32-byte header, byte i at bits [8i + 7 : 8i], and its payload. -/
structure TreeMsg where
  hdr : BitVec 256
  payload : List Byte
  deriving DecidableEq, Repr

/-- A lane request (R257): header, mask and the operand string of 128 operands. -/
structure LaneReq where
  hdr : Header
  mask : BitVec 128
  ops : BitVec 4096
  deriving DecidableEq, Repr

/-- A message that arrives on P1, P3 or P4 (R249). -/
inductive PortMsg where
  | p3 (h : Header)
  | tree (via : TreeVia) (m : TreeMsg)
  | lane (group : Fin 8) (r : LaneReq)
  deriving DecidableEq, Repr

/-- A write access to the window (R8, R294): page number, byte offset and width in bytes. -/
structure RegAddr where
  page : BitVec 8
  off : BitVec 12
  bytes : Nat := 4
  deriving DecidableEq, Repr

/-- A P2 access that may be of any width and alignment (R8): the byte offset in the window and the width in bytes. -/
structure RawAccess where
  addr : BitVec 20
  bytes : Nat
  deriving DecidableEq, Repr

/-- The 64-bit quantities in register pairs (R14) that firmware writes. -/
inductive WrPair where
  | lifeAnchor | treeChkVal | numSeed | schGen
  deriving DecidableEq, Repr

/-- The register pairs whose lower half captures (R14), other than those with a row of their own. -/
inductive RdPair where
  | lifeAnchor | lifeCal | cntLive | treeChkVal | treeMin | treeMax | schGen
  deriving DecidableEq, Repr

/-- Which half or whole of a refusal or drop capture a read names. -/
inductive Half where
  | lo | hi
  deriving DecidableEq, Repr

/-- The image-fragment drop counters (R243). -/
inductive FragCount where
  | stale | bad | dup
  deriving DecidableEq, Repr

/-- The commands of the block. -/
inductive Instr where
  -- P3 messages
  | doorbell (h : Header)
  | step (h : Header)
  | imgFrag (h : Header)
  | fault (h : Header)
  | treeTile (h : Header)
  | arvBadType (h : Header)
  -- tree
  | treeUp (via : TreeVia) (m : TreeMsg)
  | treeDown (via : TreeVia) (m : TreeMsg)
  | treeCheck (via : TreeVia) (m : TreeMsg)
  | treeNodeMerge (slot : Fin 64)
  -- lanes
  | laneRequestEval (group : Fin 8) (r : LaneReq)
  | laneRequestFetch (group : Fin 8) (h : Header)
  -- P0 answers
  | spadReadData (id : Nat) (data : Option (List Byte))
  | spadWriteAck (id : Nat) (err : Bool)
  -- chain engine
  | submissionCheck
  | workItemIssue (ballast : Nat)
  | evaluationResult (id : Nat)
  | sorusRefetch (id : Nat)
  | partialCapsuleFold (slot : Fin 64)
  | rowBlockComplete (slot : Fin 64)
  | residencyFillDone
  -- numerics, schedule engine, self-check
  | tensorWindowClose (tid : BitVec 16)
  | etaFormed (g : Fin 64)
  | scrubRead
  | sentinelJudge
  | senSelftest
  -- table commands
  | loadEntries (rq : Requester) (v : Word)
  | loadDesc (rq : Requester) (v : Word)
  | loadMap (rq : Requester) (v : Word)
  | loadCrz (rq : Requester) (v : Word)
  | seal (rq : Requester) (v : Word)
  | preload (rq : Requester) (v : Word)
  | tblCmdDone
  | switch (rq : Requester) (v : Word)
  | epochSwitchAccept
  -- context commands
  | drain (rq : Requester) (v : Word)
  | clear (rq : Requester) (v : Word)
  | adopt (rq : Requester) (v : Word)
  | ctxCmdDone
  -- registry commands
  | register (rq : Requester) (v : Word)
  | set (rq : Requester) (v : Word)
  | rewind (rq : Requester) (v : Word)
  | flush (rq : Requester) (v : Word)
  | tenCmdDone
  -- image commands
  | checked (rq : Requester) (v : Word)
  | rollback (rq : Requester) (v : Word)
  | exportImg (rq : Requester) (v : Word)
  | exportBegin
  | prepare (rq : Requester) (v : Word)
  | fill (rq : Requester) (v : Word)
  | abort (rq : Requester) (v : Word)
  | leave (rq : Requester) (v : Word)
  | imgCmdDone
  | fragmentCopyDone
  | imageChecks
  | imgResumed
  -- counters
  | atStep (rq : Requester) (v : Word)
  | next (rq : Requester) (v : Word)
  | disarm (rq : Requester) (v : Word)
  | cntFrozen
  -- schedule commands
  | release (rq : Requester) (v : Word)
  | force (rq : Requester) (v : Word)
  -- lifetime and debug
  | snap (rq : Requester) (v : Word)
  | restore (rq : Requester) (v : Word)
  | lifeCmdDone
  | flip (rq : Requester) (v : Word)
  -- command registers
  | dlChnSubmit (rq : Requester) (v : Word)
  | dlChnCancel (rq : Requester) (v : Word)
  | dlArvRing (rq : Requester) (v : Word)
  | dlTreeChkCmd (rq : Requester) (v : Word)
  | dlGlbReset (rq : Requester) (v : Word)
  -- power
  | pwrReqDormant (rq : Requester) (v : Word)
  | pwrReqResting (rq : Requester) (v : Word)
  | pwrReqReady (rq : Requester) (v : Word)
  | idleRest
  | enterResting
  | dormantSecondCheck
  | recallAck (via : CreditPath) (w : Word)
  | dormantEntry
  | wakingDone
  | restingToReady
  | vddOk (ok : Bool)
  | guardBandEntry (mV : Nat)
  | guardBandRelease (mV : Nat)
  | grant (frame : BitVec 80)
  | grantExpiry
  -- a slot that a STATE frame or a response takes is not free
  | forecast (stateFrame response : Bool)
  | ballastHoldEnd
  | wake (frame : BitVec 80)
  -- REST, credits, reset, lifetime, events
  | restRd (frame : BitVec 80)
  | restWr (frame : BitVec 80)
  | outboundCreditWord (g : CreditGiven)
  | hostChipReset
  | alwaysOnPowerOn
  | blockResetEnd
  | calibrationLoad (trim : BitVec 9) (guard : Vector (BitVec 10) 4) (coef : Vector (BitVec 16) 16)
      (thr : Vector (BitVec 16) 4)
  | lifetimeSecond (mV : Option Nat) (temp : Int)
  | eventQueueFlush
  -- register writes with a row of their own
  | dlNumSeedHi (rq : Requester) (v : Word)
  | dlLifeAnchorHi (rq : Requester) (v : Word)
  | calWrite (rq : Requester) (off : BitVec 12) (v : Word)
  | dlCtxBaseLimitWrite (rq : Requester) (limit : Bool) (v : Word)
  | dlTenBase (rq : Requester) (v : Word)
  | dlTreeCfgWrite (rq : Requester) (imask : Bool) (v : Word)
  | dlEvalArb (rq : Requester) (v : Word)
  | dlPortLaneWt (rq : Requester) (v : Word)
  | dlImgLogWrite (rq : Requester) (size : Bool) (v : Word)
  | dlImgStageWrite (rq : Requester) (size : Bool) (v : Word)
  | dlLogRd (rq : Requester) (v : Word)
  | dlLogCtrl (rq : Requester) (v : Word)
  | dlLogRingWrite (rq : Requester) (size : Bool) (v : Word)
  | pairLoWrite (rq : Requester) (p : WrPair) (v : Word)
  | pairHiWrite (rq : Requester) (p : WrPair) (v : Word)
  -- reads with a row of their own
  | pairLoRead (rq : Requester) (p : RdPair)
  | dlNumSeedLoRead (rq : Requester)
  | dlCrzWordLoRead (rq : Requester)
  | dlCntShadowLoRead (rq : Requester)
  | dlCtxQresultRead (rq : Requester)
  | pgErrInfoRead (rq : Requester) (page : BitVec 8)
  | dlChnRefuseRead (rq : Requester) (h : Half)
  | dlArvDropRead (rq : Requester) (h : Half)
  | dlNumLastWidenRead (rq : Requester)
  | dlSenViolInfoRead (rq : Requester)
  | dlLogLostRead (rq : Requester)
  | dlPwrDaccRead (rq : Requester)
  | dlPortRestBadRead (rq : Requester)
  | dlPortSpadErrRead (rq : Requester)
  | dlImgFragCountRead (rq : Requester) (k : FragCount)
  -- the rest
  | registerWrite (rq : Requester) (a : RegAddr) (v : Word)
  | portMessageAccepted (m : PortMsg)
  | refusedRead (core : Fin 16) (a : RawAccess)
  | gwdCompat3Change (level : Bool)
  deriving DecidableEq, Repr

end Sys2Proof
end

