-- ==== Sys2Proof/Decode.lean ====
section
/-! DEFINITION. The commands that words of the opcode table spell: the table gives its rows no bits, so there are none. -/
namespace Sys2Proof

/-- The command that a word of `nbits` bits spells by the table's bits: no row of the table has bits
(DESIGN CHOICE, log entry 16). -/
def decodeTableWord (_nbits _w : Nat) : Option Instr := none

end Sys2Proof
end

