-- ==== Sys2Proof/Machine/Bits.lean ====
section
/-! DEFINITION. Bit fields, byte order (R7), sequence comparison of steps (R303) and the checksums the manual names:
CRC-32C (R238) and the CRC-8 of a REST frame (R267). -/
namespace Sys2Proof.Machine

/-- Bits [hi:lo] of a word as a number. -/
def bitsOf (w : BitVec n) (hi lo : Nat) : Nat := (w.toNat >>> lo) % 2 ^ (hi + 1 - lo)

/-- One bit of a word. -/
def bitOf (w : BitVec n) (i : Nat) : Bool := w.getLsbD i

/-- A Bool as the bit a register shows. -/
def b2n (b : Bool) : Nat := if b then 1 else 0

/-- `w` with bits [hi:lo] replaced by the low bits of `v`. -/
def setBits (w : Word) (hi lo v : Nat) : Word :=
  let m := (2 ^ (hi + 1 - lo) - 1) * 2 ^ lo
  (w &&& ~~~(BitVec.ofNat 32 m)) ||| (BitVec.ofNat 32 (v % 2 ^ (hi + 1 - lo) * 2 ^ lo))

/-- The number that little-endian bytes spell (R7). -/
def leNat : List Byte → Nat
  | [] => 0
  | b :: bs => b.toNat + 256 * leNat bs

/-- `n` little-endian bytes of a number (R7). -/
def leBytes : Nat → Nat → List Byte
  | 0, _ => []
  | n + 1, v => BitVec.ofNat 8 v :: leBytes n (v / 256)

/-- A 32-bit word as its four bytes (R7). -/
def wordBytes (w : Word) : List Byte := leBytes 4 w.toNat

/-- Bytes `off` to `off + len - 1` of a byte string, as a number. -/
def fieldAt (bs : List Byte) (off len : Nat) : Nat := leNat ((bs.drop off).take len)

/-- The 32-bit words of a byte string. -/
def wordsOf : Nat → List Byte → List Word
  | 0, _ => []
  | n + 1, bs => BitVec.ofNat 32 (leNat (bs.take 4)) :: wordsOf n (bs.drop 4)

/-- Sign-extend the low `n` bits of a number (two's complement). -/
def sext (n v : Nat) : Int :=
  let x := v % 2 ^ n
  if n = 0 then 0 else if x < 2 ^ (n - 1) then (x : Int) else (x : Int) - (2 ^ n : Nat)

/-- Step `a` is above step `b` (R303) (DEDUCED, log entry 32). -/
def stepAbove (a b : Word) : Bool :=
  let d := (a - b).toNat
  decide (1 ≤ d) && decide (d ≤ 2 ^ 31 - 1)

/-- Step `a` is below step `b` (R303). -/
def stepBelow (a b : Word) : Bool := stepAbove b a

/-- One bit of the reflected CRC-32C (R238). -/
def crc32cBit (c : Nat) : Nat := if c % 2 = 1 then (c / 2) ^^^ 0x82F63B78 else c / 2

/-- One byte of CRC-32C. -/
def crc32cByte (c : Nat) (b : Byte) : Nat := (List.range 8).foldl (fun a _ => crc32cBit a) (c ^^^ b.toNat)

/-- CRC-32C of a byte string (R238). -/
def crc32c (bs : List Byte) : Word := BitVec.ofNat 32 (bs.foldl crc32cByte 0xFFFFFFFF ^^^ 0xFFFFFFFF)

/-- One bit of the CRC-8 of R267: polynomial 0x07, no reflection. -/
def crc8Bit (c : Nat) : Nat := if c ≥ 128 then ((2 * c) % 256) ^^^ 0x07 else 2 * c

/-- CRC-8 over bytes, the first byte first (R267). -/
def crc8 (bs : List Byte) : Nat := bs.foldl (fun c b => (List.range 8).foldl (fun a _ => crc8Bit a) (c ^^^ b.toNat)) 0

/-- Saturating increment of a count of `w` bits. -/
def satAdd (w : Nat) (c : Nat) (n : Nat) : Nat := min (c + n) (2 ^ w - 1)

/-- Replace the element at an index of a list (no change beyond its end). -/
def setAt (l : List α) (i : Nat) (a : α) : List α := l.set i a

/-- Update the element at an index of a list (no change beyond its end). -/
def modifyAt (l : List α) (i : Nat) (f : α → α) : List α :=
  match l[i]? with
  | some a => l.set i (f a)
  | none => l

/-- Look a key up in an association list. -/
def lookupKey [BEq κ] (k : κ) : List (κ × α) → Option α
  | [] => none
  | (k', a) :: r => if k == k' then some a else lookupKey k r

/-- Set a key of an association list: the old value is replaced, a new key goes to the end. -/
def setKey [BEq κ] (k : κ) (a : α) : List (κ × α) → List (κ × α)
  | [] => [(k, a)]
  | (k', a') :: r => if k == k' then (k, a) :: r else (k', a') :: setKey k a r

/-- Remove a key of an association list. -/
def dropKey [BEq κ] (k : κ) (l : List (κ × α)) : List (κ × α) := l.filter (fun p => !(p.1 == k))

end Sys2Proof.Machine
end

