-- ==== Sys2Proof/Machine/Store.lean ====
section
/-! DEFINITION. Addressed stores: a list of (address, value) pairs in one canonical form, addresses strictly rising and
no value equal to what an unlisted address reads as. -/
namespace Sys2Proof.Machine

/-- A sparse store. -/
abbrev Store (α : Type) := List (Nat × α)

/-- What a listed address holds. -/
def Store.get? (s : Store α) (k : Nat) : Option α :=
  match s with
  | [] => none
  | (k', a) :: r => if k' = k then some a else Store.get? r k

/-- Read with what an unlisted address reads as. -/
def Store.get (d : Nat → α) (s : Store α) (k : Nat) : α := (Store.get? s k).getD (d k)

/-- Removes an address. -/
def Store.erase (s : Store α) (k : Nat) : Store α := s.filter (fun p => p.1 != k)

/-- Lists an address in its place. -/
def Store.insert (s : Store α) (k : Nat) (a : α) : Store α :=
  match s with
  | [] => [(k, a)]
  | (k', a') :: r => if k < k' then (k, a) :: (k', a') :: r else if k' = k then (k, a) :: r else (k', a') :: Store.insert r k a

/-- Write that keeps the canonical form: the value an unlisted address reads as is not listed. -/
def Store.put [DecidableEq α] (d : Nat → Option α) (s : Store α) (k : Nat) (a : α) : Store α :=
  if d k = some a then Store.erase s k else Store.insert s k a

/-- Addresses strictly rising. -/
def Store.rising : Store α → Bool
  | [] => true
  | [_] => true
  | (k, _) :: (k', a') :: r => decide (k < k') && Store.rising ((k', a') :: r)

/-- The canonical form. -/
def Store.wf [DecidableEq α] (d : Nat → Option α) (s : Store α) : Bool :=
  Store.rising s && s.all (fun p => decide (d p.1 ≠ some p.2))

end Sys2Proof.Machine
end

