-- ==== Sys2Proof/Machine/Exact.lean ====
section
/-! DEFINITION. Exact values, the encodings of Table 2.2, decoding and rounding (02_number_formats.md). An operation is
formed exactly as a signed quotient of naturals and rounded once, as R25, R37 and R40 ask. -/
namespace Sys2Proof.Machine

/-- A value between decoding and rounding: a NaN, a signed infinity, or the exact value (-1)^neg * num / den. -/
inductive Val where
  | nan
  | inf (neg : Bool)
  | fin (neg : Bool) (num den : Nat)
  deriving DecidableEq, Repr, Inhabited

namespace Val

/-- The exact integer zero, +0. -/
def zero : Val := .fin false 0 1
/-- The exact value 1. -/
def one : Val := .fin false 1 1
/-- A natural number as a value. -/
def ofNat (n : Nat) : Val := .fin false n 1
/-- An integer as a value. -/
def ofInt (i : Int) : Val := .fin (decide (i < 0)) i.natAbs 1
/-- 2^k. -/
def pow2 (k : Int) : Val := if k ≥ 0 then .fin false (2 ^ k.toNat) 1 else .fin false 1 (2 ^ (-k).toNat)

/-- Whether the value is a NaN or an infinity (R336). -/
def nonFinite : Val → Bool
  | .fin _ _ _ => false
  | _ => true

def isNaN : Val → Bool
  | .nan => true
  | _ => false

/-- A zero of either sign. -/
def isZero : Val → Bool
  | .fin _ n _ => n == 0
  | _ => false

/-- The sign bit; a NaN has none. -/
def sign : Val → Bool
  | .nan => false
  | .inf s => s
  | .fin s _ _ => s

def neg : Val → Val
  | .nan => .nan
  | .inf s => .inf (!s)
  | .fin s n d => .fin (!s) n d

def abs : Val → Val
  | .nan => .nan
  | .inf _ => .inf false
  | .fin _ n d => .fin false n d

/-- The value with a given sign. -/
def withSign (s : Bool) : Val → Val
  | .nan => .nan
  | .inf _ => .inf s
  | .fin _ n d => .fin s n d

/-- Exact sum; opposite infinities give a NaN, an exact zero sum of opposite signs is +0 (R37). -/
def add : Val → Val → Val
  | .nan, _ => .nan
  | _, .nan => .nan
  | .inf s, .inf t => if s = t then .inf s else .nan
  | .inf s, .fin _ _ _ => .inf s
  | .fin _ _ _, .inf t => .inf t
  | .fin s n d, .fin t m e =>
    let D := if d % e = 0 then d else if e % d = 0 then e else d * e
    let a := n * (D / d)
    let b := m * (D / e)
    if s = t then .fin s (a + b) D
    else if a = b then .fin false 0 1
    else if a > b then .fin s (a - b) D
    else .fin t (b - a) D

def sub (a b : Val) : Val := add a b.neg

/-- Exact product; zero times an infinity is a NaN. -/
def mul : Val → Val → Val
  | .nan, _ => .nan
  | _, .nan => .nan
  | .inf s, .inf t => .inf (s != t)
  | .inf s, .fin t m _ => if m = 0 then .nan else .inf (s != t)
  | .fin s n _, .inf t => if n = 0 then .nan else .inf (s != t)
  | .fin s n d, .fin t m e => .fin (s != t) (n * m) (d * e)

/-- Exact quotient by the rules of IEEE 754-2019 (R143). -/
def div : Val → Val → Val
  | .nan, _ => .nan
  | _, .nan => .nan
  | .inf _, .inf _ => .nan
  | .inf s, .fin t _ _ => .inf (s != t)
  | .fin s _ _, .inf t => .fin (s != t) 0 1
  | .fin s n d, .fin t m e =>
    if m = 0 then (if n = 0 then .nan else .inf (s != t))
    else .fin (s != t) (n * e) (d * m)

/-- The signed numerator of a finite value over its denominator. -/
def signed (s : Bool) (n : Nat) : Int := if s then -(n : Int) else (n : Int)

/-- a < b for values that are not NaN (−0 and +0 compare equal); false when one is a NaN. -/
def lt : Val → Val → Bool
  | .nan, _ => false
  | _, .nan => false
  | .inf s, .inf t => s && !t
  | .inf s, .fin _ _ _ => s
  | .fin _ _ _, .inf t => !t
  | .fin s n d, .fin t m e => decide (signed s (n * e) < signed t (m * d))

/-- Numeric equality; false when one is a NaN. -/
def eq : Val → Val → Bool
  | .nan, _ => false
  | _, .nan => false
  | .inf s, .inf t => s == t
  | .inf _, .fin _ _ _ => false
  | .fin _ _ _, .inf _ => false
  | .fin s n d, .fin t m e => decide (signed s (n * e) = signed t (m * d))

def le (a b : Val) : Bool := lt a b || eq a b

/-- The larger of two values; a NaN operand gives a NaN and −0 is ordered below +0 (R114). -/
def max (a b : Val) : Val :=
  if a.isNaN || b.isNaN then .nan
  else if lt a b then b
  else if lt b a then a
  else if a.sign then b else a

/-- The smaller of two values that are not NaN, −0 ordered below +0. -/
def min (a b : Val) : Val :=
  if a.isNaN || b.isNaN then .nan
  else if lt a b then a
  else if lt b a then b
  else if a.sign then a else b

end Val

/-! ## Rounding a quotient of naturals -/

/-- How a quotient is rounded to an integer: to even (R25), towards +infinity of the magnitude (R32, R199),
towards zero (R43), or to nearest with ties away from zero (R186). -/
inductive RMode where
  | even | up | down | away
  deriving DecidableEq, Repr

/-- n / d rounded to an integer. -/
def divRound (md : RMode) (n d : Nat) : Nat :=
  let q := n / d
  let r := n % d
  match md with
  | .down => q
  | .up => if r = 0 then q else q + 1
  | .even => if 2 * r < d then q else if 2 * r > d then q + 1 else q + q % 2
  | .away => if 2 * r < d then q else q + 1

/-- Whether n / d is at least 2^k. -/
def gePow2 (n d : Nat) (k : Int) : Bool :=
  if k ≥ 0 then decide (n ≥ d * 2 ^ k.toNat) else decide (n * 2 ^ (-k).toNat ≥ d)

/-- floor(log2(n / d)) for n > 0. -/
def floorLog2 (n d : Nat) : Int :=
  let k : Int := (Nat.log2 n : Int) - (Nat.log2 d : Int)
  if gePow2 n d k then k else k - 1

/-- n / d rounded to an integer number of units of 2^k. -/
def roundUnits (md : RMode) (n d : Nat) (k : Int) : Nat :=
  if k ≥ 0 then divRound md n (d * 2 ^ k.toNat) else divRound md (n * 2 ^ (-k).toNat) d

/-! ## Encodings -/

/-- An encoding of Table 2.2: exponent and fraction widths, the exponent of the smallest normal, the largest finite
magnitude code, and the magnitude codes of infinity and of the NaN the block writes (R21, R23). -/
structure Fmt where
  ebits : Nat
  fbits : Nat
  emin : Int
  maxCode : Nat
  infCode : Option Nat
  nanCode : Nat
  deriving DecidableEq, Repr

def Fmt.fp32 : Fmt := ⟨8, 23, -126, 0x7F7FFFFF, some 0x7F800000, 0x7FC00000⟩
def Fmt.bf16 : Fmt := ⟨8, 7, -126, 0x7F7F, some 0x7F80, 0x7FC0⟩
def Fmt.fp16 : Fmt := ⟨5, 10, -14, 0x7BFF, some 0x7C00, 0x7E00⟩
def Fmt.e4m3 : Fmt := ⟨4, 3, -6, 0x7E, none, 0x7F⟩
def Fmt.e5m2 : Fmt := ⟨5, 2, -14, 0x7B, some 0x7C, 0x7E⟩
def Fmt.e3m2 : Fmt := ⟨3, 2, -2, 0x1F, none, 0x20⟩
def Fmt.e2m3 : Fmt := ⟨2, 3, 0, 0x1F, none, 0x20⟩
def Fmt.e2m1 : Fmt := ⟨2, 1, 0, 0x7, none, 0x8⟩
def Fmt.d3 : Fmt := ⟨1, 1, 0, 0x3, none, 0x4⟩
/-- The fast-chunk format (R39). -/
def Fmt.fast : Fmt := ⟨8, 10, -126, 0x3FBFF, some 0x3FC00, 0x3FE00⟩

/-- The sign bit's weight. -/
def Fmt.signBit (f : Fmt) : Nat := 2 ^ (f.ebits + f.fbits)

/-- A magnitude code's value as a quotient (Table 2.2). -/
def Fmt.magVal (f : Fmt) (c : Nat) : Nat × Nat :=
  let e := c / 2 ^ f.fbits
  let m := if e = 0 then c else 2 ^ f.fbits + c % 2 ^ f.fbits
  let k : Int := (if e = 0 then 0 else (e : Int) - 1) + f.emin - f.fbits
  if k ≥ 0 then (m * 2 ^ k.toNat, 1) else (m, 2 ^ (-k).toNat)

/-- Decodes a code exactly (R35); a NaN's payload is not carried (R22). -/
def Fmt.decode (f : Fmt) (c : Nat) : Val :=
  let s := decide (c / f.signBit % 2 = 1)
  let m := c % f.signBit
  if m ≤ f.maxCode then .fin s (f.magVal m).1 (f.magVal m).2
  else if f.infCode = some m then .inf s else .nan

/-- The magnitude code of n / d with the exponent range unbounded above (R25 step 1); it may exceed `maxCode`. -/
def Fmt.magCode (f : Fmt) (md : RMode) (n d : Nat) : Nat :=
  if n = 0 then 0 else
    let e := Max.max (floorLog2 n d) f.emin
    (e - f.emin).toNat * 2 ^ f.fbits + roundUnits md n d (e - f.fbits)

/-- What a rounding produced: the code, and the classes of Table 2.4 and R27 it falls in. -/
structure Rounded where
  code : Nat
  sat : Bool := false
  unf : Bool := false
  nonfin : Bool := false
  deriving DecidableEq, Repr

/-- The code with a sign. -/
def Fmt.signed (f : Fmt) (s : Bool) (m : Nat) : Nat := if s then f.signBit + m else m

/-- Finite overflow (Table 2.4): an infinity where the scalar target has one and is FP32, BF16 or FP16, else the
largest finite value, a saturation. -/
def Fmt.overflow (f : Fmt) (s : Bool) : Rounded :=
  match f.infCode with
  | some i => if f.ebits = 5 && f.fbits = 2 then { code := f.signed s f.maxCode, sat := true }
              else { code := f.signed s i, nonfin := true }
  | none => { code := f.signed s f.maxCode, sat := true }

/-- An infinite or NaN operand (Table 2.4, R23). -/
def Fmt.special (f : Fmt) : Val → Rounded
  | .inf s => match f.infCode with
    | some i => { code := f.signed s i, nonfin := true }
    | none => { code := f.nanCode, nonfin := true }
  | _ => { code := f.nanCode, nonfin := true }

/-- The final rounding is to nearest even (R25), to nearest with ties away (Gen-3, R186), or stochastic with a given
draw (R43). -/
inductive Final where
  | rne
  | rna
  | sr (draw : Nat)
  deriving DecidableEq, Repr

/-- The 32-bit threshold of R43 for a magnitude n / d truncated to the magnitude code `a`. -/
def Fmt.srThreshold (f : Fmt) (n d : Nat) : Nat :=
  let e := Max.max (floorLog2 n d) f.emin
  let k := e - f.fbits - 32
  (roundUnits .down n d k) % 2 ^ 32

/-- The magnitude code a final rounding gives a nonzero finite magnitude, before the overflow test. -/
def Fmt.finalMag (f : Fmt) (md : Final) (n d : Nat) : Nat :=
  match md with
  | .rne => f.magCode .even n d
  | .rna => f.magCode .away n d
  | .sr u => f.magCode .down n d + (if u < f.srThreshold n d then 1 else 0)

/-- Whether a magnitude exceeds the largest finite value before rounding (R43 step 1). -/
def Fmt.exceeds (f : Fmt) (n d : Nat) : Bool :=
  let m := f.magVal f.maxCode
  decide (n * m.2 > m.1 * d)

/-- Rounds a value once into a scalar target. `flush` is R36 (Grades L and N) or R186. -/
def Fmt.round (f : Fmt) (md : Final) (flush : Bool) : Val → Rounded
  | .fin s n d =>
    if n = 0 then { code := f.signed s 0 }
    else if (match md with | .sr _ => f.exceeds n d | _ => false) then f.overflow s
    else if flush && !gePow2 n d f.emin then { code := f.signed s 0, unf := true }
    else
      let m := f.finalMag md n d
      if m > f.maxCode then f.overflow s
      else { code := f.signed s m, unf := m == 0 }
  | v => f.special v

/-- Rounds to an element of an MX or D3 block: above the largest value it is clamped, with no event (Table 2.4). -/
def Fmt.roundElem (f : Fmt) (md : Final) : Val → Rounded
  | .fin s n d =>
    if n = 0 then { code := f.signed s 0 }
    else
      let m := match md with
        | .sr u => if f.exceeds n d then f.maxCode else f.finalMag (.sr u) n d
        | md => f.finalMag md n d
      { code := f.signed s (Nat.min m f.maxCode), unf := m == 0 }
  | _ => { code := 0, nonfin := true }

/-! ## The FP32 path (R37) -/

/-- Decodes FP32 bits. -/
def f32 (w : Word) : Val := Fmt.fp32.decode w.toNat

/-- Rounds once to FP32 by round-to-nearest-even, keeping subnormals (R37, R64). -/
def rne32 (v : Val) : Word := BitVec.ofNat 32 (Fmt.fp32.round .rne false v).code

def fadd (a b : Word) : Word := rne32 ((f32 a).add (f32 b))
def fsub (a b : Word) : Word := rne32 ((f32 a).sub (f32 b))
def fmul (a b : Word) : Word := rne32 ((f32 a).mul (f32 b))
/-- fma rounds once (R108). -/
def ffma (a b c : Word) : Word := rne32 (((f32 a).mul (f32 b)).add (f32 c))
def fabs (a : Word) : Word := a &&& 0x7FFFFFFF
def fneg (a : Word) : Word := a ^^^ 0x80000000
/-- The maximum of two FP32 values (R114). -/
def fmax (a b : Word) : Word := rne32 ((f32 a).max (f32 b))

/-- The canonical FP32 NaN (R23). -/
def nan32 : Word := 0x7FC00000

/-- A word with a NaN made canonical (R22, R23). -/
def canon32 (w : Word) : Word := if (f32 w).isNaN then nan32 else w
def one32 : Word := 0x3F800000
def negInf32 : Word := 0xFF800000
def posInf32 : Word := 0x7F800000

/-- NaN or infinite FP32 bits. -/
def nonFin32 (w : Word) : Bool := (f32 w).nonFinite

/-- |x| rounded towards +infinity to FP32 and clamped to the largest finite value (R199). -/
def amax32 : Val → Word
  | .fin _ n d => BitVec.ofNat 32 (Nat.min (Fmt.fp32.magCode .up n d) 0x7F7FFFFF)
  | _ => 0

/-! ## Compensated pairs (R38) and chunk sums (R39) -/

/-- Knuth's exact sum of R38, on any addition of 32-bit codes (DEDUCED, log entry 80). -/
def twoSum (a b : Word) : Word × Word :=
  let s := fadd a b
  let bb := fsub s a
  (s, fadd (fsub a (fsub s bb)) (fsub b bb))

/-- fast_two_sum of R38, for |a| ≥ |b| or a = 0. -/
def fastTwoSum (a b : Word) : Word × Word :=
  let s := fadd a b
  (s, fsub b (fsub s a))

/-- pair_add of R118. The result's value is h + l (DEDUCED, log entry 80). -/
def pairAdd (p q : Word × Word) : Word × Word :=
  if nonFin32 p.1 || nonFin32 q.1 then (fadd p.1 q.1, 0)
  else
    let se := twoSum p.1 q.1
    if nonFin32 se.1 then (se.1, 0)
    else
      let t := fadd (fadd p.2 q.2) se.2
      let hl := twoSum se.1 t
      if nonFin32 hl.1 then (hl.1, 0) else hl

/-- The exact value h + l of a pair; when h is not finite the value is h (R38). -/
def pairVal (p : Word × Word) : Val := if nonFin32 p.1 then f32 p.1 else (f32 p.1).add (f32 p.2)

/-- Gen-3 rounding of an FP32 operation: nearest even, a subnormal result flushed to a signed zero (R186). -/
def rne32g3 (v : Val) : Word := BitVec.ofNat 32 (Fmt.fp32.round .rne true v).code

end Sys2Proof.Machine
end

