-- ==== Sys2Proof/Machine/BlockFmt.lean ====
section
/-! DEFINITION. Format codes and roles (Table 2.1), row records (Table 2.5), and the encoding and decoding of scalar, MX,
D4K and D3 rows (R28 to R34, R192, R194). -/
namespace Sys2Proof.Machine

/-- Format codes 0x0 to 0xB exist (Table 2.1). -/
def fmtExists (c : Nat) : Bool := decide (c ≤ 0xB)

/-- The scalar encodings of codes 0x0 to 0x4. -/
def scalarFmt : Nat → Option Fmt
  | 0 => some .fp32
  | 1 => some .bf16
  | 2 => some .fp16
  | 3 => some .e4m3
  | 4 => some .e5m2
  | _ => none

/-- The element encoding of a block format with its emax of R29 (0 for D3, R34; E2M1 serves D4K). -/
def elemFmt : Nat → Fmt × Int
  | 5 => (.e4m3, 8)
  | 6 => (.e5m2, 15)
  | 7 => (.e2m3, 2)
  | 8 => (.e3m2, 4)
  | 9 => (.e2m1, 2)
  | 0xA => (.e2m1, 2)
  | _ => (.d3, 0)

/-- Element width in bits (Table 2.5). -/
def elemWidth : Nat → Nat
  | 0 => 32
  | 1 => 16
  | 2 => 16
  | 3 => 8
  | 4 => 8
  | 5 => 8
  | 6 => 8
  | 7 => 6
  | 8 => 6
  | 9 => 4
  | 0xA => 4
  | _ => 3

/-- Elements per block; 0 for a scalar format. -/
def blockSize : Nat → Nat
  | 5 => 32
  | 6 => 32
  | 7 => 32
  | 8 => 32
  | 9 => 32
  | 0xA => 16
  | 0xB => 16
  | _ => 0

/-- Bytes of the element string of a row record (Table 2.5). -/
def stringBytes (c : Nat) : Nat := elemWidth c * 16

/-- Bytes of a row record (Table 2.5). -/
def recordBytes (c : Nat) : Nat :=
  stringBytes c + (if c = 0xA then 20 else if blockSize c = 0 then 0 else 128 / blockSize c)

/-- Whether the format carries a tensor scale (Table 9.1). -/
def hasTensorScale (c : Nat) : Bool := c == 3 || c == 4 || c == 0xA

/-- The ladder rung of an output format (Table 9.1); none for FP32 and FP16. -/
def rungOf : Nat → Option Nat
  | 1 => some 4
  | 3 => some 3
  | 4 => some 3
  | 5 => some 3
  | 6 => some 3
  | 7 => some 2
  | 8 => some 2
  | 9 => some 1
  | 0xA => some 1
  | 0xB => some 0
  | _ => none

/-- What writing one element gave (Table 9.7): its own contribution to ZEROS, UFL, SAT and NONFIN. -/
structure ElemOut where
  zero : Bool := false
  unf : Bool := false
  sat : Bool := false
  nonfin : Bool := false
  deriving DecidableEq, Repr

/-- An encoded block: element codes, scale byte, the outlier byte and position of D4K, the elements' outcomes and the
number of block-scale saturations (R32). -/
structure BlockOut where
  codes : List Nat
  scale : Nat
  outlier : Nat := 0
  pos : Nat := 0
  outs : List ElemOut
  scaleSat : Nat := 0
  deriving DecidableEq, Repr

/-- The largest magnitude of a list of finite values, as a value. -/
def amaxOf (xs : List Val) : Val := xs.foldl (fun a x => if Val.lt a x.abs then x.abs else a) Val.zero

/-- The lowest index at which |x| is largest (R32). -/
def argmaxOf (xs : List Val) : Nat :=
  ((xs.zipIdx).foldl (fun (p : Nat × Val) xi => if Val.lt p.2 xi.1.abs then (xi.2, xi.1.abs) else p)
    (0, (xs.head?.getD Val.zero).abs)).1

/-- The shared exponent X of R29. -/
def sharedExp (emax : Int) (xs : List Val) : Int :=
  match amaxOf xs with
  | .fin _ n d => if n = 0 then -127 else Max.max (-127) (Min.min 127 (floorLog2 n d - emax))
  | _ => -127

/-- Encodes one MX or D3 block (R29, R30, R34). `md j` is the final rounding of element j of the block. -/
def encodeMX (f : Fmt) (emax : Int) (md : Nat → Final) (xs : List Val) : BlockOut :=
  if xs.any Val.nonFinite then
    { codes := xs.map (fun _ => 0), scale := 0xFF, outs := xs.map (fun x => { nonfin := x.nonFinite }) }
  else
    let X := sharedExp emax xs
    let rs := xs.zipIdx.map (fun xj => f.roundElem (md xj.2) (xj.1.mul (Val.pow2 (-X))))
    { codes := rs.map (·.code), scale := (X + 127).toNat,
      outs := rs.map (fun r => { zero := r.code % f.signBit == 0, unf := r.unf }) }

/-- Encodes one D4K block with tensor scale T (R32) (DEDUCED, log entry 26). -/
def encodeD4K (T : Val) (md : Nat → Final) (xs : List Val) : BlockOut :=
  if xs.any Val.nonFinite then
    { codes := xs.map (fun _ => 0), scale := 0x7F, outlier := 0x7F, pos := 0,
      outs := xs.map (fun x => { nonfin := x.nonFinite }) }
  else
    let p := argmaxOf xs
    let o := Fmt.e4m3.round (md p) false ((xs.getD p Val.zero).div T)
    let a2 := amaxOf (xs.zipIdx.filterMap (fun xj => if xj.2 = p then none else some xj.1))
    let (s, sSat) := match a2.div ((Val.ofNat 6).mul T) with
      | .fin _ n d =>
        let c := Fmt.e4m3.magCode .up n d
        if c > 0x7E then (0x7E, 1) else (c, 0)
      | _ => (0, 0)
    let sT := (Fmt.e4m3.decode s).mul T
    let rs := xs.zipIdx.map (fun xj =>
      if xj.2 = p then { code := 0 }
      else if s = 0 then { code := Fmt.e2m1.signed xj.1.sign 0 }
      else Fmt.e2m1.roundElem (md xj.2) (xj.1.div sT))
    { codes := rs.map (·.code), scale := s, outlier := o.code, pos := p, scaleSat := sSat,
      outs := rs.zipIdx.map (fun rj =>
        if rj.2 = p then { zero := o.code % 128 == 0, unf := o.unf, sat := o.sat }
        else { zero := rj.1.code % 8 == 0, unf := rj.1.unf }) }

/-- Splits a list into blocks of `k`. -/
def blocksOf (k : Nat) : Nat → List α → List (List α)
  | 0, _ => []
  | n + 1, xs => xs.take k :: blocksOf k n (xs.drop k)

/-- An encoded row record: its bytes with their offsets (those that hold a presented element or its side data), the
outcome of each element and the block-scale saturations. -/
structure RowOut where
  cells : List (Nat × Byte)
  outs : List ElemOut
  scaleSat : Nat := 0
  deriving DecidableEq, Repr

/-- The element string as a number: element j in bits [w*j + w - 1 : w*j] (R28). -/
def packCodes (w : Nat) (codes : List Nat) : Nat := codes.foldr (fun c acc => c % 2 ^ w + 2 ^ w * acc) 0

/-- Bytes of the element string that hold a presented element. -/
def stringCells (w : Nat) (shown : List Bool) (codes : List Nat) : List (Nat × Byte) :=
  let bytes := leBytes (w * 16) (packCodes w codes)
  bytes.zipIdx.filterMap (fun bj =>
    let lo := bj.2 * 8 / w
    let hi := (bj.2 * 8 + 7) / w
    if (List.range (hi + 1 - lo)).any (fun i => shown.getD (lo + i) false) then some (bj.2, bj.1) else none)

/-- Encodes one row of 128 operands into a row record (R28, R191, R192). `shown j` says position j is presented (a
position that is not presented enters a block as +0), `T` is the tensor scale where the format has one, `md j` the
final rounding of element j, `flush` is R36 (DEDUCED, log entry 26). -/
def encodeRow (c : Nat) (T : Val) (md : Nat → Final) (flush : Bool) (shown : List Bool) (xs : List Val) : RowOut :=
  match scalarFmt c with
  | some f =>
    let rs := xs.zipIdx.map (fun xj => f.round (md xj.2) flush (if hasTensorScale c then xj.1.div T else xj.1))
    { cells := stringCells (elemWidth c) shown (rs.map (·.code)),
      outs := rs.map (fun r => { zero := r.code % f.signBit == 0, unf := r.unf, sat := r.sat, nonfin := r.nonfin }) }
  | none =>
    let k := blockSize c
    let nb := 128 / k
    let bs := (blocksOf k nb xs).zipIdx.map (fun xb =>
      let mdb := fun j => md (k * xb.2 + j)
      if c = 0xA then encodeD4K T mdb xb.1 else encodeMX (elemFmt c).1 (elemFmt c).2 mdb xb.1)
    let live := fun b => (List.range k).any (fun j => shown.getD (k * b + j) false)
    let base := stringBytes c
    let side := bs.zipIdx.filterMap (fun bi =>
      if live bi.2 then some (base + bi.2, BitVec.ofNat 8 bi.1.scale) else none)
    let d4 := if c = 0xA then
        bs.zipIdx.filterMap (fun bi => if live bi.2 then some (base + 8 + bi.2, BitVec.ofNat 8 bi.1.outlier) else none)
        ++ (leBytes 4 (packCodes 4 (bs.map (·.pos)))).zipIdx.filterMap (fun bk =>
          if live (2 * bk.2) || live (2 * bk.2 + 1) then some (base + 16 + bk.2, bk.1) else none)
      else []
    { cells := stringCells (elemWidth c) shown (bs.flatMap (·.codes)) ++ side ++ d4,
      outs := bs.flatMap (·.outs), scaleSat := (bs.map (·.scaleSat)).foldl (· + ·) 0 }

/-- Element code j of a row record's element string (R28). -/
def elemCode (w : Nat) (bytes : List Byte) (j : Nat) : Nat :=
  let lo := w * j / 8
  (leNat ((bytes.drop lo).take (w / 8 + 2)) >>> (w * j % 8)) % 2 ^ w

/-- Decodes element j of a row record into the FP32 path (R31, R33, R35, R194). `T` is the tensor scale that the tile's
ITID holds. -/
def decodeElem (c : Nat) (T : Val) (bytes : List Byte) (j : Nat) : Word :=
  let code := elemCode (elemWidth c) bytes j
  match scalarFmt c with
  | some f => rne32 (if hasTensorScale c then (f.decode code).mul T else f.decode code)
  | none =>
    let base := stringBytes c
    let b := j / blockSize c
    if c = 0xA then
      let s := (bytes.getD (base + b) 0).toNat
      let o := (bytes.getD (base + 8 + b) 0).toNat
      let pos := elemCode 4 (bytes.drop (base + 16)) b
      if s ≥ 0x7F || o % 128 = 0x7F then nan32
      else if j % 16 = pos then rne32 ((Fmt.e4m3.decode o).mul T)
      else rne32 (((Fmt.e2m1.decode code).mul (Fmt.e4m3.decode s)).mul T)
    else
      let x := (bytes.getD (base + b) 0).toNat
      if x = 0xFF then nan32
      else rne32 (((elemFmt c).1.decode code).mul (Val.pow2 ((x : Int) - 127)))

/-- Decodes the 128 elements of a row record. -/
def decodeRow (c : Nat) (T : Val) (bytes : List Byte) : List Word :=
  (List.range 128).map (decodeElem c T bytes)

end Sys2Proof.Machine
end

