-- ==== Sys2Proof/Config.lean ====
section
/-! DEFINITION. What an implementation fixes and what the manual leaves open: constants without a body, so that no proof
can lean on a value of them. Each is named in the assumption log. -/
namespace Sys2Proof

/-- FREE VALUE: the content of rhizome RAM entries that nothing has loaded since the always-on domain powered on
(R94: undefined). Arguments: how many power-ons there have been, the bank, the entry index.
DESIGN CHOICE, log entry 66. -/
opaque Config.freeEntry : Nat → Bool → Nat → Entry

/-- FREE VALUE: what the reference engine's result for a sample is free in: function ID, grade code, pinned bank, FP32 input.
For a built-in a relative error below 2^-40 (R328), for a loaded table or crozier the whole result: sign, then magnitude.
DESIGN CHOICE, log entry 78. -/
opaque Config.sentinelRef : BitVec 8 → Nat → Bool → Word → Bool × Nat

/-- FREE VALUE: the result the reference engine gives for known-answer vector `i` at its `n`-th test, and the stored
answer (R330: the vectors are not in the manual). DESIGN CHOICE, log entry 78. -/
opaque Config.selfTestResult : Nat → Nat → Word
opaque Config.selfTestAnswer : Nat → Word

/-- FREE VALUE: in which of the usual arrangements the sentinel's feedback register realises its polynomial (R327).
DESIGN CHOICE, log entry 78. -/
opaque Config.lfsrForm : Nat

/-- FREE VALUE: which of the two actions the manual leaves open happens; applied to a counter of the state, or to a
reserved TYPE (log entries 17 and 67). -/
opaque Config.freeBit : Nat → Bool

/-- FREE VALUE: a 32-bit word the manual leaves open; applied to a counter of the state (DESIGN CHOICE, log
entry 67). -/
opaque Config.freeWord : Nat → Word

/-- FREE VALUE: the loss of a row whose label's class lies in this chain and is masked, under CHIP or GROUP scope, where
R148 states none: a function of the label and the row's log-sum-exp (log entry 41). -/
opaque Config.maskedLoss : Word → Word → Word

/-- FREE VALUE: where the parent instance finds a child's output tile under SCOPE GROUP (R180: not in the message, Table 12.7):
by the level, the row-block's first context and the step. DESIGN CHOICE, log entry 97. -/
opaque Config.childSlot : Nat → Nat → Word → Word

/-- FREE VALUE: the exponent of T where the largest history entry is NaN or negative (R200 states none; only software can
have written such an entry; log entry 47). -/
opaque Config.freeBinade : Word → Nat

/-- What DL_CAL_FC_COEF[k] holds when it comes from the factory (Table 13.12: measured per part; DESIGN CHOICE, log entry 2). -/
opaque Config.factoryCoef : Nat → BitVec 16

/-- FREE VALUE: the Gen-3 result of SIGMOID to GELU_ERF (by table number 8 to 11) at the one input below 8 whose
RNE(x + 8) is 16, where the index of Table 8.7 names no segment (DESIGN CHOICE, log entry 79). -/
opaque Config.gen3Edge : Nat → Word → Word

/-- FREE VALUE: what an entry of a sorus holds while no resident table stands in its block (R306 lets firmware read it).
Arguments: a counter of the state, the pinna, the index (log entries 67 and 68). -/
opaque Config.freeSorus : Nat → Nat → Nat → Entry

end Sys2Proof
end

