-- ==== Sys2Proof/Machine/Evaluate.lean ====
section
/-! DEFINITION. How a function is evaluated (03_evaluation_machinery.md): table descriptors (R89), front ends (R50 to
R53, R337, R338), segment index (R54 to R57), interpolation and clamp (R58 to R63), reconstruction (R64), croziers
(R107 to R109). The evaluator reads entries through a function that answers none for an uncorrectable entry (R88). -/
namespace Sys2Proof.Machine

/-- A grade: Q, L or N. -/
inductive Grade where
  | Q | L | N
  deriving DecidableEq, Repr, Inhabited

/-- The grade of a 2-bit code; 0b11 is reserved. -/
def gradeOf : Nat → Option Grade
  | 0 => some .Q
  | 1 => some .L
  | 2 => some .N
  | _ => none

def Grade.code : Grade → Nat
  | .Q => 0
  | .L => 1
  | .N => 2

/-- A table: a native ROM table of Table 4.4 by its row, or a descriptor of a bank (R85, R104). -/
inductive TblRef where
  | native (row : Nat)
  | user (bank : Bool) (desc : Nat)
  deriving DecidableEq, Repr

/-- A table descriptor's fields (Table 5.2). `uniform` is MODE, tail actions are `…Lin`. -/
structure Desc where
  valid : Bool
  grade : Nat
  space : Bool
  front : Nat
  uniform : Bool
  signed : Bool
  k : Nat
  sh1 : Nat
  sh2 : Nat
  emin : Int
  nbin : Nat
  base : Nat
  monoDecl : Nat
  specPZ : Nat
  specNZ : Nat
  specPI : Nat
  specNI : Nat
  certLo : Nat
  certHip : Nat
  certHin : Nat
  specNeg : Bool
  loLin : Bool
  hipLin : Bool
  hinLin : Bool
  loC : Word
  hipC : Word
  hinC : Word
  reserved : Bool
  deriving DecidableEq, Repr, Inhabited

/-- Reads a descriptor's eight words (Table 5.2). -/
def parseDesc (ws : List Word) : Desc :=
  let w := fun i => ws.getD i 0
  { valid := bitOf (w 0) 31, grade := bitsOf (w 0) 30 29, space := bitOf (w 0) 28, front := bitsOf (w 0) 27 24,
    uniform := bitOf (w 0) 23, signed := bitOf (w 0) 22, k := bitsOf (w 0) 21 18, sh1 := bitsOf (w 0) 17 14,
    sh2 := bitsOf (w 0) 13 9, emin := sext 9 (w 0).toNat, nbin := bitsOf (w 1) 31 24, base := bitsOf (w 1) 15 0,
    monoDecl := bitsOf (w 2) 31 30, specPZ := bitsOf (w 2) 29 27, specNZ := bitsOf (w 2) 26 24,
    specPI := bitsOf (w 2) 23 21, specNI := bitsOf (w 2) 20 18, certLo := bitsOf (w 2) 17 12,
    certHip := bitsOf (w 2) 11 6, certHin := bitsOf (w 2) 5 0, specNeg := bitOf (w 3) 3, loLin := bitOf (w 3) 2,
    hipLin := bitOf (w 3) 1, hinLin := bitOf (w 3) 0, loC := w 4, hipC := w 5, hinC := w 6,
    reserved := bitsOf (w 1) 23 16 != 0 || bitsOf (w 3) 31 4 != 0 || (w 7) != 0 }

/-- Number of segments: (1 + SIGNED) × NBIN × 2^K for BINADE, 2^K for UNIFORM. -/
def Desc.segments (d : Desc) : Nat := if d.uniform then 2 ^ d.k else (1 + b2n d.signed) * d.nbin * 2 ^ d.k

/-- Number of entries; Grade N packs two segments in an entry (R57, R85). -/
def Desc.entries (d : Desc) : Nat := if d.grade = 2 then (d.segments + 1) / 2 else d.segments

/-! ## Front ends -/

/-- What an evaluation takes in: FP32 bits, or the turn fraction of a position code (R53). -/
inductive EvIn where
  | x (w : Word)
  | turn (F : Nat)
  deriving DecidableEq, Repr

/-- log2 e and ln 2, each truncated to 48 fraction bits (R50). -/
def constLE : Val := .fin false 0x171547652B82F (2 ^ 48)
def constL2 : Val := .fin false 0xB17217F7D1CF (2 ^ 48)

/-- What stage 6 needs to undo a front end: the sign of x and n, E or j. -/
structure Recon where
  neg : Bool := false
  n : Int := 0
  deriving DecidableEq, Repr

/-- What stage 2 gives: a finished result, a scalar argument, a fraction for UNIFORM indexing, or G = 1 (R53). -/
inductive Arg where
  | done (v : Val)
  | scalar (a : Val) (r : Recon)
  | frac (F : Nat) (r : Recon)
  | unit (r : Recon)
  deriving DecidableEq, Repr

/-- Exponent E and the 24-bit significand of a nonzero finite FP32-path magnitude (R50). -/
def normalise (n d : Nat) : Int × Nat :=
  let E := floorLog2 n d
  (E, roundUnits .down n d (E - 23))

/-- m = M / 2^23 as a value, times 2^k. -/
def sigVal (M : Nat) (k : Int) : Val := (Val.fin false M (2 ^ 23)).mul (Val.pow2 k)

/-- EXP2 and EXPE (R51). -/
def frontExp (z x : Val) : Arg :=
  match z with
  | .nan => .done .nan
  | .inf s => .done (if s then Val.zero else .inf false)
  | .fin s n d =>
    if !(x.abs.lt (Val.ofNat 256)) || !(z.lt (Val.ofNat 128)) then
      .done (if s then Val.zero else .inf false)
    else if z.le (Val.ofInt (-150)) then .done Val.zero
    else
      let fl : Int := (Val.signed s n) / (d : Int)
      let fr : Int := Val.signed s n - fl * d
      .frac ((fr.toNat * 2 ^ 32 / d) % 2 ^ 32) { n := fl }

/-- TURN_SIN and TURN_COS (R53). -/
def frontTurn (cos : Bool) (F : Nat) : Arg :=
  let F := if cos then (F + 2 ^ 30) % 2 ^ 32 else F % 2 ^ 32
  let q := F / 2 ^ 30
  let u := F % 2 ^ 30
  let u := if q % 2 = 1 then 2 ^ 30 - u else u
  let r : Recon := { neg := decide (q ≥ 2) }
  if u = 2 ^ 30 then .unit r else .frac (4 * u) r

/-- Stage 2 (R50 to R53, R338). A scalar operand never reaches a TURN front end, nor a turn another one. -/
def frontEnd (front : Nat) (i : EvIn) : Arg :=
  match i with
  | .turn F => if front = 9 then frontTurn false F else if front = 0xA then frontTurn true F else .done .nan
  | .x w =>
    let v := f32 w
    match front with
    | 0 => .scalar v {}
    | 1 => .scalar v.abs { neg := v.sign }
    | 2 => frontExp v v
    | 3 => frontExp (v.mul constLE) v
    | _ =>
      match v with
      | .fin s n d =>
        if n = 0 then .done .nan
        else
          let (E, M) := normalise n d
          let j : Int := E / 2
          let p : Int := E - 2 * j
          match front with
          | 6 => .scalar (sigVal M 0) { neg := s, n := E }
          | 4 | 5 =>
            if s then .done .nan
            else if M ≥ 3 * 2 ^ 22 then .scalar ((sigVal M (-1)).sub Val.one) { n := E + 1 }
            else .scalar ((sigVal M 0).sub Val.one) { n := E }
          | 7 | 8 => if s then .done .nan else .scalar (sigVal M p) { n := j }
          | _ => .done .nan
      | _ => .done .nan

/-- "With the sign of x" (R337): G for positive x, −G for negative x, a zero takes the sign of x. -/
def signOfX (neg : Bool) (g : Val) : Val :=
  if g.isZero then g.withSign neg else if neg then g.neg else g

/-- The exact result of Table 3.3 from G. -/
def reconstruct (front : Nat) (r : Recon) (g : Val) : Val :=
  match front with
  | 1 => signOfX r.neg g
  | 2 | 3 => g.mul (Val.pow2 r.n)
  | 4 => (Val.ofInt r.n).add g
  | 5 => ((Val.ofInt r.n).add g).mul constL2
  | 6 => signOfX r.neg (g.mul (Val.pow2 (-r.n)))
  | 7 => g.mul (Val.pow2 (-r.n))
  | 8 => g.mul (Val.pow2 r.n)
  | 9 | 0xA => if g.isZero then Val.zero else if r.neg then g.neg else g
  | _ => g

/-! ## Segment index -/

/-- What stage 3 gives: a tail with its value G (and which tail), or a segment and T. -/
inductive Seg where
  | tail (g : Val) (which : Nat)
  | at (s T : Nat)
  deriving DecidableEq, Repr

/-- A tail's action (R56): CONST gives c, LINEAR the exact product a × c. -/
def tailVal (lin : Bool) (c : Word) (a : Val) : Val := if lin then a.mul (f32 c) else f32 c

/-- BINADE indexing (R54); an infinity lies above every binade, so it takes the HI tail of its sign (R338). -/
def indexBinade (d : Desc) (a : Val) : Seg :=
  match a with
  | .nan => .tail .nan 0
  | .inf s => if s then .tail (tailVal d.hinLin d.hinC a) 2 else .tail (tailVal d.hipLin d.hipC a) 1
  | .fin s n dd =>
    if n = 0 then .tail (tailVal d.loLin d.loC a) 0
    else
      let (E, M) := normalise n dd
      if E < d.emin then .tail (tailVal d.loLin d.loC a) 0
      else if E ≥ d.emin + d.nbin then
        (if s then .tail (tailVal d.hinLin d.hinC a) 2 else .tail (tailVal d.hipLin d.hipC a) 1)
      else if !d.signed && s then .tail (tailVal d.loLin d.loC a) 0
      else
        let m := M - 2 ^ 23
        let seg := (E - d.emin).toNat * 2 ^ d.k + m / 2 ^ (23 - d.k)
        .at (if d.signed && s then seg + d.nbin * 2 ^ d.k else seg) ((m % 2 ^ (23 - d.k)) * 2 ^ (d.k + 1))

/-- UNIFORM indexing (R55). -/
def indexUniform (d : Desc) (F : Nat) : Seg := .at (F / 2 ^ (32 - d.k)) (F / 2 ^ (8 - d.k) % 2 ^ 24)

/-! ## Entries, interpolation and clamp -/

/-- floor(x × 2^k). -/
def floorScale (x k : Int) : Int := if k ≥ 0 then x * 2 ^ k.toNat else x / 2 ^ (-k).toNat

/-- Entry fields of Tables 3.5 and 3.6. -/
def entMono (e : Entry) : Nat := bitsOf e 77 76
def entCert (e : Entry) : Nat := bitsOf e 75 70
def entOexp (e : Entry) : Nat := bitsOf e 69 62
def entC2 (e : Entry) : Int := sext 14 (bitsOf e 61 48)
def entC1 (e : Entry) : Int := sext 20 (bitsOf e 47 28)
def entC0 (e : Entry) : Int := sext 28 (bitsOf e 27 0)
/-- C1N and C0N of half `h` of a packed entry. -/
def entC1N (e : Entry) (h : Nat) : Int := if h = 0 then sext 14 (bitsOf e 29 16) else sext 14 (bitsOf e 59 46)
def entC0N (e : Entry) (h : Nat) : Int := if h = 0 then sext 16 (bitsOf e 15 0) else sext 16 (bitsOf e 45 30)

/-- P0 and P1, the endpoint values of R63. `h` is the half of a Grade N entry. -/
def endpoints (g : Grade) (d : Desc) (e : Entry) (h : Nat) : Int × Int :=
  match g with
  | .Q => (entC0 e * 2 ^ 14,
      entC0 e * 2 ^ 14 + floorScale (entC1 e) (21 - (d.sh1 : Int)) + floorScale (entC2 e) (27 - (d.sh2 : Int)))
  | .L => (entC0 e * 2 ^ 14, entC0 e * 2 ^ 14 + floorScale (entC1 e) (21 - (d.sh1 : Int)))
  | .N => (entC0N e h * 2 ^ 26, entC0N e h * 2 ^ 26 + floorScale (entC1N e h) (27 - (d.sh1 : Int)))

/-- The interpolated P before the clamp (R60, R61, R62). -/
def interpolate (g : Grade) (d : Desc) (e : Entry) (h T : Nat) : Int :=
  match g with
  | .Q =>
    let V := floorScale (entC1 e) (21 - (d.sh1 : Int)) + floorScale (entC2 e * T) (3 - (d.sh2 : Int))
    entC0 e * 2 ^ 14 + floorScale (V * T) (-24)
  | .L => entC0 e * 2 ^ 14 + floorScale (entC1 e * ((T / 2 ^ 8 : Nat) : Int)) (5 - (d.sh1 : Int))
  | .N => entC0N e h * 2 ^ 26 + floorScale (entC1N e h * ((T / 2 ^ 14 : Nat) : Int)) (17 - (d.sh1 : Int))

/-- P after the seam clamp of R63, and whether the clamp changed it. -/
def clampP (g : Grade) (d : Desc) (e : Entry) (h T : Nat) : Int × Bool :=
  let P := interpolate g d e h T
  if entMono e = 1 ∨ entMono e = 2 then
    let (p0, p1) := endpoints g d e h
    let Q := Min.min (Max.max P (Min.min p0 p1)) (Max.max p0 p1)
    (Q, decide (Q ≠ P))
  else (P, false)

/-- G = P × 2^(OEXP − 167) (R64). -/
def gVal (P : Int) (oexp : Nat) : Val := (Val.ofInt P).mul (Val.pow2 ((oexp : Int) - 167))

/-! ## Evaluations -/

/-- What an evaluation gave: the exact value before the rounding of stage 6, the number of clamped evaluations, the
table entries it read (table and entry index), and whether stage 1 settled it. `tail` names a tail used, if any. -/
structure EvalOut where
  v : Val
  clamps : Nat := 0
  looks : List (TblRef × Nat) := []
  settled : Bool := false
  tail : Option (TblRef × Nat) := none
  deriving DecidableEq, Repr

/-- The FP32 result of stage 6 (R64). -/
def EvalOut.bits (o : EvalOut) : Word := rne32 o.v

/-- Entry index and half of a segment (R57). -/
def entryOf (g : Grade) (s : Nat) : Nat × Nat := match g with | .N => (s / 2, s % 2) | _ => (s, 0)

/-- What stages 3 and 4 leave for stage 5: a value that is final, a G that stage 6 finishes (a tail's is named by
which), or the segment read: half, T, and the entry, none where it is uncorrectable. -/
inductive Latch where
  | done (v : Val)
  | known (g : Val) (tail : Option Nat) (r : Recon)
  | read (i h T : Nat) (e : Option Entry) (r : Recon)
  deriving DecidableEq, Repr

/-- Stages 3 and 4: indexes the argument under a descriptor and reads its entry (R54, R55, R57). The argument's kind
says which index is formed; under a descriptor of the other MODE (R108 lets a LOOK name one) the manual does not say
how it is indexed (DESIGN CHOICE, log entry 87). -/
def lookStage (look : TblRef → Nat → Option Entry) (t : TblRef) (d : Desc) (g : Grade) (a : Arg) : Latch :=
  let seg := fun (sg : Seg) (r : Recon) => match sg with
    | .tail v wh => Latch.known v (some wh) r
    | .at s T => let q := entryOf g s; .read q.1 q.2 T (look t q.1) r
  match a with
  | .done v => .done v
  | .unit r => .known Val.one none r
  | .scalar x r => seg (indexBinade d x) r
  | .frac F r => seg (indexUniform d F) r

/-- The entries that a latch has read. -/
def Latch.looks (t : TblRef) : Latch → List (TblRef × Nat)
  | .read i _ _ _ _ => [(t, i)]
  | _ => []

/-- The latch holds an entry that is uncorrectable (R88). -/
def Latch.bad : Latch → Bool
  | .read _ _ _ none _ => true
  | _ => false

/-- Stages 5 and 6 before rounding (R60 to R64): the value, the clamps that changed P, and the tail used. -/
def interpStage (front : Nat) (d : Desc) (g : Grade) : Latch → Val × Nat × Option Nat
  | .done v => (v, 0, none)
  | .known v wh r => (reconstruct front r v, 0, wh)
  | .read _ _ _ none _ => (.nan, 0, none)
  | .read _ h T (some e) r =>
    let p := clampP g d e h T
    (reconstruct front r (gVal p.1 (entOexp e)), b2n p.2, none)

/-- Stages 3 to 6 of a table evaluation before rounding. -/
def finishTable (look : TblRef → Nat → Option Entry) (t : TblRef) (d : Desc) (g : Grade) (a : Arg) : EvalOut :=
  let l := lookStage look t d g a
  let o := interpStage d.front d g l
  { v := o.1, clamps := o.2.1, looks := l.looks t, tail := o.2.2.map (fun w => (t, w)) }

/-- A special-input code's result (Table 5.3). -/
def specVal : Nat → Option Val
  | 1 => some (.fin false 0 1)
  | 2 => some (.fin true 0 1)
  | 3 => some Val.one
  | 4 => some Val.one.neg
  | 5 => some (.inf false)
  | 6 => some (.inf true)
  | 7 => some .nan
  | _ => none

/-- Stage 1 under special-input fields (R49, R90): none where the input passes. -/
def specRule (pz nz pi ni : Nat) (neg : Bool) (v : Val) : Option Val :=
  match v with
  | .nan => some .nan
  | .inf s => specVal (if s then ni else pi)
  | .fin s n _ => if n = 0 then specVal (if s then nz else pz) else if neg && s then some .nan else none

def Desc.spec (d : Desc) (v : Val) : Option Val := specRule d.specPZ d.specNZ d.specPI d.specNI d.specNeg v

/-- A table evaluation through its own special-input fields (R47, R90). -/
def evalTable (look : TblRef → Nat → Option Entry) (t : TblRef) (d : Desc) (g : Grade) (i : EvIn) : EvalOut :=
  match i with
  | .turn F => finishTable look t d g (frontEnd d.front (.turn F))
  | .x w => match d.spec (f32 w) with
    | some v => { v := v, settled := true }
    | none => finishTable look t d g (frontEnd d.front (.x w))

/-! ## Croziers (R107 to R109) -/

/-- A crozier's registers while it runs: w0 to w7, mk0 to mk3, and the lookup latch: the front end and the argument or
settled result that RRED left, and the descriptor and what LOOK read into it (R108). `bad` says that a LOOK read an
uncorrectable entry (R88). -/
structure CrzRun where
  w : List Word
  masks : List Bool
  arg : Option (Nat × Arg) := none
  latch : Option (Nat × Latch) := none
  clamps : Nat := 0
  looks : List (TblRef × Nat) := []
  bad : Bool := false
  deriving DecidableEq, Repr

/-- A step word's fields (Table 5.11). -/
def crzF (s : DWord) (hi lo : Nat) : Nat := bitsOf s hi lo

/-- XEXP's exponent: E as an exact integer; a zero gives −∞, an infinity +∞ (Table 5.12). -/
def xexpE (v : Val) : Val :=
  match v with
  | .nan => .nan
  | .inf _ => .inf false
  | .fin _ n d => if n = 0 then .inf true else Val.ofInt (floorLog2 n d)

/-- XEXP's significand m with the sign of x; a zero gives ±0, an infinity ±1.0. -/
def xexpM (v : Val) : Val :=
  match v with
  | .nan => .nan
  | .inf s => Val.one.withSign s
  | .fin s n d => if n = 0 then .fin s 0 1 else (sigVal (normalise n d).2 0).withSign s

/-- IEXP's n: B truncated toward zero and clamped to −300 to 300. -/
def iexpN (v : Val) : Int :=
  match v with
  | .nan => 0
  | .inf s => if s then -300 else 300
  | .fin s n d => Max.max (-300) (Min.min 300 (Val.signed s (n / d)))

/-- CMP's condition c of wSA and B. -/
def cmpCond (c : Nat) (a b : Val) : Bool :=
  match c with
  | 0 => a.lt b
  | 1 => a.le b
  | 2 => a.eq b
  | 3 => a.isNaN || b.isNaN || !(a.eq b)
  | 4 => b.le a
  | 5 => b.lt a
  | 6 => a.isNaN || b.isNaN
  | _ => !a.nonFinite

/-- One step of a crozier (Table 5.12). `descs` gives descriptor TIDX of the pinned bank. CLMP's NaN bound gives a NaN
and its zeros are ordered as R114 orders them (DESIGN CHOICE, log entry 88). -/
def crzStep (look : TblRef → Nat → Option Entry) (descs : Nat → Desc) (bank : Bool) (g : Grade) (s : DWord)
    (r : CrzRun) : CrzRun :=
  let rg := fun i => r.w.getD i 0
  let dst := crzF s 59 57
  let a0 := rg (crzF s 56 54)
  let sb := rg (crzF s 53 51)
  let cc := rg (crzF s 50 48)
  let msk := crzF s 47 46
  let md := crzF s 45 41
  let tidx := crzF s 40 32
  let b0 : Word := if md / 16 % 2 = 1 then BitVec.ofNat 32 (crzF s 31 0) else sb
  let a1 := if md / 2 % 2 = 1 then fabs a0 else a0
  let b1 := if md % 2 = 1 then fneg b0 else b0
  let put := fun (v : Word) => { r with w := r.w.set dst v }
  let d := descs tidx
  match crzF s 63 60 with
  | 0x1 =>
    { r with arg := some (d.front, match d.spec (f32 a0) with
               | some v => .done v
               | none => frontEnd d.front (.x a0)),
             latch := none }
  | 0x2 => match r.arg with
    | some (_, a) =>
      let l := lookStage look (.user bank tidx) d g a
      { r with latch := some (tidx, l), looks := r.looks ++ l.looks (.user bank tidx), bad := r.bad || l.bad }
    | none => r
  | 0x3 => match r.arg, r.latch with
    | some (fr, _), some (t, l) =>
      let o := interpStage fr (descs t) g l
      { put (rne32 o.1) with clamps := r.clamps + o.2.1 }
    | _, _ => r
  | 0x4 => put (ffma a1 b1 cc)
  | 0x5 => put (fmul a1 b1)
  | 0x6 => put (fadd a1 b1)
  | 0x7 => put (if r.masks.getD msk false then a0 else sb)
  | 0x8 => put (rne32 (if md % 2 = 0 then xexpE (f32 a0) else xexpM (f32 a0)))
  | 0x9 => put (if (f32 b0).isNaN then nan32 else rne32 ((f32 a0).mul (Val.pow2 (iexpN (f32 b0)))))
  | 0xA => { r with masks := r.masks.set msk (cmpCond (md % 8) (f32 a0) (f32 b0)) }
  | 0xB => put (if (f32 a0).isNaN then nan32 else rne32 (((f32 a0).max (f32 b0)).min (f32 cc)))
  | _ => r

/-- Runs a crozier: the header's special-input fields first, then the steps in order; the result is w0 (R108), or NaN
where an entry it read is uncorrectable (R88). -/
def evalCrozier (look : TblRef → Nat → Option Entry) (descs : Nat → Desc) (bank : Bool) (crz : List DWord) (x : Word) :
    EvalOut :=
  let h := crz.headD 0
  let g := (gradeOf (crzF h 5 4)).getD .Q
  match specRule (crzF h 16 14) (crzF h 19 17) (crzF h 22 20) (crzF h 25 23) (bitOf h 26) (f32 x) with
  | some v => { v := v, settled := true }
  | none =>
    let r := ((crz.drop 1).take (crzF h 3 0 + 1)).foldl (fun r s => crzStep look descs bank g s r)
      { w := x :: List.replicate 7 0, masks := List.replicate 4 false }
    { v := if r.bad then .nan else f32 (r.w.headD 0), clamps := r.clamps, looks := r.looks }

end Sys2Proof.Machine
end

