-- ==== Sys2Proof/Machine/Rom.lean ====
section
/-! DEFINITION. The rhizome ROM: the native tables of Table 4.4 by the construction of R78, the Gen-3 tables by R188,
and the check byte of R86. Function values are formed in wide fixed point; a rounding takes a value that lies within
2^-200 of a rounding boundary to be on it (log entry: the precision decides every rounding). -/
namespace Sys2Proof.Machine

/-! ## The check byte (R86, R87) -/

/-- pos(j): the (j + 1)-th integer from 1 to 95 that is not a power of two. -/
def posTable : List Nat := (List.range 96).filter (fun n => n != 0 && !(n == 1 || n == 2 || n == 4 || n == 8 || n == 16 || n == 32 || n == 64))

/-- The 7 check bits c0 to c6 of 88 data bits: the exclusive OR of pos(j) over the set bits. -/
def hamming (d : Nat) : Nat := (posTable.zipIdx).foldl (fun a pj => if d.testBit pj.2 then a ^^^ pj.1 else a) 0

/-- Parity of the low `n` bits. -/
def parity (n v : Nat) : Bool := (List.range n).foldl (fun a i => a != v.testBit i) false

/-- The entry of 88 data bits with its check byte formed (R86). -/
def withCheck (d : Nat) : Entry :=
  let d := d % 2 ^ 88
  let c := hamming d
  let c7 := parity 88 d != parity 7 c
  BitVec.ofNat 96 (d + (c + 128 * b2n c7) * 2 ^ 88)

/-- What the check of R87 finds: clean, correctable with the corrected entry, or uncorrectable. -/
inductive Ecc where
  | clean
  | corr (e : Entry)
  | uncorr
  deriving DecidableEq, Repr

/-- The syndrome and overall parity of R87. -/
def syndrome (e : Entry) : Nat × Bool :=
  let d := e.toNat % 2 ^ 88
  (hamming d ^^^ (e.toNat / 2 ^ 88 % 128), parity 96 e.toNat)

/-- Classifies an entry (R87). -/
def eccOf (e : Entry) : Ecc :=
  let (s, p) := syndrome e
  let d := e.toNat % 2 ^ 88
  if s = 0 && !p then .clean
  else if !p then .uncorr
  else if s ≥ 96 then .uncorr
  else match posTable.findIdx? (· == s) with
    | some j => .corr (withCheck (d ^^^ 2 ^ j))
    | none => .corr (withCheck d)

/-- The usable content of an entry, none when uncorrectable. -/
def Ecc.fix (e : Entry) : Ecc → Option Entry
  | .clean => some e
  | .corr c => some c
  | .uncorr => none

/-! ## Wide fixed point: an integer in units of 2^-W -/

/-- Fraction bits of the fixed point. -/
def fxW : Nat := 704

def fxOne : Int := 2 ^ fxW
def fxMul (a b : Int) : Int := a * b / 2 ^ fxW
def fxDiv (a b : Int) : Int := a * 2 ^ fxW / b
/-- n / d in fixed point. -/
def fxRat (n : Int) (d : Nat) : Int := n * 2 ^ fxW / d

/-- Σ y^k / k! from the term after `t`. -/
def fxExpGo (y : Int) : Nat → Nat → Int → Int → Int
  | 0, _, _, acc => acc
  | f + 1, n, t, acc =>
    let t := fxMul t y / n
    if t = 0 then acc else fxExpGo y f (n + 1) t (acc + t)

/-- e^y. -/
def fxExp (y : Int) : Int :=
  if y < 0 then 2 ^ (2 * fxW) / fxExpGo (-y) 1200 1 fxOne fxOne else fxExpGo y 1200 1 fxOne fxOne

/-- Σ z^(2k+1) / (2k+1), with the sign alternating when `alt`. -/
def fxAtanGo (z2 : Int) (alt : Bool) : Nat → Nat → Int → Int → Int
  | 0, _, _, acc => acc
  | f + 1, n, p, acc =>
    let p := fxMul p z2
    let t := p / (2 * n + 1)
    if p = 0 then acc else fxAtanGo z2 alt f (n + 1) p (if alt && n % 2 = 1 then acc - t else acc + t)

/-- ln(1 + r), for r > −1, by 2 atanh(r / (2 + r)). -/
def fxLn1p (r : Int) : Int :=
  let z := fxDiv r (2 * fxOne + r)
  if z < 0 then -(2 * fxAtanGo (fxMul z z) false 700 1 (-z) (-z)) else 2 * fxAtanGo (fxMul z z) false 700 1 z z

def fxLn2 : Int := fxLn1p fxOne

/-- atan(1 / n). -/
def fxAtanInv (n : Nat) : Int := let z := fxRat 1 n; fxAtanGo (fxMul z z) true 400 1 z z

def fxPi : Int := 16 * fxAtanInv 5 - 4 * fxAtanInv 239

/-- Integer square root by bits. -/
def isqrtGo (n : Nat) : Nat → Nat → Nat
  | 0, r => r
  | k + 1, r => isqrtGo n k (if (r + 2 ^ k) * (r + 2 ^ k) ≤ n then r + 2 ^ k else r)

/-- √a of a non-negative fixed-point number. -/
def fxSqrt (a : Int) : Int := (isqrtGo (a.toNat * 2 ^ fxW) (fxW + 16) 0 : Nat)

/-- sin y, for 0 ≤ y ≤ 2. -/
def fxSinGo (y2 : Int) : Nat → Nat → Int → Int → Int
  | 0, _, _, acc => acc
  | f + 1, n, t, acc =>
    let t := -(fxMul t y2 / ((2 * n) * (2 * n + 1)))
    if t = 0 then acc else fxSinGo y2 f (n + 1) t (acc + t)
def fxSin (y : Int) : Int := fxSinGo (fxMul y y) 200 1 y y

/-- erf y for y ≥ 0, by its power series. -/
def fxErfGo (y2 : Int) : Nat → Nat → Int → Int → Int
  | 0, _, _, acc => acc
  | f + 1, n, p, acc =>
    let p := -(fxMul p y2 / n)
    if p = 0 then acc else fxErfGo y2 f (n + 1) p (acc + p / (2 * n + 1))
def fxErf (y : Int) : Int :=
  let a := y.natAbs
  let r := fxDiv (2 * fxErfGo (fxMul a a) 1200 1 a a) (fxSqrt fxPi)
  if y < 0 then -r else r

/-- Σ u^(2n+1) / (2n+1)!! -/
def fxPhiGo (u2 : Int) : Nat → Nat → Int → Int → Int
  | 0, _, _, acc => acc
  | f + 1, n, t, acc =>
    let t := fxMul t u2 / (2 * n + 1)
    if t = 0 then acc else fxPhiGo u2 f (n + 1) t (acc + t)

/-- e^(u²/2) × Φ(−u) for u ≥ 0. -/
def fxMill (u : Int) : Int :=
  let u2 := fxMul u u
  fxExp (u2 / 2) / 2 - fxDiv (fxPhiGo u2 1600 1 u u) (fxSqrt (2 * fxPi))

def fxSigmoid (x : Int) : Int :=
  if x ≥ 0 then fxDiv fxOne (fxOne + fxExp (-x)) else let t := fxExp x; fxDiv t (fxOne + t)

def fxTanh (x : Int) : Int := 2 * fxSigmoid (2 * x) - fxOne

/-! ## The functions of Table 4.4 -/

/-- The functions a native table holds. -/
inductive RomFn where
  | exp2 | log | recip | rsqrt | sqrt | sin | tanh | erf | sigh | sigk | l1p | mill
  | sigmoid | silu | softplus | geluTanh | geluErf
  deriving DecidableEq, Repr, Inhabited

/-- g at the exact argument n / d, in fixed point. -/
def romG (f : RomFn) (n : Int) (d : Nat) : Int :=
  let a := fxRat n d
  match f with
  | .exp2 => fxExp (fxMul a fxLn2)
  | .log => fxDiv (fxLn1p a) fxLn2
  | .recip => fxRat d n.toNat
  | .rsqrt => fxDiv fxOne (fxSqrt a)
  | .sqrt => fxSqrt a
  | .sin => fxSin (fxMul (fxPi / 2) a)
  | .tanh => fxTanh a
  | .erf => fxErf a
  | .sigh => fxDiv fxOne (fxOne + a)
  | .sigk => fxDiv a (fxOne + a)
  | .l1p => fxLn1p a
  | .mill => fxMill a
  | .sigmoid => fxSigmoid a
  | .silu => fxMul a (fxSigmoid a)
  | .softplus => (if a > 0 then a else 0) + fxLn1p (fxExp (if a > 0 then -a else a))
  | .geluTanh =>
    let z := fxMul (fxSqrt (fxDiv (2 * fxOne) fxPi)) (a + fxMul (fxRat 44715 1000000) (fxMul a (fxMul a a)))
    fxMul a (fxSigmoid (2 * z))
  | .geluErf => fxMul a ((fxOne + fxErf (fxDiv a (fxSqrt (2 * fxOne)))) / 2)

/-- A native ROM table (Table 4.4): function, grade, ROM address, segmentation parameters, tails, and the SH1 and SH2
that R78 finds for it. -/
structure RomTable where
  fn : RomFn
  grade : Grade
  addr : Nat
  uniform : Bool := false
  emin : Int := 0
  nbin : Nat := 1
  signed : Bool := false
  k : Nat
  lo : Bool × Word := (false, 0)
  hip : Bool × Word := (false, 0)
  hin : Bool × Word := (false, 0)
  /-- Whether the LO, HI_POS and HI_NEG tails can be reached (not marked * in Table 4.4). -/
  reach : Bool × Bool × Bool := (false, false, false)
  sh1 : Nat
  sh2 : Nat := 0
  deriving DecidableEq, Repr, Inhabited

/-- The tables of Table 4.4, in its order. -/
def romTables : List RomTable :=
  let one := one32
  let iln2 : Word := 0x3FB8AA3B
  let tsp : Word := 0x3F906EBB
  let ln2 : Word := 0x3F317218
  let half : Word := 0x3F000000
  let mz : Word := 0x80000000
  [ { fn := .exp2, grade := .Q, addr := 0x0000, uniform := true, k := 6, sh1 := 5, sh2 := 13 },
    { fn := .log, grade := .Q, addr := 0x0040, emin := -24, nbin := 23, signed := true, k := 4, lo := (true, iln2), reach := (true, false, false), sh1 := 3, sh2 := 9 },
    { fn := .recip, grade := .Q, addr := 0x0320, k := 7, sh1 := 6, sh2 := 13 },
    { fn := .rsqrt, grade := .Q, addr := 0x03A0, nbin := 2, k := 7, sh1 := 7, sh2 := 14 },
    { fn := .sqrt, grade := .Q, addr := 0x04A0, nbin := 2, k := 7, sh1 := 7, sh2 := 16 },
    { fn := .sin, grade := .Q, addr := 0x05A0, uniform := true, k := 7, sh1 := 6, sh2 := 13 },
    { fn := .tanh, grade := .Q, addr := 0x0620, emin := -12, nbin := 16, k := 6, lo := (true, one), hip := (false, one), reach := (true, true, false), sh1 := 5, sh2 := 12 },
    { fn := .erf, grade := .Q, addr := 0x0A20, emin := -12, nbin := 14, k := 6, lo := (true, tsp), hip := (false, one), reach := (true, true, false), sh1 := 5, sh2 := 12 },
    { fn := .sigh, grade := .Q, addr := 0x0DA0, emin := -24, nbin := 24, k := 6, lo := (false, one), hip := (false, half), reach := (true, true, false), sh1 := 7, sh2 := 14 },
    { fn := .sigk, grade := .Q, addr := 0x13A0, emin := -24, nbin := 24, k := 6, lo := (true, one), hip := (false, half), reach := (true, true, false), sh1 := 5, sh2 := 13 },
    { fn := .l1p, grade := .Q, addr := 0x19A0, emin := -24, nbin := 24, k := 6, lo := (true, one), hip := (false, ln2), reach := (true, true, false), sh1 := 5, sh2 := 14 },
    { fn := .mill, grade := .Q, addr := 0x1FA0, emin := -24, nbin := 28, k := 6, lo := (false, half), reach := (true, false, false), sh1 := 5, sh2 := 11 } ] ++
  [ { fn := .exp2, grade := .L, addr := 0x26A0, uniform := true, k := 4, sh1 := 3 },
    { fn := .log, grade := .L, addr := 0x26B0, emin := -9, nbin := 8, signed := true, k := 3, lo := (true, iln2), reach := (true, false, false), sh1 := 2 },
    { fn := .recip, grade := .L, addr := 0x2730, k := 4, sh1 := 3 },
    { fn := .rsqrt, grade := .L, addr := 0x2740, nbin := 2, k := 5, sh1 := 5 },
    { fn := .sqrt, grade := .L, addr := 0x2780, nbin := 2, k := 4, sh1 := 4 },
    { fn := .sin, grade := .L, addr := 0x27A0, uniform := true, k := 5, sh1 := 4 },
    { fn := .tanh, grade := .L, addr := 0x27C0, emin := -5, nbin := 7, k := 4, lo := (true, one), hip := (false, one), reach := (true, true, false), sh1 := 3 },
    { fn := .erf, grade := .L, addr := 0x2830, emin := -5, nbin := 7, k := 4, lo := (true, tsp), hip := (false, one), reach := (true, true, false), sh1 := 3 } ] ++
  [ { fn := .exp2, grade := .N, addr := 0x28A0, uniform := true, k := 3, sh1 := 2 },
    { fn := .log, grade := .N, addr := 0x28A4, emin := -5, nbin := 4, signed := true, k := 2, lo := (true, iln2), reach := (true, false, false), sh1 := 1 },
    { fn := .recip, grade := .N, addr := 0x28B4, k := 2, sh1 := 2 },
    { fn := .rsqrt, grade := .N, addr := 0x28B6, nbin := 2, k := 3, sh1 := 3 },
    { fn := .sqrt, grade := .N, addr := 0x28BE, nbin := 2, k := 2, sh1 := 2 },
    { fn := .sin, grade := .N, addr := 0x28C2, uniform := true, k := 3, sh1 := 0 },
    { fn := .tanh, grade := .N, addr := 0x28C6, emin := -2, nbin := 4, k := 2, lo := (true, one), hip := (false, one), reach := (true, true, false), sh1 := 2 },
    { fn := .erf, grade := .N, addr := 0x28CE, emin := -2, nbin := 3, k := 2, lo := (true, tsp), hip := (false, one), reach := (true, true, false), sh1 := 1 },
    { fn := .sigmoid, grade := .N, addr := 0x28D4, emin := -5, nbin := 8, signed := true, k := 3, lo := (false, half), hip := (false, one), reach := (true, true, true), sh1 := 0 },
    { fn := .silu, grade := .N, addr := 0x2914, emin := -5, nbin := 9, signed := true, k := 3, lo := (true, half), hip := (true, one), hin := (false, mz), reach := (true, true, true), sh1 := 0 },
    { fn := .softplus, grade := .N, addr := 0x295C, emin := -5, nbin := 8, signed := true, k := 3, lo := (false, ln2), hip := (true, one), reach := (true, true, true), sh1 := 0 },
    { fn := .geluTanh, grade := .N, addr := 0x299C, emin := -6, nbin := 8, signed := true, k := 3, lo := (true, half), hip := (true, one), hin := (false, mz), reach := (true, true, true), sh1 := 0 },
    { fn := .geluErf, grade := .N, addr := 0x29DC, emin := -6, nbin := 8, signed := true, k := 3, lo := (true, half), hip := (true, one), hin := (false, mz), reach := (true, true, true), sh1 := 0 } ]

/-- Segments of one run. -/
def RomTable.runLen (t : RomTable) : Nat := if t.uniform then 2 ^ t.k else t.nbin * 2 ^ t.k

/-- The argument at t = h / 2 of segment `s`, as (numerator, denominator); segments from `runLen` on are the negative
run (R54, R55, R78). -/
def RomTable.point (t : RomTable) (s h : Nat) : Int × Nat :=
  if t.uniform then (((2 * s + h : Nat) : Int), 2 ^ (t.k + 1))
  else
    let i := s % t.runLen
    let e : Int := t.emin + ((i / 2 ^ t.k : Nat) : Int)
    let m : Nat := 2 ^ (t.k + 1) + 2 * (i % 2 ^ t.k) + h
    let neg := decide (s ≥ t.runLen)
    let sh := e - ((t.k + 1 : Nat) : Int)
    let n : Nat := if sh ≥ 0 then m * 2 ^ sh.toNat else m
    let d : Nat := if sh ≥ 0 then 1 else 2 ^ (-sh).toNat
    (Val.signed neg n, d)

/-- v0, vm and v1 are this at h = 0, 1 and 2 (R78). -/
def RomTable.value (t : RomTable) (s h : Nat) : Int := let p := t.point s h; romG t.fn p.1 p.2

/-- Direction of g in t over a segment: 1 up, 2 down, 0 none (R78). The functions with a minimum on the negative run
fall with |a| before it and rise after it; the minimum of SiLU lies at −1.2784…, those of both GELUs at −0.75…. -/
def RomTable.dir1 (t : RomTable) (s : Nat) : Nat :=
  let neg := decide (s ≥ t.runLen)
  let dip := fun (lo hi : Nat) =>
    let a := t.point s 0
    let b := t.point s 2
    if b.1.natAbs * 10000 ≤ lo * b.2 then 2 else if a.1.natAbs * 10000 ≥ hi * a.2 then 1 else 0
  match t.fn with
  | .recip | .rsqrt | .sigh | .mill => 2
  | .log | .sigmoid | .softplus => if neg then 2 else 1
  | .silu => if neg then dip 12784 12785 else 1
  | .geluTanh => if neg then dip 7510 7530 else 1
  | .geluErf => if neg then dip 7510 7530 else 1
  | _ => 1

/-- Within this of a rounding boundary a value is taken to be on it. -/
def fxTol : Int := 2 ^ (fxW - 200)

/-- A fixed-point value rounded to an integer number of units of 2^k: direction 0 nearest even, 1 down (towards
−infinity), 2 up, 3 away from zero. -/
def fxRound (md : Nat) (v k : Int) : Int :=
  let u : Int := 2 ^ ((fxW : Int) + k).toNat
  let q := v / u
  let r := v - q * u
  if r < fxTol then q
  else if u - r < fxTol then q + 1
  else match md with
    | 1 => q
    | 2 => q + 1
    | 3 => if v < 0 then q else q + 1
    | _ => if 2 * r - u > fxTol then q + 1 else if u - 2 * r > fxTol then q else q + q % 2

/-- The least e of R78 for one segment. -/
def RomTable.exp1 (t : RomTable) (s : Nat) : Int :=
  let w : Nat := if t.grade = .N then 15 else 27
  let m : Nat := Nat.max (Nat.max (t.value s 0).natAbs (t.value s 1).natAbs) (t.value s 2).natAbs
  if (m : Int) < fxTol then 0
  else
    let e := floorLog2 m (2 ^ fxW)
    -- m < 2^(e+1) (1 - 2^-w)
    if (m : Int) * 2 ^ w + fxTol < (2 ^ w - 1) * 2 ^ ((fxW : Int) + e + 1).toNat then e else e + 1

/-- Segments that share an entry with `s` (R59). -/
def RomTable.mates (t : RomTable) (s : Nat) : List Nat :=
  if t.grade = .N then [2 * (s / 2), 2 * (s / 2) + 1] else [s]

def RomTable.dir (t : RomTable) (s : Nat) : Nat :=
  match (t.mates s).map t.dir1 with
  | [a, b] => if a = b then a else 0
  | [a] => a
  | _ => 0

/-- C1's field width (DEDUCED, log entry 76). -/
def RomTable.c1Bits (t : RomTable) : Nat := if t.grade = .N then 14 else 20

/-- A fixed-point number from an FP32 constant. -/
def fxOf32 (w : Word) : Int :=
  match f32 w with
  | .fin s n d => fxRat (Val.signed s n) d
  | _ => 0

/-- The constant of a reachable CONST tail that follows segment `s`, the last of its run. -/
def RomTable.tailAfter (t : RomTable) (s : Nat) : Option Int :=
  let tl := if s ≥ t.runLen then (t.hin, t.reach.2.2) else (t.hip, t.reach.2.1)
  if s % t.runLen = t.runLen - 1 && tl.2 && !tl.1.1 then some (fxOf32 tl.1.2) else none

/-- Whether C1 at SH1 = 0 and exponent e cannot span a segment, up to its successor value where that is a tail constant
(used where R78's e leaves no SH1 that fits). -/
def RomTable.steep (t : RomTable) (s : Nat) (e : Int) : Bool :=
  let u := e + 127 - 167 + (if t.grade = .N then 27 else 21)
  decide ((fxRound 3 ((t.tailAfter s).getD (t.value s 2) - t.value s 0) u).natAbs ≥ 2 ^ (t.c1Bits - 1))

/-- e of a segment's entry: the larger of a packed pair (R78). Every segment of SIN at Grades Q and L takes the table's largest e, and a
packed pair whose C1 fits no SH1 takes the next larger e (log entry: R78 has no SH1 for these tables otherwise). -/
def RomTable.expOf (t : RomTable) (s : Nat) : Int :=
  if t.fn = .sin && t.grade != .N then 0
  else
    let e := ((t.mates s).map t.exp1).foldl Max.max (t.exp1 s)
    if t.grade = .N && (t.mates s).any (fun m => t.steep m e) then e + 1 else e

def RomTable.oexp (t : RomTable) (s : Nat) : Nat := (127 + t.expOf s).toNat
/-- The weight exponent of one unit of P. -/
def RomTable.kq (t : RomTable) (s : Nat) : Int := (t.oexp s : Int) - 167
def RomTable.gcBits (t : RomTable) : Nat := if t.grade = .N then 26 else 14

/-- C0 before the adjustment at a LO tail. -/
def RomTable.c0raw (t : RomTable) (s : Nat) : Int :=
  fxRound (if t.dir s = 0 then 0 else 3) (t.value s 0) (t.kq s + t.gcBits)

/-- C0 of a segment: the first segment of a run behind a reachable LO tail moves until the tail's limit lies on the
right side (R78). -/
def RomTable.c0 (t : RomTable) (s : Nat) : Int :=
  let c := t.c0raw s
  if t.uniform || s % t.runLen ≠ 0 || !t.reach.1 || t.dir s = 0 then c
  else
    let neg := decide (s ≥ t.runLen)
    let edge := if t.emin ≥ 0 then fxOne * 2 ^ t.emin.toNat else fxOne / 2 ^ (-t.emin).toNat
    let lim := if t.lo.1 then fxMul (fxOf32 t.lo.2) (if neg then -edge else edge) else fxOf32 t.lo.2
    let k := t.kq s + t.gcBits
    if t.dir s = 1 then Max.max c (fxRound 2 lim k) else Min.min c (fxRound 1 lim k)

/-- C0 × gc × q in fixed point. -/
def RomTable.c0val (t : RomTable) (s : Nat) : Int := t.c0 s * 2 ^ ((fxW : Int) + t.kq s + t.gcBits).toNat

/-- The segment of the negative run that holds r = −0.25 (R78, Table 4.5). -/
def RomTable.quarterSeg (t : RomTable) : Nat := t.runLen + ((-2 - t.emin).toNat) * 2 ^ t.k

/-- The successor value S (Table 4.5). -/
def RomTable.succVal (t : RomTable) (s : Nat) : Int :=
  let last := decide (s % t.runLen = t.runLen - 1)
  let neg := decide (s ≥ t.runLen)
  if !last then t.c0val (s + 1)
  else match t.fn with
    | .exp2 => 2 * fxOne
    | .sin => fxOne
    | .recip | .rsqrt => t.c0val 0 / 2
    | .sqrt => 2 * t.c0val 0
    | .log => if neg then t.value s 2 else fxOne + t.c0val t.quarterSeg
    | _ => (t.tailAfter s).getD (t.value s 2)

/-- Rounds a / b, b > 0: direction as `fxRound` (0 nearest even, 1 down, 2 up). -/
def intDivRound (md : Nat) (a b : Int) : Int :=
  let q := a / b
  let r := a - q * b
  match md with
  | 1 => q
  | 2 => if r = 0 then q else q + 1
  | _ => if 2 * r < b then q else if 2 * r > b then q + 1 else q + q % 2

/-- C2, C1 and C0 of a segment for given SH1 and SH2 (R78) (DEDUCED, log entry 76). -/
def RomTable.coefs (t : RomTable) (sh1 sh2 s : Nat) : Int × Int × Int :=
  let dir := t.dir s
  let q := t.kq s
  let C0 := t.c0 s
  let P0 := C0 * 2 ^ t.gcBits
  let C2 : Int := if t.grade = .Q then
      fxRound 0 (2 * (t.value s 0 - 2 * t.value s 1 + t.value s 2)) (q + 27 - sh2) else 0
  let c2t := floorScale C2 (27 - (sh2 : Int))
  let u : Int := if t.grade = .N then 2 ^ (27 - sh1) else 2 ^ (21 - sh1)
  let V := fxRound dir (t.succVal s) q
  let C1 := intDivRound dir (V - P0 - c2t) u
  if dir = 1 && decide (c2t + C1 * u < 0) then
    let C1 := intDivRound 2 (-c2t) u
    if P0 + c2t + C1 * u > V then (0, intDivRound 1 (V - P0) u, C0) else (C2, C1, C0)
  else if dir = 2 && decide (c2t + C1 * u > 0) then
    let C1 := intDivRound 1 (-c2t) u
    if P0 + c2t + C1 * u < V then (0, intDivRound 2 (V - P0) u, C0) else (C2, C1, C0)
  else (C2, C1, C0)

/-- Two's complement of `n` bits. -/
def twos (n : Nat) (i : Int) : Nat := (i % (2 ^ n : Nat)).toNat

/-- The 88 data bits of entry `i`, with CERT given (Tables 3.5 and 3.6). -/
def RomTable.entryData (t : RomTable) (i cert : Nat) : Nat :=
  let s := if t.grade = .N then 2 * i else i
  let hd := t.dir s * 2 ^ 76 + cert % 64 * 2 ^ 70 + t.oexp s % 256 * 2 ^ 62
  let (c2, c1, c0) := t.coefs t.sh1 t.sh2 s
  if t.grade = .N then
    let (_, d1, d0) := t.coefs t.sh1 t.sh2 (s + 1)
    hd + twos 14 d1 * 2 ^ 46 + twos 16 d0 * 2 ^ 30 + twos 14 c1 * 2 ^ 16 + twos 16 c0
  else hd + twos 14 c2 * 2 ^ 48 + twos 20 c1 * 2 ^ 28 + twos 28 c0

/-- The hardware descriptor of a native table; its special-input fields all pass, since the function's own rule has
settled them (R85, Table 4.3). -/
def RomTable.desc (t : RomTable) (front : Nat) : Desc :=
  { (default : Desc) with
    valid := true, grade := t.grade.code, space := true, front := front, uniform := t.uniform, signed := t.signed,
    k := t.k, sh1 := t.sh1, sh2 := t.sh2, emin := t.emin, nbin := t.nbin, base := t.addr,
    loLin := t.lo.1, hipLin := t.hip.1, hinLin := t.hin.1, loC := t.lo.2, hipC := t.hip.2, hinC := t.hin.2 }

/-- The number of entries of a native table. -/
def RomTable.entries (t : RomTable) : Nat :=
  let n := if t.signed then 2 * t.runLen else t.runLen
  if t.grade = .N then (n + 1) / 2 else n

end Sys2Proof.Machine
end

