-- ==== Sys2Proof/Machine/Functions.lean ====
section
/-! DEFINITION. The built-in functions (04_function_catalogue.md): Table 4.1, the special inputs of Table 4.3, the
composites of R79, position-code angles (R82, R83), slots and latencies (R72, R80), and the Gen-3 functions (R184 to
R188). -/
namespace Sys2Proof.Machine

/-! ## Table 4.1 -/

/-- Built-in IDs that exist (R70). -/
def builtinExists (id : Nat) : Bool :=
  decide (id ≤ 6) || (decide (8 ≤ id) && decide (id ≤ 0xE)) || id == 0x10 || id == 0x11

/-- SIN_POS and COS_POS (R71). -/
def isPosFn (id : Nat) : Bool := id == 0x10 || id == 0x11

/-- Composites at Grades Q and L (Table 4.1): the number of Grade Q slots, 0 for a single-table function. -/
def compositeSlots (id : Nat) : Nat :=
  match id with
  | 0x08 | 0x0B | 0x0C => 2
  | 0x0D | 0x0E => 4
  | _ => 0

def isComposite (id : Nat) (g : Grade) : Bool := compositeSlots id != 0 && g != .N

/-- Front end and ROM function of a single-table built-in (Table 4.1). -/
def builtinTable (id : Nat) : Nat × RomFn :=
  match id with
  | 0x00 => (2, .exp2)
  | 0x01 => (3, .exp2)
  | 0x02 => (4, .log)
  | 0x03 => (5, .log)
  | 0x04 => (6, .recip)
  | 0x05 => (7, .rsqrt)
  | 0x06 => (8, .sqrt)
  | 0x08 => (0, .sigmoid)
  | 0x09 => (1, .tanh)
  | 0x0A => (1, .erf)
  | 0x0B => (0, .softplus)
  | 0x0C => (0, .silu)
  | 0x0D => (0, .geluTanh)
  | 0x0E => (0, .geluErf)
  | 0x10 => (9, .sin)
  | _ => (0xA, .sin)

/-- Declared monotonicity of a built-in (Table 4.1): 0 none, 1 non-decreasing, 2 non-increasing. -/
def builtinMono (id : Nat) : Nat :=
  match id with
  | 0x04 | 0x05 => 2
  | 0x0B | 0x0C | 0x0D | 0x0E => 0
  | _ => 1

/-- The results of Table 4.3; none where the input passes to stage 2. `g` decides GELU_ERF beyond ±16. -/
def builtinSpecial (id : Nat) (g : Grade) (v : Val) : Option Val :=
  let one := Val.one
  let pinf := Val.inf false
  let zero := fun s => Val.fin s 0 1
  match v with
  | .nan => some .nan
  | .inf s =>
    match id with
    | 0x00 | 0x01 => some (if s then zero false else pinf)
    | 0x02 | 0x03 | 0x06 => some (if s then .nan else pinf)
    | 0x04 => some (zero s)
    | 0x05 => some (if s then .nan else zero false)
    | 0x08 => some (if s then zero false else one)
    | 0x09 | 0x0A => some (one.withSign s)
    | 0x0B => some (if s then zero false else pinf)
    | _ => some (if s then zero true else pinf)
  | .fin s n _ =>
    if n = 0 then
      match id with
      | 0x00 | 0x01 => some one
      | 0x02 | 0x03 => some (.inf true)
      | 0x04 | 0x05 => some (.inf s)
      | 0x08 => some (f32 0x3F000000)
      | 0x0B => some (f32 0x3F317218)
      | _ => some (zero s)
    else
      match id with
      | 0x02 | 0x03 | 0x05 | 0x06 => if s then some .nan else none
      | 0x0E =>
        if g = .N then none
        else if (Val.ofNat 16).le v then some v
        else if v.le (Val.ofNat 16).neg then some (zero true)
        else none
      | _ => none

/-- Row of Table 4.4 of a function at a grade. -/
def romRow (f : RomFn) (g : Grade) : Nat := (romTables.findIdx? (fun t => t.fn == f && t.grade == g)).getD 0

/-- A row of Table 4.4. -/
def romTable (row : Nat) : RomTable := romTables.getD row default

/-! ## The ROM as entries -/

/-- Entry `i` of native table `row` with CERT 0: all that an evaluation reads of it. -/
def romPlain (row i : Nat) : Entry := BitVec.ofNat 96 ((romTable row).entryData i 0)

/-- The native row that holds a ROM address below 0x2A1C, with the entry index. -/
def romRowAt (addr : Nat) : Option (Nat × Nat) :=
  (romTables.zipIdx).findSome? (fun tr =>
    if tr.1.addr ≤ addr && addr < tr.1.addr + tr.1.entries then some (tr.2, addr - tr.1.addr) else none)

/-- The twelve Gen-3 tables of Table 8.7 in ROM order. -/
def gen3Fns : List RomFn :=
  [.exp2, .log, .recip, .rsqrt, .sqrt, .sin, .tanh, .erf, .sigmoid, .silu, .geluTanh, .geluErf]

/-- g(aᵢ) of Gen-3 table `k` in fixed point (R188); i runs to 1,024. -/
def gen3G (k i : Nat) : Int :=
  match k with
  | 0 => romG .exp2 i 1024
  | 1 => romG .log i 1024
  | 2 => romG .recip ((1024 + i : Nat) : Int) 1024
  | 3 | 4 =>
    let a : Nat := if i < 512 then 512 + i else 2 * i
    romG (if k = 3 then .rsqrt else .sqrt) (a : Int) 512
  | 5 => if i = 1024 then fxOne else romG .sin i 1024
  | 6 => romG .tanh i 128
  | 7 => romG .erf i 128
  | _ => romG (gen3Fns.getD k .sigmoid) ((i : Int) - 512) 64

/-- RNE to FP32 of a fixed-point number. -/
def fxTo32 (v : Int) : Word := rne32 (.fin (decide (v < 0)) v.natAbs (2 ^ fxW))

/-- The data bits of entry `i` of Gen-3 table `k` (R187, R188). -/
def gen3Data (k i : Nat) : Nat :=
  let c0 := fxTo32 (gen3G k i)
  let c1 := rne32 ((f32 (fxTo32 (gen3G k (i + 1)))).sub (f32 c0))
  c0.toNat + c1.toNat * 2 ^ 32

/-! ## Single-table functions and composites -/

/-- The table reader of an evaluation. -/
abbrev Look := TblRef → Nat → Option Entry

/-- The native table of a built-in at a grade, read through front end `front`. -/
def evalNative (look : Look) (f : RomFn) (front : Nat) (g : Grade) (a : Arg) : EvalOut :=
  let row := romRow f g
  finishTable look (.native row) ((romTable row).desc front) g a

/-- A native evaluation of an FP32 input through a front end. -/
def evalNativeX (look : Look) (f : RomFn) (front : Nat) (g : Grade) (x : Word) : EvalOut :=
  evalNative look f front g (frontEnd front (.x x))

/-- Built-in EXP at Grade Q on native tables: the FP32 result and the evaluation (R79, R170). -/
def nativeExp (look : Look) (x : Word) : Word × EvalOut :=
  match builtinSpecial 0x01 .Q (f32 x) with
  | some v => (rne32 v, { v := v, settled := true })
  | none => let o := evalNativeX look .exp2 3 .Q x; (o.bits, o)

/-- G_T(t): the exact stage 6 value of a ROM table at Grade Q through DIRECT (R79). -/
def nativeG (look : Look) (f : RomFn) (t : Word) : EvalOut := evalNativeX look f 0 .Q t

/-- Adds what the sub-evaluations did to a composite's outcome. -/
def EvalOut.with (v : Val) (subs : List EvalOut) : EvalOut :=
  { v := v, clamps := (subs.map (·.clamps)).foldl (· + ·) 0, looks := subs.flatMap (·.looks) }

/-- The composites of R79. The result is the exact value before the single rounding. -/
def evalComposite (look : Look) (id : Nat) (x : Word) : EvalOut :=
  let xv := f32 x
  let half := f32 0x3F000000
  match id with
  | 0x08 =>
    let (t, o) := nativeExp look (fneg (fabs x))
    let o2 := nativeG look (if xv.sign then .sigk else .sigh) t
    .with o2.v [o, o2]
  | 0x0C =>
    let (t, o) := nativeExp look (fneg (fabs x))
    let o2 := nativeG look (if xv.sign then .sigk else .sigh) t
    .with (xv.mul o2.v) [o, o2]
  | 0x0B =>
    let (t, o) := nativeExp look (fneg (fabs x))
    let o2 := nativeG look .l1p t
    .with ((xv.max Val.zero).add o2.v) [o, o2]
  | 0x0D =>
    let q := fmul x x
    let r := ffma q 0x3D922279 0x3FCC422A
    let a := fmul x r
    let (t, o) := nativeExp look (fneg (fabs a))
    let o2 := nativeG look (if (f32 a).sign then .sigk else .sigh) t
    .with (xv.mul o2.v) [o, o2]
  | _ =>
    let p := fmul x x
    let d := ffma x x (fneg p)
    let (t, o) := nativeExp look (rne32 ((f32 (fneg p)).mul half))
    let u := fmul t (fsub one32 (rne32 ((f32 d).mul half)))
    let o2 := nativeG look .mill (fabs x)
    let wv := rne32 ((f32 u).mul o2.v)
    .with (if xv.sign then xv.mul (f32 wv) else xv.mul (Val.one.sub (f32 wv))) [o, o2]

/-- A built-in function at a grade (R47, R75, R79): SIN_POS and COS_POS take the turn of R83, every other an FP32
value; a position above 2^24 reaches this as a NaN (R83). -/
def evalBuiltin (look : Look) (id : Nat) (g : Grade) (i : EvIn) : EvalOut :=
  match i with
  | .turn F =>
    let (front, f) := builtinTable id
    evalNative look f front g (frontEnd front (.turn F))
  | .x x =>
    if isPosFn id then { v := .nan, settled := true }
    else match builtinSpecial id g (f32 x) with
      | some v => { v := v, settled := true }
      | none =>
        if isComposite id g then evalComposite look id x
        else
          let (front, f) := builtinTable id
          evalNativeX look f front g x

/-! ## Position-code angles -/

/-- The turn fraction F of position p under frequency word Θ (R83). -/
def turnOf (p θ : Nat) : Nat := (p * θ % 2 ^ 96) / 2 ^ 64

/-- The evaluation input of SIN_POS or COS_POS at a position (R83). -/
def posInput (p θ : Nat) : EvIn := if p > 2 ^ 24 then .x nan32 else .turn (turnOf p θ)

/-! ## Slots and latencies -/

/-- Latency in fc of a single evaluation (Table 3.9). -/
def gradeLatency : Grade → Nat
  | .Q => 18
  | .L => 14
  | .N => 12

/-- Evaluation slots of a built-in: the grade whose slots it takes and how many (R72). -/
def builtinSlots (id : Nat) (g : Grade) : Grade × Nat :=
  if isComposite id g then (.Q, compositeSlots id) else (g, 1)

/-- Latency of a built-in result (Table 3.9, R80). -/
def builtinLatency (id : Nat) (g : Grade) : Nat :=
  if isComposite id g then (if compositeSlots id = 2 then 36 else 48) else gradeLatency g

/-! ## Gen-3 mode -/

/-- Decoding in Gen-3 mode: a subnormal becomes a zero of its sign (R186). -/
def flush32 (x : Word) : Word := if (x &&& 0x7F800000) = 0 then x &&& 0x80000000 else x

def g3add (a b : Word) : Word := rne32g3 ((f32 (flush32 a)).add (f32 (flush32 b)))
def g3sub (a b : Word) : Word := rne32g3 ((f32 (flush32 a)).sub (f32 (flush32 b)))
def g3mul (a b : Word) : Word := rne32g3 ((f32 (flush32 a)).mul (f32 (flush32 b)))
def g3div (a b : Word) : Word := rne32g3 ((f32 (flush32 a)).div (f32 (flush32 b)))

/-- The built-ins that exist in Gen-3 mode (Table 8.6). -/
def gen3Exists (id : Nat) : Bool := builtinExists id && id != 0x0B

/-- RNE(C0 + RNE(C1 × f)) of segment `i` of Gen-3 table `k`; f = fn / fd (R187). The reader is asked for the entry at
its ROM address. -/
def gen3Interp (rom : Nat → Option Entry) (k i fn fd : Nat) : Option Word :=
  (rom (0x3000 + 1024 * k + i)).map (fun e =>
    let c0 : Word := e.extractLsb' 0 32
    let c1 : Word := e.extractLsb' 32 32
    rne32g3 ((f32 c0).add (f32 (rne32g3 ((f32 c1).mul (.fin false fn fd))))))

/-- Outcome of a Gen-3 evaluation: the FP32 result and the ROM addresses it read. -/
structure Gen3Out where
  v : Word
  looks : List Nat := []
  settled : Bool := false
  deriving DecidableEq, Repr

/-- One segment read of table `k`, finished by `k'` on G; an uncorrectable entry gives NaN (R88). -/
def gen3At (rom : Nat → Option Entry) (k i fn fd : Nat) (fin : Word → Word) : Gen3Out :=
  { v := match gen3Interp rom k i fn fd with | some g => fin g | none => nan32, looks := [0x3000 + 1024 * k + i] }

/-- EXP2 of Table 8.7. -/
def gen3Exp2 (rom : Nat → Option Entry) (z : Word) : Gen3Out :=
  match frontExp (f32 z) (f32 z) with
  | .done v => { v := rne32g3 v }
  | .frac F r => gen3At rom 0 (F / 2 ^ 22) (F % 2 ^ 22) (2 ^ 22) (fun g => rne32g3 ((f32 g).mul (Val.pow2 r.n)))
  | _ => { v := nan32 }

/-- LOG2 of Table 8.7, for a positive finite x. -/
def gen3Log2 (rom : Nat → Option Entry) (n d : Nat) : Gen3Out :=
  let (E, M) := normalise n d
  let m := M - 2 ^ 23
  gen3At rom 1 (m / 2 ^ 13) (m % 2 ^ 13) (2 ^ 13) (fun g => rne32g3 ((Val.ofInt E).add (f32 g)))

/-- SIN and COS of a turn fraction through table SIN (R53, Table 8.7). -/
def gen3Turn (rom : Nat → Option Entry) (cos : Bool) (F : Nat) : Gen3Out :=
  let sg := fun (r : Recon) (g : Word) =>
    if (f32 g).isZero then (0 : Word) else if r.neg then fneg g else g
  match frontTurn cos F with
  | .frac F' r => gen3At rom 5 (F' / 2 ^ 22) (F' % 2 ^ 22) (2 ^ 22) (sg r)
  | .unit r => { v := sg r one32 }
  | _ => { v := nan32 }

/-- A Gen-3 function (R185 to R187); `rom` answers none for an uncorrectable entry (DESIGN CHOICE, log entry 79). -/
def evalGen3 (rom : Nat → Option Entry) (id : Nat) (i : EvIn) : Gen3Out :=
  match i with
  | .turn F => gen3Turn rom (id == 0x11) F
  | .x x0 =>
    let x := flush32 x0
    if isPosFn id then { v := nan32, settled := true }
    else
      match builtinSpecial id .N (f32 x) with
      | some v => { v := rne32g3 v, settled := true }
      | none =>
        match f32 x with
        | .fin s n d =>
          let (E, M) := normalise n d
          let m := M - 2 ^ 23
          let j : Int := E / 2
          let p : Nat := (E - 2 * j).toNat
          let sq := 512 * p + m / 2 ^ 14
          let sgn := fun (g : Word) => if s then fneg g else g
          match id with
          | 0x00 => gen3Exp2 rom x
          | 0x01 => gen3Exp2 rom (g3mul x 0x3FB8AA3B)
          | 0x02 => gen3Log2 rom n d
          | 0x03 => let o := gen3Log2 rom n d; { o with v := g3mul o.v 0x3F317218 }
          | 0x04 => gen3At rom 2 (m / 2 ^ 13) (m % 2 ^ 13) (2 ^ 13)
              (fun g => sgn (rne32g3 ((f32 g).mul (Val.pow2 (-E)))))
          | 0x05 => gen3At rom 3 sq (m % 2 ^ 14) (2 ^ 14) (fun g => rne32g3 ((f32 g).mul (Val.pow2 (-j))))
          | 0x06 => gen3At rom 4 sq (m % 2 ^ 14) (2 ^ 14) (fun g => rne32g3 ((f32 g).mul (Val.pow2 j)))
          | 0x09 | 0x0A =>
            if 8 * d ≤ n then { v := sgn one32 }
            else gen3At rom (if id = 0x09 then 6 else 7) (n * 128 / d) (n * 128 % d) d sgn
          | _ =>
            let k := match id with | 0x08 => 8 | 0x0C => 9 | 0x0D => 10 | _ => 11
            if !s && decide (8 * d ≤ n) then { v := if id = 0x08 then one32 else x }
            else if s && decide (8 * d < n) then { v := if id = 0x08 then 0 else 0x80000000 }
            else match f32 (rne32g3 ((f32 x).add (Val.ofNat 8))) with
              | .fin _ un ud =>
                if un * 64 / ud ≥ 1024 then { v := Config.gen3Edge k x }
                else gen3At rom k (un * 64 / ud) (un * 64 % ud) ud id32
              | _ => { v := nan32 }
        | _ => { v := nan32 }
where id32 (g : Word) : Word := g

end Sys2Proof.Machine
end

