-- ==== Sys2Proof/Machine/Capsule.lean ====
section
/-! DEFINITION. Capsule records (R110 to R114), the summation of a tile row (R118, R189), the merge of two records and
of their tiles (R113, R170, R171, R189), and what ADOPT does to a record (R132). -/
namespace Sys2Proof.Machine

/-- A capsule record (Tables 6.1 and 6.2). -/
structure Rec where
  max : Word
  sum : Word
  comp : Word
  count : Nat
  gen : BitVec 4
  empty : Bool
  boundLost : Bool := false
  nonfinite : Bool := false
  saturated : Bool := false
  deriving DecidableEq, Repr

/-- The largest COUNT (R113). -/
def countMax : Nat := 16777215

/-- The empty record of a generation (R112). -/
def Rec.emptyOf (g : BitVec 4) : Rec := { max := negInf32, sum := 0, comp := 0, count := 0, gen := g, empty := true }

/-- Word 3 of a record (Tables 6.1 and 6.2). -/
def Rec.word3 (r : Rec) : Word :=
  BitVec.ofNat 32 (r.count % 2 ^ 24 + r.gen.toNat * 2 ^ 24 + b2n r.empty * 2 ^ 28 + b2n r.boundLost * 2 ^ 29
    + b2n r.nonfinite * 2 ^ 30 + b2n r.saturated * 2 ^ 31)

/-- The 16 bytes of a record (R110). -/
def Rec.bytes (r : Rec) : List Byte := wordBytes r.max ++ wordBytes r.sum ++ wordBytes r.comp ++ wordBytes r.word3

/-- Reads a record from four words (R110). -/
def Rec.ofWords (m s c w : Word) : Rec :=
  { max := m, sum := s, comp := c, count := bitsOf w 23 0, gen := w.extractLsb' 24 4, empty := bitOf w 28,
    boundLost := bitOf w 29, nonfinite := bitOf w 30, saturated := bitOf w 31 }

/-- Reads a record from 16 bytes (R110). -/
def Rec.ofBytes (bs : List Byte) : Rec :=
  let w := wordsOf 4 bs
  .ofWords (w.getD 0 0) (w.getD 1 0) (w.getD 2 0) (w.getD 3 0)

/-- The pair (SUM, COMP). -/
def Rec.pair (r : Rec) : Word × Word := (r.sum, r.comp)

/-- The exact value of the pair (R111). -/
def Rec.val (r : Rec) : Val := pairVal r.pair

/-! ## The partial sum of a tile row -/

/-- Infinite, and not NaN. -/
def isInf32 (w : Word) : Bool := w == posInf32 || w == negInf32

/-- One step of a fast chunk: the exact sum rounded to 11 bits (R39). -/
def fastAdd (c : Nat) (t : Word) : Nat := (Fmt.fast.round .rne false ((Fmt.fast.decode c).add (f32 t))).code

/-- A chunk total, as FP32 (R118). -/
def chunkTotal (fast : Bool) (ts : List Word) : Word :=
  if fast then rne32 (Fmt.fast.decode (ts.foldl fastAdd 0)) else ts.foldl fadd 0

/-- pair_add with the SATURATED condition of R118: ±∞ from finite high parts (DEDUCED, log entry 80). -/
def pairAddSat (p q : Word × Word) : (Word × Word) × Bool :=
  let r := pairAdd p q
  (r, isInf32 r.1 && !nonFin32 p.1 && !nonFin32 q.1)

/-- Promotes one chunk into the running pair; the flag is SATURATED (R118). -/
def promote (fast : Bool) (acc : (Word × Word) × Bool) (ts : List Word) : (Word × Word) × Bool :=
  let c := chunkTotal fast ts
  let (p, s) := pairAddSat acc.1 (c, 0)
  (p, acc.2 || s || (isInf32 c && !ts.any nonFin32))

/-- row_partial of R118 over the terms of the presented positions, in order. -/
def rowPartial (fast : Bool) (ts : List Word) : (Word × Word) × Bool :=
  let k := if fast then 16 else 32
  (blocksOf k ((ts.length + k - 1) / k) ts).foldl (promote fast) ((0, 0), false)

/-- A partial capsule: its record, and in Gen-3 mode the terms of a plain statistic, which R189 adds one by one. -/
structure Part where
  rc : Rec
  terms : List Word := []
  deriving DecidableEq, Repr

/-- The partial capsule of a tile row (R118): `mx` is the tile row's MAX, `ts` the terms of its presented positions,
`live` says that an unmasked element contributed. -/
def partialOf (gen3 fast plain : Bool) (g : BitVec 4) (mx : Word) (ts : List Word) (live : Bool) : Part :=
  if gen3 then
    let s := ts.foldl g3add 0
    { rc := { max := mx, sum := s, comp := 0, count := ts.length, gen := g, empty := !live,
              nonfinite := live && (nonFin32 mx || nonFin32 s),
              saturated := isInf32 s && !ts.any nonFin32 },
      terms := if plain then ts else [] }
  else
    let (p, sat) := rowPartial fast ts
    { rc := { max := mx, sum := p.1, comp := p.2, count := ts.length, gen := g, empty := !live,
              nonfinite := live && (nonFin32 mx || nonFin32 p.1 || nonFin32 p.2), saturated := sat } }

/-! ## The merge -/

/-- What a merge does with the two sides (R170, R171): one side is empty and the other passes, the maximum is not
finite, or both are scaled. -/
inductive MergeHow where
  | takeA
  | takeB
  | notFinite
  | scaled (a b : Word)
  deriving DecidableEq, Repr

/-- An EXP for a merge: the native built-in at Grade Q, or that of R187 (R170, R189). -/
abbrev ExpFn := Word → Word

/-- The decision of R170. Two empty sides take B's fields, which are those of an empty record. -/
def mergeHow (ex : ExpFn) (a b : Rec) : MergeHow :=
  if a.empty then .takeB
  else if b.empty then .takeA
  else
    let m := fmax a.max b.max
    if nonFin32 m then .notFinite else .scaled (ex (fsub a.max m)) (ex (fsub b.max m))

/-- scale of R170. -/
def scalePair (ρ : Word) (p : Word × Word) : Word × Word :=
  if ρ = one32 then p
  else
    let q := fmul ρ p.1
    if nonFin32 q then (q, 0)
    else fastTwoSum q (ffma ρ p.2 (ffma ρ p.1 (fneg q)))

/-- COUNT and the flags of a combination (R113), given MAX, the pair and what the pair addition saturated. -/
def combine (a b : Rec) (mx : Word) (p : Word × Word) (nf sat : Bool) : Rec :=
  let e := a.empty && b.empty
  { max := mx, sum := p.1, comp := p.2, count := Nat.min (a.count + b.count) countMax, gen := a.gen, empty := e,
    boundLost := a.boundLost || b.boundLost || decide (a.count + b.count > countMax),
    nonfinite := a.nonfinite || b.nonfinite || nf || sat || nonFin32 p.1 || nonFin32 p.2,
    saturated := a.saturated || b.saturated || sat }

/-- The merge of max-relative records (R170; R189 in Gen-3 mode). -/
def mergeMax (gen3 : Bool) (ex : ExpFn) (a b : Rec) : Rec :=
  match mergeHow ex a b with
  | .takeB => combine a b b.max b.pair false false
  | .takeA => combine a b a.max a.pair false false
  | .notFinite => combine a b (fmax a.max b.max) (nan32, 0) true false
  | .scaled ρa ρb =>
    if gen3 then
      let s := g3add (g3mul ρa a.sum) (g3mul ρb b.sum)
      combine a b (fmax a.max b.max) (s, 0) false (isInf32 s && !nonFin32 a.sum && !nonFin32 b.sum)
    else
      let (p, sat) := pairAddSat (scalePair ρa a.pair) (scalePair ρb b.pair)
      combine a b (fmax a.max b.max) p false sat

/-- The combination of plain records (R113). -/
def mergePlain (a b : Rec) : Rec :=
  let (p, sat) := pairAddSat a.pair b.pair
  combine a b (fmax a.max b.max) p false sat

/-- The fold of a partial capsule into a context (R172, R189): the running record is the left operand. -/
def foldPart (gen3 plain : Bool) (ex : ExpFn) (ctx : Rec) (p : Part) : Rec :=
  if plain then
    if gen3 then
      let s := p.terms.foldl g3add ctx.sum
      combine ctx p.rc (fmax ctx.max p.rc.max) (s, 0) false (isInf32 s && !nonFin32 ctx.sum && !p.terms.any nonFin32)
    else mergePlain ctx p.rc
  else mergeMax gen3 ex ctx p.rc

/-- Whether a combination is the first that loses the bound of R120 (R121). -/
def losesBound (a b : Rec) : Bool := !a.boundLost && decide (a.count + b.count > countMax)

/-- A record that comes into the block: its NaNs carry no payload on (R22, R23). -/
def Rec.canon (r : Rec) : Rec := { r with max := canon32 r.max, sum := canon32 r.sum, comp := canon32 r.comp }

/-- One element of a merged output tile (R171), its NaN canonical (R23). -/
def mergeElem (how : MergeHow) (oa ob : Word) : Word :=
  match how with
  | .takeA => canon32 oa
  | .takeB => canon32 ob
  | .notFinite => nan32
  | .scaled ρa ρb => rne32 (((f32 ρa).mul (f32 oa)).add ((f32 ρb).mul (f32 ob)))

/-- ADOPT's normalisation of a region record (R132). -/
def Rec.adopt (r : Rec) : Rec :=
  let r := r.canon
  let (h, l) := twoSum r.sum r.comp
  if nonFin32 h then { r with sum := h, comp := 0, nonfinite := true } else { r with sum := h, comp := l }

end Sys2Proof.Machine
end

