-- ==== Sys2Proof/Machine/TypesPort.lean ====
section
/-! DEFINITION. Plain data of the register window, the ports, the event ring, the power and lifetime units, the counter
and debug pages (chapters 12 to 14 and 16). -/
namespace Sys2Proof.Machine

/-! ## Pages -/

/-- The pages of Table 14.1, in the order of their DL_GLB_EVSUM bits. -/
inductive Page where
  | glb | pwr | life | cal | port | eval | tbl | crz | chn | arv | ctx | tree | num | ten | log | sch | sen | img | cnt
  | dbg
  deriving DecidableEq, Repr

/-- Every page, in the order of Table 14.1. -/
def Page.all : List Page :=
  [.glb, .pwr, .life, .cal, .port, .eval, .tbl, .crz, .chn, .arv, .ctx, .tree, .num, .ten, .log, .sch, .sen, .img, .cnt,
   .dbg]

/-- DL_GLB_EVSUM bit of a page (Table 14.1). -/
def Page.bit : Page → Nat
  | .glb => 0 | .pwr => 1 | .life => 2 | .cal => 3 | .port => 4 | .eval => 5 | .tbl => 6 | .crz => 7 | .chn => 8
  | .arv => 9 | .ctx => 10 | .tree => 11 | .num => 12 | .ten => 13 | .log => 14 | .sch => 15 | .sen => 16 | .img => 17
  | .cnt => 18 | .dbg => 19

/-- Page number (Table 14.1). -/
def Page.number : Page → Nat
  | .glb => 0x00 | .pwr => 0x01 | .life => 0x02 | .cal => 0x03 | .port => 0x04 | .eval => 0x10 | .tbl => 0x11
  | .crz => 0x12 | .chn => 0x14 | .arv => 0x15 | .ctx => 0x18 | .tree => 0x19 | .num => 0x1C | .ten => 0x1D
  | .log => 0x1E | .sch => 0x20 | .sen => 0x21 | .img => 0x24 | .cnt => 0x28 | .dbg => 0x30

/-- The page of a page number. -/
def pageOf (n : Nat) : Option Page := Page.all.find? (fun p => p.number == n)

/-- Unit code of a page (Table 14.1). -/
def Page.unitCode (p : Page) : Nat := 0xD400 + p.number

/-- Always-on pages (Table 14.1). -/
def Page.alwaysOn : Page → Bool
  | .glb | .pwr | .life | .cal => true
  | _ => false

/-- PG_ERR_INFO.CAUSE (Table 14.3). -/
inductive Cause where
  | width | locked | value | state | dormant | queue | command
  deriving DecidableEq, Repr

def Cause.code : Cause → Nat
  | .width => 1 | .locked => 2 | .value => 3 | .state => 4 | .dormant => 5 | .queue => 6 | .command => 7

/-- PG_ERR_INFO of a page (Table 14.2). -/
structure ErrInfo where
  cause : BitVec 4 := 0
  ovf : Bool := false
  src : Bool := false
  core : BitVec 4 := 0
  waddr : BitVec 18 := 0
  deriving DecidableEq, Repr

/-- The common header of a page (Table 14.2). -/
structure PageHdr where
  lock : Bool := false
  event : Word := 0
  eventEn : Word := 0
  err : ErrInfo := {}
  seq : Word := 0
  deriving DecidableEq, Repr

/-- A register pair (R14), as the key of captured and held halves. -/
inductive PairId where
  | lifeAnchor | lifeCal | cntShadow | cntLive | crzWord | chnRefuse | arvDrop | treeChkVal | treeMin | treeMax
  | numSeed | schGen
  deriving DecidableEq, Repr

/-- Captured upper halves and held lower halves per requester (R14). -/
structure Pairs where
  captured : List ((Requester × PairId) × Word) := []
  held : List ((Requester × PairId) × Word) := []
  deriving DecidableEq, Repr

/-! ## P2, P5 and credit traffic -/

/-- What the block sends out; the list of the state holds the newest first. -/
inductive OutMsg where
  /-- P2 read data or write acknowledgement. -/
  | p2Data (core : Fin 16) (v : Word)
  | p2Ack (core : Fin 16)
  /-- A P5 frame (Table 12.9). -/
  | rest (frame : BitVec 80)
  /-- The return of a lane request: group, header, results in the lane format (R258, R259). -/
  | laneReturn (group : Fin 8) (hdr : Header) (results : List Word)
  /-- A credit word on the credit path of P1, P3 or P4 (R265). -/
  | credit (path : CreditPath) (w : Word)
  /-- A tree message to another instance (P4) or, through the chip fabric, to another chip (R262). -/
  | tree (dstInst dstRank : Option Nat) (m : TreeMsg)
  /-- P0 requests (R255): a 64-byte-aligned address, and a length or the beats of up to 512 bytes, where a byte that the mask
  does not enable is none. -/
  | p0Read (id addr len : Nat)
  | p0Write (id addr : Nat) (beats : List (List (Option Byte)))
  /-- A calibration value for the host chip's calibration store (R292). -/
  | calStore (off : BitVec 12) (v : Word)
  deriving DecidableEq, Repr

/-! ## The event ring (R319, R322) -/

/-- An event, before its record is formed: code, step of its window, fc, tag and arguments (Table 16.1). -/
structure Event where
  code : Nat
  page : Page
  step : Word
  fc : Nat
  tag : BitVec 16 := 0
  a0 : Word := 0
  a1 : Word := 0
  a2 : Word := 0
  a3 : Word := 0
  deriving DecidableEq, Repr

/-- The LOG page and the queues behind it (Table 15.11, R319, R323). -/
structure LogUnit where
  en : Bool := false
  base : Word := 0
  size : Word := 0
  wr : Word := 0
  rd : Word := 0
  lost : Word := 0
  water : BitVec 20 := 0
  mask : List Word := List.replicate 8 0
  /-- A record was lost since the last written one (LOST_BEFORE). -/
  lostBefore : Bool := false
  /-- The always-on queue of R323, oldest first. -/
  held : List Event := []
  /-- Events logged and not yet offered to the ring, oldest first; one record write is on its way at a time. -/
  pend : List Event := []
  writing : Bool := false
  deriving DecidableEq, Repr

/-! ## Power (chapter 13) -/

/-- DL_PWR_STATE.STATE (Table 13.2); ACTIVE is READY with work issued (R272). -/
inductive PwrState where
  | dormant | waking | resting | ready | entering
  deriving DecidableEq, Repr

/-- Where an ENTERING leads, and for Dormant how far it is: write-backs, or the recall (R275, R276). -/
inductive Entering where
  | none
  | toResting
  | toDormant (fromResting recalled : Bool)
  deriving DecidableEq, Repr

/-- A grant in force (R283): id, rate, and the units of 25 rc left when it has a duration. -/
structure Grant where
  id : BitVec 8
  rate : Nat
  duration : Nat
  deriving DecidableEq, Repr

/-- The argument registers of the command registers of R277 (R309). -/
structure CmdArgs where
  loadSrc : Word := 0
  loadFirst : BitVec 16 := 0
  loadCount : BitVec 16 := 0
  drainCount : BitVec 21 := 0
  tenCount : BitVec 17 := 0
  imgStep : Word := 0
  imgGen : BitVec 16 := 0
  imgAddr : Word := 0
  imgSize : Word := 0
  imgFrag : Word := 0
  ring : List Word := []
  cntArg : Word := 0
  forceEta : Word := 0
  chkVal : DWord := 0
  deriving DecidableEq, Repr

/-- A write of a command register held while RESTING for READY, with the arguments in the fc of the write (R277, R309). -/
structure HeldCmd where
  rq : Requester
  page : Page
  off : Nat
  v : Word
  args : CmdArgs := {}
  deriving DecidableEq, Repr

/-- The PWR page and the power control unit. -/
structure PwrUnit where
  st : PwrState := .ready
  entering : Entering := .none
  /-- Target of a wake under way: true for READY (R277). -/
  wakeReady : Bool := true
  /-- A wake from Resting to Ready is under way. -/
  rising : Bool := false
  /-- A wake that came while entry to Dormant was past its recall: its target (Table 13.10). -/
  lateWake : Option Bool := none
  /-- A wake that waits in DORMANT for VDD_DL (R278) or for the calibration set (R335). -/
  wakeHeld : Bool := false
  result : BitVec 4 := 0
  target : BitVec 2 := 3
  idleRest : BitVec 16 := 0
  ballastHold : BitVec 8 := 0
  autowake : Bool := false
  icap : BitVec 10 := 0x280
  deadband : BitVec 4 := 4
  rate : BitVec 8 := 0x10
  fclk : BitVec 12 := 0x960
  lastSent : BitVec 10 := 0
  slots : Nat := 0
  holding : Bool := false
  /-- The last STATE reported, where the block is READY, was ACTIVE (R278). -/
  shownActive : Bool := false
  grant : Option Grant := none
  guardBand : Nat := 0
  dacc : Word := 0
  vddOk : Bool := true
  held : List HeldCmd := []
  deriving DecidableEq, Repr

/-- The current envelope (R280, R281). -/
structure EnvUnit where
  /-- E of this fc and of the 256 after it, soonest first, in units of 2^-16 of 1/16 A: E is fixed 256 fc ahead. -/
  plan : List Nat := List.replicate 257 0
  /-- Current of what the fc has issued so far, in the units of DL_CAL_FC_COEF: 1/16 mA at 2.4 GHz. -/
  spent : Nat := 0
  /-- Ready work has waited for E in this fc. -/
  short : Bool := false
  deriving DecidableEq, Repr

/-! ## Lifetime and calibration (R288 to R292) -/

/-- The counts of Table 13.11 that RESTORE adds to; evaluation slots are counted one by one. -/
structure LifeCounts where
  powered : Nat := 0
  dormant : Nat := 0
  resting : Nat := 0
  ready : Nat := 0
  active : Nat := 0
  wr0 : Nat := 0
  wr1 : Nat := 0
  ecc0 : Nat := 0
  ecc1 : Nat := 0
  eccr : Nat := 0
  vstress : Nat := 0
  therm : Nat := 0
  snaps : Nat := 0
  eval : List Nat := List.replicate 40 0
  deriving DecidableEq, Repr

/-- The LIFE page and the lifetime unit. -/
structure LifeUnit where
  busy : Option Nat := none
  seeded : Bool := false
  anchored : Bool := false
  err : BitVec 3 := 0
  anchor : DWord := 0
  calendar : DWord := 0
  record : List Word := List.replicate 64 0
  inp : List Word := List.replicate 64 0
  /-- DL_LIFE_IN as the running command found it. -/
  args : List Word := []
  counts : LifeCounts := {}
  /-- Die temperature: last minimum, and the maximum since a rise of 30 °C above it (R289). -/
  tmin : Option Int := none
  tmax : Option Int := none
  deriving DecidableEq, Repr

/-- The CAL page (Table 14.9). -/
structure CalUnit where
  loaded : Bool := true
  rcTrim : BitVec 9 := 0
  guard : List (BitVec 10) := [640, 625, 610, 590]
  coef : List (BitVec 16) := []
  thr : List (BitVec 16) := [4, 2, 0, 12]
  deriving DecidableEq, Repr

/-! ## Port page -/

/-- A recall under way: classes still to be answered, as (class, stream) (R266). -/
structure Recall where
  waiting : List (Nat × Nat) := []
  /-- Credits that the senders still hold: those returned before the recall, less those used since (R266, R342). -/
  left : List ((Nat × Nat) × Nat) := []
  done : Bool := false
  running : Bool := false
  deriving DecidableEq, Repr

/-- A register access: who makes it, the SEQ of its REST frame, the page number, the byte offset and the width in bytes. -/
structure Access where
  rq : Requester
  seq : Nat := 0
  page : Nat
  off : Nat
  bytes : Nat := 4
  deriving DecidableEq, Repr

/-- An access that a port has taken and not performed yet, since one of the same requester waits (R261, R268); `v` is what
a write writes. -/
structure BusReq where
  a : Access
  v : Option Word := none
  deriving DecidableEq, Repr

/-- A register read whose answer waits (R305, R316). -/
structure WaitRead where
  rq : Requester
  /-- SEQ and ADDR of the REST frame, for a P5 read. -/
  frame : BitVec 80
  shadow : Bool
  deriving DecidableEq, Repr

/-- The PORT page and the ports' queues. -/
structure PortUnit where
  laneWt : Word := 0x11111111
  laneCredit : List Int := List.replicate 8 0
  recallSt : Recall := {}
  /-- CREDIT_INIT has been sent since the last reset or Dormant (R270, R300). -/
  inited : Bool := true
  /-- The P3 ingress queue, oldest first; true for a message that DL_ARV_RING formed. -/
  p3 : List (Bool × PortMsg) := []
  /-- Lane requests accepted while the block was not READY, oldest first. -/
  p1 : List (Fin 8 × LaneReq) := []
  /-- P4 messages accepted and not yet taken, oldest first. -/
  p4 : List TreeMsg := []
  restBad : Word := 0
  spadErr : Option (BitVec 31) := none
  waits : List WaitRead := []
  /-- Accesses that wait behind a read of `waits` of the same requester, oldest first (R261, R268). -/
  behind : List BusReq := []
  /-- Outbound P4 credits as granted: (class, stream, giver) and count (R265); giver 16 is the chip fabric. -/
  outCredits : List ((Nat × Nat × Nat) × Nat) := []
  /-- Outbound tree messages that wait for a credit of their (class, stream, receiver), oldest first. -/
  treeOut : List ((Nat × Nat × Nat) × OutMsg) := []
  deriving DecidableEq, Repr

/-! ## Counters and debug -/

/-- DL_CNT_STATUS.STATE with what it is armed for (R305). -/
inductive CntState where
  | idle
  | armed (atStep : Option Word) (frozen : Bool)
  | copying
  | frozen
  deriving DecidableEq, Repr

/-- The CNT page: live and shadow values by counter number; a number not listed is zero. -/
structure CntUnit where
  live : List (Nat × Nat) := []
  shadow : List (Nat × Nat) := []
  /-- fc at which the shadow was latched (R305, R333). -/
  freezeFc : Nat := 0
  st : CntState := .idle
  late : Bool := false
  fstep : Word := 0
  arg : Word := 0
  index : BitVec 10 := 0
  deriving DecidableEq, Repr

/-- The DBG page. -/
structure DbgUnit where
  en : Bool := false
  halt : Bool := false
  space : BitVec 2 := 0
  pinna : BitVec 6 := 0
  index : BitVec 16 := 0
  deriving DecidableEq, Repr

end Sys2Proof.Machine
end

