-- ==== Sys2Proof/Machine/TypesTable.lean ====
section
/-! DEFINITION. Plain data of the table store, the sori, table commands, the sentinel and the scrubber (chapters 5 and
16). -/
namespace Sys2Proof.Machine

/-- One bank (R84): flags, descriptor store, function map, crozier store and RAM entries. An unlisted RAM entry is
undefined (R94); an unlisted descriptor or crozier is all zero and an unlisted map word is that of R93. -/
structure Bank where
  sealed : Bool := false
  quarantine : Bool := false
  fault : Bool := false
  ram : Store Entry := []
  descs : Store (List Word) := []
  map : Store (BitVec 16) := []
  crz : Store (List DWord) := []
  /-- DL_CRZ_BANK (R313): valid steps and croziers, as the last seal counted them. -/
  crzSteps : Nat := 0
  crzCount : Nat := 0
  deriving DecidableEq, Repr

/-- The map word of R93 at map index 4f + g: NATIVE for the IDs of Table 4.1 at grades 0 to 2. -/
def mapDefault (i : Nat) : BitVec 16 := if i % 4 < 3 && builtinExists (i / 4) then 0xC000 else 0

/-- A descriptor of all zero words. -/
def descDefault : List Word := List.replicate 8 0

/-- A crozier of all zero words. -/
def crzDefault : List DWord := List.replicate 17 0

/-- What residency is keyed by (R104): a native table, a Gen-3 table, or a descriptor of a bank. -/
inductive TableKey where
  | native (row : Nat)
  | gen3 (k : Nat)
  | user (bank : Bool) (desc : Nat)
  deriving DecidableEq, Repr

/-- A table in the sori: its blocks, and the admission count at which it was last admitted. `copies` lists the sorus
copies that differ from the rhizome: (pinna, or 64 for all, and entry) to content. -/
structure Resident where
  key : TableKey
  blocks : List Nat
  last : Nat
  copies : List ((Nat × Nat) × Entry) := []
  deriving DecidableEq, Repr

/-- A table command that runs (R95): LOAD items go to store in index order; `code`, `item` and `index` are what it will
report; `finished` once nothing is left to do. -/
structure TblCmd where
  op : Nat
  src : Nat := 0
  first : Nat := 0
  count : Nat := 0
  /-- Items written so far. -/
  done : Nat := 0
  code : Nat := 0
  item : Nat := 0
  index : Nat := 0
  finished : Bool := false
  deriving DecidableEq, Repr

/-- The TBL and CRZ pages, the rhizome and the sori. -/
structure TblUnit where
  active : Bool := false
  number : BitVec 16 := 0
  switchPending : Bool := false
  loadSrc : Word := 0
  loadFirst : BitVec 16 := 0
  loadCount : BitVec 16 := 0
  cmd : Option TblCmd := none
  errCode : BitVec 8 := 0
  errItem : BitVec 3 := 0
  errIndex : BitVec 16 := 0
  romFault : Bool := false
  bank0 : Bank := { sealed := true }
  bank1 : Bank := {}
  resident : List Resident := []
  /-- The fill under way, and the tables that wait for one, in admission order (R105). -/
  filling : Option TableKey := none
  fillQ : List TableKey := []
  /-- The last admission that wanted each table that is not resident yet (R105). -/
  wanted : List (TableKey × Nat) := []
  admits : Nat := 0
  crzSelBank : Bool := false
  crzSel : BitVec 8 := 0
  crzWord : BitVec 5 := 0
  /-- Where the scrubber stands: how many entries of its pass it has read (R326). -/
  scrubPos : Nat := 0
  /-- ROM entries that hold something else than R76 to R78 and R188 give: the defects of R326, by address. -/
  romDefects : List (Nat × Entry) := []
  deriving DecidableEq, Repr

/-- How an evaluation resolves (R92, R153, R185). -/
inductive Resolved where
  | native (id : Nat) (g : Grade)
  | table (bank : Bool) (desc id : Nat) (g : Grade)
  | crozier (bank : Bool) (crz id : Nat) (g : Grade)
  | gen3 (id : Nat)
  deriving DecidableEq, Repr

/-- A sample of the sentinel (R327). -/
structure Sample where
  how : Resolved
  bank : Bool
  input : EvIn
  out : Word
  settled : Bool
  /-- Entry used, or tail by descriptor. -/
  entry : Option (TblRef × Nat)
  tail : Option (TblRef × Nat)
  cert : Nat
  quarEn : Bool
  /-- TAG of the chain, and the FP32 input as DL_SEN_VIOL_IN shows it. -/
  tag : BitVec 16
  inWord : Word
  deriving DecidableEq, Repr

/-- The SEN page and the sentinel (Table 15.13, R327 to R330). -/
structure SenUnit where
  en : Bool := false
  quarEn : Bool := true
  rate : BitVec 5 := 16
  viol : Bool := false
  valid : Bool := false
  ovf : Bool := false
  info : Word := 0
  vIn : Word := 0
  vOut : Word := 0
  vRef : Word := 0
  lfsr : Word := 1
  queue : List Sample := []
  windowSamples : Nat := 0
  viol0 : Nat := 0
  viol1 : Nat := 0
  judged : Nat := 0
  vector : Nat := 0
  tests : Nat := 0
  testDue : Bool := false
  /-- A self-test failed: no quarantine until QUAR_EN is set again (R330). -/
  barred : Bool := false
  deriving DecidableEq, Repr

end Sys2Proof.Machine
end

