-- ==== Sys2Proof/Machine/TypesChain.lean ====
section
/-! DEFINITION. Plain data of the chain engine, the row contexts, the trees, the numerics unit, the schedule engine, the
image unit and the P0 initiator (chapters 6 to 11). -/
namespace Sys2Proof.Machine

/-! ## P0 (R255, R256) -/

/-- What a read on P0 is for. A chain is named by its serial number. -/
inductive ReadTag where
  | descriptor
  | tblLoad
  | ctxLine (tile : Nat)
  | ctxPeek (tile : Nat)
  | ctxAdopt (tile : Nat)
  | item (uid key : Nat)
  | foldTile (uid ord : Nat)
  | treeMerge (uid : Nat)
  | regEntry (tid : Nat)
  | rollback (n : Nat)
  | exportEntry (tid : Nat)
  | fragment
  | fragPayload
  | imgCheck
  | imgApply
  deriving DecidableEq, Repr

/-- A group of P0 reads: the pieces still out (id, address, length) and those that have come. -/
structure ReadJob where
  tag : ReadTag
  out : List (Nat × Nat × Nat)
  got : List (Nat × List Byte) := []
  /-- The unit has stopped: the reads complete on P0, and their data is not used (R255). -/
  dead : Bool := false
  deriving DecidableEq, Repr

/-- What a write on P0 is for. -/
inductive WriteTag where
  | chainOut (uid : Nat)
  | doneWord (uid : Nat)
  | refusedWord (tag : BitVec 16)
  | ctxEvict (tile : Nat)
  | ctxCmd (tile : Nat)
  | regBack (tid : Nat)
  | regScale (tid : Nat)
  | logRec
  | imgLog
  | imgCmd
  | fragCopy
  | imgApply
  deriving DecidableEq, Repr

/-- A write on P0 that is not acknowledged. -/
structure WriteJob where
  id : Nat
  addr : Nat
  tag : WriteTag
  /-- The addresses of the bytes it covers. -/
  bytes : List Nat := []
  deriving DecidableEq, Repr

/-- The P0 initiator. -/
structure P0Unit where
  nextId : Nat := 0
  reads : List ReadJob := []
  writes : List WriteJob := []
  /-- Pieces of reads that wait for an earlier write of bytes they cover (R256), oldest first: id, address, length. -/
  held : List (Nat × Nat × Nat) := []
  deriving DecidableEq, Repr

/-! ## Chains (chapter 7) -/

/-- A chain descriptor (Table 7.3) by its fields; `words` are the sixteen words as read. -/
structure ChainDesc where
  words : List Word
  chain : Nat
  grade : Nat
  inFmt : Nat
  outFmt : Nat
  out2Fmt : Nat
  fast : Bool
  sr : Bool
  pro : Nat
  mask : Nat
  func : Nat
  rowsM1 : Nat
  gen : BitVec 4
  ctxFirst : Nat
  declLen : Nat
  tid2 : BitVec 16
  tid : BitVec 16
  elemBase : Nat
  ntiles : Nat
  outBase : Nat
  out2Base : Nat
  outStride : Nat
  out2Stride : Nat
  aux0 : Nat
  aux1 : Nat
  imm0 : Word
  imm1 : Word
  imm2 : Word
  doneAddr : Nat
  tag : BitVec 16
  scope : Nat
  opt : Nat
  wsSlots : Nat
  deriving DecidableEq, Repr

/-- Chain states while a slot is held (Table 7.7); `ending` is a chain that is refused at admission, cancelled or
stopped, with its completion code (R155, R161, R162). -/
inductive ChainSt where
  | armed
  | admitted
  | ending (code : Nat)
  deriving DecidableEq, Repr

/-- An accepted doorbell (R156): `rows` says which rows of it are not stale, none while the generation check waits for
a region record (R126). -/
structure Arrival where
  kind : Bool
  ord : Nat
  addr : Nat
  itid : BitVec 16
  rows : Option (List Bool)
  deriving DecidableEq, Repr

/-- Which work an item does (R157): a pass over an ordinal, or completion work; `pre` marks the pre-pass of R203. -/
inductive Pass where
  | first
  | completion
  | second
  deriving DecidableEq, Repr

/-- One evaluation an item asks for: the pinna, the element, which of the element's evaluations, how and of what. -/
structure EvalReq where
  pinna : Nat
  row : Nat
  col : Nat
  which : Nat
  how : Resolved
  input : EvIn
  /-- Slots it has taken in earlier fc, where it needs more than one fc gives (R72, R109, R286). -/
  paid : Nat := 0
  deriving DecidableEq, Repr

/-- A work item (R157). -/
structure Item where
  key : Nat
  ord : Nat
  pass : Pass
  pre : Bool := false
  /-- Its tile data are on chip, and its evaluations formed. -/
  ready : Bool := false
  stamp : Nat := 0
  data : List (Nat × List Byte) := []
  /-- The T's with which its kind-0 and kind-1 tiles are decoded (R194). -/
  scale0 : Word := one32
  scale1 : Word := one32
  todo : List EvalReq := []
  inflight : Nat := 0
  results : List ((Nat × Nat × Nat) × Word) := []
  /-- Evaluations are done; the outputs wait for the tensor window (R202). -/
  done : Bool := false
  deriving DecidableEq, Repr

/-- The partial capsules of one ordinal that wait to fold (R172, R173). -/
structure PartRow where
  ord : Nat
  parts : List (Option Part)
  deriving DecidableEq, Repr

/-- What a chain counted for one output (R207). -/
structure OutCount where
  elems : Nat := 0
  sat : Nat := 0
  ufl : Nat := 0
  deriving DecidableEq, Repr

/-- A chain in a slot. -/
structure Chain where
  uid : Nat
  addr : Word
  d : ChainDesc
  st : ChainSt := .armed
  /-- Bank, step, seed, widening limits and evaluations fixed at admission (R100, R44, R45, R207, R92). -/
  bank : Bool := false
  step : Word := 0
  seed : DWord := 0
  limSat : Word := 0
  limUfl : Word := 0
  fn : Option Resolved := none
  fn2 : Option Resolved := none
  ws : List TableKey := []
  admitNo : Nat := 0
  arrivals : List Arrival := []
  items : List Item := []
  nextKey : Nat := 0
  parts : List PartRow := []
  folded : Nat := 0
  /-- The record of each row after the last contribution of it that folded (R126). -/
  folds : List (Nat × Rec) := []
  /-- Rows with some contribution that was not stale (R126). -/
  live : List Bool := []
  dropped : Bool := false
  stale : Bool := false
  widen : Bool := false
  lenMismatch : Bool := false
  anyBoundLost : Bool := false
  anyNonfinite : Bool := false
  anyEmpty : Bool := false
  /-- Writes not yet complete on P0. -/
  writes : Nat := 0
  /-- Scope: the leaf is formed, the final records are here, the row-block is complete, the work is done, the word is
  issued. -/
  leaf : Bool := false
  final : Bool := false
  complete : Bool := false
  finished : Bool := false
  wordIssued : Bool := false
  /-- PASS2 of an ended chain, as its slot showed it (R314). -/
  pass2 : Bool := false
  /-- Node merges done so far (R176, R177), and the node's running records and tile sources. -/
  nodePos : Nat := 0
  nodeRecs : List Rec := []
  /-- Its UP message is sent, or its descent is begun (R176, R178). -/
  sentUp : Bool := false
  /-- Items begun and items ended: pass, whether it is the pre-pass of R203, ordinal. -/
  begun : List (Pass × Bool × Nat) := []
  ended : List (Pass × Bool × Nat) := []
  count1 : OutCount := {}
  count2 : OutCount := {}
  /-- Labels, held logits z_r, the row statistics at completion, lse, the factors of CH_RMSQ, φ (R144, R148, R150). -/
  labels : List Word := []
  zs : List (Option Word) := []
  rowRecs : List Rec := []
  lse : List Word := []
  factors : List Word := []
  phi : Option Word := none
  /-- The kind-1 tile and the accumulator tile of the ordinal to fold, or a node's two tiles, once they are read. -/
  foldData : Option (List (Nat × List Byte)) := none
  deriving DecidableEq, Repr

/-- A submission that waits in the queue (R154): its descriptor's bytes once read, none if the read failed. -/
structure Submission where
  addr : Word
  reading : Bool := false
  data : Option (Option (List Byte)) := none
  deriving DecidableEq, Repr

/-- A first-capture register pair with VALID and OVF (Tables 15.5, 15.6). -/
structure Capture where
  valid : Bool := false
  ovf : Bool := false
  lo : Word := 0
  code : BitVec 8 := 0
  tag : BitVec 16 := 0
  deriving DecidableEq, Repr

/-- An evaluation in flight (R67): a chain's, or a lane request's. -/
structure Flight where
  id : Nat
  pinna : Nat
  /-- (uid, item key) of a chain, or none for a lane request of this number. -/
  chain : Option (Nat × Nat)
  lane : Nat := 0
  req : EvalReq
  bank : Bool
  /-- A refetch of R88 is under way or has been made. -/
  refetched : Bool := false
  /-- The sentinel takes it (R327): QUAR_EN when it was taken. -/
  sampled : Option Bool := none
  deriving DecidableEq, Repr

/-- A pinna as DL_EVAL_PINNA shows it (Table 15.2). -/
structure Pinna where
  creditChn : Int := 0
  creditLane : Int := 0
  grade : BitVec 2 := 3
  lane : Bool := false
  deriving DecidableEq, Repr

/-- A lane request that has been admitted and not returned (R258). -/
structure LaneWork where
  no : Nat
  group : Fin 8
  req : LaneReq
  bank : Bool
  how : Option Resolved := none
  ws : List TableKey := []
  /-- Lanes still to issue, in increasing number, with their inputs. -/
  todo : List (Nat × Word) := []
  /-- The slice that each pinna holds: its lanes that have yet to issue there (R260). -/
  parts : List (Nat × List EvalReq) := []
  results : List (Nat × Word) := []
  /-- Results of lanes that are not evaluated, or of the whole request (R341); a schedule fetch waits instead. -/
  fetch : Option (Nat × Word) := none
  returned : Option (List Word) := none
  deriving DecidableEq, Repr

/-- The CHN and ARV pages, the chain engine and the lane arbiter. -/
structure ChnUnit where
  queue : List Submission := []
  qfull : Bool := false
  refuse : Capture := {}
  slots : List (Option Chain) := List.replicate 64 none
  nextUid : Nat := 0
  stamp : Nat := 0
  flights : List Flight := []
  nextEval : Nat := 0
  chnWeight : BitVec 4 := 0xC
  laneWeight : BitVec 4 := 0x4
  pinnae : List Pinna := List.replicate 40 {}
  lanes : List LaneWork := []
  /-- The lane request whose slices issue now (R260). -/
  laneHead : Option Nat := none
  nextLane : Nat := 0
  ring : List Word := [0, 0, 0]
  ringFull : Bool := false
  drop : Capture := {}
  deriving DecidableEq, Repr

/-! ## Row contexts (chapter 6) -/

/-- State of a context that is not DRAINED (R125): its generation and whether a drain or clear holds it. A context not
listed is DRAINED. -/
structure CtxState where
  gen : BitVec 4
  draining : Bool := false
  /-- While DRAINING, the next generation was accepted and opens when the context is DRAINED. -/
  nextOpen : Bool := false
  /-- A next generation has opened and its record is still the empty one (nothing in the cache). -/
  fresh : Bool := false
  deriving DecidableEq, Repr

/-- A line of the context cache (R116). -/
structure CtxLine where
  tile : Nat
  recs : List Rec
  dirty : Bool
  used : Nat
  deriving DecidableEq, Repr

/-- A context command that runs (R128, R129). -/
structure CtxCmd where
  v : Word
  op : Nat
  gen : BitVec 4
  first : Nat
  count : Nat
  /-- Contributions ordered before it that have not folded: (chain serial, ordinal). -/
  waitFor : List (Nat × Nat) := []
  /-- Tiles still to write or read. -/
  tiles : List Nat := []
  started : Bool := false
  /-- Tiles whose access is on its way. -/
  out : Nat := 0
  code : Nat := 0
  errIndex : Nat := 0
  finished : Bool := false
  /-- The states of the range when the command was accepted (R128). -/
  before : List (Nat × CtxState) := []
  deriving DecidableEq, Repr

/-- What identifies an UP or DOWN message of a row-block, or a TREE_TILE doorbell (R181, R253). -/
structure MsgKey where
  down : Bool
  tree : Bool
  level : Nat
  child : Nat
  step : Word
  ctx : Nat
  gen : BitVec 4
  deriving DecidableEq, Repr

/-- Generation checks and commands taken in order while a region record is on its way (R126). -/
inductive CtxWait where
  | check (uid : Nat) (ord : Nat)
  | command (v : Word) (count : Nat)
  | tree (k : MsgKey)
  deriving DecidableEq, Repr

/-- The CTX page and the context unit. -/
structure CtxUnit where
  base : Word := 0
  limit : BitVec 21 := 0
  drainCount : BitVec 21 := 0
  cmd : Option CtxCmd := none
  cmdBusy : Bool := false
  cmdErr : BitVec 4 := 0
  errIndex : BitVec 20 := 0
  query : BitVec 20 := 0
  states : Store CtxState := []
  lines : List CtxLine := []
  clock : Nat := 0
  waits : List CtxWait := []
  /-- Region records read for generation checks and queries: tile and generations. -/
  peeks : List (Nat × List (BitVec 4)) := []
  /-- Tiles being written back by an eviction. -/
  evicting : List Nat := []
  /-- The contexts' generations for which CTX_BOUND_LOST (false) or CTX_COUNT_UNKNOWN (true) was logged (R325). -/
  noted : List (Bool × Nat × BitVec 4) := []
  deriving DecidableEq, Repr

/-! ## Trees (chapter 8) -/

/-- An UP or DOWN message held in the node buffer (R179, R181). -/
structure HeldMsg where
  down : Bool
  tree : Bool
  level : Nat
  child : Nat
  step : Word
  ctx : Nat
  gen : BitVec 4
  recs : List Rec
  wsAddr : Nat := 0
  remote : Bool
  hdr0 : Word := 0
  /-- The TREE_TILE doorbell has come (R253). -/
  tile : Bool := false
  /-- 0 waits for its row-block, 1 is used and waits for its generation check, 2 is checked: its rows that are not stale. -/
  stage : Nat := 0
  rows : List Bool := []
  deriving DecidableEq, Repr

/-- A check at this instance (R182): operands by (level-ordered) position, the participant's own value. -/
structure CheckSt where
  id : Nat
  step : Word
  scope : Nat
  own : Option DWord := none
  ops : List ((Bool × Nat × Nat) × (DWord × DWord)) := []
  /-- Bytes 0-3 of the header of each held operand, as TREE_STALE reports them. -/
  heads : List ((Bool × Nat × Nat) × Word) := []
  /-- The result that the parent sent down: whether on the chip tree, bytes 0-3, and (MIN, MAX). -/
  down : Option (Bool × Word × DWord × DWord) := none
  sent : Bool := false
  concluded : Bool := false
  deriving DecidableEq, Repr

/-- The TREE page and the tree unit. -/
structure TreeUnit where
  valid : Bool := false
  nchipsM1 : BitVec 10 := 0
  rank : BitVec 10 := 0
  imask : BitVec 16 := 0
  chkVal : DWord := 0
  fwBusy : Bool := false
  fwDone : Bool := false
  fwMismatch : Bool := false
  schMismatch : Bool := false
  statId : BitVec 8 := 0
  statMin : DWord := 0
  statMax : DWord := 0
  held : List HeldMsg := []
  /-- TREE_TILE doorbells that wait for their message: step, ctx, gen, level, child. -/
  tiles : List MsgKey := []
  /-- Messages already used (last row of Table 8.4). -/
  used : List MsgKey := []
  checks : List CheckSt := []
  deriving DecidableEq, Repr

/-! ## Numerics (chapter 9) -/

/-- A registry entry (Table 9.2). -/
structure RegEntry where
  hist : List Word := List.replicate 16 0
  scale : Word := one32
  amax : Word := 0
  dormRun : BitVec 16 := 0
  isOpen : Bool := false
  dormant : Bool := false
  cold : Bool := false
  smax : Bool := false
  hcount : BitVec 5 := 0
  level : BitVec 3 := 0
  kind : BitVec 3 := 0
  wstep : Word := 0
  cur : List Word := List.replicate 5 0
  last : List Word := List.replicate 5 0
  lstep : Word := 0
  /-- Bit 15 of bytes 72 to 75 and bytes 124 to 127, reserved, as read. -/
  rsv : Bool := false
  rsvWord : Word := 0
  deriving DecidableEq, Repr

/-- A line of the registry cache (R196). -/
structure RegLine where
  tid : Nat
  e : RegEntry
  dirty : Bool
  used : Nat
  deriving DecidableEq, Repr

/-- A window of a tensor id, pending from the admission of its first chain (R201): its chains not yet complete, its T
once fixed, and what was logged for it. -/
structure TenWindow where
  tid : Nat
  step : Word
  chains : List Nat
  /-- A later token has come. -/
  later : Bool := false
  /-- T is on its way to the store. -/
  opened : Bool := false
  /-- An element has been written: the window of the entry is OPEN (R201). -/
  wrote : Bool := false
  /-- The entry was registered when the window opened: a SET acts from the next one (R198). -/
  registered : Bool := false
  t : Option Word := none
  /-- The SCALE write of R193 is complete, or not needed. -/
  stored : Bool := false
  first : Option Nat := none
  amaxPre : Option Word := none
  coldLogged : Bool := false
  belowLogged : Bool := false
  deriving DecidableEq, Repr

/-- A registry command that runs (R198). -/
structure TenCmd where
  /-- Who wrote it. -/
  rq : Requester
  v : Word
  op : Nat
  /-- The window of the command (R226). -/
  step : Word := 0
  next : Nat
  left : Nat
  /-- Entries that wait for their windows to close (R227). -/
  waiting : List Nat := []
  code : Nat := 0
  finished : Bool := false
  deriving DecidableEq, Repr

/-- The NUM and TEN pages and the numerics unit. -/
structure NumUnit where
  seed : DWord := 0
  widenSat : Word := 0x01063210
  widenUfl : Word := 0x00100040
  lastValid : Bool := false
  lastOvf : Bool := false
  lastFmt : BitVec 4 := 0
  lastTid : BitVec 16 := 0
  base : Word := 0
  cmdCount : BitVec 17 := 0
  cmd : Option TenCmd := none
  cmdErr : BitVec 3 := 0
  kmask : BitVec 5 := 0x1F
  dormN : BitVec 16 := 0x0040
  lines : List RegLine := []
  clock : Nat := 0
  windows : List TenWindow := []
  /-- Overlaps that R204 judges once the entry is on chip: the id, the step of the admission, the chain's descriptor address
  and its TAG. -/
  judges : List (Nat × Word × Word × BitVec 16) := []
  /-- T's that are fixed for a step in which no window of the id is pending, or is not any more: tid, step, T (R200). -/
  decodeT : List (Nat × Word × Word) := []
  /-- Entries being written back by an eviction or a flush. -/
  evicting : List Nat := []
  deriving DecidableEq, Repr

/-! ## Schedule engine (chapter 10) -/

/-- A parameter group: its registers (Tables 10.1, 10.2), its status (Table 10.7) and the window being formed. -/
structure SchGroup where
  cfg : Word := 0x00040040
  peak : Word := 0
  floor : Word := 0
  init : Word := 0
  warm : Word := 0
  len : Word := 1
  lfact : Word := 0
  iter : Word := 0
  eta : Word := 0
  gstat : Word := 0
  gstep : Word := 0
  /-- The value that a write of ITER since the last token loads at the next one (R214). -/
  load : Option Word := none
  /-- A release has happened since the last advance (R218). -/
  released : Bool := false
  /-- The group has released an η: DL_SCH_ETA and DL_SCH_GSTEP hold it (R222). -/
  given : Bool := false
  /-- cfg, peak, floor, init, warm, len and lfact as they stood at the last token (R214). -/
  tok : List Word := []
  /-- Snapshot of cfg, peak, floor, init, warm, len, lfact and ITER, taken at the window's token. -/
  snap : Option (List Word) := none
  /-- The step of the window that the snapshot is for. -/
  win : Word := 0
  /-- η of the window has entered the skew check. -/
  hashed : Bool := false
  /-- ηb and η of the window, φ delivered for it. -/
  etab : Option Word := none
  formed : Option Word := none
  phi : Option Word := none
  deriving DecidableEq, Repr

/-- The SCH page and the schedule engine. -/
structure SchUnit where
  gen : DWord := 0
  /-- The enable bits as read at the last token (R218). -/
  live : DWord := 0
  scope : BitVec 2 := 0
  forceEta : Word := 0
  unchecked : Bool := false
  skew : Bool := false
  groups : List SchGroup := List.replicate 64 {}
  /-- The skew check of the window is in flight or done. -/
  checking : Bool := false
  checked : Bool := false
  deriving DecidableEq, Repr

/-! ## Image unit (chapter 11) -/

/-- Import states (Table 11.7). -/
inductive ImgState where
  | normal | awaiting | filling | resumable | applying
  deriving DecidableEq, Repr

/-- One retained step (R228): the on-chip copies of Table 11.1. -/
structure StepCopy where
  step : Word
  seed : DWord
  /-- ITER, GSTAT, ETA and GSTEP of every group; then whether it has released an η. -/
  groups : List (List Word)
  deriving DecidableEq, Repr

/-- An image command that runs (R247), with its arguments. `stage` is how far it is; `left` are the tensor ids, chunks of
sixteen entries or fragments still to do; `entries` the registry entries that the export has collected. -/
structure ImgCmd where
  op : Nat
  step : Word := 0
  gen : BitVec 16 := 0
  addr : Nat := 0
  size : Nat := 0
  frag : Nat := 0
  stage : Nat := 0
  left : List Nat := []
  entries : List (Nat × List Byte) := []
  /-- Entries of the chunk being read whose content stands in the registry cache, and the log places of those recorded. -/
  held : List (Nat × List Byte) := []
  places : List (Nat × Nat) := []
  code : Nat := 0
  finished : Bool := false
  deriving DecidableEq, Repr

/-- A fragment in the intake (R243): its address; its header once read; its index while its copy is under way, and
whether the copy is made. -/
structure FragIn where
  addr : Nat
  hdr : Option (List Byte) := none
  copying : Option Nat := none
  copied : Bool := false
  deriving DecidableEq, Repr

/-- The IMG page and the image unit. -/
structure ImgUnit where
  st : ImgState := .normal
  err : BitVec 4 := 0
  logOvf : Bool := false
  cmd : Option ImgCmd := none
  argStep : Word := 0
  argGen : BitVec 16 := 0
  gen : BitVec 16 := 0
  checked : Word := 0xFFFFFFFF
  logBase : Word := 0
  logSize : Word := 0
  addr : Word := 0
  size : Word := 0
  frag : Word := 0x00100000
  len : Word := 0
  stage : Word := 0
  stageSize : Word := 0
  fragStale : Word := 0
  fragBad : Word := 0
  fragDup : Word := 0
  retained : List StepCopy := []
  /-- Some step has been retained since the reset (Table 14.11). -/
  everRetained : Bool := false
  /-- Recording has stopped until the next token (R229). -/
  stopped : Bool := false
  /-- The replay log: records by tag step, tensor id and place in the ring, oldest first. -/
  log : List (Word × Nat × Nat) := []
  logHead : Nat := 0
  /-- The fill in progress: COUNT, STEP and IGEN of its first fragment, the indices accepted and those copied. -/
  count : Nat := 0
  fillStep : Word := 0
  accepted : List Nat := []
  copied : List Nat := []
  /-- Where the bytes of the accepted fragments end. -/
  stagedEnd : Nat := 0
  fragQ : List FragIn := []
  /-- The staged image, once its checks have read it: its header while they run, then the whole. -/
  staged : List Byte := []
  checking : Bool := false
  checkData : Bool := false
  /-- Chunks of sixteen entries that the apply has still to write. -/
  applyLeft : List Nat := []
  /-- Tokens received while APPLYING or while a ROLLBACK runs, oldest first. -/
  tokens : List Word := []
  /-- After a ROLLBACK to s, the token expected (R232). -/
  expect : Option Word := none
  deriving DecidableEq, Repr

end Sys2Proof.Machine
end

