-- ==== Sys2Proof/Machine/State.lean ====
section
/-! DEFINITION. The state of the block: every register, queue, buffer and counter the manual names, as plain data, and
the queue of commands that wait. -/
namespace Sys2Proof.Machine

/-- A fault of the block. The manual stops the block in no condition (R324), so no meaning raises one. -/
inductive Fault where
  deriving DecidableEq, Repr

/-- Refusals. -/
inductive Refusal where
  /-- A command that has no meaning in the model yet; raised by its arm of exec only. Safe. -/
  | notModelled (mnemonic : String)
  deriving DecidableEq, Repr

/-- Derlith-4 or Derlith-4M (R1). -/
inductive Variant where
  | d4 | d4m
  deriving DecidableEq, Repr

/-- The state. -/
structure State where
  /-- Straps and supplies: the variant, the instance number (R16), GWD_COMPAT3 (R183). -/
  variant : Variant
  inst : BitVec 8
  strap : Bool
  /-- DL_GLB_COMPAT.GEN3, DL_GLB_STEP, and whether a token has come since the reset (R251). -/
  gen3 : Bool
  step : Word
  stepSeen : Bool
  /-- DL_GLB_RSTAT (R300). -/
  inReset : Bool
  resetCause : BitVec 2
  /-- fc since the last block reset (Table 16.1). -/
  fc : Nat
  /-- Page headers in the order of Table 14.1. -/
  hdrs : List PageHdr
  pairs : Pairs
  pwr : PwrUnit
  env : EnvUnit
  life : LifeUnit
  cal : CalUnit
  port : PortUnit
  tbl : TblUnit
  sen : SenUnit
  chn : ChnUnit
  ctx : CtxUnit
  tree : TreeUnit
  num : NumUnit
  log : LogUnit
  sch : SchUnit
  img : ImgUnit
  cnt : CntUnit
  dbg : DbgUnit
  p0 : P0Unit
  /-- The model's own: power-ons of the always-on domain so far, which index the undefined RAM contents (R94), and how
  many free choices have been taken. -/
  powerOns : Nat
  choices : Nat
  /-- What the block has sent, newest first. -/
  out : List OutMsg
  /-- The commands that wait, first in first out. -/
  pending : List Instr
  deriving DecidableEq, Repr

/-- The factory coefficients of Table 13.12: class 0 typical, the others as measured (DESIGN CHOICE, log
entry 2). -/
def factoryCoefs : List (BitVec 16) := (56000 : BitVec 16) :: (List.range 15).map (fun k => Config.factoryCoef (k + 1))

/-- The machine after a host chip reset with VDD_DL in range: READY, with CREDIT_INIT sent (R300, R270). The straps,
the supply and the values the spec does not state are the model's (DESIGN CHOICE, log entries 1 and 2). -/
def State.reset : State :=
  { variant := .d4, inst := 0, strap := false, gen3 := false, step := 0xFFFFFFFF, stepSeen := false,
    inReset := false, resetCause := 1, fc := 0, hdrs := List.replicate 20 {}, pairs := {},
    pwr := {}, env := {}, life := {}, cal := { coef := factoryCoefs }, port := {}, tbl := {}, sen := {}, chn := {}, ctx := {},
    tree := {}, num := {}, log := {}, sch := {}, img := {}, cnt := {}, dbg := {}, p0 := {},
    powerOns := 0, choices := 0, out := [], pending := [] }

end Sys2Proof.Machine
end

