-- ==== Sys2Proof/Machine/Ops.lean ====
section
/-! DEFINITION. The operations that every unit shares: page faults and page events (R295, R296), counters (R331), the
event ring (R319, R322, R323, R344), accesses on P0 (R255, R256) and credit words (R265). -/
namespace Sys2Proof.Machine

/-! ## Sizes of the variant (Table 14.6) -/

def State.pinnaCount (s : State) : Nat := match s.variant with | .d4 => 40 | .d4m => 24
def State.bankEntries (s : State) : Nat := match s.variant with | .d4 => 32768 | .d4m => 16384
def State.maxContexts (s : State) : Nat := match s.variant with | .d4 => 1048576 | .d4m => 262144
def State.isD4 (s : State) : Bool := match s.variant with | .d4 => true | .d4m => false

/-! ## Page headers -/

/-- The header of a page. -/
def State.hdr (s : State) (p : Page) : PageHdr := s.hdrs.getD p.bit {}

/-- Replaces the header of a page. -/
def State.setHdr (s : State) (p : Page) (h : PageHdr) : State := { s with hdrs := s.hdrs.set p.bit h }

/-- Sets a PG_EVENT bit (R296). -/
def State.pageEvent (s : State) (p : Page) (b : Nat) : State :=
  let h := s.hdr p
  s.setHdr p { h with event := h.event ||| BitVec.ofNat 32 (2 ^ b) }

/-- The SRC and CORE fields of an access (Table 14.2). -/
def srcOf : Requester → Bool × BitVec 4
  | .core c => (false, BitVec.ofNat 4 c.val)
  | .rest => (true, 0)

/-- Window word address of a register (R294, R267). -/
def waddrOf (page off : Nat) : BitVec 18 := BitVec.ofNat 18 ((page * 4096 + off) / 4)

/-- Records a fault in PG_ERR_INFO of a page (R295) (DEDUCED, log entry 73). -/
def State.recordFault (s : State) (p : Page) (c : Cause) (rq : Requester) (waddr : BitVec 18) : State :=
  let h := s.hdr p
  let (src, core) := srcOf rq
  let e := if h.err.cause = 0 then
      { cause := BitVec.ofNat 4 c.code, ovf := false, src := src, core := core, waddr := waddr }
    else { h.err with ovf := true }
  s.setHdr p { h with err := e, event := h.event ||| 1 }

/-- Records a fault of a write to a register of the page (DEDUCED, log entry 73). -/
def State.regFault (s : State) (p : Page) (c : Cause) (rq : Requester) (off : Nat) : State :=
  s.recordFault p c rq (waddrOf p.number off)

/-- A write of RW fields that changed the page: PG_SEQ (R297) (DEDUCED, log entry 72). -/
def State.bumpSeq (s : State) (p : Page) : State :=
  let h := s.hdr p
  s.setHdr p { h with seq := h.seq + 1 }

/-! ## Output and free choices -/

/-- Sends a message out (DESIGN CHOICE, log entry 12). -/
def State.send (s : State) (m : OutMsg) : State := { s with out := m :: s.out }

/-- Takes the next free choice (a model's own counter; the value is a free constant of Config)
(DESIGN CHOICE, log entry 67). -/
def State.choose (s : State) : Nat × State := (s.choices, { s with choices := s.choices + 1 })

/-! ## Counters (R331) -/

/-- Counter numbers that name a counter (Table 16.5). -/
def State.counterExists (s : State) (n : Nat) : Bool :=
  (decide (n ≤ 13) || (decide (16 ≤ n) && decide (n ≤ 34)) || (decide (64 ≤ n) && decide (n < 64 + s.pinnaCount)))
    && (s.isD4 || !(decide (27 ≤ n) && decide (n ≤ 29)))

/-- Adds to a counter, saturating at 64 bits. -/
def State.count (s : State) (n k : Nat) : State :=
  if s.counterExists n then
    { s with cnt := { s.cnt with
        live := Store.put (fun _ => some 0) s.cnt.live n (satAdd 64 (Store.get (fun _ => 0) s.cnt.live n) k) } }
  else s

/-! ## The current of an fc (R280) -/

/-- `n` events of class `k` of Table 13.7 happen in this fc. -/
def State.spend (s : State) (k n : Nat) : State :=
  { s with env := { s.env with spent := s.env.spent + (s.cal.coef.getD k 0).toNat * n } }

/-! ## P0 -/

/-- Aligned pieces of at most 2,048 bytes that cover [a, a + n) (R255). -/
def p0Pieces (a n : Nat) : List (Nat × Nat) :=
  if n = 0 then []
  else
    let lo := a / 64 * 64
    let hi := (a + n + 63) / 64 * 64
    (List.range ((hi - lo + 2047) / 2048)).map (fun i => (lo + 2048 * i, Nat.min 2048 (hi - lo - 2048 * i)))

/-- Pieces of several ranges, each piece once. -/
def p0Cover (rs : List (Nat × Nat)) : List (Nat × Nat) := (rs.flatMap (fun r => p0Pieces r.1 r.2)).eraseDups

/-- A write that is not complete covers a byte of [a, a + n). -/
def P0Unit.covered (u : P0Unit) (a n : Nat) : Bool :=
  u.writes.any (fun w => w.bytes.any (fun b => decide (a ≤ b) && decide (b < a + n)))

/-- Issues one piece of a read, once no write of the block's own that covers bytes of it is still under way (R256)
(DESIGN CHOICE, log entry 3). -/
def State.sendPiece (s : State) (id a n : Nat) : State :=
  if s.p0.covered a n then { s with p0 := { s.p0 with held := s.p0.held ++ [(id, a, n)] } }
  else (s.send (.p0Read id a n)).spend 5 ((n + 511) / 512)

/-- Issues the pieces that waited for a write, where none covers them any more; pieces that no job asks for any more are
forgotten (DESIGN CHOICE, log entry 3). -/
def State.sendHeld (s : State) : State :=
  let asked := s.p0.held.filter (fun h => s.p0.reads.any (fun j => j.out.any (fun o => o.1 == h.1)))
  asked.foldl (fun s h => s.sendPiece h.1 h.2.1 h.2.2) { s with p0 := { s.p0 with held := [] } }

/-- Sends the pieces of a read, giving each an id. -/
def State.sendReads (s : State) : List (Nat × Nat) → State × List (Nat × Nat × Nat)
  | [] => (s, [])
  | (a, n) :: r =>
    let id := s.p0.nextId
    let s1 : State := { s with p0 := { s.p0 with nextId := id + 1 } }
    let s := s1.sendPiece id a n
    let (s, l) := s.sendReads r
    (s, (id, a, n) :: l)

/-- Issues the reads of a job (DESIGN CHOICE, log entry 3). -/
def State.issueRead (s : State) (tag : ReadTag) (rs : List (Nat × Nat)) : State :=
  let (s, out) := s.sendReads (p0Cover rs)
  let job : ReadJob := { tag := tag, out := out }
  { s with p0 := { s.p0 with reads := s.p0.reads ++ [job] } }

/-- Whether a read of this tag is outstanding whose data will be used. -/
def State.reading (s : State) (tag : ReadTag) : Bool := s.p0.reads.any (fun j => j.tag == tag && !j.dead)

/-- A job whose unit has stopped: the reads that went out complete, those held back are not issued (R255). -/
def ReadJob.kill (held : List (Nat × Nat × Nat)) (j : ReadJob) : Option ReadJob :=
  let out := j.out.filter (fun o => !held.any (fun h => h.1 == o.1))
  if out.isEmpty then none else some { j with out := out, got := [], dead := true }

/-- Stops the reads of a unit (R255). -/
def State.stopReads (s : State) (mine : ReadTag → Bool) : State :=
  { s with p0 := { s.p0 with reads := s.p0.reads.filterMap (fun j => if mine j.tag then j.kill s.p0.held else some j) } }

/-- The 64-byte-aligned address of a write, and its beats (R255). -/
def p0Beats (cells : List (Nat × Byte)) : Nat × List (List (Option Byte)) :=
  let a := (cells.head?.map (·.1)).getD 0
  let lo := (cells.foldl (fun m c => Nat.min m c.1) a) / 64 * 64
  let hi := (cells.foldl (fun m c => Nat.max m c.1) a) / 64 * 64 + 64
  (lo, (List.range ((hi - lo + 511) / 512)).map (fun i =>
    (List.range (Nat.min 512 (hi - lo - 512 * i))).map (fun j => lookupKey (lo + 512 * i + j) cells)))

/-- Issues one write of the bytes listed with their addresses. -/
def State.issueWrite (s : State) (tag : WriteTag) (cells : List (Nat × Byte)) : State :=
  let id := s.p0.nextId
  let a := (cells.head?.map (·.1)).getD 0
  let job : WriteJob := { id := id, addr := a, tag := tag, bytes := cells.map (·.1) }
  let s1 : State := { s with p0 := { s.p0 with nextId := id + 1, writes := s.p0.writes ++ [job] } }
  (s1.send (.p0Write id (p0Beats cells).1 (p0Beats cells).2)).spend 6 (p0Beats cells).2.length

/-- Bytes with consecutive addresses. -/
def cellsAt (a : Nat) (bs : List Byte) : List (Nat × Byte) := bs.zipIdx.map (fun bi => (a + bi.2, bi.1))

/-- One byte out of the pieces that came back. -/
def gotByte (got : List (Nat × List Byte)) (a : Nat) : Byte :=
  match got.find? (fun p => decide (p.1 ≤ a) && decide (a < p.1 + p.2.length)) with
  | some p => p.2.getD (a - p.1) 0
  | none => 0

/-- Bytes out of the pieces that came back; a range inside one piece is cut out of it. -/
def gotBytes (got : List (Nat × List Byte)) (a n : Nat) : List Byte :=
  match got.find? (fun p => decide (p.1 ≤ a) && decide (a + n ≤ p.1 + p.2.length)) with
  | some p => (p.2.drop (a - p.1)).take n
  | none => (List.range n).map (fun i => gotByte got (a + i))

/-- A little-endian word out of the pieces. -/
def gotWord (got : List (Nat × List Byte)) (a : Nat) : Word := BitVec.ofNat 32 (leNat (gotBytes got a 4))

/-- Captures the first failing address (R255, Table 14.10) (DEDUCED, log entry 35). -/
def State.captureSpad (s : State) (a : Nat) : State :=
  match s.port.spadErr with
  | some _ => s
  | none => { s with port := { s.port with spadErr := some (BitVec.ofNat 31 a) } }

/-! ## The event ring -/

/-- Event class of a code (Table 16.3). -/
def eventClass (code : Nat) : Nat :=
  if [0x12, 0x20, 0x38, 0x4A, 0x5B, 0x70].contains code then 1
  else if [0x02, 0x03, 0x22, 0x49, 0x4B, 0x4C, 0x4F, 0x58, 0x5C, 0x60, 0x61].contains code then 2
  else if [0x31, 0x32, 0x33, 0x3A, 0x3B, 0x48, 0x4E, 0x54].contains code then 3
  else if [0x06, 0x11, 0x21, 0x41, 0x50, 0x59, 0x68, 0x69, 0x6A].contains code then 5
  else 4

/-- The 32 bytes of an event record (Table 16.1). -/
def eventBytes (inst : BitVec 8) (lostBefore : Bool) (e : Event) : List Byte :=
  [BitVec.ofNat 8 e.code, BitVec.ofNat 8 (eventClass e.code * 16 + inst.toNat % 16), BitVec.ofNat 8 e.page.number,
   BitVec.ofNat 8 (b2n lostBefore)] ++ wordBytes e.step ++ leBytes 6 (e.fc % 2 ^ 48) ++ leBytes 2 e.tag.toNat
  ++ wordBytes e.a0 ++ wordBytes e.a1 ++ wordBytes e.a2 ++ wordBytes e.a3

/-- Records the ring holds (R319). -/
def LogUnit.slots (l : LogUnit) : Nat := l.size.toNat / 32

/-- Whether a code is masked (Table 15.11) (DEDUCED, log entry 53). -/
def LogUnit.masked (l : LogUnit) (code : Nat) : Bool := bitOf (l.mask.getD (code / 32) 0) (code % 32)

/-- A record is lost (R319): DL_LOG_LOST, PG_EVENT.LOST and LOST_BEFORE of the next record. -/
def State.loseRecord (s : State) : State :=
  ({ s with log := { s.log with lost := BitVec.ofNat 32 (satAdd 32 s.log.lost.toNat 1), lostBefore := true } }).pageEvent
    .log 2

/-- The next record to offer, and the unit without it: a held one first, once the block is READY and the ring can take it
(R323); while held records wait, later events go on. -/
def LogUnit.next (l : LogUnit) (ready : Bool) : Option (Event × LogUnit) :=
  match if ready && l.en && decide (l.slots ≠ 0) then l.held else [] with
  | e :: r => some (e, { l with held := r })
  | [] => match l.pend with
    | e :: r => some (e, { l with pend := r })
    | [] => none

/-- Offers the oldest logged events to the ring, one record write at a time (R319). -/
def State.pumpLogGo : Nat → State → State
  | 0, s => s
  | n + 1, s =>
    if s.log.writing then s
    else match s.log.next (s.pwr.st == .ready) with
      | none => s
      | some (e, l) =>
        let s : State := { s with log := l }
        if s.log.masked e.code then s.pumpLogGo n
        else if !s.log.en || s.log.slots = 0 || (s.log.wr - s.log.rd).toNat = s.log.slots then
          (s.loseRecord).pumpLogGo n
        else
          let a := s.log.base.toNat + 32 * (s.log.wr.toNat % s.log.slots)
          let bytes := eventBytes s.inst s.log.lostBefore e
          ({ s with log := { s.log with writing := true, lostBefore := false } }).issueWrite .logRec (cellsAt a bytes)

/-- Offers every logged event that can go (DEDUCED, log entry 53). -/
def State.pumpLog (s : State) : State := s.pumpLogGo (s.log.held.length + s.log.pend.length)

/-- P0 is in use: READY, ACTIVE, and ENTERING until its write-backs are made (R323). -/
def State.p0Usable (s : State) : Bool :=
  match s.pwr.st with
  | .ready => true
  | .entering => match s.pwr.entering with | .toDormant _ recalled => !recalled | _ => true
  | _ => false

/-- Logs an event (R319, R323): counter EVENTS, then the ring or the always-on queue. -/
def State.logEvent (s : State) (code : Nat) (page : Page) (a0 a1 a2 a3 : Word) (tag : BitVec 16 := 0) : State :=
  let e : Event := { code := code, page := page, step := s.step, fc := s.fc, tag := tag, a0 := a0, a1 := a1, a2 := a2,
                     a3 := a3 }
  let s := s.count 32 1
  if s.p0Usable then
    ({ s with log := { s.log with pend := s.log.pend ++ [e] } }).pumpLog
  else if s.log.held.length < 16 then { s with log := { s.log with held := s.log.held ++ [e] } }
  else s.loseRecord

/-- A record write is acknowledged (R319, R344) (DEDUCED, log entry 53). -/
def State.logAck (s : State) (err : Bool) : State :=
  let s := { s with log := { s.log with writing := false } }
  let s := if err then s.loseRecord
    else
      let s := { s with log := { s.log with wr := s.log.wr + 1 } }
      if s.log.water ≠ 0 && decide ((s.log.wr - s.log.rd).toNat ≥ s.log.water.toNat) then s.pageEvent .log 1 else s
  s.pumpLog

/-- A scratchpad error of a unit: the failing address and the page of the unit (R255). -/
def State.logSpadErr (s : State) (addr : Nat) (p : Page) (tag : BitVec 16 := 0) : State :=
  s.logEvent 0x06 p (BitVec.ofNat 32 addr) (BitVec.ofNat 32 p.number) 0 0 tag

/-! ## Credit words -/

/-- Forms a credit word (R265). -/
def creditWord (op cls stream n : Nat) : Word :=
  BitVec.ofNat 32 (op * 2 ^ 28 + cls * 2 ^ 24 + stream * 2 ^ 16 + n * 2 ^ 8)

/-- The credit path of a class whose messages come in; the stream of P1 is the lane group. -/
def creditPath (cls stream : Nat) : CreditPath :=
  if cls = 0 then .lane (Fin.ofNat 8 stream) else if cls ≤ 5 then .arrive else .tree

/-- A credit word for a sender; STREAM is zero on P1 (R265). -/
def creditOut (op cls stream n : Nat) : OutMsg :=
  .credit (creditPath cls stream) (creditWord op cls (if cls = 0 then 0 else stream) n)

/-- The classes of Table 12.8 with their streams and full counts; P1's streams are its lane groups. -/
def creditClasses : List (Nat × Nat × Nat) :=
  (List.range 8).map (fun g => (0, g, 4)) ++ [(1, 0, 32), (2, 0, 4)] ++ (List.range 15).map (fun i => (3, i, 3))
  ++ [(4, 0, 4), (5, 0, 8)] ++ (List.range 4).map (fun i => (6, i, 3)) ++ [(7, 0, 4), (8, 0, 8)]

/-- Returns credits, unless the recall of the class has begun (R266). -/
def State.returnCredit (s : State) (cls stream n : Nat) : State :=
  if s.port.recallSt.running then s
  else s.send (creditOut 1 cls stream n)

/-- CREDIT_INIT with the full counts of Table 12.8 (R270). -/
def State.creditInit (s : State) : State :=
  let s := { s with port := { s.port with recallSt := {}, inited := true } }
  { s with out := (creditClasses.map (fun c => creditOut 2 c.1 c.2.1 c.2.2)).reverse ++ s.out }

end Sys2Proof.Machine
end

