-- ==== Sys2Proof/Machine/Operands.lean ====
section
/-! DEFINITION. The operand forms of the commands: register accesses and their answers (R261, R268), REST frames
(Tables 12.9 and 12.10), P3 headers (Tables 12.2 and 12.3), lane requests (Table 12.5) and tree messages (Table 12.7). -/
namespace Sys2Proof.Machine

/-! ## REST frames -/

/-- The CRC-8 of frame bits [79:8] (R267). -/
def frameCrc (body : BitVec 72) : BitVec 8 := BitVec.ofNat 8 (crc8 ((leBytes 9 body.toNat).reverse))

/-- Forms a frame from the block (Table 12.9). -/
def frameOf (ty seq addr status data : Nat) : BitVec 80 :=
  let body : BitVec 72 := BitVec.ofNat 72 ((ty % 16) * 2 ^ 68 + (seq % 16) * 2 ^ 64 + (addr % 2 ^ 18) * 2 ^ 46
    + (status % 4) * 2 ^ 44 + data % 2 ^ 32)
  body ++ frameCrc body

def frameType (f : BitVec 80) : Nat := bitsOf f 79 76
def frameSeq (f : BitVec 80) : Nat := bitsOf f 75 72
def frameAddr (f : BitVec 80) : Nat := bitsOf f 71 54
def frameData (f : BitVec 80) : Word := f.extractLsb' 8 32

/-- The CRC of a frame is right (R267). -/
def frameGood (f : BitVec 80) : Bool := f.extractLsb' 0 8 == frameCrc (f.extractLsb' 8 72)

/-! ## Register accesses -/

/-- An access to a page of Table 14.1. A command row made over REST stands for a frame of SEQ 0 (log entry 5). -/
def accessOf (rq : Requester) (p : Page) (off : Nat) : Access := { rq := rq, page := p.number, off := off }

/-- The word address of the access in the window. -/
def Access.waddr (a : Access) : BitVec 18 := waddrOf a.page a.off

/-- The answer to a read: its data over P2, or RD_RESP over P5 with the status (R261, R268)
(DESIGN CHOICE, log entry 5). -/
def State.answerRead (s : State) (a : Access) (v : Word) (status : Nat := 0) : State :=
  match a.rq with
  | .core c => s.send (.p2Data c v)
  | .rest => s.send (.rest (frameOf 3 a.seq a.waddr.toNat status v.toNat))

/-- The answer to a write: its acknowledgement over P2, or WR_ACK over P5 with the status (R261, R268)
(DESIGN CHOICE, log entry 5). -/
def State.answerWrite (s : State) (a : Access) (status : Nat := 0) : State :=
  match a.rq with
  | .core c => s.send (.p2Ack c)
  | .rest => s.send (.rest (frameOf 4 a.seq a.waddr.toNat status 0))

/-! ## Entries to Dormant -/

/-- A second check that has passed: from then on commands and submissions are refused (R276). -/
def State.recallBegun (s : State) : Bool :=
  s.pwr.st == .entering && (match s.pwr.entering with | .toDormant _ true => true | _ => false)

/-! ## P3 headers -/

def hType (h : Header) : Nat := bitsOf h 31 28
def hDescAddr (h : Header) : Word := h.extractLsb' 96 32
def hTileAddr (h : Header) : Nat := bitsOf h 95 64
def hOrdinal (h : Header) : Nat := bitsOf h 63 48
def hItid (h : Header) : BitVec 16 := h.extractLsb' 32 16
def hKind (h : Header) : Bool := bitOf h 25
def hGen (h : Header) : BitVec 4 := h.extractLsb' 20 4
def hCtx (h : Header) : Nat := bitsOf h 19 0
def hStep (h : Header) : Word := h.extractLsb' 32 32
def hFragAddr (h : Header) : Nat := bitsOf h 95 64
def hFaultCode (h : Header) : Nat := bitsOf h 63 48
def hFaultRank (h : Header) : Nat := bitsOf h 41 32

/-- The word in bits [31:0]. -/
def hLow (h : Header) : Word := h.extractLsb' 0 32

/-- What a TREE_TILE doorbell names (Table 12.3, R253): always an UP operand of the chip tree
(DEDUCED, log entry 44). -/
def treeTileKey (h : Header) : MsgKey :=
  { down := false, tree := true, level := bitsOf h 34 32, child := bitsOf h 37 36, step := h.extractLsb' 96 32,
    ctx := hCtx h, gen := hGen h }

/-! ## Lane headers -/

def lFunc (h : Header) : Nat := bitsOf h 7 0
def lGrade (h : Header) : Nat := bitsOf h 9 8
def lFmt (h : Header) : Nat := bitsOf h 13 10
def lType (h : Header) : Nat := bitsOf h 15 14
def lPre (h : Header) : Bool := bitOf h 16
def lTag (h : Header) : Nat := bitsOf h 23 20
def lImm (h : Header) : Word := h.extractLsb' 32 32
def lStep (h : Header) : Word := h.extractLsb' 64 32
def lGroup (h : Header) : Nat := bitsOf h 37 32

/-- The header of the return: TAG and TYPE (R258). -/
def laneReturnHdr (h : Header) : Header := BitVec.ofNat 128 (lTag h * 2 ^ 20 + lType h * 2 ^ 14)

/-! ## Tree messages -/

namespace TreeMsgF
def byte (m : TreeMsg) (i : Nat) : Nat := bitsOf m.hdr (8 * i + 7) (8 * i)
def kind (m : TreeMsg) : Nat := byte m 0
def tree (m : TreeMsg) : Bool := bitOf m.hdr 15
def level (m : TreeMsg) : Nat := bitsOf m.hdr 14 12
def child (m : TreeMsg) : Nat := bitsOf m.hdr 9 8
def srcInst (m : TreeMsg) : Nat := bitsOf m.hdr 19 16
def checkId (m : TreeMsg) : Nat := byte m 3
def step (m : TreeMsg) : Word := m.hdr.extractLsb' 32 32
def ctxGen (m : TreeMsg) : Word := m.hdr.extractLsb' 64 32
def ctx (m : TreeMsg) : Nat := bitsOf m.hdr 83 64
def gen (m : TreeMsg) : BitVec 4 := m.hdr.extractLsb' 84 4
def srcRank (m : TreeMsg) : Nat := bitsOf m.hdr 105 96
def wsAddr (m : TreeMsg) : Nat := bitsOf m.hdr 159 128
def word0 (m : TreeMsg) : Word := m.hdr.extractLsb' 0 32
def key (m : TreeMsg) : MsgKey :=
  { down := kind m == 2, tree := tree m, level := level m, child := child m, step := step m, ctx := ctx m,
    gen := gen m }
end TreeMsgF

/-- Forms a tree message header (Table 12.7). -/
def treeHdr (kind : Nat) (tree : Bool) (level child srcInst checkId : Nat) (step : Word) (ctxGen : Nat)
    (srcRank dstRank wsAddr plen : Nat) : BitVec 256 :=
  BitVec.ofNat 256 (kind + (b2n tree * 128 + level * 16 + child) * 2 ^ 8 + (srcInst % 16) * 2 ^ 16 + checkId * 2 ^ 24
    + step.toNat * 2 ^ 32 + ctxGen * 2 ^ 64 + srcRank * 2 ^ 96 + dstRank * 2 ^ 112 + wsAddr * 2 ^ 128 + plen * 2 ^ 160)

/-- The records of an UP or DOWN payload (R262). -/
def recsOf : Nat → List Byte → List Rec
  | 0, _ => []
  | n + 1, bs => (Rec.ofBytes (bs.take 16)).canon :: recsOf n (bs.drop 16)

/-- A payload of records; rows above the last are empty records (R262). -/
def recsPayload (g : BitVec 4) (rs : List Rec) : List Byte :=
  (List.range 128).flatMap (fun i => (rs.getD i (Rec.emptyOf g)).bytes)

/-! ## Credit words (R265) -/

def cwOp (w : Word) : Nat := bitsOf w 31 28
def cwClass (w : Word) : Nat := bitsOf w 27 24
def cwStream (w : Word) : Nat := bitsOf w 23 16
def cwCount (w : Word) : Nat := bitsOf w 15 8

end Sys2Proof.Machine
end

