-- ==== Sys2Proof/Machine/Counters.lean ====
section
/-! DEFINITION. The counter unit: the freeze (R305, R333) and the shadow reads that wait for the copy. -/
namespace Sys2Proof.Machine

/-- The live value of a counter; a number that names no counter reads zero. -/
def State.liveCount (s : State) (n : Nat) : Nat := Store.get (fun _ => 0) s.cnt.live n

/-- The shadow value of a counter. -/
def State.shadowCount (s : State) (n : Nat) : Nat := Store.get (fun _ => 0) s.cnt.shadow n

/-- The freeze at a token, when the unit is armed for it (R305, R333) (DEDUCED, log entry 70). -/
def State.freezeAt (s : State) (t : Word) : State :=
  match s.cnt.st with
  | .armed atStep _ =>
    let late := match atStep with | some a => stepAbove t a | none => false
    let hit := match atStep with | some a => decide (t = a) || late | none => true
    if hit then
      { s with cnt := { s.cnt with st := .copying, shadow := s.cnt.live, late := late, fstep := t, freezeFc := s.fc } }
    else s
  | _ => s

/-- Whether counter `n` is in the shadow (R305): copying ends for it at the end of fc floor(n / 4) + 1 after the token. -/
def State.shadowReady (s : State) (n : Nat) : Bool :=
  match s.cnt.st with
  | .copying => decide (s.fc > s.cnt.freezeFc + n / 4 + 1)
  | _ => true

/-- Answers a read of DL_CNT_SHADOW_LO for counter `n` (R14, R305): the requester captures all 64 bits. -/
def State.answerShadow (s : State) (a : Access) (n : Nat) : State :=
  let v := s.shadowCount n
  let s1 : State := { s with pairs := { s.pairs with
    captured := setKey (a.rq, PairId.cntShadow) (BitVec.ofNat 32 (v / 2 ^ 32)) s.pairs.captured } }
  s1.answerRead a (BitVec.ofNat 32 v)

/-- The access of a waiting read. -/
def WaitRead.access (w : WaitRead) : Access :=
  { rq := w.rq, seq := frameSeq w.frame, page := frameAddr w.frame * 4 / 4096, off := frameAddr w.frame * 4 % 4096 }

/-- Sets a read to wait; `data` is what its answer needs of the registers as they stood at the read. -/
def State.waitRead (s : State) (a : Access) (shadow : Bool) (data : Nat) : State :=
  let w : WaitRead := { rq := a.rq, frame := frameOf 1 a.seq a.waddr.toNat 0 data, shadow := shadow }
  { s with port := { s.port with waits := s.port.waits ++ [w] } }

/-- Answers the shadow reads whose counter has been copied. -/
def State.serveShadow (s : State) : State :=
  let due := fun (w : WaitRead) => w.shadow && s.shadowReady (frameData w.frame).toNat
  let s1 : State := { s with port := { s.port with waits := s.port.waits.filter (fun w => !due w) } }
  (s.port.waits.filter due).foldl (fun s w => s.answerShadow w.access (frameData w.frame).toNat) s1

end Sys2Proof.Machine
end

