-- ==== Sys2Proof/Machine/Clock.lean ====
section
/-! DEFINITION. What passes in an fc with no command (DESIGN CHOICE, log entry 4): the fc count (Table 16.1), the
counters of time (Table 16.5) and the shadow reads that the copy of R305 releases. -/
namespace Sys2Proof.Machine

/-- FCLK runs: not in Resting, Dormant or Waking, and not in a block reset (Table 13.1, R300)
(DESIGN CHOICE, log entry 4). -/
def State.fclkRuns (s : State) : Bool :=
  !s.inReset && (match s.pwr.st with | .ready => true | .entering => true | _ => false)

/-- Some unit has work issued or issuing (R272). -/
def State.working (s : State) : Bool :=
  !s.chn.flights.isEmpty || !s.p0.reads.isEmpty || !s.p0.writes.isEmpty || s.tbl.filling.isSome
  || s.tbl.cmd.isSome || s.ctx.cmdBusy || s.num.cmd.isSome || s.img.cmd.isSome

/-- ACTIVE (R272) (DEDUCED, log entry 7). -/
def State.active (s : State) : Bool := (match s.pwr.st with | .ready => true | _ => false) && s.working

/-! ## The envelope (R280 to R282) -/

/-- RATE as it acts (Table 13.8). -/
def PwrUnit.rateActs (p : PwrUnit) : Nat := Nat.max 1 (Nat.min 16 p.rate.toNat)

/-- The rate in force (R282, R283). -/
def PwrUnit.rateInForce (p : PwrUnit) : Nat := match p.grant with | some g => g.rate | none => p.rateActs

/-- ICAP as it acts (Table 13.8). -/
def PwrUnit.icapActs (p : PwrUnit) : Nat := Nat.max 64 (Nat.min 640 p.icap.toNat)

/-- A current in the units of DL_CAL_FC_COEF as E counts it, at FCLK (R280). -/
def State.asEnv (s : State) (i : Nat) : Nat := (i * s.pwr.fclk.toNat * 65536 + 2399999) / 2400000

/-- The current of every fc in READY or ACTIVE (Table 13.7). -/
def State.idleCoef (s : State) : Nat := (s.cal.coef.getD 0 0).toNat

/-- E as R281 bounds it: at most ICAP, and in READY and ACTIVE not below the idle current. -/
def State.clampEnv (s : State) (e : Nat) : Nat :=
  Nat.min (s.pwr.icapActs * 65536) (if s.pwr.st == .ready then Nat.max (s.asEnv s.idleCoef) e else e)

/-- The Resting level of E: 0.56 A in units of 1/16 A (DEDUCED, log entry 61). -/
def restLevel : Nat := 9 * 65536

/-- E has fallen to the Resting level, now and as far as it is fixed. -/
def State.envRests (s : State) : Bool := s.env.plan.all (fun e => decide (e ≤ restLevel))

/-- E of this fc, and 256 fc ahead. -/
def State.envNow (s : State) : Nat := s.env.plan.headD 0
def State.envAhead (s : State) : Nat := s.env.plan.getLastD 0

/-- The current that this fc may still issue within E, in the units of DL_CAL_FC_COEF (R280). -/
def State.envRoom (s : State) : Nat :=
  s.clampEnv s.envNow * 2400000 / (65536 * s.pwr.fclk.toNat) - s.idleCoef - s.env.spent

/-- E one fc beyond what is fixed (R281): it rises while work waits for it, falls while it exceeds what issues and the hold
need, by at most the rate in force; entering RESTING or DORMANT it falls to the Resting level
(DESIGN CHOICE, log entry 61). -/
def State.envNext (s : State) : Nat :=
  let last := s.envAhead
  let most := 4 * s.pwr.rateInForce * 65536 / s.pwr.fclk.toNat
  if s.env.short then last + most
  else if s.pwr.st == .entering then
    Nat.max (Nat.min last restLevel) (Nat.max (Nat.min last (s.asEnv s.env.spent)) (last - most))
  else if s.pwr.holding then last
  else Nat.max (Nat.min last (s.asEnv (s.idleCoef + s.env.spent))) (last - most)

/-- E falls, or is held after work has ended: ballast may issue (R285). -/
def State.ballastAllowed (s : State) : Bool := s.pwr.holding || decide (s.envAhead < s.envNow)

/-- The envelope as an fc passes. -/
def State.envStep (s : State) : State :=
  { s with env := { plan := ((s.env.plan.drop 1) ++ [s.envNext]).map s.clampEnv, spent := 0, short := false } }

/-! ## An fc -/

/-- GRANT_ID in force, 0 for none. -/
def PwrUnit.grantId (p : PwrUnit) : Nat := match p.grant with | some g => g.id.toNat | none => 0

/-- DL_PWR_STATE.STATE (Table 13.2). -/
def State.pwrCode (s : State) : Nat :=
  match s.pwr.st with
  | .dormant => 0 | .waking => 1 | .resting => 2 | .ready => if s.active then 4 else 3 | .entering => 5

/-- DL_PWR_STATE (Table 14.7) (DEDUCED, log entry 7). -/
def State.pwrStateWord (s : State) : Word :=
  BitVec.ofNat 32 (s.pwr.grantId * 2 ^ 24 + s.pwr.rateInForce * 2 ^ 16 + b2n s.pwr.vddOk * 2 ^ 7 + s.pwr.guardBand * 2 ^ 4
    + s.pwrCode)

/-- STATE has changed: STATE_CHG and a STATE frame (R278). -/
def State.reportState (s : State) : State :=
  let s1 := ({ s with pwr := { s.pwr with shownActive := s.active } } : State).pageEvent .pwr 1
  s1.send (.rest (frameOf 8 0 0 0 s1.pwrStateWord.toNat))

/-- In READY the change from or to ACTIVE is reported, as the fc finds it (R272, R278). -/
def State.activeChange (s : State) : State :=
  if s.pwr.st == .ready && s.active != s.pwr.shownActive then s.reportState else s

/-- One fc (DESIGN CHOICE, log entry 4; DEDUCED, log entry 7; DESIGN CHOICE, log entry 83). -/
def State.fcPasses (s : State) : State :=
  if s.fclkRuns then
    let s := { s with fc := s.fc + 1 }
    let s := if s.active then s.count 34 1 else if s.pwr.st == .ready then s.count 33 1 else s
    let s := if s.pwr.guardBand = 0 then s else s.count 26 1
    s.envStep.activeChange.serveShadow
  else s

end Sys2Proof.Machine
end

