-- ==== Sys2Proof/Machine/Cert.lean ====
section
/-! DEFINITION. Accuracy: the exact values of the functions (Table 4.1), the certificates of the native ROM (R65, R74,
R78), and the ROM's entries with them (R76, R77). -/
namespace Sys2Proof.Machine

/-! ## Exact function values -/

/-- A fixed-point number as a value. -/
def fxVal (v : Int) : Val := .fin (decide (v < 0)) v.natAbs (2 ^ fxW)

/-- The argument's magnitude from which a function of a DIRECT or ABS_SIGN front end is replaced by its limit, which
it has reached to within 2^-100 (DEDUCED, log entry 77); none for a function that is formed everywhere. -/
def RomFn.far : RomFn → Option Nat
  | .tanh => some 64
  | .erf | .geluErf => some 16
  | .sigmoid | .silu | .softplus => some 128
  | .geluTanh => some 12
  | _ => none

/-- The limit of a function far from zero. -/
def RomFn.limit (f : RomFn) (neg : Bool) (a : Val) : Val :=
  match f with
  | .tanh | .erf => Val.one.withSign neg
  | .sigmoid => if neg then Val.zero else Val.one
  | _ => if neg then Val.zero else a

/-- g of a ROM function at an exact finite argument (Table 4.4). -/
def refG (f : RomFn) (s : Bool) (n d : Nat) : Val :=
  if (f.far.map (fun k => decide (k * d ≤ n))).getD false then f.limit s (.fin s n d)
  else fxVal (romG f (Val.signed s n) d)

/-- f(x) of the functions that read a ROM function through a front end (R50 to R53, Table 3.3), without the front end's
truncations; none for an input that no entry and no tail serves. -/
def refVal (f : RomFn) (front : Nat) (i : EvIn) : Option Val :=
  match front, i with
  | 2, .x w | 3, .x w =>
    match f32 w with
    | .fin s n d =>
      let x := fxRat (Val.signed s n) d
      let y := if front = 2 then fxMul x fxLn2 else x
      let e := y / fxLn2
      some ((fxVal (fxExp (y - e * fxLn2))).mul (Val.pow2 e))
    | _ => none
  | _, _ =>
    match frontEnd front i with
    | .scalar (.fin s n d) r =>
      if front = 5 then some (fxVal (fxMul (r.n * fxOne + romG f (Val.signed s n) d) fxLn2))
      else some (reconstruct front r (refG f s n d))
    | .frac F r => some (reconstruct front r (fxVal (romG f (F : Nat) (2 ^ 32))))
    | .unit r => some (reconstruct front r Val.one)
    | _ => none

/-! ## Certificates (R65, R74, R78) -/

/-- Target format of a grade (R65). -/
def Grade.target : Grade → Fmt
  | .Q => .fp32
  | .L => .bf16
  | .N => .e4m3

/-- One unit in the last place of a format at a value. -/
def ulpAt (f : Fmt) : Val → Val
  | .fin _ n d => Val.pow2 ((if n = 0 then f.emin else Max.max (floorLog2 n d) f.emin) - f.fbits)
  | _ => .pow2 0

/-- The unit of a certificate: an ulp of the grade's target at the exact value, absolute for angles (R65, R74). -/
def certUnitOf (g : Grade) (turn : Bool) (ref : Val) : Val :=
  if turn then Val.pow2 (match g with | .Q => -24 | .L => -8 | .N => -4) else ulpAt g.target ref

/-- The least integer not below 8 × |y − f| in a unit; an excess below 2^-190 is none (R78, the fixed point's
precision). A result that overflowed is not measured (DEDUCED, log entry 77). -/
def eighths (y f unit : Val) : Nat :=
  match ((y.sub f).abs.mul (Val.ofNat 8)).div unit with
  | .fin _ a b => if a * 2 ^ 190 ≤ b then 0 else (a * 2 ^ 190 - b + b * 2 ^ 190 - 1) / (b * 2 ^ 190)
  | _ => 0

/-- Entry `i` of native table `row` with CERT 0: all that an evaluation reads of it. -/
def romPlainLook : Look := fun t i => match t with | .native row => some (romPlain row i) | .user _ _ => none

/-- The front ends that read a ROM function (Table 4.1); a table that only composites read is measured through DIRECT
(R78). -/
def RomFn.fronts : RomFn → List Nat
  | .exp2 => [2, 3]
  | .log => [4, 5]
  | .recip => [6]
  | .rsqrt => [7]
  | .sqrt => [8]
  | .sin => [9, 0xA]
  | .tanh | .erf => [1]
  | _ => [0]

/-- The arguments that composites give the tables only they read: t of (0, 1], and |x| below 16 (R79). -/
def RomFn.serves (f : RomFn) (v : Val) : Bool :=
  match f with
  | .sigh | .sigk | .l1p => Val.zero.lt v && v.le Val.one
  | .mill => Val.zero.lt v && v.lt (Val.ofNat 16)
  | _ => true

/-- The input number `n` of a front end: every FP32 word, or every turn fraction. -/
def certInput (front n : Nat) : EvIn := if front = 9 || front = 0xA then .turn n else .x (BitVec.ofNat 32 n)

/-- What one input adds to the certificate of what serves it in a native table: `place` tells the entry or the tail. -/
def certAt (row front : Nat) (place : EvalOut → Bool) (i : EvIn) : Nat :=
  let t := romTable row
  let ok := match i with
    | .x w => !(f32 w).nonFinite && t.fn.serves (f32 w)
    | .turn _ => true
  let o := evalNative romPlainLook t.fn front t.grade (frontEnd front i)
  if ok && place o then
    match refVal t.fn front i with
    | some f => eighths (f32 o.bits) f (certUnitOf t.grade (t.fn == .sin) f)
    | none => 0
  else 0

/-- The largest over the inputs below `n`. -/
def certMax (h : Nat → Nat) : Nat → Nat
  | 0 => 0
  | n + 1 => Nat.max (h n) (certMax h n)

/-- The certificate of what `place` tells, over every input through every front end (R78). -/
def romCertOf (row : Nat) (place : EvalOut → Bool) : Nat :=
  ((romTable row).fn.fronts.map (fun fr => certMax (fun n => certAt row fr place (certInput fr n)) (2 ^ 32))).foldl Nat.max 0

/-- CERT of entry `i` of a native table (R77, R78). -/
def romCert (row i : Nat) : Nat := romCertOf row (fun o => o.looks == [(.native row, i)])

/-- The certificate of a tail of a native table: 0 LO, 1 HI_POS, 2 HI_NEG; one that is not reachable holds 0 (R76, R78). -/
def romTailCert (row w : Nat) : Nat :=
  let r := (romTable row).reach
  if (match w with | 0 => r.1 | 1 => r.2.1 | _ => r.2.2) then romCertOf row (fun o => o.tail == some (.native row, w)) else 0

/-! ## The ROM as entries -/

/-- Entry `i` of native table `row` as the ROM holds it (R78, R86). -/
def romFull (row i : Nat) : Entry := withCheck ((romTable row).entryData i (romCert row i))

/-- The rhizome ROM at an entry address below 0x6000 (R76, R77, R187); reserved addresses read zero. -/
def romEntry (addr : Nat) : Entry :=
  if 0x3000 ≤ addr then withCheck (gen3Data ((addr - 0x3000) / 1024) (addr % 1024))
  else match romRowAt addr with
    | some (row, i) => romFull row i
    | none => 0

end Sys2Proof.Machine
end

