-- ==== Sys2Proof/Machine/Seal.lean ====
section
/-! DEFINITION. The table store: banks and rhizome entries (R84, R85, R94) and the checks of SEAL (R97, R99, R339, the
map rules of R92 and the crozier rules of R108). -/
namespace Sys2Proof.Machine

/-! ## Banks -/

def TblUnit.bank (t : TblUnit) (b : Bool) : Bank := if b then t.bank1 else t.bank0
def TblUnit.setBank (t : TblUnit) (b : Bool) (k : Bank) : TblUnit := if b then { t with bank1 := k } else { t with bank0 := k }

/-- A descriptor's words. -/
def Bank.descWords (b : Bank) (i : Nat) : List Word := Store.get (fun _ => descDefault) b.descs i
/-- A descriptor. -/
def Bank.desc (b : Bank) (i : Nat) : Desc := parseDesc (b.descWords i)
/-- A map word (R91). -/
def Bank.mapWord (b : Bank) (i : Nat) : BitVec 16 := Store.get mapDefault b.map i
/-- A crozier: header and sixteen steps (R107). -/
def Bank.crozier (b : Bank) (i : Nat) : List DWord := Store.get (fun _ => crzDefault) b.crz i

/-- KIND and INDEX of a map word (Table 5.4). -/
def mapKind (w : BitVec 16) : Nat := bitsOf w 15 14
def mapIndex (w : BitVec 16) : Nat := bitsOf w 8 0

def crzValid (h : DWord) : Bool := bitOf h 27
def crzGrade (h : DWord) : Nat := crzF h 5 4
def crzLen (h : DWord) : Nat := crzF h 3 0 + 1

/-- A RAM entry of a bank; one that nothing has written since the power-on is undefined (R94)
(DESIGN CHOICE, log entry 66). -/
def State.ramEntry (s : State) (b : Bool) (i : Nat) : Entry :=
  Store.get (Config.freeEntry s.powerOns b) (s.tbl.bank b).ram i

/-- The rhizome ROM as it stands: what R76 and R187 give, but for its defects (R326). -/
def State.romAt (s : State) (addr : Nat) : Entry := (lookupKey addr s.tbl.romDefects).getD (romEntry addr)

/-- What the check of R87 finds in a ROM entry: one without a defect is clean (R86). -/
def State.romEcc (s : State) (addr : Nat) : Ecc :=
  match lookupKey addr s.tbl.romDefects with
  | some e => eccOf e
  | none => .clean

/-- The rhizome entry that entry `i` of a table is (R85). -/
def State.rhizomeEntry (s : State) : TblRef → Nat → Entry
  | .native row, i => s.romAt ((romTable row).addr + i)
  | .user b d, i =>
    let ds := (s.tbl.bank b).desc d
    if ds.space then s.romAt (ds.base + i) else s.ramEntry b (ds.base + i)

/-- Where an entry of a table stands: space (0, 1 the banks, 2 ROM) and entry index, as events name it (Table 16.3). -/
def State.entryPlace (s : State) : TblRef → Nat → Nat × Nat
  | .native row, i => (2, (romTable row).addr + i)
  | .user b d, i =>
    let ds := (s.tbl.bank b).desc d
    (if ds.space then 2 else b2n b, ds.base + i)

/-- Entries of the ROM that descriptors may address (R85). -/
def romTop : Nat := 0x2A1C

/-! ## Descriptor and entry checks (Table 5.6) -/

/-- MODE that Table 3.2 gives for a front end. -/
def frontUniform (f : Nat) : Bool := f == 2 || f == 3 || f == 9 || f == 10

/-- DESC_FIELD. -/
def Desc.fieldsOk (d : Desc) : Bool :=
  d.grade != 3 && decide (d.front ≤ 10) && d.monoDecl != 3 && (d.uniform == frontUniform d.front)
    && (if d.uniform then decide (d.k ≤ 8) && !d.signed
        else decide (d.k ≤ 10) && decide (-149 ≤ d.emin) && decide (d.emin ≤ 127) && decide (1 ≤ d.nbin)
          && decide (d.emin + d.nbin ≤ 128))
    && (d.grade == 0 || d.sh2 == 0) && !d.reserved

/-- DESC_SPAN (R85). -/
def Desc.spanOk (top : Nat) (d : Desc) : Bool := decide (d.base + d.entries ≤ if d.space then romTop else top)

/-- ENTRY_FIELD for a grade. -/
def entryFieldsOk (g : Nat) (e : Entry) : Bool :=
  bitsOf e 87 78 == 0 && entMono e != 3
    && (match g with | 2 => bitsOf e 61 60 == 0 | 1 => bitsOf e 61 48 == 0 | _ => true)

/-! ## Sign, seam, tail and wrap rules (R99) -/

/-- The runs of a table with their directions: first and last segment (R78, R99). -/
def Desc.runs (d : Desc) : List (Nat × Nat × Nat) :=
  if d.uniform then [(d.monoDecl, 0, 2 ^ d.k - 1)]
  else
    let n := d.nbin * 2 ^ d.k
    (d.monoDecl, 0, n - 1) :: (if d.signed then [(3 - d.monoDecl, n, 2 * n - 1)] else [])

/-- In order for a direction (R99). -/
def inOrder (dir : Nat) (a b : Val) : Bool := if dir = 1 then a.le b else b.le a

/-- Not below zero for a non-decreasing run, not above for the other. -/
def slopeOk (dir : Nat) (v : Int) : Bool := if dir = 1 then decide (0 ≤ v) else decide (v ≤ 0)

/-- The sign rule of one entry. Both quantities of Grade Q are taken times 2^4. -/
def Desc.signOk (d : Desc) (dir : Nat) (e : Entry) : Bool :=
  entMono e == dir
    && (match d.grade with
        | 2 => slopeOk dir (entC1N e 0) && slopeOk dir (entC1N e 1)
        | 1 => slopeOk dir (entC1 e)
        | _ =>
          let a := entC1 e * (2 ^ (21 + 4 - d.sh1) : Nat)
          slopeOk dir a && slopeOk dir (a + 2 * entC2 e * (2 ^ (27 + 4 - d.sh2) : Nat)))

/-- Entry address and half of a segment (R57). -/
def Desc.segAt (d : Desc) (s : Nat) : Nat × Nat := if d.grade = 2 then (s / 2, s % 2) else (s, 0)

/-- value(P0) and value(P1) of a segment (R99). -/
def Desc.segVals (d : Desc) (rd : Nat → Entry) (s : Nat) : Val × Val :=
  let (i, h) := d.segAt s
  let e := rd i
  let (p0, p1) := endpoints ((gradeOf d.grade).getD .Q) d e h
  (gVal p0 (entOexp e), gVal p1 (entOexp e))

/-- Whether the arguments of a tail on the side of a run meet the front end's range (Table 5.8): `neg` the side, `lo`
for the LO tail, `E` the tail's limit exponent (DEDUCED, log entry 81). -/
def tailMeets (front : Nat) (neg lo : Bool) (E : Int) : Bool :=
  match front with
  | 0 => lo || decide (E < 128)
  | 1 => !neg && (lo || decide (E < 128))
  | 4 | 5 => lo || (if neg then decide (E ≤ -2) else decide (E < -1))
  | 6 => !neg && (if lo then decide (E > 0) else decide (E < 1))
  | _ => !neg && (if lo then decide (E > 0) else decide (E < 2))

/-- ±2^E. -/
def signedPow (neg : Bool) (E : Int) : Val := (Val.pow2 E).withSign neg

/-- The wrap value of Table 5.8. -/
def Desc.wrapVal (d : Desc) (rd : Nat → Entry) : Option Val :=
  let v0 := (d.segVals rd 0).1
  match d.front with
  | 2 | 3 | 8 => some (v0.mul (Val.ofNat 2))
  | 6 | 7 => some (v0.mul (Val.pow2 (-1)))
  | 9 | 10 => some Val.one
  | 4 | 5 => some (match indexBinade d (.fin true 1 4) with
      | .at s _ => Val.one.add (d.segVals rd s).1
      | .tail v _ => Val.one.add v)
  | _ => none

/-- Entry indices at which a seam, tail or wrap rule fails (DEDUCED, log entry 81). -/
def Desc.seamFaults (d : Desc) (rd : Nat → Entry) : List Nat :=
  let inner := d.runs.flatMap (fun (dir, lo, hi) =>
    ((List.range (hi - lo)).filter (fun i => !inOrder dir (d.segVals rd (lo + i)).2 (d.segVals rd (lo + i + 1)).1)).map
      (fun i => (d.segAt (lo + i)).1))
  let tails := if d.uniform then [] else d.runs.zipIdx.flatMap (fun ((dir, lo, hi), k) =>
    let neg := k == 1
    let e1 := d.emin
    let e2 := d.emin + d.nbin
    let loBad := tailMeets d.front neg true e1
      && !inOrder dir (tailVal d.loLin d.loC (signedPow neg e1)) (d.segVals rd lo).1
    let hiV := if neg then tailVal d.hinLin d.hinC (signedPow neg e2) else tailVal d.hipLin d.hipC (signedPow neg e2)
    let hiBad := tailMeets d.front neg false e2 && !inOrder dir (d.segVals rd hi).2 hiV
    (if loBad then [(d.segAt lo).1] else []) ++ (if hiBad then [(d.segAt hi).1] else []))
  let wrap := match d.wrapVal rd, d.runs.head? with
    | some w, some (dir, _, hi) => if inOrder dir (d.segVals rd hi).2 w then [] else [(d.segAt hi).1]
    | _, _ => []
  inner ++ tails ++ wrap

/-- Entry indices at which the sign rule fails. -/
def Desc.signFaults (d : Desc) (rd : Nat → Entry) : List Nat :=
  d.runs.flatMap (fun (dir, lo, hi) =>
    ((List.range (hi + 1 - lo)).map (fun i => (d.segAt (lo + i)).1)).filter (fun i => !d.signOk dir (rd i)))

/-! ## Map and crozier checks -/

/-- A map word obeys R92. -/
def Bank.mapOk (b : Bank) (i : Nat) : Bool :=
  let w := b.mapWord i
  let f := i / 4
  let g := i % 4
  if g = 3 then w == 0
  else
    bitsOf w 13 9 == 0
    && (if f < 0x40 && !builtinExists f then mapKind w == 0 else true)
    && (match mapKind w with
        | 0 => mapIndex w == 0
        | 3 => mapIndex w == 0 && builtinExists f
        | 1 =>
          let d := b.desc (mapIndex w)
          d.valid && d.grade == g
            && (if f = 0x10 then d.front == 9 else if f = 0x11 then d.front == 10 else d.front != 9 && d.front != 10)
        | _ =>
          let h := (b.crozier (mapIndex w)).headD 0
          decide (mapIndex w < 256) && crzValid h && crzGrade h == g && !isPosFn f)

/-- One step of the check of R108: TIDX of the RREDs so far, and whether a LOOK followed the last of them. -/
def Bank.crzStepOk (b : Bank) (grade : Nat) (st : Option (List Nat × Bool)) (w : DWord) : Option (List Nat × Bool) :=
  match st with
  | none => none
  | some (rreds, looked) =>
    let op := crzF w 63 60
    let t := crzF w 40 32
    let d := b.desc t
    let dOk := d.valid && d.grade == grade && d.front != 9 && d.front != 10
    if op = 1 then (if dOk then some (t :: rreds, false) else none)
    else if op = 2 then (if dOk && rreds.contains t then some (rreds, true) else none)
    else if op = 3 then (if looked then some (rreds, looked) else none)
    else if op = 0 || decide (op ≥ 12) then none
    else if op = 10 && bitOf w 44 then none
    else some (rreds, looked)

/-- A crozier obeys R108. -/
def Bank.crzOk (b : Bank) (i : Nat) : Bool :=
  let c := b.crozier i
  let h := c.headD 0
  crzF h 63 28 == 0 && crzGrade h != 3 && crzF h 7 6 != 3
    && (((c.drop 1).take (crzLen h)).foldl (b.crzStepOk (crzGrade h)) (some ([], false))).isSome

/-- Valid croziers and their steps (R313). -/
def Bank.crzCounts (b : Bank) : Nat × Nat :=
  let hs := (b.crz.map (fun p => p.2.headD 0)).filter crzValid
  (hs.length, (hs.map crzLen).foldl (· + ·) 0)

/-! ## SEAL -/

/-- Least element. -/
def leastOf : List Nat → Option Nat
  | [] => none
  | a :: r => match leastOf r with | none => some a | some b => some (Nat.min a b)

/-- Code, ITEM and INDEX of a seal of bank `b`: NONE, or the first failure in the order of Table 5.6 (R97, R339). -/
def State.sealResult (s : State) (b : Bool) : Nat × Nat × Nat :=
  let k := s.tbl.bank b
  let descs := (k.descs.map (fun p => (p.1, parseDesc p.2))).filter (fun p => p.2.valid)
  match descs.find? (fun p => !p.2.fieldsOk) with
  | some p => (5, 3, p.1)
  | none =>
  match descs.find? (fun p => !p.2.spanOk s.bankEntries) with
  | some p => (6, 3, p.1)
  | none =>
  let stored := fun (rom : Bool) (a : Nat) => if rom then s.romAt a else s.ramEntry b a
  let judged := fun rom a => let e := stored rom a; ((eccOf e).fix e).getD e
  let addrs := fun (rom : Bool) => (descs.filter (fun p => p.2.space == rom)).flatMap (fun p =>
    (List.range p.2.entries).map (fun i => (p.2.base + i, p.2.grade)))
  let first := fun (bad : Bool → List Nat) => match leastOf (bad false) with
    | some a => some (1, a)
    | none => (leastOf (bad true)).map (fun a => (2, a))
  match first (fun rom => ((addrs rom).filter (fun ag => !entryFieldsOk ag.2 (judged rom ag.1))).map (·.1)) with
  | some (it, a) => (7, it, a)
  | none =>
  match first (fun rom => ((addrs rom).filter (fun ag => eccOf (stored rom ag.1) == .uncorr)).map (·.1)) with
  | some (it, a) => (8, it, a)
  | none =>
  let mono := fun (rom : Bool) => descs.filter (fun p => p.2.space == rom && p.2.monoDecl != 0)
  match first (fun rom => (mono rom).flatMap (fun p =>
      (p.2.signFaults (fun i => judged rom (p.2.base + i))).map (fun i => p.2.base + i))) with
  | some (it, a) => (9, it, a)
  | none =>
  match first (fun rom => (mono rom).flatMap (fun p =>
      (p.2.seamFaults (fun i => judged rom (p.2.base + i))).map (fun i => p.2.base + i))) with
  | some (it, a) => (10, it, a)
  | none =>
  match (List.range 1024).find? (fun i => !k.mapOk i) with
  | some i => (11, 4, i)
  | none =>
  match (k.crz.filter (fun p => crzValid (p.2.headD 0))).find? (fun p => !k.crzOk p.1) with
  | some p => (12, 5, p.1)
  | none => (0, 0, 0)

end Sys2Proof.Machine
end

