-- ==== Sys2Proof/Machine/Tables.lean ====
section
/-! DEFINITION. The table unit: how a function resolves (R92, R185), sorus reads (R88), residency (R104 to R106), table
commands (R95 to R97, R311), the epoch switch (R101, R102, R312) and the scrubber (R326). -/
namespace Sys2Proof.Machine

/-! ## Resolution -/

/-- The bank that is active, and the shadow (R84). -/
def State.activeBank (s : State) : Bool := s.tbl.active
def State.shadowBank (s : State) : Bool := !s.tbl.active

/-- A function ID resolved at a grade in a bank (R92); none where it is undefined (R70, R71, R185). -/
def State.resolve (s : State) (b : Bool) (id : Nat) (g : Grade) : Option Resolved :=
  if s.gen3 then (if gen3Exists id then some (.gen3 id) else none)
  else
    let w := (s.tbl.bank b).mapWord (4 * id + g.code)
    match mapKind w with
    | 1 => some (.table b (mapIndex w) id g)
    | 2 => some (.crozier b (mapIndex w) id g)
    | 3 => if builtinExists id then some (.native id g) else none
    | _ => none

/-- A native evaluation that a chain makes on its own account: in Gen-3 mode the Gen-3 one (R93, R185). -/
def State.ownFn (s : State) (id : Nat) (g : Grade) : Resolved := if s.gen3 then .gen3 id else .native id g

/-- The Gen-3 tables of a function (Table 8.7). -/
def gen3Tables (id : Nat) : List TableKey :=
  let k : Nat := match id with
    | 0x00 | 0x01 => 0 | 0x02 | 0x03 => 1 | 0x04 => 2 | 0x05 => 3 | 0x06 => 4 | 0x10 | 0x11 => 5 | 0x09 => 6 | 0x0A => 7
    | 0x08 => 8 | 0x0C => 9 | 0x0D => 10 | _ => 11
  [.gen3 k]

/-- The native tables of a built-in at a grade: its single table, or its composite's (R79, R104). -/
def builtinTables (id : Nat) (g : Grade) : List TableKey :=
  let q := fun f => TableKey.native (romRow f .Q)
  if isComposite id g then
    match id with
    | 0x0B => [q .exp2, q .l1p]
    | 0x0E => [q .exp2, q .mill]
    | _ => [q .exp2, q .sigh, q .sigk]
  else [.native (romRow (builtinTable id).2 g)]

/-- Descriptors whose tables a crozier reads: those its LOOK steps name (R104). -/
def crzTables (c : List DWord) : List Nat :=
  ((((c.drop 1).take (crzLen (c.headD 0))).filter (fun w => crzF w 63 60 == 2)).map (fun w => crzF w 40 32)).eraseDups

/-- The tables an evaluation may read (R104). -/
def State.tablesOf (s : State) : Resolved → List TableKey
  | .native id g => builtinTables id g
  | .table b d _ _ => [.user b d]
  | .crozier b c _ _ => (crzTables ((s.tbl.bank b).crozier c)).map (.user b)
  | .gen3 id => gen3Tables id

/-- Whether an evaluation reads a RAM table or is a crozier (R103). -/
def State.usesRam (s : State) : Resolved → Bool
  | .table b d _ _ => !((s.tbl.bank b).desc d).space
  | .crozier _ _ _ _ => true
  | _ => false

/-- Evaluation slots of one result, and the grade whose slots they are (R72, R109). In Gen-3 mode an evaluation takes two
of a pinna's eight Grade Q slots, which gives the rate of R184 (DEDUCED, log entry 83). -/
def State.slotsOf (s : State) : Resolved → Grade × Nat
  | .native id g => builtinSlots id g
  | .table _ _ _ g => (g, 1)
  | .crozier b c _ g => (g, crzLen (((s.tbl.bank b).crozier c).headD 0))
  | .gen3 _ => (.Q, 2)

/-! ## Residency -/

/-- Entries of a table (R85). -/
def State.keyEntries (s : State) : TableKey → Nat
  | .native row => (romTable row).entries
  | .gen3 _ => 1024
  | .user b d => ((s.tbl.bank b).desc d).entries

/-- Blocks of 64 entries that a table takes (R104). -/
def State.keyBlocks (s : State) (k : TableKey) : Nat := (s.keyEntries k + 63) / 64

/-- Blocks of a working set (R104). -/
def State.wsBlocks (s : State) (ws : List TableKey) : Nat := (ws.map s.keyBlocks).foldl (· + ·) 0

/-- The chains that hold a slot. -/
def State.chains (s : State) : List Chain := s.chn.slots.filterMap id

/-- A chain has been admitted (R155). -/
def Chain.admitted (c : Chain) : Bool := decide (c.admitNo ≠ 0)

/-- A table is in use: some admitted, incomplete work has it in its working set (R105). -/
def State.keyInUse (s : State) (k : TableKey) : Bool :=
  s.chains.any (fun c => c.admitted && c.ws.contains k) || s.chn.lanes.any (fun l => l.ws.contains k)

def State.isResident (s : State) (k : TableKey) : Bool := s.tbl.resident.any (fun r => r.key == k)

/-- The time at which an item becomes ready: items of one fc, or between two issues, are ready together (R157)
(DEDUCED, log entry 91). -/
def State.readyTime (s : State) : Nat := s.fc + s.chn.stamp

/-- A working set is wholly resident (R105). -/
def State.wsResident (s : State) (ws : List TableKey) : Bool := ws.all s.isResident

/-- Blocks that no table holds, lowest first (log entry 6). -/
def State.freeBlocks (s : State) : List Nat :=
  (List.range 64).filter (fun b => !s.tbl.resident.any (fun r => r.blocks.contains b))

/-- The table to evict: not in use, least recently admitted (R105). -/
def State.victim (s : State) : Option Resident :=
  (s.tbl.resident.filter (fun r => !s.keyInUse r.key)).foldl (fun v r => match v with
    | none => some r
    | some q => if r.last < q.last then some r else some q) none

/-- Evicts tables until `n` blocks are free, or none is left to evict (R105). -/
def State.evictFor : Nat → Nat → State → State
  | 0, _, s => s
  | f + 1, n, s =>
    if n ≤ s.freeBlocks.length then s
    else match s.victim with
      | none => s
      | some r => evictFor f n { s with tbl := { s.tbl with resident := s.tbl.resident.filter (fun q => q.key != r.key) } }

/-- Starts the next fill when none runs and the blocks suffice; it waits otherwise until work completes and frees them
(R105). A table of a lane request or of a PRELOAD whose tables exceed the sorus waits for ever: the manual refuses only
chains (R104) (DEDUCED, log entry 6; DESIGN CHOICE, log entry 89). -/
def State.startFill (s : State) : State :=
  match s.tbl.filling, s.tbl.fillQ with
  | none, k :: q =>
    let s := s.evictFor 64 (s.keyBlocks k)
    if s.keyBlocks k ≤ s.freeBlocks.length then { s with tbl := { s.tbl with filling := some k, fillQ := q } } else s
  | _, _ => s

/-- Asks for the tables of a working set under a new admission number: those resident take it at once, the others when
their fill is done, and those that neither fill nor wait queue in the set's order (R105). A PRELOAD counts as an
admission (DESIGN CHOICE, log entry 90). -/
def State.wantTables (s : State) (ws : List TableKey) : State :=
  let n := s.tbl.admits + 1
  let res := s.tbl.resident.map (fun r => if ws.contains r.key then { r with last := n } else r)
  let need := ws.filter (fun k => !s.isResident k && s.tbl.filling != some k && !s.tbl.fillQ.contains k)
  let wanted := (ws.filter (fun k => !s.isResident k)).foldl (fun m k => setKey k n m) s.tbl.wanted
  ({ s with tbl := { s.tbl with
      admits := n, resident := res, fillQ := s.tbl.fillQ ++ need.eraseDups, wanted := wanted } }).startFill

/-- Items whose working set has become resident now are ready from now on (R157). -/
def Chain.restamp (was now : List TableKey → Bool) (stamp : Nat) (c : Chain) : Chain :=
  if was c.ws || !now c.ws then c
  else { c with items := c.items.map (fun i => if i.ready && !i.done then { i with stamp := stamp } else i) }

/-- A fill completes: its table is resident, as the work that wanted it last was admitted, and the next fill starts
(R105). -/
def State.fillDone (s : State) : State :=
  match s.tbl.filling with
  | none => s
  | some k =>
    let r : Resident := { key := k, blocks := s.freeBlocks.take (s.keyBlocks k),
                          last := (lookupKey k s.tbl.wanted).getD s.tbl.admits }
    let s1 : State := { s with tbl := { s.tbl with
        filling := none, resident := s.tbl.resident ++ [r], wanted := dropKey k s.tbl.wanted } }
    let s2 : State := { s1 with chn := { s1.chn with
        slots := s1.chn.slots.map (Option.map (Chain.restamp s.wsResident s1.wsResident s.readyTime)) } }
    ((s2.count 20 (s.keyEntries k)).spend 11 (s.keyEntries k)).startFill

/-! ## Sorus reads -/

/-- The key of a table. -/
def keyOf : TblRef → TableKey
  | .native row => .native row
  | .user b d => .user b d

/-- A sorus copy that differs from what its residency copied last (pinna `p`), by key and entry. -/
def State.sorusCopy (s : State) (p : Nat) (k : TableKey) (i : Nat) : Option Entry :=
  match s.tbl.resident.find? (fun r => r.key == k) with
  | none => none
  | some r => match lookupKey (p, i) r.copies with
    | some e => some e
    | none => lookupKey (64, i) r.copies

/-- The sorus entry that an evaluation in pinna `p` reads. -/
def State.sorusEntry (s : State) (p : Nat) (t : TblRef) (i : Nat) : Entry :=
  (s.sorusCopy p (keyOf t) i).getD (s.rhizomeEntry t i)

/-- Whether a sorus entry checks clean (R87, R88). A copy of the ROM that nothing changed is clean. -/
def State.sorusClean (s : State) (p : Nat) (t : TblRef) (i : Nat) : Bool :=
  match t, s.sorusCopy p (keyOf t) i with
  | .native row, none => s.romEcc ((romTable row).addr + i) == .clean
  | _, _ => eccOf (s.sorusEntry p t i) == .clean

/-- What stage 4 uses of an entry (R88): a clean sorus entry as read, otherwise the corrected rhizome entry, none where
that is uncorrectable. -/
def State.lookIn (s : State) (p : Nat) : Look := fun t i =>
  match t, s.sorusCopy p (keyOf t) i with
  | .native row, none =>
    match lookupKey ((romTable row).addr + i) s.tbl.romDefects with
    | some e => (eccOf e).fix e
    | none => some (romPlain row i)
  | _, _ =>
    if s.sorusClean p t i then some (s.sorusEntry p t i)
    else let e := s.rhizomeEntry t i; (eccOf e).fix e

/-- The sorus entry of a Gen-3 ROM address. -/
def State.gen3Copy (s : State) (p addr : Nat) : Option Entry :=
  s.sorusCopy p (.gen3 ((addr - 0x3000) / 1024)) (addr % 1024)

def State.gen3Clean (s : State) (p addr : Nat) : Bool :=
  match s.gen3Copy p addr with
  | none => s.romEcc addr == .clean
  | some e => eccOf e == .clean

/-- The reader of Gen-3 evaluations (R88). -/
def State.gen3Look (s : State) (p : Nat) : Nat → Option Entry := fun addr =>
  match s.gen3Copy p addr, lookupKey addr s.tbl.romDefects with
  | none, none => some (BitVec.ofNat 96 (gen3Data ((addr - 0x3000) / 1024) (addr % 1024)))
  | none, some d => (eccOf d).fix d
  | some e, _ => if s.gen3Clean p addr then some e else (s.romEcc addr).fix (s.romAt addr)

/-- The outcome of an evaluation in pinna `p`: result bits, clamps, table lookups, Gen-3 lookups, settled, tail. -/
structure Outcome where
  bits : Word
  clamps : Nat := 0
  looks : List (TblRef × Nat) := []
  g3 : List Nat := []
  settled : Bool := false
  tail : Option (TblRef × Nat) := none

/-- Evaluates (R47, R92, R185). -/
def State.evaluate (s : State) (p : Nat) (how : Resolved) (i : EvIn) : Outcome :=
  let of := fun (o : EvalOut) => (⟨o.bits, o.clamps, o.looks, [], o.settled, o.tail⟩ : Outcome)
  match how with
  | .native id g => of (evalBuiltin (s.lookIn p) id g i)
  | .table b d _ g => of (evalTable (s.lookIn p) (.user b d) ((s.tbl.bank b).desc d) g i)
  | .crozier b c _ _ => match i with
    | .x x => of (evalCrozier (s.lookIn p) ((s.tbl.bank b).desc) b ((s.tbl.bank b).crozier c) x)
    | .turn _ => { bits := nan32, settled := true }
  | .gen3 id => let o := evalGen3 (s.gen3Look p) id i; { bits := o.v, g3 := o.looks, settled := o.settled }

/-- The lookups of an outcome whose sorus entry fails its check (R88), as places to refetch. -/
def State.badLooks (s : State) (p : Nat) (o : Outcome) : List (TblRef × Nat) × List Nat :=
  ((o.looks.filter (fun ti => !s.sorusClean p ti.1 ti.2)).eraseDups, (o.g3.filter (fun a => !s.gen3Clean p a)).eraseDups)

/-- EXP as the merges of a row use it, read from the sorus of pinna `p`: the native table at Grade Q, or Gen-3's (R93,
R170, R189). -/
def State.mergeExp (s : State) (p : Nat) : ExpFn := fun x => (s.evaluate p (s.ownFn 0x01 .Q) (.x x)).bits

/-- Changes the sorus copy of an entry for one pinna. -/
def State.setCopy (s : State) (k : TableKey) (p i : Nat) (e : Option Entry) : State :=
  { s with tbl := { s.tbl with resident := s.tbl.resident.map (fun r =>
      if r.key == k then { r with copies := match e with
        | some e => setKey (p, i) e r.copies
        | none => dropKey (p, i) r.copies } else r) } }

/-! ## RAM writes -/

/-- Writes a RAM entry. Sori that hold a copy of it keep what they copied. -/
def State.writeRam (s : State) (b : Bool) (i : Nat) (e : Entry) : State :=
  let old := s.ramEntry b i
  let keep := fun (r : Resident) => match r.key with
    | .user b' d =>
      let ds := (s.tbl.bank b').desc d
      if b' == b && !ds.space && decide (ds.base ≤ i) && decide (i < ds.base + ds.entries)
        && (lookupKey (64, i - ds.base) r.copies).isNone then
        { r with copies := r.copies ++ [((64, i - ds.base), old)] }
      else r
    | _ => r
  let k := s.tbl.bank b
  let t := { s.tbl with resident := s.tbl.resident.map keep }
  { s with tbl := t.setBank b { k with ram := Store.insert k.ram i e } }

/-- Sets FAULT of a bank, or ROM_FAULT (R88, R326): space 0, 1 a bank, 2 the ROM. -/
def State.setFault (s : State) (space : Nat) : State :=
  if space = 2 then { s with tbl := { s.tbl with romFault := true } }
  else
    let b := decide (space = 1)
    { s with tbl := s.tbl.setBank b { s.tbl.bank b with fault := true } }

/-- Counts a corrected rhizome error in the lifetime unit (R88). -/
def State.countEcc (s : State) (space : Nat) : State :=
  let c := s.life.counts
  let c := if space = 0 then { c with ecc0 := satAdd 32 c.ecc0 1 } else if space = 1 then { c with ecc1 := satAdd 32 c.ecc1 1 }
    else { c with eccr := satAdd 32 c.eccr 1 }
  { s with life := { s.life with counts := c } }

/-- Counts a RAM entry write (Table 13.11). -/
def State.countWrite (s : State) (b : Bool) : State :=
  let c := s.life.counts
  let c := if b then { c with wr1 := satAdd 48 c.wr1 1 } else { c with wr0 := satAdd 48 c.wr0 1 }
  { s with life := { s.life with counts := c } }

/-- ARG2 of the ECC events: σ and π of an entry (Table 16.3). -/
def eccArg (e : Entry) : Word := let (g, p) := syndrome e; BitVec.ofNat 32 (g + 128 * b2n p)

/-- Logs TBL_ECC_CORR or TBL_ECC_UNCORR. -/
def State.logEcc (s : State) (uncorr : Bool) (space idx : Nat) (e : Entry) (scrub : Bool) (tag : BitVec 16 := 0) : State :=
  let s := s.logEvent (if uncorr then 0x21 else 0x22) .tbl (BitVec.ofNat 32 space) (BitVec.ofNat 32 idx) (eccArg e)
    (if scrub then 1 else 0) tag
  if uncorr then s.pageEvent .tbl 4 else s

/-- The refetch of one entry whose sorus copy fails its check (R88): `e` the rhizome's, `c` the copy, `plc` its place
(DEDUCED, log entry 27). -/
def State.refetch (s : State) (tag : BitVec 16) (k : TableKey) (p i : Nat) (plc : Nat × Nat) (e c : Entry) : State :=
  let s := s.count 19 1
  match eccOf e with
  | .uncorr =>
    let s := (s.setFault plc.1).logEcc true plc.1 plc.2 e false tag
    match eccOf c with
    | .corr _ => s.logEcc false 3 plc.2 c false tag
    | _ => s
  | .corr e' => (((s.setCopy k p i (some e')).countEcc plc.1)).logEcc false plc.1 plc.2 e false tag
  | .clean =>
    let s := s.setCopy k p i (some e)
    match eccOf c with
    | .corr _ => s.logEcc false 3 plc.2 c false tag
    | _ => s

/-- Re-reads every entry whose sorus copy fails its check (R88). -/
def State.refetchAll (s : State) (tag : BitVec 16) (p : Nat) (bad : List (TblRef × Nat) × List Nat) : State :=
  let s1 := bad.1.foldl (fun (s : State) t =>
    s.refetch tag (keyOf t.1) p t.2 (s.entryPlace t.1 t.2) (s.rhizomeEntry t.1 t.2) (s.sorusEntry p t.1 t.2)) s
  bad.2.foldl (fun (s : State) a =>
    s.refetch tag (.gen3 ((a - 0x3000) / 1024)) p (a % 1024) (2, a) (s.romAt a) ((s.gen3Copy p a).getD (s.romAt a))) s1

/-! ## Table commands -/

/-- DL_TBL_ERR_INFO (Table 15.3) (DEDUCED, log entry 28). -/
def TblUnit.errInfo (t : TblUnit) : Word :=
  BitVec.ofNat 32 (t.errCode.toNat * 2 ^ 24 + t.errItem.toNat * 2 ^ 20 + t.errIndex.toNat)

/-- Writes a code to DL_TBL_ERR_INFO. -/
def State.tblCode (s : State) (code item index : Nat) : State :=
  { s with tbl := { s.tbl with
      errCode := BitVec.ofNat 8 code, errItem := BitVec.ofNat 3 item, errIndex := BitVec.ofNat 16 index } }

/-- A command reports its code and raises TBL_CMD_DONE (R95). -/
def State.tblReport (s : State) (op code item index : Nat) : State :=
  let s := s.tblCode code item index
  (s.logEvent 0x20 .tbl (BitVec.ofNat 32 op) s.tbl.errInfo 0 0).pageEvent .tbl 1

/-- A bank is pinned (R102). -/
def State.bankPinned (s : State) (b : Bool) : Bool :=
  s.chains.any (fun c => c.admitted && c.bank == b) || s.chn.lanes.any (fun l => l.bank == b)

/-- Store length, item bytes and ITEM code of a load (Table 5.5, Table 15.3) (DEDUCED, log entry 28). -/
def State.loadShape (s : State) (op : Nat) : Nat × Nat × Nat :=
  match op with
  | 1 => (s.bankEntries, 16, 1)
  | 2 => (512, 32, 3)
  | 3 => (1024, 2, 4)
  | _ => (256, 136, 5)

/-- Items that one group of reads brings. -/
def loadGroup (op : Nat) : Nat := match op with | 1 => 128 | 2 => 64 | 3 => 1024 | _ => 15

/-- Issues the next reads of the load that runs, or finishes it (DEDUCED, log entry 29). -/
def State.loadNext (s : State) : State :=
  match s.tbl.cmd with
  | some c =>
    if c.op ≤ 4 && !c.finished then
      if c.done < c.count then
        let sz := (s.loadShape c.op).2.1
        s.issueRead .tblLoad [(c.src + sz * c.done, sz * Nat.min (loadGroup c.op) (c.count - c.done))]
      else { s with tbl := { s.tbl with cmd := some { c with finished := true } } }
    else s
  | none => s

/-- Stores one item of a load (R96, Table 5.5). -/
def State.storeItem (s : State) (op idx : Nat) (bs : List Byte) : State :=
  let b := s.shadowBank
  let k := s.tbl.bank b
  let put := fun k' => ({ s with tbl := s.tbl.setBank b k' } : State)
  match op with
  | 1 =>
    let s := put { k with ram := Store.insert k.ram idx (withCheck (leNat (bs.take 12) % 2 ^ 88)) }
    s.countWrite b
  | 2 => put { k with descs := Store.put (fun _ => some descDefault) k.descs idx (wordsOf 8 bs) }
  | 3 => put { k with map := Store.put (fun i => some (mapDefault i)) k.map idx (BitVec.ofNat 16 (leNat bs)) }
  | _ =>
    let c := (List.range 17).map (fun j => BitVec.ofNat 64 (leNat ((bs.drop (8 * j)).take 8)))
    put { k with crz := Store.put (fun _ => some crzDefault) k.crz idx c }

/-- Stores the items of a group from index `i` on (DEDUCED, log entry 29). -/
def State.storeItems (s : State) (op sz : Nat) : Nat → Nat → List Byte → State
  | 0, _, _ => s
  | n + 1, i, bs => (s.storeItem op i (bs.take sz)).storeItems op sz n (i + 1) (bs.drop sz)

/-- The reads of a load's group came back; with `ok` false an error stopped them, and the items before the first byte
that did not come are stored (R96) (DEDUCED, log entry 29). -/
def State.loadData (s : State) (got : List (Nat × List Byte)) (ok : Bool) : State :=
  match s.tbl.cmd with
  | some c =>
    let (_, sz, it) := s.loadShape c.op
    let m := Nat.min (loadGroup c.op) (c.count - c.done)
    let here := fun a => got.any (fun p => decide (p.1 ≤ a) && decide (a < p.1 + p.2.length))
    let start := c.src + sz * c.done
    let n := if ok then m
      else ((List.range m).takeWhile (fun i => here (start + sz * i) && here (start + sz * i + sz - 1))).length
    let s := s.storeItems c.op sz n (c.first + c.done) (gotBytes got start (sz * n))
    let c := { c with done := c.done + n }
    if ok then ({ s with tbl := { s.tbl with cmd := some c } }).loadNext
    else
      let c := { c with code := 4, item := it, index := c.first + c.done, finished := true }
      { s with tbl := { s.tbl with cmd := some c } }
  | none => s

/-- The tables that PRELOAD of a map index of a bank makes resident (R106). -/
def State.preloadTables (s : State) (b : Bool) (idx : Nat) : List TableKey :=
  let id := idx / 4
  let w := (s.tbl.bank b).mapWord idx
  match gradeOf (idx % 4), mapKind w with
  | some g, 3 => if builtinExists id then builtinTables id g else []
  | some _, 1 => [.user b (mapIndex w)]
  | some _, 2 => (crzTables ((s.tbl.bank b).crozier (mapIndex w))).map (.user b)
  | _, _ => []

/-- A write of DL_TBL_CMD (R95, R96, R97, R106, R309, R311) (DEDUCED, log entry 28). -/
def State.tblCommand (s : State) (op : Nat) : State :=
  if s.tbl.cmd.isSome then s.tblReport op 1 0 0
  else
    let src := s.tbl.loadSrc.toNat
    let first := s.tbl.loadFirst.toNat
    let count := s.tbl.loadCount.toNat
    let b := s.shadowBank
    let k := s.tbl.bank b
    if op = 5 then
      let (code, item, index) := s.sealResult b
      let t := s.tbl.setBank b { k with sealed := false, crzSteps := 0, crzCount := 0 }
      { s with tbl := { t with cmd := some { op := 5, code := code, item := item, index := index, finished := true } } }
    else if op = 6 then
      if first ≥ 1024 || first % 4 = 3 then s.tblReport 6 3 4 first
      else if mapKind ((s.tbl.bank s.activeBank).mapWord first) = 0 then s.tblReport 6 0xF 4 first
      else
        let s := s.wantTables (s.preloadTables s.activeBank first)
        { s with tbl := { s.tbl with cmd := some { op := 6, src := b2n s.activeBank, first := first } } }
    else
      let (limit, sz, it) := s.loadShape op
      if s.bankPinned b then s.tblReport op 2 it first
      else if count ≠ 0 && first + count > limit then s.tblReport op 3 it (Nat.max first limit)
      else if src % 16 ≠ 0 then s.tblReport op 3 it first
      else if count ≠ 0 && src + sz * count > 2 ^ 31 then s.tblReport op 3 it (first + (2 ^ 31 - src) / sz)
      else
        let clean := { k with sealed := false, quarantine := false, fault := false, crzSteps := 0, crzCount := 0 }
        let keep := fun (r : Resident) => match r.key with | .user b' _ => b' != b | _ => true
        let cmd : TblCmd := { op := op, src := src, first := first, count := count }
        let t := s.tbl.setBank b clean
        ({ s with tbl := { t with resident := t.resident.filter keep, cmd := some cmd } }).loadNext

/-- The command that runs has nothing left to do. -/
def State.tblFinished (s : State) : Bool :=
  match s.tbl.cmd with
  | none => false
  | some c =>
    if c.op = 6 then
      (s.preloadTables (decide (c.src = 1)) c.first).all (fun k => s.tbl.filling != some k && !s.tbl.fillQ.contains k)
    else c.finished

/-- TBL_CMD_DONE: the running command completes (R95, R97, R313). -/
def State.tblCmdDone (s : State) : State :=
  match s.tbl.cmd with
  | some c =>
    if s.tblFinished then
      let s1 : State := { s with tbl := { s.tbl with cmd := none } }
      let b := s1.shadowBank
      let s2 := if c.op = 5 && c.code = 0 then
          let k := s1.tbl.bank b
          let (n, m) := k.crzCounts
          { s1 with tbl := s1.tbl.setBank b { k with sealed := true, crzSteps := m, crzCount := n } }
        else s1
      s2.tblReport c.op c.code c.item c.index
    else s
  | none => s

/-! ## The epoch switch -/

/-- A write of DL_TBL_EPOCH.SWITCH (R312) (DEDUCED, log entry 30). -/
def State.switchWrite (s : State) : State := { s with tbl := { s.tbl with switchPending := true } }

/-- The chain boundary at which the switch is accepted or refused (R101, R312) (DEDUCED, log entry 30). -/
def State.switchAccept (s : State) : State :=
  if s.tbl.switchPending then
    let s1 : State := { s with tbl := { s.tbl with switchPending := false } }
    let k := s1.tbl.bank s1.shadowBank
    if !k.sealed then (s1.tblCode 0xD 0 0).pageEvent .tbl 3
    else if k.quarantine || k.fault then (s1.tblCode 0xE 0 0).pageEvent .tbl 3
    else
      let s2 : State := { s1 with tbl := { s1.tbl with active := !s1.tbl.active, number := s1.tbl.number + 1 } }
      (s2.tblCode 0 0 0).pageEvent .tbl 2
  else s

/-! ## The scrubber -/

/-- RAM entries that the scrubber covers in a bank: those that some valid descriptor addresses, if it is sealed. -/
def State.scrubRam (s : State) (b : Bool) : List Nat :=
  let k := s.tbl.bank b
  if k.sealed then
    let ds := (k.descs.map (fun p => parseDesc p.2)).filter (fun d => d.valid && !d.space)
    (List.range s.bankEntries).filter (fun i => ds.any (fun d => decide (d.base ≤ i) && decide (i < d.base + d.entries)))
  else []

/-- The pass of the scrubber: (space, entry index), in order (R326). -/
def State.scrubAt (s : State) (n : Nat) : Nat × Nat :=
  let r0 := s.scrubRam false
  let r1 := s.scrubRam true
  let m := r0.length + r1.length
  let n := n % (m + romTop + 0x3000)
  if n < r0.length then (0, r0.getD n 0)
  else if n < m then (1, r1.getD (n - r0.length) 0)
  else if n < m + romTop then (2, n - m)
  else (2, 0x3000 + (n - m - romTop))

/-- One read of the scrubber (R326). -/
def State.scrub (s : State) : State :=
  let pl := s.scrubAt s.tbl.scrubPos
  let m := (s.scrubRam false).length + (s.scrubRam true).length + romTop + 0x3000
  let b := decide (pl.1 = 1)
  let e := if pl.1 = 2 then s.romAt pl.2 else s.ramEntry b pl.2
  let s := ({ s with tbl := { s.tbl with scrubPos := (s.tbl.scrubPos + 1) % m } }).count 30 1
  match if pl.1 = 2 then s.romEcc pl.2 else eccOf e with
  | .clean => s
  | .corr e' =>
    let s := (s.count 31 1).countEcc pl.1
    let s := if pl.1 = 2 then s else (s.writeRam b pl.2 e').countWrite b
    s.logEcc false pl.1 pl.2 e true
  | .uncorr => (s.setFault pl.1).logEcc true pl.1 pl.2 e true

end Sys2Proof.Machine
end

