-- ==== Sys2Proof/Machine/Sentinel.lean ====
section
/-! DEFINITION. The sentinel (R321, R327 to R330): what it samples, how it judges, quarantine and its self-test. -/
namespace Sys2Proof.Machine

/-! ## Sampling (R327) -/

/-- Exclusive or of four bits of a word. -/
def parity4 (w : Word) (a b c d : Nat) : Bool := xor (xor (bitOf w a) (bitOf w b)) (xor (bitOf w c) (bitOf w d))

/-- One step of the register under x^32 + x^22 + x^2 + x + 1. The manual does not say which way it shifts, nor where the
taps feed back: the form is free (DESIGN CHOICE, log entry 78). -/
def lfsrNext (w : Word) : Word :=
  match Config.lfsrForm % 4 with
  | 0 => (w <<< 1) ||| BitVec.ofNat 32 (b2n (parity4 w 31 21 1 0))
  | 1 => (w >>> 1) ||| BitVec.ofNat 32 (b2n (parity4 w 0 10 30 31) * 2 ^ 31)
  | 2 => (w <<< 1) ^^^ (if bitOf w 31 then 0x00400007 else 0)
  | _ => (w >>> 1) ^^^ (if bitOf w 0 then 0x80200003 else 0)

/-- RATE as it acts (Table 15.13). -/
def SenUnit.rateActs (u : SenUnit) : Nat := Nat.max 8 (Nat.min 24 u.rate.toNat)

/-- A threshold of the sentinel. -/
def State.senThr (s : State) (k : Nat) : Nat := (s.cal.thr.getD k 0).toNat

/-- Considers one evaluation that issues; `taken` are the samples taken that are not yet in the queue. What it answers is
QUAR_EN at the taking, where the evaluation is taken. -/
def State.considerSample (s : State) (taken : Nat) : State × Option Bool :=
  if !s.isD4 || s.gen3 || !s.sen.en then (s, none)
  else
    let hit := decide (s.sen.lfsr.toNat % 2 ^ s.sen.rateActs = 0)
    let s1 : State := { s with sen := { s.sen with lfsr := lfsrNext s.sen.lfsr } }
    if !hit then (s1, none)
    else if s.sen.queue.length + taken ≥ 16 || (s.senThr 2 ≠ 0 && s.sen.windowSamples ≥ s.senThr 2) then (s1.count 29 1, none)
    else ({ s1 with sen := { s1.sen with windowSamples := s1.sen.windowSamples + 1 } }, some s.sen.quarEn)

/-- The certificate of a tail. -/
def State.tailCert (s : State) : TblRef × Nat → Nat
  | (.native row, w) => romTailCert row w
  | (.user b d, w) =>
    let ds := (s.tbl.bank b).desc d
    if w = 0 then ds.certLo else if w = 1 then ds.certHip else ds.certHin

/-- Whether an evaluation is a composite (R79). -/
def Resolved.composite : Resolved → Bool
  | .native id g => isComposite id g
  | _ => false

/-- CERT of the entry that an evaluation read: of a native entry without a copy or defect of its own, R78's value. -/
def State.entryCert (s : State) (p : Nat) (t : TblRef) (i : Nat) : Nat :=
  match t, (s.sorusCopy p (keyOf t) i).isNone && (s.romEcc (s.entryPlace t i).2 == .clean) with
  | .native row, true => romCert row i
  | _, _ => ((s.lookIn p t i).map entCert).getD 0

/-- The certificate a sample is judged by (R328). -/
def State.sampleCert (s : State) (p : Nat) (how : Resolved) (o : Outcome) : Nat :=
  match how with
  | .crozier b c _ _ => crzF (((s.tbl.bank b).crozier c).headD 0) 13 8
  | _ =>
    if how.composite then 16
    else match o.tail, o.looks with
      | some t, _ => s.tailCert t
      | none, l :: _ => s.entryCert p l.1 l.2
      | none, [] => 0

/-- Puts a sample into the queue once its result is here. A turn angle has no FP32 input: what DL_SEN_VIOL_IN would show of
it is free. -/
def State.addSample (s : State) (p : Nat) (how : Resolved) (bank : Bool) (i : EvIn) (o : Outcome) (quarEn : Bool)
    (tag : BitVec 16) : State :=
  let whole := how.composite || (match how with | .crozier _ _ _ _ => true | _ => false)
  let (w, s1) := match i with
    | .x w => (w, s)
    | .turn _ => let n := s.choose; (Config.freeWord n.1, n.2)
  let q : Sample := { how := how, bank := bank, input := i, out := o.bits, settled := o.settled,
                      entry := if whole || o.tail.isSome then none else o.looks.head?,
                      tail := if whole then none else o.tail,
                      cert := s.sampleCert p how o, quarEn := quarEn, tag := tag, inWord := w }
  { s1 with sen := { s1.sen with queue := s1.sen.queue ++ [q] } }

/-! ## Judging (R328) -/

/-- ID and grade of an evaluation. -/
def Resolved.idGrade : Resolved → Nat × Grade
  | .native id g => (id, g)
  | .table _ _ id g => (id, g)
  | .crozier _ _ id g => (id, g)
  | .gen3 id => (id, .Q)

/-- f of a composite (R79): GELU_TANH is measured at the argument the composite forms (Table 4.2). -/
def compositeRef (id : Nat) (x : Word) : Val :=
  let g := fun (f : RomFn) (w : Word) => match f32 w with
    | .fin s n d => refG f s n d
    | v => v
  match id with
  | 0x0D => (f32 x).mul (g .sigmoid (fmul x (ffma (fmul x x) 0x3D922279 0x3FCC422A)))
  | _ => g (builtinTable id).2 x

/-- f(x) of a built-in; none where the manual gives the sampled function no formula (a loaded table, a crozier). -/
def Resolved.refVal (how : Resolved) (i : EvIn) : Option Val :=
  match how, i with
  | .native id g, .x w =>
    if isComposite id g then some (compositeRef id w) else Machine.refVal (builtinTable id).2 (builtinTable id).1 i
  | .native id _, .turn _ => Machine.refVal (builtinTable id).2 (builtinTable id).1 i
  | _, _ => none

/-- The reference value (R328): f(x) with a relative error below 2^-40 that is free, or wholly free where no formula is
given (DESIGN CHOICE, log entry 78). -/
def Sample.ref (q : Sample) : Val :=
  let (id, g) := q.how.idGrade
  let w : Word := match q.input with | .x w => w | .turn F => BitVec.ofNat 32 F
  let r := Config.sentinelRef (BitVec.ofNat 8 id) g.code q.bank w
  match q.how.refVal q.input with
  | some f => f.mul (Val.one.add (.fin r.1 (r.2 % 2 ^ 160) (2 ^ 200)))
  | none => .fin r.1 r.2 (2 ^ 400)

/-- A value is one of the two neighbours of another in a format, or the value itself. -/
def faithful (f : Fmt) (y ref : Val) : Bool :=
  match ref with
  | .fin s n d =>
    let side := fun md => Fmt.decode f (f.signed s (f.magCode md n d))
    y.eq (side .down) || y.eq (side .up)
  | _ => false

/-- The front end reads an angle (R74). -/
def State.turnFront (s : State) : Resolved → Bool
  | .native id _ => isPosFn id
  | .table b d _ _ => frontUniform ((s.tbl.bank b).desc d).front && decide (((s.tbl.bank b).desc d).front ≥ 9)
  | _ => false

/-- The unit of a certificate: an ulp of the grade's target at the reference, absolute for angles (R65, R74). -/
def State.certUnit (s : State) (q : Sample) : Val :=
  certUnitOf q.how.idGrade.2 (s.turnFront q.how) q.ref

/-- Whether a sample passes (R328). A result settled in stage 1 is the special rule's own. Where a table evaluation used
neither entry nor tail the manual names no certificate: free (DESIGN CHOICE, log entry 78). -/
def State.samplePasses (s : State) (q : Sample) : State × Bool :=
  if q.settled then (s, true)
  else
    let g := q.how.idGrade.2
    let y := f32 q.out
    let crz := match q.how with | .crozier _ _ _ _ => true | _ => false
    if q.how.composite && g == .L then (s, faithful .bf16 (Fmt.decode .bf16 (Fmt.round .bf16 .rne false y).code) q.ref)
    else if !q.how.composite && !crz && q.entry.isNone && q.tail.isNone then
      let n := s.choose
      (n.2, Config.freeBit n.1)
    else
      let bound := (Val.fin false (8 * q.cert + s.senThr 0) 64).mul (s.certUnit q)
      (s, !y.nonFinite && ((y.sub q.ref).abs).le bound)

/-- ENTRY of DL_SEN_VIOL_INFO (R328) (DESIGN CHOICE, log entry 78). -/
def State.sampleEntry (s : State) (q : Sample) : Nat :=
  if q.settled then 0xFFFF
  else match q.tail, q.entry with
    | some (.user _ d, _), _ => d
    | some (.native row, _), _ => row
    | none, some e => (s.entryPlace e.1 e.2).2
    | none, none => 0xFFFF

/-- The table or crozier stands in the RAM of a bank (R329). -/
def State.sampleRam (s : State) (q : Sample) : Option Bool :=
  match q.how with
  | .table b d _ _ => if ((s.tbl.bank b).desc d).space then none else some b
  | .crozier b _ _ _ => some b
  | _ => none

/-- The DL_SEN_VIOL_INFO layout of a sample, VALID and OVF zero (Table 15.13). -/
def State.sampleInfo (s : State) (q : Sample) : Word :=
  let (id, g) := q.how.idGrade
  let ram := s.sampleRam q
  BitVec.ofNat 32 (g.code * 2 ^ 26 + b2n ram.isNone * 2 ^ 25 + b2n (ram.getD false) * 2 ^ 24 + id * 2 ^ 16
    + s.sampleEntry q % 2 ^ 16)

/-- A violation counts against its bank, which is quarantined at the threshold (R329). -/
def State.countViolation (s : State) (q : Sample) : State :=
  match s.sampleRam q with
  | none => s
  | some b =>
    let n := (if b then s.sen.viol1 else s.sen.viol0) + 1
    let u := if b then { s.sen with viol1 := n } else { s.sen with viol0 := n }
    let s1 : State := { s with sen := u }
    let thr := Nat.max 1 (s.senThr 1)
    if decide (n ≥ thr) && q.quarEn && !s1.sen.barred && !(s1.tbl.bank b).quarantine then
      let s2 : State := { s1 with tbl := s1.tbl.setBank b { s1.tbl.bank b with quarantine := true } }
      ((s2.pageEvent .sen 2).pageEvent .tbl 5).logEvent 0x69 .sen (BitVec.ofNat 32 (b2n b)) (BitVec.ofNat 32 n) 0 0
    else s1

/-- A sample that fails (R321, R328). -/
def State.violation (s : State) (q : Sample) : State :=
  let info := s.sampleInfo q
  let ref := rne32 q.ref
  let u := s.sen
  let u1 := if u.valid then { u with viol := true, ovf := true }
    else { u with viol := true, valid := true, info := info, vIn := q.inWord, vOut := q.out, vRef := ref }
  let s1 := ((({ s with sen := u1 } : State)).count 28 1).pageEvent .sen 1
  (s1.logEvent 0x68 .sen info q.inWord q.out ref q.tag).countViolation q

/-- SENTINEL_JUDGE: the reference engine completes the sample at the head of its queue. -/
def State.judgeSample (s : State) : State :=
  match s.sen.queue with
  | [] => s
  | q :: r =>
    let n := s.sen.judged + 1
    let due := s.senThr 3 ≠ 0 && n % 2 ^ (s.senThr 3 % 32) == 0
    let s1 : State := { s with sen := { s.sen with queue := r, judged := n, testDue := s.sen.testDue || due } }
    let (s2, ok) := (s1.count 27 1).samplePasses q
    if ok then s2 else s2.violation q

/-- SEN_SELFTEST: a test that is due runs (R330). After a mismatch nothing is quarantined until QUAR_EN is set again, nor
for the samples already taken. -/
def State.selfTest (s : State) : State :=
  if !s.sen.testDue then s
  else
    let k := s.sen.vector
    let got := Config.selfTestResult s.sen.tests k
    let want := Config.selfTestAnswer k
    let s1 : State := { s with sen := { s.sen with testDue := false, vector := (k + 1) % 64, tests := s.sen.tests + 1 } }
    if got = want then s1
    else
      let s2 := s1.logEvent 0x6A .sen (BitVec.ofNat 32 k) got want 0
      { s2 with sen := { s2.sen with quarEn := false, barred := true } }

/-! ## Evaluations that are made at once -/

/-- Counts evaluation slots of a pinna (Table 16.5, Table 13.11). -/
def State.countSlots (s : State) (p : Nat) (g : Grade) (k : Nat) : State :=
  if k = 0 then s
  else
    let s1 := ((s.count g.code k).count (64 + p) k).spend (g.code + 1) k
    let ev := modifyAt s1.life.counts.eval p (fun n => satAdd 66 n k)
    { s1 with life := { s1.life with counts := { s1.life.counts with eval := ev } } }

/-- The pinna of an element (R169). -/
def State.pinnaOf (s : State) (r k : Nat) : Nat := (4 * r + k / 32) % s.pinnaCount

/-- The pinna of an evaluation that a chain makes for a row or for itself (row 0): that of the row's first element
(DEDUCED, log entry 25). -/
def State.rowPinna (s : State) (r : Nat) : Nat := s.pinnaOf r 0

/-- What a fixed evaluation at Grade Q does beside its result (R153): its slots count, the sentinel considers it (R327),
a sorus entry that fails its check is refetched (R88), and a clamp counts (DEDUCED, log entry 25). -/
def State.ownUse (s : State) (bank : Bool) (tag : BitVec 16) (p id : Nat) (x : Word) : State :=
  let how := s.ownFn id .Q
  let o := s.evaluate p how (.x x)
  let (s1, smp) := s.considerSample (s.chn.flights.filter (fun f => f.sampled.isSome)).length
  let s2 := ((s1.countSlots p .Q (s.slotsOf how).2).refetchAll tag p (s.badLooks p o)).count 4 o.clamps
  match smp with
  | some q => s2.addSample p how bank (.x x) o q tag
  | none => s2

/-- The result of a fixed evaluation at Grade Q (R153). -/
def State.fixedEval (s : State) (p id : Nat) (x : Word) : Word := (s.evaluate p (s.ownFn id .Q) (.x x)).bits

end Sys2Proof.Machine
end

