-- ==== Sys2Proof/Machine/PowerBase.lean ====
section
/-! DEFINITION. Power states and wakes (R272, R277, R278, R335) and the checks that entry to Resting and Dormant make
(R275, R276). -/
namespace Sys2Proof.Machine

/-- A change of the control state, which is a change of STATE (R278). -/
def State.setPwr (s : State) (p : PwrState) : State :=
  if s.pwr.st = p then s else ({ s with pwr := { s.pwr with st := p } } : State).reportState

/-- The block is READY or ACTIVE and out of reset. -/
def State.isReady (s : State) : Bool := s.pwr.st == .ready && !s.inReset

/-- A wake that may leave DORMANT does: VDD_DL is in range and the calibration set is loaded (R278, R335). -/
def State.startHeldWake (s : State) : State :=
  if s.pwr.wakeHeld && s.pwr.st == .dormant && s.pwr.vddOk && s.cal.loaded && !s.inReset then
    ({ s with pwr := { s.pwr with wakeHeld := false } }).setPwr .waking
  else s

/-- Abandons an entry that has not begun its recall; the block returns to where it came from (R275, R276)
(DEDUCED, log entry 58). -/
def State.abandonEntry (s : State) : State :=
  match s.pwr.st, s.pwr.entering with
  | .entering, .toResting => ({ s with pwr := { s.pwr with entering := .none } }).setPwr .ready
  | .entering, .toDormant fromResting false =>
    ({ s with pwr := { s.pwr with entering := .none } }).setPwr (if fromResting then .resting else .ready)
  | _, _ => s

/-- A wake with target READY or RESTING (R277, Table 13.10). -/
def State.wake (s : State) (ready : Bool) : State :=
  match s.pwr.st with
  | .ready => s
  | .resting => if ready then { s with pwr := { s.pwr with rising := true } } else s
  | .waking => { s with pwr := { s.pwr with wakeReady := s.pwr.wakeReady || ready } }
  | .dormant =>
    ({ s with pwr := { s.pwr with wakeReady := ready || (s.pwr.wakeHeld && s.pwr.wakeReady), wakeHeld := true } }).startHeldWake
  | .entering =>
    match s.pwr.entering with
    | .toDormant _ true => { s with pwr := { s.pwr with lateWake := some (ready || s.pwr.lateWake == some true) } }
    | .toDormant fromResting false =>
      let s := s.abandonEntry
      if fromResting && ready then { s with pwr := { s.pwr with rising := true } } else s
    | .toResting => if ready then s.abandonEntry else s
    | .none => s

/-- A table, context, registry, image or lifetime command is busy, or a firmware check (R275, R276, R317). -/
def State.commandBusy (s : State) : Bool :=
  s.tbl.cmd.isSome || s.ctx.cmdBusy || s.num.cmd.isSome || s.img.cmd.isSome || s.life.busy.isSome || s.tree.fwBusy

/-- A chain is ARMED or ADMITTED. -/
def State.anyChain (s : State) : Bool := !s.chains.isEmpty

/-- The check of R276 that a request for Dormant makes: true where it fails. -/
def State.occupied (s : State) : Bool :=
  !s.chn.queue.isEmpty || s.anyChain || s.commandBusy || !s.ctx.states.isEmpty || s.img.st != .normal

/-- A work item is ready: on chip, with evaluations to issue or outputs to write (R157). -/
def State.itemReady (s : State) : Bool :=
  s.chains.any (fun c => c.items.any (fun i => i.ready)) || s.chn.lanes.any (fun l => !l.todo.isEmpty)

/-- No P0 transaction is outstanding. -/
def State.p0Idle (s : State) : Bool := s.p0.reads.isEmpty && s.p0.writes.isEmpty

/-- A refused request for Dormant (R276) (DEDUCED, log entry 60). -/
def State.refuseDormant (s : State) : State :=
  let s1 : State := { s with pwr := { s.pwr with result := 1 } }
  (s1.pageEvent .pwr 2).logEvent 0x10 .pwr 0 0 0 0

/-- Every class is recalled: its answer is here and no message waits in an ingress queue (R266). -/
def State.recallComplete (s : State) : Bool :=
  s.port.recallSt.running && s.port.recallSt.waiting.isEmpty && s.port.p3.isEmpty && s.port.p1.isEmpty
    && s.port.p4.isEmpty

end Sys2Proof.Machine
end

