-- ==== Sys2Proof/Machine/ChainBase.lean ====
section
/-! DEFINITION. Chain descriptors (Tables 7.1 to 7.6) and the chains in their slots. -/
namespace Sys2Proof.Machine

/-- DL_CHN_SLOT_STATE.PASS2: some work item of its second pass or of its completion stands (Table 15.5); of an ended chain,
what the slot showed (R314). -/
def Chain.inPass2 (c : Chain) : Bool := c.pass2 || c.items.any (fun i => i.pass != .first)

/-! ## Descriptors -/

/-- Reads a descriptor's sixteen words (Table 7.3). -/
def parseChain (ws : List Word) : ChainDesc :=
  let w := fun i => ws.getD i 0
  let n := fun i => (w i).toNat
  { words := ws, chain := bitsOf (w 0) 31 28, grade := bitsOf (w 0) 27 26, inFmt := bitsOf (w 0) 25 22,
    outFmt := bitsOf (w 0) 21 18, out2Fmt := bitsOf (w 0) 17 14, fast := bitOf (w 0) 13, sr := bitOf (w 0) 12,
    pro := bitsOf (w 0) 11 10, mask := bitsOf (w 0) 9 8, func := bitsOf (w 0) 7 0, rowsM1 := bitsOf (w 1) 30 24,
    gen := (w 1).extractLsb' 20 4, ctxFirst := bitsOf (w 1) 19 0, declLen := n 2, tid2 := (w 3).extractLsb' 16 16,
    tid := (w 3).extractLsb' 0 16, elemBase := n 4 + bitsOf (w 5) 15 0 * 2 ^ 32, ntiles := bitsOf (w 5) 31 16,
    outBase := n 6, out2Base := n 7, outStride := bitsOf (w 8) 31 16, out2Stride := bitsOf (w 8) 15 0, aux0 := n 9,
    aux1 := n 10, imm0 := w 11, imm1 := w 12, imm2 := w 13, doneAddr := n 14, tag := (w 15).extractLsb' 16 16,
    scope := bitsOf (w 15) 15 14, opt := bitsOf (w 15) 13 8, wsSlots := bitsOf (w 15) 7 0 }

namespace ChainDesc
def optBit (d : ChainDesc) (i : Nat) : Bool := d.opt.testBit i
def rows (d : ChainDesc) : Nat := d.rowsM1 + 1
/-- The chain keeps a statistic (Table 7.1). -/
def hasStat (d : ChainDesc) : Bool := d.chain == 1 || d.chain == 2 || d.chain == 5 || d.chain == 6 || d.chain == 8
def pv (d : ChainDesc) : Bool := d.chain == 1 && d.optBit 0
def resid (d : ChainDesc) : Bool := d.chain == 2 && d.optBit 0
def gain (d : ChainDesc) : Bool := d.chain == 2 && d.optBit 1
def split (d : ChainDesc) : Bool := d.chain == 3 && d.optBit 0
def posList (d : ChainDesc) : Bool := d.chain == 3 && d.optBit 1
def hd64 (d : ChainDesc) : Bool := d.chain == 3 && d.optBit 2
def gated (d : ChainDesc) : Bool := d.chain == 4 && d.optBit 0
def prescale (d : ChainDesc) : Bool := d.chain == 4 && d.optBit 1
def grad (d : ChainDesc) : Bool := d.chain == 5 && d.optBit 0
def sched (d : ChainDesc) : Bool := d.chain == 6 && d.optBit 0
def plainOpt (d : ChainDesc) : Bool := d.chain == 8 && d.optBit 0
def tiles (d : ChainDesc) : Bool := d.chain == 8 && d.optBit 1
/-- WCAP of CH_ATTN and of CH_MERGE. -/
def wcap (d : ChainDesc) : Bool := (d.chain == 1 && d.optBit 1) || (d.chain == 8 && d.optBit 2)
/-- FP32 partial output tiles merge with the capsules (R143, R152). -/
def mergesTiles (d : ChainDesc) : Bool := d.pv || d.tiles
/-- The chain uses doorbells of kind 1 (Table 7.1). -/
def usesKind1 (d : ChainDesc) : Bool := d.mergesTiles || d.resid || d.gated
/-- Plain statistic (Table 7.1). -/
def plain (d : ChainDesc) : Bool := d.chain == 2 || d.chain == 6 || d.plainOpt
def treeScoped (d : ChainDesc) : Bool := d.scope != 0
/-- Position c of tile t is presented (R138). -/
def presented (d : ChainDesc) (t c : Nat) : Bool := d.treeScoped || d.declLen == 0 || decide (128 * t + c < d.declLen)
/-- Presented positions of tile t. -/
def width (d : ChainDesc) (t : Nat) : Nat :=
  if d.treeScoped || d.declLen == 0 then 128 else Nat.min 128 (d.declLen - 128 * t)
/-- Output addresses of ordinal t (R137). -/
def outAt (d : ChainDesc) (t : Nat) : Nat := d.outBase + 64 * d.outStride * t
def out2At (d : ChainDesc) (t : Nat) : Nat := d.out2Base + 64 * d.out2Stride * t
/-- Element index of row r and column c of ordinal t (R137). -/
def elemAt (d : ChainDesc) (t r c : Nat) : Nat := (d.elemBase + 16384 * t + 128 * r + c) % 2 ^ 48
/-- The chain writes the primary output, and the second one as elements (Table 7.1). -/
def writesOut (d : ChainDesc) : Bool := d.chain == 1 || d.chain == 2 || d.chain == 3 || d.chain == 4 || d.grad || d.chain == 7
def writesOut2 (d : ChainDesc) : Bool := d.mergesTiles || d.resid || d.chain == 5
/-- A second pass re-reads the tiles (R144, R148). -/
def secondPass (d : ChainDesc) : Bool := d.chain == 2 || d.grad
/-- The grade, reading the reserved code as Q. -/
def g (d : ChainDesc) : Grade := (gradeOf d.grade).getD .Q
end ChainDesc

/-! ## Chains in slots -/

/-- The chain of a serial number. -/
def State.chainOf (s : State) (uid : Nat) : Option Chain := s.chains.find? (fun c => c.uid == uid)

/-- The chain of a descriptor address. -/
def State.chainAt (s : State) (addr : Word) : Option Chain := s.chains.find? (fun c => c.addr == addr)

/-- The chain under CHIP or GROUP scope whose row-block has a first context and a generation (R181). -/
def State.blockChain (s : State) (ctx : Nat) (g : BitVec 4) : Option Chain :=
  s.chains.find? (fun c => c.d.hasStat && c.d.treeScoped && c.d.ctxFirst == ctx && c.d.gen == g)

/-- The chain in a slot. -/
def State.chainIn (s : State) (slot : Nat) : Option Chain := (s.chn.slots.getD slot none)

/-- Updates the chain of a serial number. -/
def State.modChain (s : State) (uid : Nat) (f : Chain → Chain) : State :=
  { s with chn := { s.chn with slots := s.chn.slots.map (fun o => o.map (fun c => if c.uid == uid then f c else c)) } }

/-- A chain is running: it is not being ended (R340). -/
def Chain.running (c : Chain) : Bool := match c.st with | .ending _ => false | _ => true

/-- The arrival of a kind and ordinal. -/
def Chain.arrival (c : Chain) (kind : Bool) (t : Nat) : Option Arrival :=
  c.arrivals.find? (fun a => a.kind == kind && a.ord == t)

/-- The context of a row (Table 7.3). -/
def Chain.ctxOf (c : Chain) (r : Nat) : Nat := c.d.ctxFirst + r

/-- The rows that contribute in an ordinal: those of its kind-0 doorbell that are not stale (R126). -/
def Chain.rowsOf (c : Chain) (t : Nat) : List Bool := ((c.arrival false t).bind (·.rows)).getD []

/-- Context tiles of the chain's contexts. -/
def Chain.ctxTiles (c : Chain) : List Nat :=
  let lo := c.d.ctxFirst / 128
  (List.range ((c.d.ctxFirst + c.d.rowsM1) / 128 + 1 - lo)).map (· + lo)

end Sys2Proof.Machine
end

