-- ==== Sys2Proof/Machine/Contexts.lean ====
section
/-! DEFINITION. The row contexts (chapter 6): what state a context is in, the generation check (R126), the context cache
(R116, R117) and the context commands (R128 to R132). -/
namespace Sys2Proof.Machine

/-! ## The cache -/

/-- Region address of a context tile (R116). -/
def State.ctxTileAddr (s : State) (k : Nat) : Nat := s.ctx.base.toNat + 2048 * k

/-- The cache line of a tile. -/
def State.ctxLine (s : State) (k : Nat) : Option CtxLine := s.ctx.lines.find? (fun l => l.tile == k)

/-- A tile is in the cache. -/
def State.ctxResident (s : State) (k : Nat) : Bool := (s.ctxLine k).isSome

/-- Updates the line of a tile. -/
def State.modLine (s : State) (k : Nat) (f : CtxLine → CtxLine) : State :=
  { s with ctx := { s.ctx with lines := s.ctx.lines.map (fun l => if l.tile == k then f l else l) } }

/-- The state of a context that is not DRAINED, as listed. -/
def State.ctxState (s : State) (i : Nat) : Option CtxState := Store.get? s.ctx.states i

/-- The record of a context as the cache holds it; an empty one of its generation where it has none yet (R112). -/
def State.ctxRec (s : State) (i : Nat) : Rec :=
  let g := ((s.ctxState i).map (·.gen)).getD 0
  match s.ctxLine (i / 128) with
  | some l => l.recs.getD (i % 128) (Rec.emptyOf g)
  | none => Rec.emptyOf g

/-- Writes a record into the resident line of its context. -/
def State.setCtxRec (s : State) (i : Nat) (r : Rec) : State :=
  s.modLine (i / 128) (fun l => { l with recs := l.recs.set (i % 128) r, dirty := true })

/-- Sets the listed state of a context. -/
def State.setCtxState (s : State) (i : Nat) (c : CtxState) : State :=
  { s with ctx := { s.ctx with states := Store.insert s.ctx.states i c } }

/-- A context becomes DRAINED. -/
def State.closeCtx (s : State) (i : Nat) : State := { s with ctx := { s.ctx with states := Store.erase s.ctx.states i } }

/-- Opens a generation from an empty record (R112, Table 6.5). -/
def State.openCtx (s : State) (i : Nat) (g : BitVec 4) : State :=
  let s0 : State := { s with ctx := { s.ctx with noted := s.ctx.noted.filter (fun n => n.2 != (i, g)) } }
  let s1 := s0.setCtxState i { gen := g, fresh := !s.ctxResident (i / 128) }
  if s.ctxResident (i / 128) then s1.setCtxRec i (Rec.emptyOf g) else s1

/-- The bytes of the records of a tile whose contexts are not DRAINED, and of those `also` names: the DRAINED ones are
in the region already, where software may write them (R125, R133). -/
def State.tileCells (s : State) (k : Nat) (recs : List Rec) (also : Nat → Option Rec) : List (Nat × Byte) :=
  (List.range 128).flatMap (fun j =>
    let i := 128 * k + j
    match also i with
    | some r => cellsAt (s.ctx.base.toNat + 16 * i) r.bytes
    | none => if (s.ctxState i).isSome then
        cellsAt (s.ctx.base.toNat + 16 * i) (recs.getD j (Rec.emptyOf 0)).bytes else [])

/-- Evicts the least recently used line; a dirty one is written back (R116) (DEDUCED, log entry 34). -/
def State.evictLine (s : State) : State :=
  match s.ctx.lines.foldl (fun v (l : CtxLine) => match v with
    | none => some l
    | some q => if l.used < q.used then some l else some q) (none : Option CtxLine) with
  | none => s
  | some l =>
    let s1 : State := { s with ctx := { s.ctx with lines := s.ctx.lines.filter (fun q => q.tile != l.tile) } }
    let cells := s.tileCells l.tile l.recs (fun _ => none)
    if l.dirty && !cells.isEmpty then
      let s2 := s1.issueWrite (.ctxEvict l.tile) cells
      { s2 with ctx := { s2.ctx with evicting := s2.ctx.evicting ++ [l.tile] } }
    else s1

/-- Marks a line as used now. -/
def State.touchLine (s : State) (k : Nat) : State :=
  let s1 : State := { s with ctx := { s.ctx with clock := s.ctx.clock + 1 } }
  s1.modLine k (fun l => { l with used := s1.ctx.clock })

/-- Takes a tile into the cache: the contexts that have opened and never folded get their empty records (R116). -/
def State.insertLine (s : State) (k : Nat) (recs : List Rec) : State :=
  let s := if s.ctx.lines.length ≥ 128 then s.evictLine else s
  let fresh := fun j => match s.ctxState (128 * k + j) with | some c => c.fresh | none => false
  let recs := recs.zipIdx.map (fun (rj : Rec × Nat) => match s.ctxState (128 * k + rj.2) with
    | some c => if c.fresh then Rec.emptyOf c.gen else rj.1
    | none => rj.1)
  let s := s.spend 12 1
  let line : CtxLine := { tile := k, recs := recs, dirty := (List.range 128).any fresh, used := s.ctx.clock + 1 }
  { s with ctx := { s.ctx with
      clock := s.ctx.clock + 1, lines := s.ctx.lines ++ [line],
      states := s.ctx.states.map (fun p => if p.1 / 128 = k then (p.1, { p.2 with fresh := false }) else p) } }

/-- The running command is writing a tile. -/
def State.cmdOnTile (s : State) (k : Nat) : Bool :=
  match s.ctx.cmd with
  | some c => decide (c.out ≠ 0) && c.tiles.head? == some k
  | none => false

/-- Makes sure that tiles are in the cache: those missing are read (CTX_MISS). True once every one is there. -/
def State.needLines (s : State) (ks : List Nat) : State × Bool :=
  let s1 := ks.foldl (fun (s : State) k =>
    if s.ctxResident k then s.touchLine k
    else if s.ctx.evicting.contains k || s.reading (.ctxLine k) || s.cmdOnTile k then s
    else (s.count 21 1).issueRead (.ctxLine k) [(s.ctxTileAddr k, 2048)]) s
  (s1, ks.all s1.ctxResident)

/-- The lowest address of the bytes that came back. -/
def gotBase (got : List (Nat × List Byte)) : Nat := (got.tail.map (·.1)).foldl Nat.min (got.headD (0, [])).1

/-- The records of a tile in the bytes that came back. -/
def recsAt (got : List (Nat × List Byte)) (a : Nat) : List Rec :=
  (List.range 128).map (fun j => Rec.ofBytes (gotBytes got (a + 16 * j) 16))

/-! ## The state of a context -/

/-- The generation of the CLEAR that holds a context DRAINING (R131). -/
def State.clearing (s : State) (i : Nat) : Option (BitVec 4) :=
  match s.ctx.cmd with
  | some c => match c.tiles with
    | k :: _ => if c.op = 1 && decide (k ≤ i / 128) && decide (c.first ≤ i) && decide (i < c.first + c.count) then some c.gen
        else none
    | [] => none
  | none => none

/-- A context is DRAINED. -/
def State.ctxDrained (s : State) (i : Nat) : Bool := (s.ctxState i).isNone && (s.clearing i).isNone

/-- The generation of a DRAINED context as a query finds it: in the resident line, or in a record read for it (R316). -/
def State.drainedGen (s : State) (i : Nat) : Option (BitVec 4) :=
  match s.ctxLine (i / 128) with
  | some l => (l.recs[i % 128]?).map (·.gen)
  | none => (lookupKey (i / 128) s.ctx.peeks).bind (fun gs => gs[i % 128]?)

/-- The generation of a DRAINED context as the generation check finds it: in its region record, where software may have
written it (R133) (DEDUCED, log entry 33). -/
def State.regionGen (s : State) (i : Nat) : Option (BitVec 4) :=
  (lookupKey (i / 128) s.ctx.peeks).bind (fun gs => gs[i % 128]?)

/-- STATE as DL_CTX_QRESULT codes it, and the generation held (Table 15.7), that of a DRAINED context by `gen`. Under a
CLEAR a context that was DRAINED shows the generation that the command writes (log entry 8). -/
def State.ctxHeldBy (s : State) (gen : Nat → Option (BitVec 4)) (i : Nat) : Nat × BitVec 4 :=
  match s.ctxState i with
  | some c => (if c.draining then 2 else 1, c.gen)
  | none => match s.clearing i with
    | some g => (2, g)
    | none => (0, (gen i).getD 0)

/-- What a query answers of a context. -/
def State.ctxHeld (s : State) (i : Nat) : Nat × BitVec 4 := s.ctxHeldBy s.drainedGen i

/-- What the generation check finds of a context. -/
def State.ctxFound (s : State) (i : Nat) : Nat × BitVec 4 := s.ctxHeldBy s.regionGen i

/-- Whether a contribution of generation `g` is accepted (Table 6.5). -/
def State.ctxAccepts (s : State) (i : Nat) (g : BitVec 4) : Bool :=
  match s.ctxState i with
  | some c => if c.draining then g == (s.clearing i).getD c.gen + 1 else g == c.gen
  | none => g == (s.ctxFound i).2 + 1

/-- What an accepted contribution does to its context (Table 6.5). -/
def State.ctxEnter (s : State) (i : Nat) (g : BitVec 4) : State :=
  match s.ctxState i with
  | some c => if c.draining then s.setCtxState i { c with nextOpen := true } else s
  | none => match s.clearing i with
    | some h => s.setCtxState i { gen := h, draining := true, nextOpen := true }
    | none => s.openCtx i g

/-- Tiles whose region record the check of these contexts needs and that are not on chip (DEDUCED, log entry 33). -/
def State.peeksNeeded (s : State) (is : List Nat) : List Nat :=
  ((is.filter (fun i => s.ctxDrained i && (s.regionGen i).isNone)).map (· / 128)).eraseDups

/-- Starts reads of the region records of tiles. -/
def State.startPeeks (s : State) (ks : List Nat) : State :=
  ks.foldl (fun (s : State) k =>
    if s.ctx.evicting.contains k || s.reading (.ctxPeek k) || s.cmdOnTile k then s
    else s.issueRead (.ctxPeek k) [(s.ctxTileAddr k, 2048)]) s

/-- Counts and logs stale contributions (R126): the first stale context, its state and generation, and how many. -/
def State.logStale (s : State) (tag : BitVec 16) (g : BitVec 4) (first rows code : Nat) (held : BitVec 4) : State :=
  let s := s.count 16 rows
  (s.logEvent 0x39 .ctx (BitVec.ofNat 32 (g.toNat * 2 ^ 20 + first)) (BitVec.ofNat 32 (code * 2 ^ 28 + held.toNat * 2 ^ 24))
    (BitVec.ofNat 32 rows) 0 tag).pageEvent .ctx 2

/-- The generation check of the rows of a row-block (R126): each row's outcome, with stale ones counted and logged. -/
def State.checkRows (s : State) (tag : BitVec 16) (g : BitVec 4) (first rows : Nat) : State × List Bool :=
  let is := (List.range rows).map (· + first)
  let oks := is.map (fun i => s.ctxAccepts i g)
  let s1 := (is.zip oks).foldl (fun (s : State) io => if io.2 then s.ctxEnter io.1 g else s) s
  match (is.zip oks).find? (fun io => !io.2) with
  | none => (s1, oks)
  | some io =>
    let h := s.ctxFound io.1
    (s1.logStale tag g io.1 (oks.filter (fun b => !b)).length h.1 h.2, oks)

/-! ## Commands -/

/-- A command completes (R128): its code, and CTX_CMD_DONE. -/
def State.ctxReport (s : State) (v : Word) (count code : Nat) : State :=
  let s1 : State := { s with ctx := { s.ctx with cmdErr := BitVec.ofNat 4 code } }
  (s1.logEvent 0x38 .ctx v (BitVec.ofNat 32 count) (BitVec.ofNat 32 code) 0).pageEvent .ctx 1

/-- Contributions ordered before a command (R129): kind-0 ordinals not folded with an accepted row in its range, and for
a row-block whose tree messages wait here, its final record. -/
def State.ctxWaitFor (s : State) (first count : Nat) : List (Nat × Nat) :=
  s.chains.flatMap (fun c =>
    let hit := fun r => decide (first ≤ c.ctxOf r) && decide (c.ctxOf r < first + count)
    if c.d.hasStat then
      (c.arrivals.filter (fun a => !a.kind && decide (c.folded ≤ a.ord) && (((a.rows.getD []).zipIdx).any (fun br =>
        br.1 && hit br.2)))).map (fun a => (c.uid, a.ord))
      ++ (if c.d.treeScoped && !c.final && (List.range c.d.rows).any hit && s.tree.held.any (fun h =>
            decide (h.ctx = c.d.ctxFirst) && h.gen == c.d.gen) then [(c.uid, 65536)] else [])
    else [])

/-- A contribution that a command waits for has folded or been withdrawn (R129). -/
def State.ctxSettled (s : State) (w : Nat × Nat) : Bool :=
  match s.chainOf w.1 with
  | none => true
  | some c => if w.2 = 65536 then c.final else decide (w.2 < c.folded)

/-- Accepts a DRAIN, CLEAR or ADOPT (R129, R131, R132) (DEDUCED, log entry 8). -/
def State.ctxBegin (s : State) (v : Word) (count : Nat) : State :=
  let op := bitsOf v 31 30
  let first := bitsOf v 19 0
  let lo := first / 128
  let tiles := (List.range ((first + count - 1) / 128 + 1 - lo)).map (· + lo)
  let inR := fun (p : Nat × CtxState) => decide (first ≤ p.1) && decide (p.1 < first + count)
  let cmd : CtxCmd := { v := v, op := op, gen := v.extractLsb' 20 4, first := first, count := count, tiles := tiles,
                        waitFor := if op = 2 then [] else s.ctxWaitFor first count, before := s.ctx.states.filter inR }
  let states := if op = 2 then s.ctx.states
    else s.ctx.states.map (fun p => if inR p then (p.1, { p.2 with draining := true }) else p)
  { s with ctx := { s.ctx with cmd := some cmd, states := states } }

/-- The contexts of the range of a command in a tile. -/
def CtxCmd.inTile (c : CtxCmd) (k : Nat) : List Nat :=
  ((List.range 128).map (· + 128 * k)).filter (fun i => decide (c.first ≤ i) && decide (i < c.first + c.count))

/-- What a DRAIN or CLEAR writes for a tile; nothing where the region is final already (R129, R131). -/
def State.cmdCells (s : State) (c : CtxCmd) (k : Nat) : List (Nat × Byte) :=
  let is := c.inTile k
  if c.op = 1 then
    let also := fun i => if is.contains i then some (Rec.emptyOf c.gen) else none
    match s.ctxLine k with
    | some l => s.tileCells k l.recs also
    | none => is.flatMap (fun i => cellsAt (s.ctx.base.toNat + 16 * i) (Rec.emptyOf c.gen).bytes)
  else
    match s.ctxLine k with
    | some l => if l.dirty then s.tileCells k l.recs (fun _ => none) else []
    | none => is.flatMap (fun i => match s.ctxState i with
        | some st => if st.fresh then cellsAt (s.ctx.base.toNat + 16 * i) (Rec.emptyOf st.gen).bytes else []
        | none => [])

/-- The contexts of the range in a tile become DRAINED, and those whose next generation was accepted open it. -/
def State.tileDrained (s : State) (c : CtxCmd) (k : Nat) : State :=
  let s1 := if c.op = 1 then (c.inTile k).foldl (fun (s : State) i => s.modLine k (fun l =>
      { l with recs := l.recs.set (i % 128) (Rec.emptyOf c.gen) })) s else s
  let s1 : State := { s1 with ctx := { s1.ctx with peeks := dropKey k s1.ctx.peeks } }
  (c.inTile k).foldl (fun (s : State) i => match s.ctxState i with
    | some st => if st.draining then
        if st.nextOpen then s.openCtx i ((if c.op = 1 then c.gen else st.gen) + 1) else s.closeCtx i
      else s
    | none => s) s1

/-- Drops the lines of the range in which no context is OPEN or DRAINING (R129). -/
def State.dropLines (s : State) (c : CtxCmd) : State :=
  let keep := fun (l : CtxLine) =>
    !(decide (c.first / 128 ≤ l.tile) && decide (l.tile ≤ (c.first + c.count - 1) / 128))
    || s.ctx.states.any (fun p => p.1 / 128 == l.tile)
  { s with ctx := { s.ctx with lines := s.ctx.lines.filter keep } }

/-- Replaces the running command. -/
def State.setCtxCmd (s : State) (c : CtxCmd) : State := { s with ctx := { s.ctx with cmd := some c } }

/-- Adopts the DRAINED contexts of a tile from its region records; those that are OPEN or DRAINING by now are skipped, and
the command's code says so (R132, Table 6.8). -/
def State.adoptTile (s : State) (c : CtxCmd) (k : Nat) (recs : List Rec) : State :=
  let is := (c.inTile k).filter s.ctxDrained
  let c1 := { c with tiles := c.tiles.drop 1, out := 0, code := if is = c.inTile k then c.code else 4 }
  let s := if is.isEmpty || s.ctxResident k then s else s.insertLine k recs
  (is.foldl (fun (s : State) i =>
    let r := (recs.getD (i % 128) (Rec.emptyOf 0)).adopt
    ((s.setCtxState i { gen := r.gen }).setCtxRec i r)) s).setCtxCmd c1

/-- Moves the running command on, tile by tile, as far as it goes without a region access (R129, R132). -/
def State.ctxAdvance : Nat → State → State
  | 0, s => s
  | n + 1, s =>
    match s.ctx.cmd with
    | none => s
    | some c =>
      if c.finished || c.out ≠ 0 then s
      else if !c.waitFor.all s.ctxSettled then s
      else match c.tiles with
        | [] => (s.setCtxCmd { c with finished := true }).dropLines c
        | k :: r =>
          if s.ctx.evicting.contains k || s.reading (.ctxPeek k) || s.reading (.ctxLine k) then s
          else if c.op = 2 then
            let skipped := (c.inTile k).any (fun i => !s.ctxDrained i)
            let c1 := if skipped then { c with code := 4 } else c
            if (c.inTile k).any s.ctxDrained then
              (s.setCtxCmd { c1 with out := 1, started := true }).issueRead (.ctxAdopt k) [(s.ctxTileAddr k, 2048)]
            else (s.setCtxCmd { c1 with tiles := r }).ctxAdvance n
          else
            match s.cmdCells c k with
            | [] => ((s.tileDrained c k).setCtxCmd { c with tiles := r, started := true }).ctxAdvance n
            | cells =>
              ((s.modLine k (fun l => { l with dirty := false })).setCtxCmd { c with out := 1, started := true }).issueWrite
                (.ctxCmd k) cells

/-- Moves the running command on. -/
def State.ctxGo (s : State) : State :=
  match s.ctx.cmd with
  | some c => s.ctxAdvance (c.tiles.length + 1)
  | none => s

/-- The contribution of a row of a reverted context is dropped as stale (R128). -/
def State.revertRows (s : State) (lost : List (Nat × BitVec 4)) : State :=
  s.chains.foldl (fun (s : State) c =>
    c.arrivals.foldl (fun (s : State) a =>
      if c.d.hasStat && !a.kind && decide (c.folded ≤ a.ord) then
        let rows := (a.rows.getD []).zipIdx
        let dead := rows.filter (fun br => br.1 && lost.any (fun l => decide (l.1 = c.ctxOf br.2) && l.2 == c.d.gen))
        match dead with
        | [] => s
        | (_, r0) :: _ =>
          let i0 := c.ctxOf r0
          let h := s.ctxHeld i0
          let new := rows.map (fun br => br.1 && !(dead.any (fun d => d.2 == br.2)))
          let s1 := s.modChain c.uid (fun c => { c with
            stale := true,
            arrivals := c.arrivals.map (fun b => if !b.kind && b.ord == a.ord then { b with rows := some new } else b) })
          s1.logStale c.d.tag c.d.gen i0 dead.length h.1 h.2
      else s) s) s

/-- The rows of the checked tree messages of reverted contexts are dropped as stale, likewise (R128). -/
def State.revertMsgs (s : State) (lost : List (Nat × BitVec 4)) : State :=
  s.tree.held.foldl (fun (s : State) h =>
    let rows := h.rows.zipIdx
    let dead := rows.filter (fun br => br.1 && lost.any (fun l => decide (l.1 = h.ctx + br.2) && l.2 == h.gen))
    match h.stage, dead with
    | 2, (_, r0) :: _ =>
      let i0 := h.ctx + r0
      let q := s.ctxHeld i0
      let new := rows.map (fun br => br.1 && !(dead.any (fun d => d.2 == br.2)))
      let owner := s.chains.find? (fun c => c.d.ctxFirst == h.ctx && c.d.gen == h.gen)
      let s1 := match owner with
        | some c =>
          let kept := fun (r : Nat) => (lookupKey r c.folds).isSome || s.tree.held.any (fun g =>
            g != h && g.stage == 2 && !g.down && g.ctx == h.ctx && g.gen == h.gen && g.rows.getD r false)
          s.modChain c.uid (fun c => { c with
            stale := true, live := c.live.zipIdx.map (fun (p : Bool × Nat) => p.1
              && (kept p.2 || !dead.any (fun d => d.2 == p.2))) })
        | none => s
      let s2 : State := { s1 with tree := { s1.tree with held := s1.tree.held.map (fun g =>
          if g == h then { g with rows := new } else g) } }
      s2.logStale ((owner.map (·.d.tag)).getD 0) h.gen i0 dead.length q.1 q.2
    | _, _ => s) s

/-- A region access of the running command failed (R128) (DEDUCED, log entry 35). -/
def State.ctxFail (s : State) (k : Nat) : State :=
  match s.ctx.cmd with
  | none => s
  | some c =>
    let idx := Nat.max c.first (128 * k)
    let c1 : CtxCmd := { c with code := 3, errIndex := idx, finished := true, out := 0, tiles := [] }
    if c.op = 2 then s.setCtxCmd c1
    else
      let inR := fun i => decide (idx ≤ i) && decide (i < c.first + c.count)
      let lost := (s.ctx.states.filter (fun p => inR p.1 && p.2.nextOpen)).map
        (fun p => (p.1, (if c.op = 1 then c.gen else p.2.gen) + 1))
      let kept := s.ctx.states.filter (fun p => !inR p.1)
      let back := c.before.filter (fun p => inR p.1)
      let fresh := fun i => match s.ctxState i with | some st => st.fresh | none => false
      let states := back.foldl (fun st p => Store.insert st p.1 { p.2 with
        fresh := p.2.fresh && fresh p.1 }) kept
      let s1 : State := { s with ctx := { s.ctx with states := states } }
      let s2 := (s1.modLine k (fun l => { l with dirty := true })).setCtxCmd c1
      (s2.revertRows lost).revertMsgs lost

/-- A write of DL_CTX_DRAIN, as far as it is judged at once (R128): none where the command is to run. A count of 0 with a
FIRST above the limit is judged by its range first; the manual does not say (DESIGN CHOICE, log entry 92). -/
def State.ctxRefusal (s : State) (v : Word) : Option Nat :=
  if s.ctx.cmdBusy then some 1
  else if bitsOf v 31 30 = 3 || decide (bitsOf v 19 0 + s.ctx.drainCount.toNat > s.ctx.limit.toNat) then some 2
  else if s.ctx.drainCount = 0 then some 0
  else none

/-- CTX_CMD_DONE: the running command completes (R128) (DEDUCED, log entry 35). -/
def State.ctxCmdDone (s : State) : State :=
  match s.ctx.cmd with
  | some c =>
    if c.finished then
      let s1 : State := { s with ctx := { s.ctx with cmd := none, cmdBusy := false,
                                                     errIndex := if c.code = 3 then BitVec.ofNat 20 c.errIndex else s.ctx.errIndex } }
      s1.ctxReport c.v c.count c.code
    else s
  | none => s

/-- Contexts OPEN or DRAINING (Table 15.7). -/
def State.ctxOpen (s : State) : Nat :=
  match s.ctx.cmd with
  | some c => match c.tiles with
    | k :: _ =>
      if c.op = 1 then
        let lo := Nat.max c.first (128 * k)
        s.ctx.states.length + (c.first + c.count - lo)
          - (s.ctx.states.filter (fun p => decide (lo ≤ p.1) && decide (p.1 < c.first + c.count))).length
      else s.ctx.states.length
    | [] => s.ctx.states.length
  | none => s.ctx.states.length

/-- DL_CTX_QRESULT for an index whose generation is on chip (Table 15.7) (DEDUCED, log entry 8). -/
def State.queryWord (s : State) (i : Nat) : Word :=
  if i < s.ctx.limit.toNat then
    let h := s.ctxHeld i
    BitVec.ofNat 32 (2 ^ 31 + h.1 * 2 ^ 28 + h.2.toNat * 2 ^ 24 + b2n (s.ctxResident (i / 128)) * 2 ^ 16)
  else 0

end Sys2Proof.Machine
end

