-- ==== Sys2Proof/Machine/Replay.lean ====
section
/-! DEFINITION. The step-start state (R226 to R229): registry entries as bytes (Table 9.2), retained steps and the replay
log. -/
namespace Sys2Proof.Machine

/-! ## Registry entries as bytes -/

/-- Bytes 72 to 75 of an entry (Table 9.2). -/
def RegEntry.flagWord (e : RegEntry) : Word :=
  BitVec.ofNat 32 (e.dormRun.toNat * 2 ^ 16 + b2n e.rsv * 2 ^ 15 + b2n e.isOpen * 2 ^ 14 + b2n e.dormant * 2 ^ 13
    + b2n e.cold * 2 ^ 12 + b2n e.smax * 2 ^ 11 + e.hcount.toNat * 2 ^ 6 + e.level.toNat * 2 ^ 3 + e.kind.toNat)

/-- The 32 words of an entry. -/
def RegEntry.words (e : RegEntry) : List Word :=
  (List.range 16).map (fun i => e.hist.getD i 0) ++ [e.scale, e.amax, e.flagWord, e.wstep]
  ++ (List.range 5).map (fun i => e.cur.getD i 0) ++ (List.range 5).map (fun i => e.last.getD i 0) ++ [e.lstep, e.rsvWord]

/-- The 128 bytes of an entry (Table 9.2). -/
def RegEntry.bytes (e : RegEntry) : List Byte := e.words.flatMap wordBytes

/-- Reads an entry from its 32 words. -/
def RegEntry.ofWords (ws : List Word) : RegEntry :=
  let w := fun i => ws.getD i 0
  let f := w 18
  { hist := ws.take 16, scale := w 16, amax := w 17, dormRun := f.extractLsb' 16 16, rsv := bitOf f 15,
    isOpen := bitOf f 14, dormant := bitOf f 13, cold := bitOf f 12, smax := bitOf f 11, hcount := f.extractLsb' 6 5,
    level := f.extractLsb' 3 3, kind := f.extractLsb' 0 3, wstep := w 19, cur := (ws.drop 20).take 5,
    last := (ws.drop 25).take 5, lstep := w 30, rsvWord := w 31 }

/-- Reads an entry from 128 bytes. -/
def RegEntry.ofBytes (bs : List Byte) : RegEntry := .ofWords (wordsOf 32 bs)

/-- The recipe applies: KIND W, A, G, E or S (Table 9.3) (DEDUCED, log entry 47). -/
def RegEntry.registered (e : RegEntry) : Bool := decide (1 ≤ e.kind.toNat) && decide (e.kind.toNat ≤ 5)

/-- The entry after a REGISTER (Table 9.5). -/
def RegEntry.registerAs (e : RegEntry) (smax : Bool) (level kind : BitVec 3) : RegEntry :=
  let r : RegEntry := { kind := kind, level := level, smax := smax, rsv := e.rsv, rsvWord := e.rsvWord }
  { r with cold := r.registered }

/-- Store address of an entry (R195). -/
def State.regAddr (s : State) (tid : Nat) : Nat := s.num.base.toNat + 128 * tid

/-! ## Retained steps -/

/-- A step is retained (R228). -/
def State.retainedAt (s : State) (w : Word) : Bool := s.img.retained.any (fun c => c.step == w)

/-- The copy of a retained step. -/
def State.copyOf (s : State) (w : Word) : Option StepCopy := s.img.retained.find? (fun c => c.step == w)

/-- The lowest step of a list (R303). -/
def lowestStep (ws : List Word) : Option Word :=
  ws.foldl (fun a w => match a with
    | none => some w
    | some b => if stepBelow w b then some w else some b) none

/-- The step under EXPORT (R229). -/
def State.exporting (s : State) : Option Word :=
  match s.img.cmd with
  | some c => if c.op = 3 then some c.step else none
  | none => none

/-- A ROLLBACK runs (R231). -/
def State.rollingBack (s : State) : Bool :=
  match s.img.cmd with
  | some c => c.op == 2 && !c.finished
  | none => false

/-- A record is needed by the EXPORT that runs (R239, R248). -/
def State.exportNeeds (s : State) (tag : Word) : Bool :=
  match s.exporting with
  | some e => !stepBelow tag e
  | none => false

/-- Drops the copy and the records of a step; records that an EXPORT needs stay until it ends (R248). -/
def State.freeStep (s : State) (w : Word) : State :=
  { s with img := { s.img with
      retained := s.img.retained.filter (fun c => c.step != w),
      log := s.img.log.filter (fun r => r.1 != w || s.exportNeeds r.1) } }

/-- The records of steps that are no longer retained go when an EXPORT ends. -/
def State.purgeLog (s : State) : State :=
  { s with img := { s.img with log := s.img.log.filter (fun r => s.retainedAt r.1) } }

/-- Releases an unchecked step, logging REPLAY_UNCOVERED (R228, R229). -/
def State.releaseStep (s : State) (w : Word) : State := (s.freeStep w).logEvent 0x58 .img w 0 0 0

/-- Records the replay log holds (R229) (DEDUCED, log entry 56). -/
def State.imgLogSlots (s : State) : Nat := s.img.logSize.toNat / 144

/-- ITER as the snapshot of the next token finds it (R218, R214): a written value replaces the advance. -/
def SchGroup.nextIter (g : SchGroup) : Word := g.load.getD (if g.released then g.iter + 1 else g.iter)

/-- The engine's state of every group when a window opens, for a copy (Table 11.1): ITER as advanced by the token
(DEDUCED, log entry 98). -/
def SchUnit.copyWords (u : SchUnit) : List (List Word) :=
  u.groups.map (fun g => [g.nextIter, g.gstat, g.eta, g.gstep, BitVec.ofNat 32 (b2n g.given)])

/-- The steps that a token opening `t` releases: those below t - 3 (R228), and those above t, since at most the current step
and three earlier ones are retained (DESIGN CHOICE, log entry 56). -/
def State.released (s : State) (t : Word) : List Word :=
  (s.img.retained.map (·.step)).filter (fun w => (stepBelow w (t - 3) || stepAbove w t) && s.exporting != some w)

/-- A step token that opens `t` retains it as it stands now: records of an earlier opening of `t` are gone, and the steps
released are answered, to be logged (R228). With no replay log no step is retained (R229). -/
def State.retainStep (s : State) (t : Word) : State × List Word :=
  let s1 : State := { s with img := { s.img with stopped := false } }
  let old := s1.released t
  let s2 := (old.foldl (fun (s : State) w => s.freeStep w) s1).freeStep t
  if s2.img.logSize = 0 || !stepAbove t s2.img.checked then (s2, old)
  else
    let copy : StepCopy := { step := t, seed := s2.num.seed, groups := s2.sch.copyWords }
    ({ s2 with img := { s2.img with retained := s2.img.retained ++ [copy], everRetained := true } }, old)

/-- REPLAY_UNCOVERED for each step released (R228). -/
def State.logReleased (s : State) (ws : List Word) : State := ws.foldl (fun (s : State) w => s.logEvent 0x58 .img w 0 0 0) s

/-- Makes room in the replay log, or stops recording (R229). -/
def State.makeRoom : Nat → State → State
  | 0, s => s
  | n + 1, s =>
    if s.img.log.length < s.imgLogSlots then s
    else
      match lowestStep ((s.img.retained.map (·.step)).filter (fun w => w != s.step && s.exporting != some w)) with
      | some w => (s.releaseStep w).makeRoom n
      | none =>
        let s1 := s.freeStep s.step
        let s2 : State := { s1 with img := { s1.img with stopped := true, logOvf := true } }
        (s2.logEvent 0x59 .img s.step 0 0 0).pageEvent .img 4

/-- Before the first change attributed to window `w` of an entry, the entry as it stands is recorded (R229)
(DEDUCED, log entry 56). -/
def State.recordEntry (s : State) (tid : Nat) (w : Word) (e : RegEntry) : State :=
  if !s.retainedAt w || s.img.stopped || s.img.log.any (fun r => r.1 == w && r.2.1 == tid) then s
  else
    let s := s.makeRoom 5
    if !s.retainedAt w || s.img.stopped then s
    else
      let used := s.img.log.map (fun r => r.2.2)
      let n := s.imgLogSlots
      let place := ((List.range (n + 1)).map (fun i => (s.img.logHead + i) % n)).find? (fun i => !used.contains i)
      let k := place.getD 0
      let bytes := wordBytes w ++ leBytes 2 tid ++ leBytes 10 0 ++ e.bytes
      let s1 : State := { s with img := { s.img with log := s.img.log ++ [(w, tid, k)], logHead := (k + 1) % n } }
      s1.issueWrite .imgLog (cellsAt (s.img.logBase.toNat + 144 * k) bytes)

end Sys2Proof.Machine
end

