-- ==== Sys2Proof/Machine/Numerics.lean ====
section
/-! DEFINITION. The tensor registry (chapter 9): its cache, the scale recipe, step windows, health counts, dormancy, the
widening check and the registry commands. -/
namespace Sys2Proof.Machine

/-! ## The outputs of a chain -/

/-- A tile of a tensor id is being decoded: an item that has begun and is not done reads it (R196). -/
def State.tidDecoding (s : State) (tid : Nat) : Bool :=
  s.chains.any (fun c => hasTensorScale c.d.inFmt && c.items.any (fun it => it.ready && !it.done
    && c.arrivals.any (fun a => a.ord == it.ord && a.itid.toNat == tid)))

/-- The outputs a chain writes under a tensor id: 1 or 2, the id, the format (R191, Table 7.1). The losses of CH_XENT are
formed by NM and go under no id. -/
def ChainDesc.outIds (d : ChainDesc) : List (Nat × Nat × Nat) :=
  (if d.writesOut then [(1, d.tid.toNat, d.outFmt)] else [])
  ++ (if d.mergesTiles || d.resid then [(2, d.tid2.toNat, d.out2Fmt)] else [])

/-- A chain that holds a slot names the id as TID or TID2 (R196). -/
def State.tidNamed (s : State) (tid : Nat) : Bool := s.chains.any (fun c => c.d.outIds.any (fun o => o.2.1 == tid))

/-! ## The registry cache -/

def State.regLine (s : State) (tid : Nat) : Option RegLine := s.num.lines.find? (fun l => l.tid == tid)

/-- Replaces an entry in the cache. -/
def State.setEntry (s : State) (tid : Nat) (e : RegEntry) : State :=
  { s with num := { s.num with
      lines := s.num.lines.map (fun l => if l.tid == tid then { l with e := e, dirty := true } else l) } }

/-- Evicts the least recently used entry that is not locked (R196). -/
def State.evictEntry (s : State) : State :=
  match (s.num.lines.filter (fun l => !s.tidNamed l.tid && !s.tidDecoding l.tid)).foldl (fun v (l : RegLine) => match v with
    | none => some l
    | some q => if l.used < q.used then some l else some q) (none : Option RegLine) with
  | none => s
  | some l =>
    let s1 : State := { s with num := { s.num with lines := s.num.lines.filter (fun q => q.tid != l.tid) } }
    if l.dirty then
      let s2 := s1.issueWrite (.regBack l.tid) (cellsAt (s.regAddr l.tid) l.e.bytes)
      { s2 with num := { s2.num with evicting := s2.num.evicting ++ [l.tid] } }
    else s1

/-- Takes an entry into the cache. -/
def State.insertEntry (s : State) (tid : Nat) (e : RegEntry) : State :=
  let s := if s.num.lines.length ≥ 1024 then s.evictEntry else s
  let s := s.spend 12 1
  let line : RegLine := { tid := tid, e := e, dirty := false, used := s.num.clock + 1 }
  { s with num := { s.num with clock := s.num.clock + 1, lines := s.num.lines ++ [line] } }

/-- A ROLLBACK has emptied the cache, and entries wait for its end (R231). -/
def State.cacheEmptied (s : State) : Bool :=
  match s.img.cmd with
  | some c => c.op == 2 && !c.finished && c.stage != 0
  | none => false

/-- An entry, or the start of its read (TEN_MISS). -/
def State.needEntry (s : State) (tid : Nat) : State × Option RegEntry :=
  match s.regLine tid with
  | some l =>
    ({ s with num := { s.num with
        clock := s.num.clock + 1,
        lines := s.num.lines.map (fun q => if q.tid == tid then { q with used := s.num.clock + 1 } else q) } }, some l.e)
  | none =>
    if s.num.evicting.contains tid || s.reading (.regEntry tid) || s.cacheEmptied then (s, none)
    else ((s.count 22 1).issueRead (.regEntry tid) [(s.regAddr tid, 128)], none)

/-! ## The recipe -/

/-- The largest history entry (R200). -/
def RegEntry.ref (e : RegEntry) : Word := (e.hist.take (Nat.min 16 e.hcount.toNat)).foldl fmax 0

/-- The margin of Table 9.6. -/
def marginOf (kind : Nat) : Nat := match kind with | 1 => 0 | 4 => 2 | _ => 1

/-- FP32 code of 2^k for k from -126 to 127. -/
def pow2Word (k : Int) : Word := BitVec.ofNat 32 ((k + 127).toNat * 2 ^ 23)

/-- The recipe of R200 on a reference value (DEDUCED, log entry 47). -/
def RegEntry.recipe (e : RegEntry) (ref : Word) : Word :=
  let mg := marginOf e.kind.toNat + b2n e.cold
  let mx := if e.smax then 57344 else 448
  match f32 ref with
  | .fin false n d =>
    if n = 0 then one32
    else
      let q := n * 2 ^ mg
      let r := d * mx
      let k := floorLog2 q r
      let k := if gePow2 r q (-k) then k else k + 1
      pow2Word (Max.max (-126) (Min.min 127 k))
  | .inf false => pow2Word 127
  | _ => pow2Word ((Config.freeBinade ref % 254 : Nat) - 126)

/-! ## Windows -/

/-- The window of an id and a step. -/
def State.window (s : State) (tid : Nat) (step : Word) : Option TenWindow :=
  s.num.windows.find? (fun w => w.tid == tid && w.step == step)

/-- Updates the window of an id and a step. -/
def State.modWindow (s : State) (tid : Nat) (step : Word) (f : TenWindow → TenWindow) : State :=
  { s with num := { s.num with
      windows := s.num.windows.map (fun w => if w.tid == tid && w.step == step then f w else w) } }

/-- A window of the id earlier than a step is pending (R202, R227). -/
def State.earlierPending (s : State) (tid : Nat) (step : Word) : Bool :=
  s.num.windows.any (fun w => w.tid == tid && stepBelow w.step step)

/-- The T fixed for an id and a step, if any (R200). -/
def State.fixedT (s : State) (tid : Nat) (step : Word) : Option Word :=
  match (s.window tid step).bind (·.t) with
  | some t => some t
  | none => (s.num.decodeT.find? (fun p => p.1 == tid && p.2.1 == step)).map (·.2.2)

/-- Keeps a T for the chains of a step (R194, R200). -/
def State.keepT (s : State) (tid : Nat) (step t : Word) : State :=
  { s with num := { s.num with decodeT := s.num.decodeT ++ [(tid, step, t)] } }

/-- Before an entry changes for a later window, or as a window closes, the T of each running chain's step that has none
yet is what the entry gives it now: SCALE as stored in cold start, 1.0 for UNREG, otherwise the recipe (R200)
(DEDUCED, log entry 48). -/
def State.keepTs (s : State) (tid : Nat) (step : Word) (e : RegEntry) : State :=
  (((s.chains.filter (fun c => c.admitted && !stepAbove c.step step)).map (·.step)).eraseDups).foldl
    (fun (s : State) w =>
      if (s.fixedT tid w).isSome then s
      else s.keepT tid w (if !e.registered then one32 else if e.cold then e.scale else e.recipe e.ref)) s

/-- TEN_COLD_OVERLAP of an admission in a step (R204, R250). -/
def State.logOverlap (s : State) (tid : Nat) (step addr : Word) (tag : BitVec 16) : State :=
  let s1 := ({ s with step := step } : State).logEvent 0x4D .ten (BitVec.ofNat 32 tid) addr 0 0 tag
  ({ s1 with step := s.step } : State).pageEvent .ten 3

/-- A chain admitted in a step makes the windows of its ids pending (R201), and R204 judges its overlap by COLD as it
stands in the entry; an entry that is not on chip is read for it. -/
def State.openPending (s : State) (uid : Nat) (addr : Word) (tag : BitVec 16) (step : Word) (ids : List Nat)
    (others : List Chain) : State :=
  ids.foldl (fun (s : State) tid =>
    let overlap := others.any (fun c => c.d.outIds.any (fun o => o.2.1 == tid))
    let s1 : State := match s.window tid step with
      | some _ => s.modWindow tid step (fun w => { w with chains := w.chains ++ [uid] })
      | none =>
        let w : TenWindow := { tid := tid, step := step, chains := [uid], t := s.fixedT tid step }
        { s with num := { s.num with windows := s.num.windows ++ [w] } }
    if overlap then
      match s1.regLine tid with
      | some l => if l.e.cold then s1.logOverlap tid step addr tag else s1
      | none =>
        (({ s1 with num := { s1.num with judges := s1.num.judges ++ [(tid, step, addr, tag)] } } : State).needEntry tid).1
    else s1) s

/-- Judges the overlaps that waited for an entry (R204). -/
def State.judgeCold (s : State) (tid : Nat) (cold : Bool) : State :=
  let due := s.num.judges.filter (fun j => j.1 == tid)
  let s1 : State := { s with num := { s.num with judges := s.num.judges.filter (fun j => j.1 != tid) } }
  if cold then due.foldl (fun (s : State) j => s.logOverlap tid j.2.1 j.2.2.1 j.2.2.2) s1 else s1

/-- Starts the reads that the judgements of R204 wait for. -/
def State.judgesGo (s : State) : State := s.num.judges.foldl (fun (s : State) j => (s.needEntry j.1).1) s

/-- Fixes T of a window for its writers: it goes to the store before any element (R193, R201) (DEDUCED, log entry 48). -/
def State.openWindow (s : State) (tid : Nat) (step : Word) (e : RegEntry) (t : Word) (uid : Nat) : State :=
  let s0 := s.modWindow tid step (fun w => { w with
    t := some t, opened := true, registered := e.registered, first := some (w.first.getD uid) })
  let s1 := (s0.keepTs tid step e).recordEntry tid step e
  let s2 := s1.setEntry tid { e with scale := t }
  s2.issueWrite (.regScale tid) (cellsAt (s.regAddr tid + 64) (wordBytes t))

/-- What a write of an output needs (R193, R200, R202): T, once every earlier window is closed, T is fixed and the store
holds it. `pre` is the chain's AMAX_PRE when it ran the pre-pass. -/
def State.outScale (s : State) (uid : Nat) (step : Word) (tid fmt : Nat) (pre : Option Word) : State × Option Word :=
  let (s, e?) := s.needEntry tid
  match e?, s.window tid step with
  | some e, some w =>
    if s.earlierPending tid step then (s, none)
    else if w.opened then (s, if w.stored then w.t else none)
    else
      let t? : Option Word :=
        if s.gen3 then some one32
        else match w.t with
          | some t => some t
          | none =>
            if !e.registered then some one32
            else if e.cold && hasTensorScale fmt then
              (if w.first.getD uid = uid then pre.map (fun p => e.recipe (fmax e.ref p)) else none)
            else some (e.recipe e.ref)
      match t? with
      | some t => (s.openWindow tid step e t uid, none)
      | none => (s, none)
  | _, _ => (s, none)

/-- Whether an output needs a pre-pass now (R203): none while that is not known. With COLD = 0 none is run, whatever window
is pending, and the stages before EP proceed (R202); a cold entry waits for the earlier windows, which may end its cold
start. -/
def State.preNeeded (s : State) (uid : Nat) (step : Word) (tid fmt : Nat) : State × Option Bool :=
  if s.gen3 || !hasTensorScale fmt then (s, some false)
  else
    let (s, e?) := s.needEntry tid
    match e?, s.window tid step with
    | some e, some w =>
      if !e.registered || !e.cold || w.t.isSome then (s, some false)
      else if s.earlierPending tid step then (s, none)
      else match w.first with
        | none => (s, some true)
        | some u => if u = uid then (s, some true) else (s, none)
    | _, _ => (s, none)

/-- The first writer of a cold window begins its pre-pass (R203). -/
def State.beginPre (s : State) (uid : Nat) (step : Word) (tid : Nat) : State :=
  match s.window tid step with
  | none => s
  | some w =>
    let s1 := s.modWindow tid step (fun w => { w with first := some uid, coldLogged := true })
    if w.coldLogged then s1
    else s1.logEvent 0x4B .ten (BitVec.ofNat 32 tid) step 0 0 (((s.chainOf uid).map (·.d.tag)).getD 0)

/-- The T that a decode of a tile uses (R194, R200, R202); none while it waits. A T that is fixed for the step stands,
whatever the entry has become. -/
def State.decodeScale (s : State) (step : Word) (tid fmt : Nat) : State × Option Word :=
  if s.gen3 || !hasTensorScale fmt then (s, some one32)
  else if s.earlierPending tid step then (s, none)
  else match s.fixedT tid step with
    | some t => (s, some t)
    | none =>
      let (s, e?) := s.needEntry tid
      match e? with
      | none => (s, none)
      | some e =>
        if e.registered && e.cold then (s, some e.scale)
        else
          let t := if e.registered then e.recipe e.ref else one32
          let s1 := if e.registered then (s.recordEntry tid step e).setEntry tid { e with scale := t } else s
          (if (s1.window tid step).isSome then s1.modWindow tid step (fun w => { w with t := some t })
            else s1.keepT tid step t, some t)

/-! ## Health counts -/

/-- Counts of Table 9.7 to add: ELEMS, ZEROS, UFL, SAT, NONFIN. -/
def healthOf (outs : List ElemOut) (scaleSat : Nat) : List Nat :=
  let n := fun (p : ElemOut → Bool) => (outs.filter p).length
  [outs.length, n (fun o => o.zero && !o.nonfin), n (·.unf), n (·.sat) + scaleSat, n (·.nonfin)]

/-- The first element of a window opens it: OPEN and WSTEP (R201). -/
def State.firstWrite (s : State) (tid : Nat) (step : Word) : State :=
  match s.window tid step, s.regLine tid with
  | some w, some l =>
    if w.wrote then s
    else
      ((s.recordEntry tid step l.e).setEntry tid { l.e with isOpen := true, wstep := step }).modWindow tid step
        (fun w => { w with wrote := true })
  | _, _ => s

/-- Adds a write's counts and AMAX to its entry (R199, R205), and to the counters of Table 16.5; `wrote` tells that it
holds an element. -/
def State.countWritten (s : State) (tid : Nat) (fmt : Nat) (step : Word) (h : List Nat) (amax : Word) (wrote : Bool)
    (tag : BitVec 16) : State :=
  let s := ((s.count 7 (h.getD 4 0)).count 8 (h.getD 2 0)).count 9 (h.getD 3 0)
  let s := if wrote then s.firstWrite tid step else s
  match s.regLine tid with
  | none => s
  | some l =>
    let cur := (List.range 5).map (fun i => BitVec.ofNat 32 (satAdd 32 (l.e.cur.getD i 0).toNat (h.getD i 0)))
    let s1 := s.setEntry tid { l.e with cur := cur, amax := fmax l.e.amax amax }
    match rungOf fmt, s1.window tid step with
    | some r, some w =>
      if r < Nat.min 4 l.e.level.toNat && !w.belowLogged then
        let s2 := s1.modWindow tid step (fun w => { w with belowLogged := true })
        (s2.logEvent 0x49 .num (BitVec.ofNat 32 (tid * 2 ^ 16 + fmt)) (BitVec.ofNat 32 l.e.level.toNat) 0 0 tag).pageEvent .num 2
      else s1
    | _, _ => s1

/-! ## Closing a window -/

/-- A window that can close (R201) (DEDUCED, log entry 48). -/
def TenWindow.closable (w : TenWindow) : Bool := w.later && w.chains.isEmpty

/-- Drops a window. -/
def State.dropWindow (s : State) (tid : Nat) (step : Word) : State :=
  { s with num := { s.num with windows := s.num.windows.filter (fun w => !(w.tid == tid && w.step == step)) } }

/-- The dormancy alarm at a closing (R206): the entry's LAST holds the window's counts. -/
def State.dormancy (s : State) (tid : Nat) (e : RegEntry) : State :=
  let elems := e.last.getD 0 0
  let zeros := e.last.getD 1 0
  if elems = 0 then s.setEntry tid e
  else
    let all := zeros == elems
    let run : BitVec 16 := if all then BitVec.ofNat 16 (satAdd 16 e.dormRun.toNat 1) else 0
    let e1 := { e with dormRun := run }
    let n := if s.num.dormN = 0 then 1 else s.num.dormN.toNat
    if !e.dormant && decide (run.toNat ≥ n) && e.registered && bitOf s.num.kmask (e.kind.toNat - 1) then
      ((s.setEntry tid { e1 with dormant := true }).logEvent 0x4E .ten (BitVec.ofNat 32 tid) e.lstep
        (BitVec.ofNat 32 run.toNat) 0).pageEvent .ten 2
    else if e.dormant && decide (zeros.toNat < elems.toNat) then
      (s.setEntry tid { e1 with dormant := false }).logEvent 0x4F .ten (BitVec.ofNat 32 tid) e.lstep 0 0
    else s.setEntry tid e1

/-- What the closing of a written window does to its entry (R201): the history push, which UNREG has none of (Table 9.3) nor
Gen-3 mode (R211), and the counts. -/
def RegEntry.closed (e : RegEntry) (push : Bool) : RegEntry :=
  let e1 := if push then
      { e with hist := e.amax :: e.hist.take 15, hcount := BitVec.ofNat 5 (Nat.min (e.hcount.toNat + 1) 16) } else e
  { e1 with last := e1.cur, lstep := e1.wstep, cur := List.replicate 5 0, amax := 0, isOpen := false }

/-- TENSOR_WINDOW_CLOSE of an id: its earliest closable window closes (R201); one without a written element changes
nothing. T stays known to chains of the window that still decode (R194). A ROLLBACK that runs drops the windows itself
(R231) (DEDUCED, log entry 48). -/
def State.closeWindow (s : State) (tid : Nat) : State :=
  if s.recallBegun then s else
  match s.num.windows.find? (fun w => w.tid == tid && w.closable && !s.earlierPending tid w.step) with
  | none => s
  | some w =>
    let kept := fun (s : State) => match w.t with
      | some t => s.keepT tid w.step t
      | none => s
    if !w.wrote then kept (s.dropWindow tid w.step)
    else
      let (s, e?) := s.needEntry tid
      match e? with
      | none => s
      | some e =>
        let push := w.registered && !s.gen3
        let s1 := kept ((s.keepTs tid w.step e).recordEntry tid w.step e |>.dropWindow tid w.step)
        let s2 := s1.dormancy tid (e.closed push)
        match s2.regLine tid with
        | some l => if push && l.e.cold && decide (l.e.hcount.toNat ≥ 16) then
            (s2.setEntry tid { l.e with cold := false }).logEvent 0x4C .ten (BitVec.ofNat 32 tid) l.e.lstep 0 0
          else s2
        | none => s2

/-- A chain's completion word is written: it leaves its windows (R160, R201). -/
def State.leaveWindows (s : State) (uid : Nat) : State :=
  { s with num := { s.num with windows := s.num.windows.map (fun w => { w with chains := w.chains.filter (· != uid) }) } }

/-! ## The widening check -/

/-- A limit field of Table 9.9 for a kind 1 to 5 (DEDUCED, log entry 49). -/
def widenLimit (w : Word) (kind : Nat) : Nat := bitsOf w (5 * kind - 1) (5 * kind - 5)

/-- Whether an output's counts trigger (R207) (DEDUCED, log entry 49). -/
def triggers (c : OutCount) (ls lu : Nat) : Bool :=
  (decide (ls ≠ 0) && decide (c.sat * 2 ^ ls > c.elems)) || (decide (lu ≠ 0) && decide (c.ufl * 2 ^ lu > c.elems))

/-- The outputs of a chain that trigger: (tid, format, rung, counts) (DEDUCED, log entry 49). -/
def State.widenings (s : State) (c : Chain) : List (Nat × Nat × Nat × OutCount) :=
  if s.gen3 then []
  else c.d.outIds.filterMap (fun o =>
    let n := if o.1 = 1 then c.count1 else c.count2
    match s.regLine o.2.1, rungOf o.2.2 with
    | some l, some r =>
      if l.e.registered && decide (r ≤ 3)
          && triggers n (widenLimit c.limSat l.e.kind.toNat) (widenLimit c.limUfl l.e.kind.toNat) then
        some (o.2.1, o.2.2, r, n)
      else none
    | _, _ => none)

/-- What triggers do (R208): LEVEL, NUM_WIDEN and DL_NUM_LAST_WIDEN. -/
def State.widen (s : State) (c : Chain) : State :=
  (s.widenings c).foldl (fun (s : State) o =>
    let s1 := match s.regLine o.1 with
      | some l => (s.recordEntry o.1 c.step l.e).setEntry o.1
          { l.e with level := BitVec.ofNat 3 (Nat.max l.e.level.toNat (o.2.2.1 + 1)) }
      | none => s
    let s2 : State := if s1.num.lastValid then { s1 with num := { s1.num with lastOvf := true } }
      else { s1 with num := { s1.num with
        lastValid := true, lastOvf := false, lastFmt := BitVec.ofNat 4 o.2.1, lastTid := BitVec.ofNat 16 o.1 } }
    (s2.logEvent 0x48 .num (BitVec.ofNat 32 (o.1 * 2 ^ 16 + o.2.1)) (BitVec.ofNat 32 o.2.2.2.sat)
      (BitVec.ofNat 32 o.2.2.2.ufl) 0 c.d.tag).pageEvent .num 1) s

/-! ## Registry commands -/

/-- A registry command reports its code (R198). -/
def State.tenReport (s : State) (v : Word) (count code : Nat) : State :=
  let s1 : State := { s with num := { s.num with cmdErr := BitVec.ofNat 3 code } }
  (s1.logEvent 0x4A .ten v (BitVec.ofNat 32 count) (BitVec.ofNat 32 code) 0).pageEvent .ten 1

/-- Replaces the running registry command. -/
def State.setTenCmd (s : State) (c : TenCmd) : State := { s with num := { s.num with cmd := some c } }

/-- What one entry of a command comes to. -/
inductive TenDone where
  | done (s : State)
  | inUse
  | waitWindow
  | waitEntry (s : State)

/-- Processes one entry (Table 9.5). -/
def State.tenEntry (s : State) (c : TenCmd) (tid : Nat) : TenDone :=
  if s.tidNamed tid then .inUse
  else if c.op = 4 then
    match s.regLine tid with
    | none => if s.num.evicting.contains tid || s.reading (.regEntry tid) then .waitEntry s else .done s
    | some l =>
      let s1 : State := { s with num := { s.num with lines := s.num.lines.filter (fun q => q.tid != tid) } }
      if l.dirty then
        let s2 := s1.issueWrite (.regBack tid) (cellsAt (s.regAddr tid) l.e.bytes)
        .done { s2 with num := { s2.num with evicting := s2.num.evicting ++ [tid] } }
      else .done s1
  else if s.earlierPending tid c.step then .waitWindow
  else
    let (s1, e?) := s.needEntry tid
    match e? with
    | none => .waitEntry s1
    | some e =>
      let s2 := s1.recordEntry tid c.step e
      match c.op with
      | 1 =>
        let s3 : State := { s2 with num := { s2.num with
          windows := s2.num.windows.filter (fun w => w.tid != tid), decodeT := s2.num.decodeT.filter (fun p => p.1 != tid) } }
        .done (s3.setEntry tid (e.registerAs (bitOf c.v 27) (c.v.extractLsb' 24 3) (c.v.extractLsb' 21 3)))
      | 2 => .done (s2.setEntry tid { e with
          smax := bitOf c.v 27, level := c.v.extractLsb' 24 3, kind := c.v.extractLsb' 21 3 })
      | _ => .done (s2.setEntry tid { e with cur := List.replicate 5 0 })

/-- An entry in use is skipped: the command's one STATE fault (R198, R295). -/
def State.tenInUse (s : State) (c : TenCmd) : State := if c.code = 3 then s else s.regFault .ten .state c.rq 0x044

/-- Moves the command on entry by entry; those that wait for a window are set aside (R227). -/
def State.tenAdvance : Nat → State → State
  | 0, s => s
  | n + 1, s =>
    match s.num.cmd with
    | none => s
    | some c =>
      if c.finished then s
      else if c.left = 0 then s
      else
        let next := { c with next := c.next + 1, left := c.left - 1 }
        match s.tenEntry c c.next with
        | .done s1 => (s1.setTenCmd next).tenAdvance n
        | .inUse => ((s.tenInUse c).setTenCmd { next with code := 3 }).tenAdvance n
        | .waitWindow => (s.setTenCmd { next with waiting := c.waiting ++ [c.next] }).tenAdvance n
        | .waitEntry s1 => s1

/-- Tries the entries that waited for a window. -/
def State.tenWaiting (s : State) : State :=
  match s.num.cmd with
  | none => s
  | some c => c.waiting.foldl (fun (s : State) tid =>
      let drop := fun (s : State) (code : Nat → Nat) => match s.num.cmd with
        | some c => s.setTenCmd { c with waiting := c.waiting.filter (· != tid), code := code c.code }
        | none => s
      match s.tenEntry c tid with
      | .done s1 => drop s1 id
      | .inUse => drop (s.tenInUse (s.num.cmd.getD c)) (fun _ => 3)
      | .waitWindow => s
      | .waitEntry s1 => s1) s

/-- Moves the running registry command on; it finishes once every entry is processed and its write-backs are made. -/
def State.tenGo (s : State) : State :=
  match s.num.cmd with
  | none => s
  | some c =>
    if c.finished then s
    else
      let s := (s.tenAdvance (c.left + 1)).tenWaiting
      match s.num.cmd with
      | some c => if c.left = 0 && c.waiting.isEmpty && (c.op != 4 || s.num.evicting.isEmpty) then
          s.setTenCmd { c with finished := true } else s
      | none => s

/-- A write of DL_TEN_CMD (R198). -/
def State.tenCommand (s : State) (rq : Requester) (v : Word) : State :=
  let n := s.num.cmdCount.toNat
  let op := bitsOf v 31 28
  let first := bitsOf v 15 0
  if s.num.cmd.isSome then s.tenReport v n 1
  else if op = 0 || decide (op ≥ 5) || decide (first + n > 65536) then s.tenReport v n 2
  else
    let c : TenCmd := { rq := rq, v := v, op := op, step := s.step, next := first, left := n }
    (s.setTenCmd c).tenGo

/-- TEN_CMD_DONE: the running registry command completes (R198). `count` stands in the command's event as it was given. -/
def State.tenCmdDone (s : State) : State :=
  match s.num.cmd with
  | some c => if c.finished then
      let s1 : State := { s with num := { s.num with cmd := none } }
      s1.tenReport c.v (c.next + c.left - bitsOf c.v 15 0) c.code
    else s
  | none => s

/-- A registry access of the running command failed: it stops (R198). -/
def State.tenFail (s : State) : State :=
  match s.num.cmd with
  | some c => s.setTenCmd { c with code := 4, finished := true, waiting := [] }
  | none => s

end Sys2Proof.Machine
end

