-- ==== Sys2Proof/Machine/Checks.lean ====
section
/-! DEFINITION. The trees over instances and chips (R175 to R177), outbound tree messages under their credits (R265), and
cross-shard checks (R182, R317). -/
namespace Sys2Proof.Machine

/-! ## Topology -/

/-- This instance's number on its chip (DEDUCED, log entry 82). -/
def State.self (s : State) : Nat := s.inst.toNat % 16

/-- Levels of the instance tree (R176). -/
def State.instLevels (s : State) : Nat := if s.isD4 then 4 else 3

/-- The lowest participating instance in [lo, lo + n) (R176). -/
def State.lowestIn (s : State) (lo n : Nat) : Option Nat :=
  ((List.range n).map (· + lo)).find? (fun i => bitOf s.tree.imask i)

/-- The levels at which this instance hosts a node with both halves, and the host of the upper half (Table 8.1). -/
def State.instOps (s : State) : List (Nat × Nat) :=
  ((List.range s.instLevels).map (· + 1)).filterMap (fun l =>
    let lo := s.self / 2 ^ l * 2 ^ l
    if s.lowestIn lo (2 ^ l) = some s.self then
      match s.lowestIn (lo + 2 ^ (l - 1)) (2 ^ (l - 1)) with
      | some c => if c = s.self then none else some (l, c)
      | none => none
    else none)

/-- The level at which this instance sends up, and the host it sends to. -/
def State.instParent (s : State) : Option (Nat × Nat) :=
  ((List.range s.instLevels).map (· + 1)).findSome? (fun l =>
    let lo := s.self / 2 ^ l * 2 ^ l
    match s.lowestIn lo (2 ^ l) with
    | some h => if h = s.self then none else some (l, h)
    | none => none)

/-- Group size, and levels of the chip tree (R177). -/
def State.chips (s : State) : Nat := s.tree.nchipsM1.toNat + 1
def chipLevels (n : Nat) : Nat := if n ≤ 1 then 0 else if n ≤ 4 then 1 else if n ≤ 16 then 2 else if n ≤ 64 then 3
  else if n ≤ 256 then 4 else 5
def State.rankNat (s : State) : Nat := s.tree.rank.toNat

/-- The children of this chip: level, child position, rank (R177). -/
def State.chipOps (s : State) : List (Nat × Nat × Nat) :=
  ((List.range (chipLevels s.chips)).map (· + 1)).flatMap (fun l =>
    if s.rankNat % 4 ^ l = 0 then
      [1, 2, 3].filterMap (fun j => let r := s.rankNat + j * 4 ^ (l - 1)
                                    if r < s.chips then some (l, j, r) else none)
    else [])

/-- The parent of this chip: level, its child position there, the parent's rank. -/
def State.chipParent (s : State) : Option (Nat × Nat × Nat) :=
  ((List.range (chipLevels s.chips)).map (· + 1)).findSome? (fun l =>
    if s.rankNat % 4 ^ l = 0 then none
    else let j := s.rankNat / 4 ^ (l - 1) % 4
         some (l, j, s.rankNat - j * 4 ^ (l - 1)))

/-- The operands a node of this instance takes for a scope (1 CHIP, 2 GROUP), in merge order: (TREE, LEVEL, CHILD). -/
def State.operands (s : State) (scope : Nat) : List (Bool × Nat × Nat) :=
  s.instOps.map (fun o => (false, o.1, 1))
  ++ (if scope = 2 && s.instParent.isNone then s.chipOps.map (fun o => (true, o.1, o.2.1)) else [])

/-- This instance is the root of a scope (R178). -/
def State.scopeRoot (s : State) (scope : Nat) : Bool :=
  s.instParent.isNone && (scope != 2 || s.chipParent.isNone)

/-- A scope that R175 configures. -/
def State.scopeConfigured (s : State) (scope : Nat) : Bool :=
  bitOf s.tree.imask s.self && (scope == 1 || (scope == 2 && s.tree.valid && decide (s.tree.rank.toNat ≤ s.tree.nchipsM1.toNat)))

/-! ## Sending -/

/-- Sends the waiting tree messages that hold a credit (R265, R342). -/
def State.pumpTreeGo : Nat → State → List ((Nat × Nat × Nat) × OutMsg) → State
  | 0, s, _ => s
  | _, s, [] => s
  | n + 1, s, m :: r =>
    match lookupKey m.1 s.port.outCredits with
    | some (k + 1) =>
      let s1 : State := { s with port := { s.port with outCredits := setKey m.1 k s.port.outCredits } }
      (s1.send m.2).pumpTreeGo n r
    | _ =>
      let s1 := s.pumpTreeGo n r
      { s1 with port := { s1.port with treeOut := m :: s1.port.treeOut } }

/-- Sends what can go; the others keep their order. -/
def State.pumpTree (s : State) : State :=
  let q := s.port.treeOut
  let s1 : State := { s with port := { s.port with treeOut := [] } }
  s1.pumpTreeGo q.length q

/-- Sends a message to an instance of the chip, or to another chip (R262, R264). -/
def State.sendTree (s : State) (cls stream : Nat) (dstInst dstRank : Option Nat) (m : TreeMsg) : State :=
  let item := ((cls, stream, dstInst.getD 16), OutMsg.tree dstInst dstRank m)
  let s1 : State := { s with port := { s.port with treeOut := s.port.treeOut ++ [item] } }
  s1.pumpTree

/-- Sends a message to the parent of this instance in a scope (R176, R177); `mk` forms it from TREE, LEVEL, CHILD and
the receiver's rank. `kind` is 0 for UP and 2 for CHECK as credit classes count from UP. -/
def State.sendUp (s : State) (scope kind : Nat) (mk : Bool → Nat → Nat → Nat → TreeMsg) : State :=
  match s.instParent with
  | some (l, h) => s.sendTree (6 + kind) (if kind = 0 then l - 1 else 0) (some h) none (mk false l 1 s.rankNat)
  | none =>
    if scope = 2 then
      match s.chipParent with
      | some (l, j, r) =>
        s.sendTree (3 + kind) (if kind = 0 then 3 * (l - 1) + (j - 1) else 0) none (some r) (mk true l j r)
      | none => s
    else s

/-- Sends a message to every child, from the top of the tree down, in increasing child order (R178). `kind` is 1 for
DOWN and 2 for CHECK. -/
def State.sendDown (s : State) (scope kind : Nat) (mk : Bool → Nat → Nat → Nat → TreeMsg) : State :=
  let chips := if scope = 2 && s.instParent.isNone then s.chipOps else []
  let lv := (List.range 6).reverse
  let s1 := lv.foldl (fun (s : State) l => (chips.filter (fun o => o.1 == l)).foldl (fun (s : State) o =>
    s.sendTree (3 + kind) 0 none (some o.2.2) (mk true o.1 0 o.2.2)) s) s
  s.instOps.reverse.foldl (fun (s : State) o =>
    s.sendTree (6 + kind) 0 (some o.2) none (mk false o.1 0 s.rankNat)) s1

/-! ## Checks -/

/-- A CHECK message (Table 12.7). -/
def State.checkMsg (s : State) (c : CheckSt) (mn mx : DWord) (tree : Bool) (level child dstRank : Nat) : TreeMsg :=
  { hdr := treeHdr 3 tree level child s.self c.id c.step 0 s.rankNat dstRank 0 32,
    payload := leBytes 8 mn.toNat ++ leBytes 8 mx.toNat ++ [BitVec.ofNat 8 c.scope] ++ leBytes 15 0 }

/-- The check of an id and a step. -/
def State.checkOf (s : State) (id : Nat) (step : Word) : Option CheckSt :=
  s.tree.checks.find? (fun c => c.id == id && c.step == step)

/-- Replaces or adds a check. -/
def State.setCheck (s : State) (c : CheckSt) : State :=
  let rest := s.tree.checks.filter (fun q => !(q.id == c.id && q.step == c.step))
  { s with tree := { s.tree with checks := rest ++ [c] } }

/-- A firmware check completes (R182, R317). -/
def State.firmwareCheck (s : State) (c : CheckSt) (mn mx : DWord) : State :=
  let s1 : State := { s with tree := { s.tree with
    fwBusy := false, fwDone := true, statId := BitVec.ofNat 8 c.id, statMin := mn, statMax := mx } }
  let s2 := s1.pageEvent .tree 1
  if mn = mx then s2
  else
    let s3 : State := { s2 with tree := { s2.tree with fwMismatch := true } }
    (s3.logEvent 0x41 .tree (BitVec.ofNat 32 c.id) (BitVec.ofNat 32 c.scope) 0 0).pageEvent .tree 2

/-- A check concludes here: the result goes to the children, and the participant compares it (R182). For the schedule
engine's check the result is handed on (DEDUCED, log entry 45). -/
def State.concludeCheck (s : State) (c : CheckSt) (mn mx : DWord) : State × Option (DWord × DWord) :=
  let s1 := (s.setCheck { c with concluded := true, sent := true }).sendDown c.scope 2
    (fun tree level child dst => s.checkMsg c mn mx tree level child dst)
  if c.id = 1 then (s1, some (mn, mx)) else (s1.firmwareCheck c mn mx, none)

/-- A tree message is dropped as stale (Table 8.4). -/
def State.treeStale (s : State) (m : TreeMsg) (own : Word) : State :=
  ((s.count 17 1).logEvent 0x40 .tree (TreeMsgF.word0 m) (TreeMsgF.step m) (TreeMsgF.ctxGen m) own).pageEvent .tree 3

/-- A CHECK message as far as TREE_STALE reports it. -/
def CheckSt.held (c : CheckSt) (head : Word) : TreeMsg :=
  { hdr := BitVec.ofNat 256 (head.toNat + c.step.toNat * 2 ^ 32), payload := [] }

/-- The held operands and the held result of a check are dropped as stale, with their credits; `own` is the step they are
judged by (Table 8.4). -/
def State.dropCheck (s : State) (c : CheckSt) (own : Word) : State :=
  let s1 : State := { s with tree := { s.tree with checks := s.tree.checks.filter (fun q => q != c) } }
  let s2 := c.ops.foldl (fun (s : State) o =>
    (s.treeStale (c.held ((lookupKey o.1 c.heads).getD 0)) own).returnCredit (if o.1.1 then 5 else 8) 0 1) s1
  match c.down with
  | some d => (s2.treeStale (c.held d.2.1) own).returnCredit (if d.1 then 5 else 8) 0 1
  | none => s2

/-- The result from the parent concludes the check, once this participant's own value has gone up (R182). -/
def State.takeDown (s : State) (c : CheckSt) : State × Option (DWord × DWord) :=
  match c.down with
  | some d =>
    if c.sent && !c.concluded then (s.returnCredit (if d.1 then 5 else 8) 0 1).concludeCheck c d.2.2.1 d.2.2.2 else (s, none)
  | none => (s, none)

/-- Combines a check once its own value and every operand are here (R182) (DEDUCED, log entry 45). -/
def State.tryCheck (s : State) (c : CheckSt) : State × Option (DWord × DWord) :=
  let ks := s.operands c.scope
  match c.own with
  | none => (s, none)
  | some v =>
    if c.sent || !ks.all (fun k => c.ops.any (fun o => o.1 == k)) then (s, none)
    else
      let all := (v, v) :: c.ops.map (·.2)
      let mn := all.foldl (fun a p => if p.1.toNat < a.toNat then p.1 else a) v
      let mx := all.foldl (fun a p => if p.2.toNat > a.toNat then p.2 else a) v
      let s1 := c.ops.foldl (fun (s : State) o => s.returnCredit (if o.1.1 then 5 else 8) 0 1) s
      if s1.scopeRoot c.scope then s1.concludeCheck c mn mx
      else
        let c1 := { c with sent := true }
        ((s1.setCheck c1).sendUp c.scope 2 (fun tree level child dst => s1.checkMsg c mn mx tree level child dst)).takeDown c1

/-- This participant starts a check (R182): messages held for another step of the id are stale, as those of a chain
admitted in another window (Table 8.4); a second start of the id in the step is a duplicate. -/
def State.startCheck (s : State) (id scope : Nat) (v : DWord) : State × Option (DWord × DWord) :=
  let c := (s.checkOf id s.step).getD { id := id, step := s.step, scope := scope }
  if c.own.isSome then (s, none)
  else
    let late := s.tree.checks.filter (fun q => q.id == id && q.own.isNone && q.step != s.step)
    let s1 := late.foldl (fun (s : State) q => s.dropCheck q s.step) s
    let c1 := { c with own := some v, scope := scope }
    (s1.setCheck c1).tryCheck c1

/-- A CHECK message is taken (R182, Table 8.4 with the check id in place of the context) (DEDUCED, log entry 45). -/
def State.takeCheck (s : State) (m : TreeMsg) : State × Option (DWord × DWord) :=
  let id := TreeMsgF.checkId m
  let step := TreeMsgF.step m
  let chip := TreeMsgF.tree m
  let mn : DWord := BitVec.ofNat 64 (fieldAt m.payload 0 8)
  let mx : DWord := BitVec.ofNat 64 (fieldAt m.payload 8 8)
  let drop := fun (s : State) => s.returnCredit (if chip then 5 else 8) 0 1
  let k := (chip, TreeMsgF.level m, TreeMsgF.child m)
  let running := s.tree.checks.find? (fun c => c.id == id && c.own.isSome && !c.concluded && c.step != step)
  let put := fun (c : CheckSt) =>
    if TreeMsgF.child m = 0 then
      let c1 := { c with down := some (chip, TreeMsgF.word0 m, mn, mx) }
      (s.setCheck c1).takeDown c1
    else
      let c1 := { c with ops := c.ops ++ [(k, (mn, mx))], heads := c.heads ++ [(k, TreeMsgF.word0 m)] }
      (s.setCheck c1).tryCheck c1
  match s.checkOf id step, running with
  | some c, _ =>
    if c.concluded || (if TreeMsgF.child m = 0 then c.down.isSome else c.ops.any (fun o => o.1 == k)) then
      (drop (s.count 18 1), none)
    else put c
  | none, some c => (drop (s.treeStale m c.step), none)
  | none, none =>
    if stepBelow step s.step then (drop (s.treeStale m s.step), none)
    else put { id := id, step := step, scope := (m.payload.getD 16 0).toNat }

/-- A step token passes: what is held for checks of lower steps is stale, and concluded checks are forgotten: a window that
opens again has started none (R182, R317). -/
def State.ageChecks (s : State) : State :=
  let s1 : State := { s with tree := { s.tree with checks := s.tree.checks.filter (fun c => !c.concluded) } }
  (s1.tree.checks.filter (fun c => c.own.isNone && stepBelow c.step s.step)).foldl
    (fun (s : State) c => s.dropCheck c s.step) s1

/-- A write of DL_TREE_CHK_CMD (R317): the CAUSE it is refused with, or the check it starts. -/
def State.checkRefusal (s : State) (v : Word) : Option Cause :=
  let id := bitsOf v 7 0
  let scope := bitsOf v 9 8
  if s.tree.fwBusy then some .state
  else if (scope = 1 || scope = 2) && !s.scopeConfigured scope then some .state
  else if s.tree.checks.any (fun c => c.id == id && c.step == s.step && c.own.isSome) then some .state
  else if id < 0x10 || scope = 0 || scope = 3 then some .command
  else none

end Sys2Proof.Machine
end

