-- ==== Sys2Proof/Machine/Schedule.lean ====
section
/-! DEFINITION. The schedule engine (chapter 10): the schedule's arithmetic (R216, Table 10.3), a group's window (R218),
clipping (R219), the skew check (R220) and the commands (R221). -/
namespace Sys2Proof.Machine

/-! ## Arithmetic (R216, R217) -/

/-- The engine's own native Grade Q evaluations (R217). -/
def engineEval (id : Nat) (i : EvIn) : Word :=
  (evalBuiltin (fun t i => match t with | .native row => some (romPlain row i) | .user _ _ => none) id .Q i).bits

/-- COS_POS of a turn fraction, RSQRT and EXP2 of the engine. -/
def engineCos (F : Nat) : Word := engineEval 0x11 (.turn F)
def engineRsqrt (x : Word) : Word := engineEval 0x05 (.x x)
def engineExp2 (x : Word) : Word := engineEval 0x00 (.x x)

/-- A ratio of naturals. -/
def ratio (n d : Nat) : Val := (Val.ofNat n).div (Val.ofNat d)

/-- 0.5. -/
def half : Val := .fin false 1 2

/-- The settings of a group as snapshotted: CFG, PEAK, FLOOR, INIT, WARM, LEN, LFACT and ITER. -/
structure SchCfg where
  cfg : Word
  peak : Word
  floor : Word
  init : Word
  warm : Nat
  len : Nat
  lfact : Word
  iter : Nat

/-- Reads a snapshot. -/
def schCfgOf (ws : List Word) : SchCfg :=
  let w := fun i => ws.getD i 0
  { cfg := w 0, peak := w 1, floor := w 2, init := w 3, warm := (w 4).toNat, len := (w 5).toNat, lfact := w 6,
    iter := (w 7).toNat }

namespace SchCfg
def warmKind (c : SchCfg) : Nat := bitsOf c.cfg 1 0
def decay (c : SchCfg) : Nat := bitsOf c.cfg 4 2
def restart (c : SchCfg) : Bool := bitOf c.cfg 5
def mult (c : SchCfg) : Nat := Nat.max 1 (bitsOf c.cfg 9 6)
def clip (c : SchCfg) : Nat := bitsOf c.cfg 11 10
def clipGrp (c : SchCfg) : Nat := bitsOf c.cfg 17 12
def check (c : SchCfg) : Bool := bitOf c.cfg 18

/-- PEAK, FLOOR and INIT must be neither negative nor non-finite (R215); −0 is not negative
(DEDUCED, log entry 51). -/
def badRate (w : Word) : Bool := nonFin32 w || Val.lt (f32 w) Val.zero

/-- A configuration error (R215). -/
def bad (c : SchCfg) : Bool :=
  c.warmKind == 3 || decide (c.decay ≥ 6) || c.clip == 3 || badRate c.peak || badRate c.floor || badRate c.init
  || nonFin32 c.lfact || (Val.lt Val.zero (f32 c.lfact)) || (c.warm == 0 && c.warmKind != 0)
  || (c.len == 0 && c.decay != 0)

/-- The restart loop of R216: kc and len. -/
def cycle (mult : Nat) : Nat → Nat → Nat → Nat × Nat
  | 0, kc, len => (kc, len)
  | n + 1, kc, len => if kc ≥ len then cycle mult n (kc - len) (len * mult) else (kc, len)

/-- kc and len of R216 at k. -/
def place (c : SchCfg) (k : Nat) : Nat × Nat :=
  if c.restart then
    if c.mult = 1 then (if c.len = 0 then (k, 0) else (k % c.len, c.len)) else cycle c.mult 33 k c.len
  else if c.decay = 1 || c.decay = 2 then (Nat.min k c.len, c.len)
  else (k, c.len)

/-- The decay factor (Table 10.3). -/
def factor (c : SchCfg) (kc len : Nat) : Word :=
  match c.decay with
  | 0 => one32
  | 1 => rne32 (half.add (half.mul (f32 (engineCos (kc * 2 ^ 31 / len)))))
  | 2 => rne32 (ratio (len - kc) len)
  | 3 => engineRsqrt (rne32 (Val.one.add (ratio kc len)))
  | 4 => engineExp2 (fmul (rne32 (Val.ofNat kc)) c.lfact)
  | _ => engineExp2 (fmul (rne32 (Val.ofNat (kc / len))) c.lfact)

/-- The base step size ηb (R216). -/
def base (c : SchCfg) : Word :=
  if c.warmKind ≠ 0 && c.iter < c.warm then
    let dw := f32 (fsub c.peak c.init)
    let inside := if c.warmKind = 1 then dw.mul (ratio c.iter c.warm)
      else dw.mul (half.sub (half.mul (f32 (engineCos (c.iter * 2 ^ 31 / c.warm)))))
    rne32 ((f32 c.init).add inside)
  else
    let k := if c.warmKind ≠ 0 then c.iter - c.warm else c.iter
    let (kc, len) := c.place k
    let d := f32 (fsub c.peak c.floor)
    rne32 ((f32 c.floor).add (d.mul (f32 (c.factor kc len))))
end SchCfg

/-! ## Groups -/

namespace SchGroup
def ready (g : SchGroup) : Bool := bitOf g.gstat 31
def waitClip (g : SchGroup) : Bool := bitOf g.gstat 30
def waitCheck (g : SchGroup) : Bool := bitOf g.gstat 29
def cfgErr (g : SchGroup) : Bool := bitOf g.gstat 26
def missed (g : SchGroup) : Nat := bitsOf g.gstat 15 0
/-- Held: unreleased, by SKEW, NONFIN, CFG_ERR, a φ or a check result that has not come (R220, R221). -/
def held (g : SchGroup) : Bool := !g.ready && bitsOf g.gstat 30 26 != 0
def setStat (g : SchGroup) (b : Nat) (v : Bool) : SchGroup := { g with gstat := setBits g.gstat b b (b2n v) }
/-- The registers of Tables 10.1 and 10.2. -/
def regs (g : SchGroup) : List Word := [g.cfg, g.peak, g.floor, g.init, g.warm, g.len, g.lfact, g.load.getD g.iter]
def conf (g : SchGroup) : SchCfg := schCfgOf (g.snap.getD g.regs)
/-- A token: the registers are read, and ITER takes what was loaded, or advances after a release (R214, R218). -/
def advance (g : SchGroup) : SchGroup :=
  { g with iter := g.nextIter, released := false, load := none, tok := g.regs.take 7 }
/-- A token that finds the group held: MISSED counts it, and no snapshot is taken (R220). -/
def miss (g : SchGroup) : SchGroup :=
  { g with gstat := setBits g.gstat 15 0 (satAdd 16 g.missed 1), iter := g.load.getD g.iter, load := none,
           tok := g.regs.take 7 }
/-- The snapshot for a window, of the registers as they stood at the last token (R218); it sets or clears CFG_ERR (R215,
R221). -/
def take (g : SchGroup) (step : Word) : SchGroup :=
  let ws := g.tok ++ [g.iter]
  { g with snap := some ws, win := step, etab := none, formed := none, phi := none, hashed := false,
           gstat := BitVec.ofNat 32 (b2n (schCfgOf ws).bad * 2 ^ 26) }
/-- The window's snapshot has a configuration error (R215). -/
def faulty (g : SchGroup) (step : Word) : Bool := g.snap.isSome && g.win == step && g.cfgErr && !g.ready && g.missed == 0
/-- Releases η (R218). -/
def release (g : SchGroup) (eta : Word) (forced : Bool) : SchGroup :=
  { g with eta := eta, gstep := g.win, given := true, released := true,
           gstat := BitVec.ofNat 32 (2 ^ 31 + b2n g.cfgErr * 2 ^ 26 + b2n forced * 2 ^ 25) }
end SchGroup

/-- Updates a group. -/
def State.modGroup (s : State) (k : Nat) (f : SchGroup → SchGroup) : State :=
  { s with sch := { s.sch with groups := modifyAt s.sch.groups k f } }

def State.group (s : State) (k : Nat) : SchGroup := s.sch.groups.getD k {}

/-- A group is enabled, by the bit read at the last token (R218, R225). -/
def State.groupOn (s : State) (k : Nat) : Bool := bitOf s.sch.live k

/-- The snapshot of a group finds a configuration error (R215). -/
def State.logConfig (s : State) (k : Nat) : State :=
  if (s.group k).faulty s.step then (s.logEvent 0x51 .sch (BitVec.ofNat 32 k) s.step 0 0).pageEvent .sch 2 else s

/-- The engine at a step token (R218): held groups count it as missed; every other group advances, and is snapshotted where
it is enabled. -/
def State.scheduleToken (s : State) : State :=
  if s.isD4 then
    let gs := s.sch.groups.zipIdx.map (fun gk =>
      if gk.1.held then gk.1.miss
      else if bitOf s.sch.gen gk.2 then gk.1.advance.take s.step else gk.1.advance)
    let s1 : State := { s with sch := { s.sch with groups := gs, live := s.sch.gen, checking := false, checked := false } }
    (List.range 64).foldl (fun (s : State) k => s.logConfig k) s1
  else s

/-! ## The skew check -/

/-- Groups snapshotted in the window that take part in the check (DEDUCED, log entry 51). -/
def State.checkGroups (s : State) : List Nat :=
  (List.range 64).filter (fun k => let g := s.group k; g.snap.isSome && g.win == s.step && g.conf.check)

/-- The hash of R220 (DEDUCED, log entry 51). -/
def skewHash (xs : List (Nat × Word × Word)) : DWord :=
  xs.foldl (fun (h : DWord) x => ((h ^^^ BitVec.ofNat 64 (x.2.1.toNat * 2 ^ 32 + x.2.2.toNat)) ^^^ BitVec.ofNat 64 x.1)
    * 0x9E3779B97F4A7C15) 0

/-- The group waits for the check of a window that its η has entered. -/
def SchGroup.inCheck (g : SchGroup) (step : Word) : Bool := g.waitCheck && g.win == step && g.hashed

/-- Releases the checked groups of a window that wait; one held through a token stays held (R220)
(DEDUCED, log entry 50). -/
def State.releaseChecked (s : State) (step : Word) : State :=
  { s with sch := { s.sch with groups := s.sch.groups.map (fun g =>
      if g.inCheck step && g.missed == 0 then g.release (g.formed.getD nan32) false else g) } }

/-- The check's result returns for the window it was made for (R220). -/
def State.skewResult (s : State) (step : Word) (mn mx : DWord) : State :=
  let s1 : State := if step = s.step then { s with sch := { s.sch with checking := false, checked := true } } else s
  if mn = mx then s1.releaseChecked step
  else
    let gs := s1.sch.groups.map (fun g => if g.inCheck step then (g.setStat 29 false).setStat 28 true else g)
    let s2 : State := { s1 with
      sch := { s1.sch with skew := true, groups := gs },
      tree := { s1.tree with schMismatch := true, statId := 1, statMin := mn, statMax := mx } }
    ((s2.logEvent 0x50 .sch step 0 0 0).pageEvent .sch 1).pageEvent .tree 2

/-- The value of the skew check over groups (R220). -/
def State.skewValue (s : State) (ks : List Nat) : DWord :=
  skewHash (ks.map (fun k => let g := s.group k
    (k, BitVec.ofNat 32 g.conf.iter, if g.ready then g.eta else g.formed.getD 0)))

/-- The η of groups enter the check of the window. -/
def State.enterCheck (s : State) (ks : List Nat) : State :=
  ks.foldl (fun (s : State) k => s.modGroup k (fun g => { g with hashed := true })) s

/-- Starts the check once every checked group of the window has formed η, or releases them where no check is configured
(R220). A group that catches up once the window's check has started waits: a second check of the step would be a duplicate
(R182) (DEDUCED, log entry 50). -/
def State.maybeCheck (s : State) : State :=
  let ks := s.checkGroups
  if s.sch.checking || ks.isEmpty || !ks.all (fun k => (s.group k).ready || (s.group k).formed.isSome) then s
  else
    let sc := s.sch.scope.toNat
    if (sc = 1 || sc = 2) && s.scopeConfigured sc then
      if s.sch.checked then s
      else
        let s0 := s.enterCheck ks
        let s1 : State := { s0 with sch := { s0.sch with checking := true } }
        let (s2, r) := s1.startCheck 1 sc (s.skewValue ks)
        match r with
        | some p => s2.skewResult s.step p.1 p.2
        | none => s2
    else if s.sch.checked && !ks.any (fun k => (s.group k).waitCheck) then s
    else
      let s0 := s.enterCheck ks
      let s1 : State := { s0 with sch := { s0.sch with unchecked := true, checked := true } }
      s1.releaseChecked s.step

/-! ## Forming η -/

/-- After a release: windows missed meanwhile are skipped, and the group is snapshotted for the window of the last token with
ITER advanced by 1 (R221). -/
def State.afterRelease (s : State) (k : Nat) (missed : Nat) : State :=
  if missed = 0 then s
  else (s.modGroup k (fun g => ({ g with iter := g.iter + 1, released := false } : SchGroup).take s.step)).logConfig k

/-- η of a group is formed: released, or made to wait for the check (R218, R220). -/
def State.etaReady (s : State) (k : Nat) (eta : Word) : State :=
  let g := s.group k
  let s1 := s.modGroup k (fun g => { g with formed := some eta })
  if g.conf.check then s1.modGroup k (fun g => g.setStat 29 true)
  else (s1.modGroup k (fun g => g.release eta false)).afterRelease k g.missed

/-- Applies a φ to the ηb of a group (R218, R219). Where a token has passed the waiting group, η is formed and the hold
stays: only a command ends it (R220). -/
def State.applyPhi (s : State) (k : Nat) (etab phi : Word) : State :=
  let late := (s.group k).waitClip && decide ((s.group k).missed ≠ 0)
  let s1 := s.modGroup k (fun g => g.setStat 30 false)
  if nonFin32 phi then
    ((s1.modGroup k (fun g => g.setStat 27 true)).logEvent 0x54 .sch (BitVec.ofNat 32 k) (s.group k).win 0 0).pageEvent
      .sch 3
  else
    let eta := if phi = one32 then etab else fmul etab phi
    if late then s.modGroup k (fun g => { g with formed := some eta }) else s1.etaReady k eta

/-- ETA_FORMED of a group (R216, R218): groups form in increasing number (DEDUCED, log entry 50). -/
def State.formEta (s : State) (k : Nat) : State :=
  let g := s.group k
  let idle := fun j => let h := s.group j; h.ready || h.snap.isNone || h.etab.isSome || h.held
  if g.snap.isNone || g.ready || g.etab.isSome || g.held || !(List.range k).all idle then s
  else
    let c := g.conf
    let b := c.base
    let s1 := s.modGroup k (fun g => { g with etab := some b })
    let s2 := if c.clip = 0 then s1.etaReady k b
      else match g.phi with
        | some p => s1.applyPhi k b p
        | none => s1.modGroup k (fun g => g.setStat 30 true)
    s2.maybeCheck

/-- A φ delivered to group `src` for a window (R219) (DEDUCED, log entry 50). -/
def State.deliverPhi (s : State) (src : Nat) (win phi : Word) : State :=
  (List.range 64).foldl (fun (s : State) k =>
    let g := s.group k
    let c := g.conf
    if (c.clip = 1 && k = src) || (c.clip = 2 && c.clipGrp = src) then
      if g.snap.isNone && !s.groupOn k then s
      else if g.snap.isNone || g.win != win then
        (s.logEvent 0x52 .sch (BitVec.ofNat 32 k) win 0 0).pageEvent .sch 3
      else if g.phi.isSome then
        (s.logEvent 0x53 .sch (BitVec.ofNat 32 k) win 0 0).pageEvent .sch 3
      else
        let s1 := s.modGroup k (fun g => { g with phi := some phi })
        if g.ready then s1
        else match g.etab with
          | some b => if g.formed.isSome then s1 else (s1.applyPhi k b phi).maybeCheck
          | none => s1
    else s) s

/-! ## Commands (R221) -/

/-- RELEASE or FORCE of one group; false where it is refused. -/
def State.releaseGroup (s : State) (force : Bool) (k : Nat) : State × Bool :=
  let g := s.group k
  if !g.held then (s, false)
  else if force then ((s.modGroup k (fun g => g.release s.sch.forceEta true)).afterRelease k g.missed, true)
  else match g.formed with
    | some eta => ((s.modGroup k (fun g => g.release eta false)).afterRelease k g.missed, true)
    | none => (s, false)

/-- DL_SCH_CMD (R221): false where some group it acts on refuses it. -/
def State.schCommand (s : State) (force all : Bool) (grp : Nat) : State × Bool :=
  let ks := if all then (List.range 64).filter (fun k => (s.group k).held) else [grp]
  let r := ks.foldl (fun (p : State × Bool) k => let q := p.1.releaseGroup force k; (q.1, p.2 && q.2)) (s, true)
  (r.1.maybeCheck, r.2)

end Sys2Proof.Machine
end

