-- ==== Sys2Proof/Machine/Image.lean ====
section
/-! DEFINITION. Replay and state images (chapter 11): CHECKED and ROLLBACK (R230, R231), EXPORT (R236 to R240), the
fragment intake (R243), the image checks (R244) and the apply (R245). -/
namespace Sys2Proof.Machine

/-! ## Commands -/

/-- An image command reports its code (R247). -/
def State.imgReport (s : State) (op code : Nat) : State :=
  let s1 : State := { s with img := { s.img with err := BitVec.ofNat 4 code } }
  (s1.logEvent 0x5B .img (BitVec.ofNat 32 op) (BitVec.ofNat 32 code) 0 0).pageEvent .img 1

/-- Replaces the running image command. -/
def State.setImgCmd (s : State) (c : ImgCmd) : State := { s with img := { s.img with cmd := some c } }

/-- A command that ends in the fc of its write with a code. -/
def State.imgEnds (s : State) (op code : Nat) : State := s.setImgCmd { op := op, code := code, finished := true }

/-- Import states in which an operation is allowed (Table 11.10). -/
def imgAllowed (st : ImgState) (op : Nat) : Bool :=
  match op with
  | 1 | 2 | 3 | 4 => st == .normal
  | 5 => st == .awaiting || st == .filling
  | 6 | 7 => st == .awaiting || st == .filling || st == .resumable
  | _ => false

/-- No chain holds a slot, and no table, context or registry command is busy (R231, R242). -/
def State.quiet (s : State) : Bool := s.chains.isEmpty && s.tbl.cmd.isNone && !s.ctx.cmdBusy && s.num.cmd.isNone

/-- A fill is abandoned and what it staged discarded. -/
def ImgUnit.discard (u : ImgUnit) : ImgUnit :=
  { u with count := 0, accepted := [], copied := [], stagedEnd := 0, staged := [], checking := false, checkData := false,
           applyLeft := [] }

/-- DL_IMG_GEN rises and a new fill is awaited (R241); what the checks of the abandoned image still read is not used. -/
def State.imgAwait (s : State) (st : ImgState) : State :=
  ({ s with img := { s.img.discard with gen := s.img.gen + 1, st := st } } : State).stopReads (fun t => t == .imgCheck)

/-- ABORT, LEAVE, or a fault notice during an import (R246). -/
def State.imgAbort (s : State) (st : ImgState) (why : Word) : State :=
  let s1 := s.imgAwait st
  s1.logEvent 0x60 .img (s1.img.gen.setWidth 32) why 0 0

/-- CHECKED (R230). -/
def State.imgChecked (s : State) : State :=
  let a := s.img.argStep
  if (a != s.img.checked && !stepAbove a s.img.checked) || (a != s.step && !stepBelow a s.step) then s.imgEnds 1 5
  else
    let keep := fun (w : Word) => stepAbove w a
    let s1 : State := { s with img := { s.img with
      checked := a, log := s.img.log.filter (fun r => keep r.1),
      retained := s.img.retained.filter (fun c => keep c.step) } }
    s1.imgEnds 1 0

/-- For each tensor id with records at or above a step, its record with the smallest such tag (R231): (tid, place). -/
def State.recordsFrom (s : State) (w : Word) : List (Nat × Nat) :=
  let rs := s.img.log.filter (fun r => !stepBelow r.1 w)
  ((rs.map (fun r => r.2.1)).eraseDups).filterMap (fun tid =>
    (rs.filter (fun r => r.2.1 == tid)).foldl (fun a r => match a with
      | none => some r
      | some b => if stepBelow r.1 b.1 then some r else some b) none |>.map (fun r => (tid, r.2.2)))

/-- ROLLBACK (R231): checked, and begun. -/
def State.imgRollback (s : State) : State :=
  let a := s.img.argStep
  if !s.quiet then s.imgEnds 2 3
  else if !s.retainedAt a || stepAbove a s.step || !stepAbove a s.img.checked then s.imgEnds 2 4
  else s.setImgCmd { op := 2, step := a }

/-- Restores the engine's items of a copy (R223, R231). -/
def SchUnit.restore (u : SchUnit) (gs : List (List Word)) : SchUnit :=
  { u with
    checking := false, checked := false,
    groups := u.groups.zipIdx.map (fun gk =>
      let ws := gs.getD gk.2 []
      { gk.1 with iter := ws.getD 0 0, gstat := ws.getD 1 0, eta := ws.getD 2 0, gstep := ws.getD 3 0,
                  given := bitOf (ws.getD 4 0) 0, released := false, load := none, hashed := false,
                  snap := none, etab := none, formed := none, phi := none }) }

/-- The engine's own check of a step that is opened again is forgotten: none has started in the new window (R233)
(DEDUCED, log entry 99). -/
def State.dropSkewCheck (s : State) (a : Word) : State :=
  { s with tree := { s.tree with checks := s.tree.checks.filter (fun c =>
      !(c.id == 1 && c.own.isSome && !stepBelow c.step a)) } }

/-- The last acts of a ROLLBACK (R231). -/
def State.rollbackEnd (s : State) (a : Word) : State :=
  let keep := fun (w : Word) => stepBelow w a
  let s1 : State := { s with
    step := a - 1,
    num := { s.num with windows := s.num.windows.filter (fun w => !w.chains.isEmpty), decodeT := [] },
    img := { s.img with log := s.img.log.filter (fun r => keep r.1),
                        retained := s.img.retained.filter (fun c => !stepAbove c.step a), expect := some a } }
  match s.copyOf a with
  | some c => { s1.dropSkewCheck a with num := { s1.num with seed := c.seed }, sch := s1.sch.restore c.groups }
  | none => s1

/-- Moves a ROLLBACK on (R231): windows that are due close first, then the cache is written back and emptied, then the
records are applied one by one. -/
def State.rollbackGo (s : State) (c : ImgCmd) : State :=
  if c.stage = 0 then
    if s.num.windows.any (fun w => w.closable && stepBelow w.step c.step)
        || s.p0.reads.any (fun j => match j.tag with | .regEntry _ => true | _ => false) then s
    else
      let s1 := (s.num.lines.filter (·.dirty)).foldl (fun (s : State) l =>
        let s2 := s.issueWrite (.regBack l.tid) (cellsAt (s.regAddr l.tid) l.e.bytes)
        { s2 with num := { s2.num with evicting := s2.num.evicting ++ [l.tid] } }) s
      let s3 : State := { s1 with num := { s1.num with lines := [] } }
      s3.setImgCmd { c with stage := 1, places := s.recordsFrom c.step }
  else if !s.num.evicting.isEmpty || s.reading (.rollback 0) || s.p0.writes.any (fun w => w.tag == .imgCmd) then s
  else match c.places with
    | [] => (s.rollbackEnd c.step).setImgCmd { c with finished := true }
    | p :: _ => s.issueRead (.rollback 0) [(s.img.logBase.toNat + 144 * p.2 + 16, 128)]

/-- A record came back: its entry goes to the store (DEDUCED, log entry 56). -/
def State.rollbackData (s : State) (got : List (Nat × List Byte)) : State :=
  match s.img.cmd with
  | some c => match c.places with
    | p :: r =>
      let bs := gotBytes got (s.img.logBase.toNat + 144 * p.2 + 16) 128
      (s.setImgCmd { c with places := r }).issueWrite .imgCmd (cellsAt (s.regAddr p.1) bs)
    | [] => s
  | none => s

/-! ## Export -/

/-- EXPORT (R239): checked, and set to wait for the chains of earlier windows. -/
def State.imgExport (s : State) : State :=
  let a := s.img.argStep
  let f := s.img.frag.toNat
  if !s.retainedAt a then s.imgEnds 3 4
  else if s.img.addr.toNat % 32 ≠ 0 || f < 4096 || f > 1048576 || f ≠ 2 ^ Nat.log2 f then s.imgEnds 3 5
  else s.setImgCmd { op := 3, step := a, gen := s.img.argGen, addr := s.img.addr.toNat, size := s.img.size.toNat, frag := f }

/-- EXPORT_BEGIN: every chain of an earlier window has written its completion word, and their windows are closed
(R239) (DEDUCED, log entry 57). -/
def State.exportBegin (s : State) : State :=
  match s.img.cmd with
  | some c =>
    if c.op = 3 && c.stage = 0 && !c.finished
        && !s.chains.any (fun h => h.admitted && stepBelow h.step c.step)
        && !s.num.windows.any (fun w => w.closable && stepBelow w.step c.step) then
      s.setImgCmd { c with stage := 1, left := List.range 4096 }
    else s
  | none => s

/-- Reads the next chunk of sixteen entries (R239): those recorded at or above the step from their record, the others
from the cache or the store (DEDUCED, log entry 57). -/
def State.exportRead (s : State) (c : ImgCmd) (k : Nat) : State :=
  let ids := (List.range 16).map (· + 16 * k)
  if ids.any (fun i => s.num.evicting.contains i) then s
  else
    let places := (s.recordsFrom c.step).filter (fun p => ids.contains p.1)
    let held := ids.filterMap (fun i => (s.regLine i).map (fun l => (i, l.e.bytes)))
    (s.setImgCmd { c with places := places, held := held }).issueRead (.exportEntry k)
      ((s.regAddr (16 * k), 2048) :: places.map (fun p => (s.img.logBase.toNat + 144 * p.2 + 16, 128)))

/-- Collects the entries of a chunk whose KIND is not UNREG (Table 11.3). Where an entry was recorded, and so changed, since
the chunk was read, the chunk is read again: it holds the step-start content (R239, R248). -/
def State.exportData (s : State) (k : Nat) (got : List (Nat × List Byte)) : State :=
  match s.img.cmd with
  | some c =>
    let places := (s.recordsFrom c.step).filter (fun p => p.1 / 16 == k)
    if places != c.places then s
    else
    let es := (List.range 16).map (fun j =>
      let i := 16 * k + j
      (i, match lookupKey i c.places with
        | some p => gotBytes got (s.img.logBase.toNat + 144 * p + 16) 128
        | none => match lookupKey i c.held with
          | some b => b
          | none => gotBytes got (s.regAddr i) 128))
    let kept := es.filter (fun e => (RegEntry.ofBytes e.2).kind != 0)
    s.setImgCmd { c with entries := c.entries ++ kept, left := c.left.drop 1, places := [], held := [] }
  | none => s

/-- A section (R237). -/
def sectionBytes (ty : Nat) (body : List Byte) : List Byte := leBytes 2 ty ++ leBytes 2 0 ++ leBytes 4 body.length ++ body

/-- The GLOBAL body (Table 11.4). -/
def State.globalBody (s : State) : List Byte :=
  let u := s.sch
  let d := fun (n : Nat) => if s.isD4 then n else 0
  ([s.ctx.base.toNat, s.ctx.limit.toNat, s.num.base.toNat, s.num.kmask.toNat * 2 ^ 16 + s.num.dormN.toNat,
    s.num.widenSat.toNat, s.num.widenUfl.toNat, s.chn.chnWeight.toNat * 16 + s.chn.laneWeight.toNat, s.tree.imask.toNat,
    b2n s.tree.valid * 2 ^ 31 + s.tree.nchipsM1.toNat * 2 ^ 10 + s.tree.rank.toNat, d u.scope.toNat,
    d (u.gen.toNat % 2 ^ 32), d (u.gen.toNat / 2 ^ 32)]).flatMap (leBytes 4)

/-- The SCHED body (Table 11.5). -/
def State.schedBody (s : State) (copy : List (List Word)) : List Byte :=
  s.sch.groups.zipIdx.flatMap (fun gk =>
    let g := gk.1
    let c := copy.getD gk.2 []
    ([g.cfg, g.peak, g.floor, g.init, g.warm, g.len, g.lfact] ++ (List.range 4).map (fun i => c.getD i 0) ++ [0]).flatMap
      wordBytes)

/-- The image of a step (Tables 11.2 and 11.3). -/
def State.imageBytes (s : State) (c : ImgCmd) : List Byte :=
  let copy := (s.copyOf c.step).getD { step := c.step, seed := s.num.seed, groups := [] }
  let reg := leBytes 4 c.entries.length ++ leBytes 4 0
    ++ c.entries.flatMap (fun e => leBytes 2 e.1 ++ leBytes 2 0 ++ e.2)
  let secs := sectionBytes 1 s.globalBody ++ (if s.isD4 then sectionBytes 2 (s.schedBody copy.groups) else [])
    ++ sectionBytes 3 reg
  let flags := b2n (!s.isD4) + 2 * b2n s.gen3 + 4 * b2n s.tbl.active
  let tail := leBytes 4 (64 + secs.length) ++ leBytes 2 1 ++ leBytes 2 c.gen.toNat ++ wordBytes c.step
    ++ leBytes 8 copy.seed.toNat ++ leBytes 2 s.tbl.number.toNat ++ [BitVec.ofNat 8 flags, s.inst]
    ++ leBytes 4 (if s.isD4 then 3 else 2) ++ wordBytes s.img.checked ++ leBytes 24 0 ++ secs
  leBytes 4 0x444C5334 ++ wordBytes (crc32c tail) ++ tail

/-- Fragment k of an image (Table 11.6). -/
def fragmentBytes (c : ImgCmd) (img : List Byte) (count k : Nat) : List Byte :=
  let pay := (img.drop (c.frag * k)).take c.frag
  let rest := leBytes 2 c.gen.toNat ++ leBytes 2 k ++ leBytes 2 count ++ leBytes 2 0 ++ wordBytes c.step
    ++ leBytes 4 (c.frag * k) ++ leBytes 4 pay.length ++ leBytes 4 0
  leBytes 4 0x444C4647 ++ wordBytes (crc32c (rest ++ pay)) ++ rest ++ pay

/-- Every entry is counted: LEN and the space are judged, and the fragments are written (R239). -/
def State.exportSize (s : State) (c : ImgCmd) : State :=
  let len := 64 + (8 + 48) + (if s.isD4 then 8 + 3072 else 0) + 8 + 8 + 132 * c.entries.length
  let count := (len + c.frag - 1) / c.frag
  let s1 : State := { s with img := { s.img with len := BitVec.ofNat 32 len } }
  if count > 4096 || c.size < count * (32 + c.frag) then s1.setImgCmd { c with code := 6, finished := true }
  else s1.setImgCmd { c with stage := 2, left := List.range count }

/-- Writes the next fragment. -/
def State.exportWrite (s : State) (c : ImgCmd) (k : Nat) : State :=
  let img := s.imageBytes c
  let count := (img.length + c.frag - 1) / c.frag
  (s.setImgCmd { c with left := c.left.drop 1 }).issueWrite .imgCmd
    (cellsAt (c.addr + k * (32 + c.frag)) (fragmentBytes c img count k))

/-- Moves an EXPORT on. -/
def State.exportGo (s : State) (c : ImgCmd) : State :=
  if s.p0.reads.any (fun j => !j.dead && (match j.tag with | .exportEntry _ => true | _ => false))
      || s.p0.writes.any (fun w => w.tag == .imgCmd) then s
  else match c.stage, c.left with
    | 1, k :: _ => s.exportRead c k
    | 1, [] => s.exportSize c
    | 2, k :: _ => s.exportWrite c k
    | 2, [] => s.setImgCmd { c with finished := true }
    | _, _ => s

/-- Moves the running image command on. -/
def State.imgGo (s : State) : State :=
  match s.img.cmd with
  | some c => if c.finished then s else if c.op = 2 then s.rollbackGo c else if c.op = 3 then s.exportGo c else s
  | none => s

/-- An access of the running image command failed: it stops (Table 11.11). -/
def State.imgFail (s : State) : State :=
  match s.img.cmd with
  | some c => s.setImgCmd { c with code := 7, finished := true }
  | none => s

/-- PREPARE (R242) (DEDUCED, log entry 57). -/
def State.imgPrepare (s : State) : State :=
  if !s.quiet || s.ctxOpen ≠ 0 then s.imgEnds 4 3 else (s.imgAwait .awaiting).imgEnds 4 0

/-- A write of DL_IMG_CMD (R247). -/
def State.imgCommand (s : State) (op : Nat) : State :=
  if s.img.cmd.isSome then s.imgReport op 1
  else if !imgAllowed s.img.st op then s.imgReport op 2
  else match op with
    | 1 => s.imgChecked
    | 2 => s.imgRollback
    | 3 => s.imgExport
    | 4 => s.imgPrepare
    | 5 => { s with img := { s.img with fragQ := s.img.fragQ ++ [{ addr := s.img.addr.toNat }] } }
    | 6 => (s.imgAbort .awaiting 0).imgEnds 6 0
    | _ => (s.imgAbort .normal 0).imgEnds 7 0

/-- IMG_CMD_DONE (R247). -/
def State.imgCmdDone (s : State) : State :=
  match s.img.cmd with
  | some c => if c.finished then
      let s1 := ({ s with img := { s.img with cmd := none } } : State).purgeLog
      s1.imgReport c.op c.code
    else s
  | none => s

/-! ## The fragment intake (R243) -/

/-- A 4-byte field of a header. -/
def word4 (h : List Byte) (o : Nat) : Nat := fieldAt h o 4

/-- Replaces the fragment at the head of the intake. -/
def State.setFrag (s : State) (f : FragIn) : State := { s with img := { s.img with fragQ := f :: s.img.fragQ.drop 1 } }

/-- The fragment at the head leaves the intake. -/
def State.popFrag (s : State) : State := { s with img := { s.img with fragQ := s.img.fragQ.drop 1 } }

/-- Starts the read of the next fragment's header. -/
def State.fragGo (s : State) : State :=
  match s.img.fragQ with
  | f :: _ =>
    if f.hdr.isNone && !s.reading .fragment then
      if f.addr % 32 ≠ 0 || f.addr ≥ 2 ^ 31 then s else s.issueRead .fragment [(f.addr, 32)]
    else s
  | [] => s

/-- Drops the fragment at the head: stale, bad or duplicate (Table 11.8). -/
def State.dropFrag (s : State) (f : FragIn) (why : FragCount) : State :=
  let h := f.hdr.getD []
  let inc := fun (w : Word) => BitVec.ofNat 32 (satAdd 32 w.toNat 1)
  let s := s.popFrag
  match why with
  | .stale => ({ s with img := { s.img with fragStale := inc s.img.fragStale } } : State).logEvent 0x5C .img
      (BitVec.ofNat 32 f.addr) (BitVec.ofNat 32 (fieldAt h 8 2)) 0 0
  | .bad => ({ s with img := { s.img with fragBad := inc s.img.fragBad } } : State).logEvent 0x5D .img
      (BitVec.ofNat 32 f.addr) (BitVec.ofNat 32 (fieldAt h 10 2)) 0 0
  | .dup => { s with img := { s.img with fragDup := inc s.img.fragDup } }

/-- The checks of Table 11.8 that the header decides; none where the fragment stands them so far. -/
def State.fragFault (s : State) (h : List Byte) : Option FragCount :=
  if s.img.st != .awaiting && s.img.st != .filling then some .stale
  else if word4 h 0 ≠ 0x444C4647 then some .bad
  else if fieldAt h 8 2 ≠ s.img.gen.toNat then some .stale
  else if fieldAt h 10 2 ≥ fieldAt h 12 2 || word4 h 20 + word4 h 24 > s.img.stageSize.toNat then some .bad
  else none

/-- The payload is here: the rest of Table 11.8. -/
def State.fragJudge (s : State) (f : FragIn) (pay : List Byte) : State :=
  let h := f.hdr.getD []
  match s.fragFault h with
  | some w => s.dropFrag f w
  | none =>
    let idx := fieldAt h 10 2
    let cnt := fieldAt h 12 2
    let step : Word := BitVec.ofNat 32 (word4 h 16)
    if (crc32c (h.drop 8 ++ pay)).toNat ≠ word4 h 4 then s.dropFrag f .bad
    else if s.img.st == .filling && (s.img.fillStep != step || s.img.count != cnt) then s.dropFrag f .bad
    else if s.img.accepted.contains idx then s.dropFrag f .dup
    else
      let off := word4 h 20
      let u := s.img
      let s1 : State := { s with img := { u with
        st := .filling, fillStep := step, count := cnt, accepted := u.accepted ++ [idx],
        stagedEnd := Nat.max u.stagedEnd (off + pay.length) } }
      let s2 := s1.setFrag { f with copying := some idx, copied := pay.isEmpty }
      if pay.isEmpty then s2 else s2.issueWrite .fragCopy (cellsAt (u.stage.toNat + off) pay)

/-- A fragment's header is here. -/
def State.fragHeader (s : State) (h : List Byte) : State :=
  match s.img.fragQ with
  | [] => s
  | f :: _ =>
    let f1 := { f with hdr := some h }
    let s1 := s.setFrag f1
    match s.fragFault h with
    | some w => s1.dropFrag f1 w
    | none =>
      let len := word4 h 24
      if f.addr + 32 + len > 2 ^ 31 then s1.dropFrag f1 .bad
      else if len = 0 then s1.fragJudge f1 []
      else s1.issueRead .fragPayload [(f.addr + 32, len)]

/-- A fragment's payload is here. -/
def State.fragPayload (s : State) (got : List (Nat × List Byte)) : State :=
  match s.img.fragQ with
  | [] => s
  | f :: _ => s.fragJudge f (gotBytes got (f.addr + 32) (word4 (f.hdr.getD []) 24))

/-- A fragment that no access can reach, or whose read failed, is bad (log entry 10) where no earlier row of Table 11.8
applies. -/
def State.fragUnreadable (s : State) : State :=
  match s.img.fragQ with
  | f :: _ =>
    let why := match f.hdr with
      | some h => (s.fragFault h).getD .bad
      | none => if s.img.st != .awaiting && s.img.st != .filling then .stale else .bad
    s.dropFrag f why
  | [] => s

/-- Handles the fragments at the head whose address names no scratchpad, and starts the next read. -/
def State.intake : Nat → State → State
  | 0, s => s
  | n + 1, s =>
    match s.img.fragQ with
    | f :: _ => if f.hdr.isNone && (f.addr % 32 ≠ 0 || f.addr ≥ 2 ^ 31) then (s.fragUnreadable).intake n else s.fragGo
    | [] => s

/-- FRAGMENT_COPY_DONE: the copy at the head is made, and the next fragment is handled (R243). -/
def State.fragCopyDone (s : State) : State :=
  match s.img.fragQ with
  | f :: _ => match f.copying with
    | some i =>
      if f.copied then
        let s1 := s.popFrag
        let s2 : State := if s1.img.accepted.contains i then
            { s1 with img := { s1.img with copied := s1.img.copied ++ [i] } } else s1
        s2.intake s2.img.fragQ.length
      else s
    | none => s
  | [] => s

/-- The copy of a fragment failed: its index is no longer accepted (log entry 10). -/
def State.fragCopyFail (s : State) : State :=
  match s.img.fragQ with
  | f :: _ => match f.copying with
    | some i => { s.setFrag { f with copied := true } with
        img := { (s.setFrag { f with copied := true }).img with accepted := s.img.accepted.filter (· != i) } }
    | none => s
  | [] => s

/-! ## Image checks (R244) -/

/-- Every fragment is marked and copied. -/
def ImgUnit.allCopied (u : ImgUnit) : Bool := u.st == .filling && decide (u.count ≠ 0) && u.copied.length == u.count

/-- Sections as Table 11.3 requires: their types and body lengths. -/
def sectionsOf : Nat → List Byte → Option (List (Nat × List Byte))
  | 0, bs => if bs.isEmpty then some [] else none
  | n + 1, bs =>
    if bs.isEmpty then some []
    else if bs.length < 8 then none
    else
      let len := fieldAt bs 4 4
      let body := (bs.drop 8).take len
      if body.length < len || fieldAt bs 2 2 ≠ 0 then none
      else (sectionsOf n (bs.drop (8 + len))).map (fun r => (fieldAt bs 0 2, body) :: r)

/-- The records of a REGISTRY body: (tensor id, entry). -/
def registryOf : Nat → List Byte → List (Nat × List Byte)
  | 0, _ => []
  | n + 1, bs => (fieldAt bs 0 2, (bs.drop 4).take 128) :: registryOf n (bs.drop 132)

/-- Ids strictly rising. -/
def idsRise : List (Nat × List Byte) → Bool
  | a :: b :: r => decide (a.1 < b.1) && idsRise (b :: r)
  | _ => true

/-- The sections of an image are those its variant requires (Table 11.3). -/
def State.sectionsOk (s : State) (img : List Byte) : Bool :=
  match sectionsOf 4 (img.drop 64) with
  | none => false
  | some secs =>
    let regOk := fun (b : List Byte) =>
      decide (b.length = 8 + 132 * fieldAt b 0 4) && fieldAt b 4 4 == 0 && idsRise (registryOf (fieldAt b 0 4) (b.drop 8))
    secs.map (·.1) == (if s.isD4 then [1, 2, 3] else [1, 3]) && fieldAt img 32 4 == secs.length
    && secs.all (fun p => if p.1 = 1 then p.2.length == 48 && decide (word4 p.2 4 ≤ s.maxContexts)
        else if p.1 = 2 then p.2.length == 3072 else regOk p.2)

/-- The code of the first check that fails (R244), 0 when all pass; `img` is the header alone where LEN is out of
range. -/
def State.imageFault (s : State) (img : List Byte) : Nat :=
  let len := word4 img 8
  if word4 img 0 ≠ 0x444C5334 then 8
  else if len < 64 || len > s.img.stagedEnd || img.length ≠ len || (crc32c (img.drop 8)).toNat ≠ word4 img 4 then 9
  else if fieldAt img 12 2 ≠ 1 then 0xA
  else
    let flags := fieldAt img 30 1
    if flags % 2 ≠ b2n (!s.isD4) || flags / 2 % 2 ≠ b2n s.gen3 || !s.sectionsOk img
        || word4 img 16 ≠ s.img.fillStep.toNat then 0xB
    else 0

/-- The header or the whole of the staged image is here. -/
def State.checkData (s : State) (got : List (Nat × List Byte)) : State :=
  let a := s.img.stage.toNat
  if s.img.staged.isEmpty then
    let h := gotBytes got a 64
    let len := word4 h 8
    let s1 : State := { s with img := { s.img with staged := h } }
    if word4 h 0 ≠ 0x444C5334 || len ≤ 64 || len > s.img.stagedEnd then
      { s1 with img := { s1.img with checkData := true } }
    else s1.issueRead .imgCheck [(a, len)]
  else
    { s with img := { s.img with staged := gotBytes got a (word4 s.img.staged 8), checkData := true } }

/-- A failed image check (R244) (DEDUCED, log entry 10). -/
def State.imageReject (s : State) (code : Nat) : State :=
  let s1 := (s.logEvent 0x5E .img (BitVec.ofNat 32 code) s.img.fillStep 0 0).pageEvent .img 3
  let s2 := s1.imgAwait .awaiting
  { s2 with img := { s2.img with err := BitVec.ofNat 4 code } }

/-- IMAGE_CHECKS: they start once every fragment is copied, and conclude once the staged image is read (R244). -/
def State.imageChecks (s : State) : State :=
  if !s.img.allCopied then s
  else if !s.img.checking then
    let s1 : State := { s with img := { s.img with checking := true, checkData := false, staged := [] } }
    s1.issueRead .imgCheck [(s.img.stage.toNat, 64)]
  else if !s.img.checkData then s
  else match s.imageFault s.img.staged with
    | 0 => { s with img := { s.img with st := .resumable, checking := false, checkData := false } }
    | code => s.imageReject code

/-! ## Resume (R245) -/

/-- The image's sections. -/
def ImgUnit.sect (u : ImgUnit) (ty : Nat) : List Byte :=
  (((sectionsOf 4 (u.staged.drop 64)).getD []).find? (fun p => p.1 == ty)).map (·.2) |>.getD []

/-- The listed entries of the image. -/
def ImgUnit.imgEntries (u : ImgUnit) : List (Nat × List Byte) :=
  let b := u.sect 3
  registryOf (fieldAt b 0 4) (b.drop 8)

/-- Writes the next chunk of sixteen entries of the store: those listed as imported, the others as REGISTER with KIND
UNREG leaves them. The store's address is the image's own DL_TEN_BASE. -/
def State.applyGo (s : State) : State :=
  match s.img.st, s.img.applyLeft with
  | .applying, k :: r =>
    if s.p0.writes.any (fun w => w.tag == .imgApply) then s
    else
      let base := word4 (s.img.sect 1) 8
      let es := s.img.imgEntries
      let blank := (({} : RegEntry).registerAs false 0 0).bytes
      let bytes := (List.range 16).flatMap (fun j => (lookupKey (16 * k + j) es).getD blank)
      let s1 : State := { s with img := { s.img with applyLeft := r } }
      s1.issueWrite .imgApply (cellsAt (base + 2048 * k) bytes)
  | _, _ => s

/-- An apply write failed: the image is given up (log entry 10). -/
def State.applyFail (s : State) : State :=
  let s1 := s.imgAwait .awaiting
  { s1 with img := { s1.img with err := 7 } }

/-- The apply has written every entry. -/
def State.applyDone (s : State) : Bool :=
  s.img.st == .applying && s.img.applyLeft.isEmpty && !s.p0.writes.any (fun w => w.tag == .imgApply)

/-- The configuration and the engine's state of the image (R245, Tables 11.4 and 11.5). -/
def State.applyConfig (s : State) : State :=
  let g := s.img.sect 1
  let w := fun i => word4 g (4 * i)
  let b := s.img.sect 2
  let gw := fun k i => (BitVec.ofNat 32 (word4 b (48 * k + 4 * i)) : Word)
  let seed : DWord := BitVec.ofNat 64 (fieldAt s.img.staged 20 8)
  let dorm : Word := BitVec.ofNat 32 (w 3)
  let cfg : Word := BitVec.ofNat 32 (w 8)
  let groups := if s.isD4 then s.sch.groups.zipIdx.map (fun gk =>
      let k := gk.2
      { gk.1 with cfg := gw k 0 &&& 0x0007FFFF, peak := gw k 1, floor := gw k 2, init := gw k 3, warm := gw k 4, len := gw k 5,
                  lfact := gw k 6, iter := gw k 7, gstat := gw k 8, eta := gw k 9, gstep := gw k 10,
                  given := bitOf (gw k 8) 31 || gw k 9 != 0 || gw k 10 != 0, released := false, load := none, hashed := false,
                  tok := (List.range 7).map (fun i => if i = 0 then gw k 0 &&& 0x0007FFFF else gw k i), snap := none, etab := none, formed := none, phi := none })
    else s.sch.groups
  { s with
    ctx := { s.ctx with base := BitVec.ofNat 32 (w 0), limit := BitVec.ofNat 21 (w 1), states := [], lines := [], peeks := [] }
    num := { s.num with base := BitVec.ofNat 32 (w 2), kmask := dorm.extractLsb' 16 5, dormN := dorm.extractLsb' 0 16,
                        widenSat := BitVec.ofNat 32 (w 4) &&& 0x01FFFFFF, widenUfl := BitVec.ofNat 32 (w 5) &&& 0x01FFFFFF,
                        seed := seed, lines := [],
                        windows := [], decodeT := [] }
    chn := { s.chn with chnWeight := BitVec.ofNat 4 (w 6 / 16), laneWeight := BitVec.ofNat 4 (w 6),
                        pinnae := s.chn.pinnae.map (fun p => { p with creditChn := 0, creditLane := 0 }) }
    tree := { s.tree with imask := BitVec.ofNat 16 (if s.isD4 then w 7 else w 7 % 256), valid := bitOf cfg 31, nchipsM1 := cfg.extractLsb' 10 10,
                          rank := cfg.extractLsb' 0 10 }
    sch := if s.isD4 then { s.sch with scope := BitVec.ofNat 2 (w 9), gen := BitVec.ofNat 64 (w 10 + 2 ^ 32 * w 11),
                                       groups := groups, checking := false, checked := false } else s.sch }

end Sys2Proof.Machine
end

