-- ==== Sys2Proof/Machine/Chains.lean ====
section
/-! DEFINITION. The life of a chain (R154, R155, R160 to R163, R166): submission and its checks, admission and its checks,
the completion word, cancels and stops. -/
namespace Sys2Proof.Machine

/-! ## The checks at submission (Table 7.8, marked S) -/

/-- The end of scratchpad (R255). -/
def spadTop : Nat := 2 ^ 31

namespace ChainDesc
/-- The option bits that Table 7.4 gives the chain. -/
def optMask (d : ChainDesc) : Nat :=
  match d.chain with | 1 => 3 | 2 => 3 | 3 => 7 | 4 => 3 | 5 => 1 | 6 => 1 | 8 => 7 | _ => 0

/-- Chain-specific words of Table 7.4 that the chain has no use for are zero. -/
def dashesZero (d : ChainDesc) : Bool :=
  let a0 := d.aux0 == 0
  let a1 := d.aux1 == 0
  let i0 := d.imm0 == 0
  let i1 := d.imm1 == 0
  let i2 := d.imm2 == 0
  match d.chain with
  | 1 | 5 => true
  | 2 => a1 && i1
  | 3 => i0 && i1
  | 4 => a0 && a1 && i1
  | 6 => a0 && i1
  | 7 => a0 && a1 && i0 && i1
  | _ => i0 && i1 && i2

/-- A positive finite FP32 value. -/
def posFinite (w : Word) : Bool := !nonFin32 w && Val.lt Val.zero (f32 w)

/-- FIELD. -/
def fieldBad (d : ChainDesc) : Bool :=
  d.grade == 3 || bitOf (d.words.getD 1 0) 31 || d.pro == 3 || d.mask == 3 || d.scope == 3
  || (d.pro != 0 && !(d.chain == 2 || d.chain == 4 || d.chain == 7))
  || (d.mask == 1 && d.chain != 1) || (d.mask == 2 && !(d.chain == 1 || d.chain == 5))
  || d.opt &&& d.optMask != d.opt
  || (d.func != 0 && d.chain != 4)
  || !d.dashesZero
  || (d.chain == 2 && d.imm0 != 0 && !posFinite d.imm0)
  || (d.chain == 6 && (!posFinite d.imm0 || decide (d.imm0.toNat < 2 ^ 23) || bitsOf d.imm2 31 6 != 0))
  || (d.chain == 5 && d.mask != 2 && d.imm2 != 0)
  || (d.chain == 8 && d.plainOpt && d.tiles)

/-- An output code; `d3` says whether D3 is among them. -/
def outCode (d3 : Bool) (c : Nat) : Bool := decide (c ≤ 0xA) || (d3 && c == 0xB)

/-- FORMAT (Tables 2.1 and 7.6). -/
def formatOk (d : ChainDesc) : Bool :=
  let scal := decide (d.inFmt ≤ 4)
  let all := decide (d.inFmt ≤ 0xB)
  let none1 := d.outFmt == 0
  let none2 := d.out2Fmt == 0
  match d.chain with
  | 1 => scal && outCode false d.outFmt && (if d.pv then outCode false d.out2Fmt else none2)
  | 2 => all && outCode true d.outFmt && (if d.resid then decide (d.out2Fmt ≤ 2) else none2)
  | 3 => scal && outCode false d.outFmt && none2
  | 4 | 7 => all && outCode true d.outFmt && none2
  | 5 => decide (d.inFmt ≤ 2) && (if d.grad then outCode false d.outFmt else none1) && none2
  | 6 => all && none1 && none2
  | _ => d.inFmt == 0 && none1 && (if d.tiles then outCode false d.out2Fmt else none2)

/-- The spans that the chain reads and writes at fixed addresses: address, bytes, alignment (R28, R137 to R152, R160)
(DEDUCED, log entry 39). -/
def spans (d : ChainDesc) : List (Nat × Nat × Nat) :=
  let last := Nat.max 1 d.ntiles - 1
  let list := 4 * (128 * last + d.rows)
  let b := recordBytes d.outFmt
  let b2 := recordBytes d.out2Fmt
  let i2 := d.imm2.toNat
  [(d.doneAddr, 8, 8)]
  ++ (if d.writesOut then
        [(d.outBase, 64 * d.outStride * last + (if d.pv && d.wcap then 128 * b + 2048 else d.rows * b), 64)] else [])
  ++ (if d.mergesTiles then [(d.out2Base, d.rows * b2, 64), (d.aux1, 67584 * d.wsSlots, 64)] else [])
  ++ (if d.resid then [(d.out2Base, 64 * d.out2Stride * last + d.rows * b2, 64)] else [])
  ++ (if d.chain = 1 && !d.pv && d.wcap then [(d.aux1, 2048 * (last + 1), 1)] else [])
  ++ (if d.mask = 2 then [(if d.chain = 1 then d.aux0 else i2, 2048 * (last + 1), 1)] else [])
  ++ (if d.gain then [(d.aux0, 512 * (last + 1), 1)] else [])
  ++ (if d.chain = 3 then [(d.aux0, 12 * (if d.hd64 then 32 else 64), 1)] else [])
  ++ (if d.posList then [(d.aux1, list, 1)] else [])
  ++ (if d.chain = 5 then [(d.aux0, 4 * d.rows, 1), (d.aux1, 16, 16), (d.out2Base, 4 * d.rows, 1)] else [])
  ++ (if d.chain = 6 then [(d.aux1, 16, 1)] else [])
  ++ (if d.chain = 8 && d.wcap then [(d.aux0, 2048, 1)] else [])
  ++ (if d.pro = 2 then [(i2, list, 4)] else [])

/-- ADDRESS (DEDUCED, log entry 39). -/
def addressBad (d : ChainDesc) : Bool :=
  d.spans.any (fun s => s.1 % s.2.2 != 0 || decide (s.1 + s.2.1 > spadTop))
  || (d.pv && d.wcap && decide (64 * d.outStride < 128 * recordBytes d.outFmt + 2048))

/-- LENGTH. -/
def lengthBad (d : ChainDesc) : Bool :=
  d.ntiles == 0
  || (d.scope == 0 && d.declLen != 0 && !(decide (128 * (d.ntiles - 1) < d.declLen) && decide (d.declLen ≤ 128 * d.ntiles)))
  || (d.chain == 6 && d.declLen != 0)

/-- Format codes the chain uses. -/
def fmts (d : ChainDesc) : List Nat := [d.inFmt, d.outFmt, d.out2Fmt]

/-- Elements that Derlith-3 does not have (Table 8.6). -/
def notGen3 (d : ChainDesc) : Bool :=
  d.chain == 5 || d.chain == 6 || d.chain == 8 || (d.chain == 1 && d.opt != 0) || d.scope != 0 || d.grade != 1
  || d.fast || d.sr || d.fmts.any (fun f => decide (f ≥ 5)) || (d.chain == 4 && (d.func == 0x0B || decide (d.func ≥ 0x40)))

/-- Two row-blocks share a context index of one generation (R163). -/
def overlaps (d e : ChainDesc) : Bool :=
  d.hasStat && e.hasStat && d.gen == e.gen && decide (d.ctxFirst < e.ctxFirst + e.rows)
  && decide (e.ctxFirst < d.ctxFirst + d.rows)
end ChainDesc

/-- The least WS_SLOTS (R180). -/
def State.wsLeast (s : State) (d : ChainDesc) : Nat := if d.scope = 2 then 1 + 3 * chipLevels s.chips else 1

/-- A descriptor address is usable (Table 7.8, DESC_READ). -/
def descAddrOk (a : Nat) : Bool := a % 64 == 0 && decide (a + 64 ≤ spadTop)

/-- The checks at submission, in table order: the code of the first that fails, 0 where all pass
(DEDUCED, log entry 39). -/
def State.submissionCode (s : State) (addr : Word) (d : ChainDesc) : Nat :=
  if (s.chainAt addr).isSome then 0x02
  else if d.chain = 0 || d.chain > 8 then 0x03
  else if d.fieldBad then 0x04
  else if !d.formatOk then 0x05
  else if !s.isD4 && (d.fmts.contains 0xB || d.sched) then 0x06
  else if d.chain = 4 && ((decide (d.func < 0x40) && !builtinExists d.func) || d.func == 0x10 || d.func == 0x11) then 0x07
  else if d.hasStat && d.ctxFirst + d.rows > s.ctx.limit.toNat then 0x08
  else if !d.hasStat && (d.ctxFirst != 0 || d.gen != 0) then 0x08
  else if s.chains.any (fun c => c.d.overlaps d) then 0x09
  else if d.addressBad then 0x0A
  else if d.lengthBad then 0x0B
  else if d.mergesTiles && decide (d.wsSlots < s.wsLeast d) then 0x0C
  else if !d.mergesTiles && d.wsSlots != 0 then 0x0C
  else if d.scope != 0 && (!(d.pv || d.chain == 5 || d.chain == 6 || d.chain == 8) || !s.scopeConfigured d.scope) then 0x0D
  else if s.chains.length ≥ 64 then 0x0E
  else if s.gen3 && d.notGen3 then 0x0F
  else 0

/-! ## Refusals and completion words -/

/-- DL_CHN_REFUSE captures the first refusal (Table 15.5). -/
def Capture.take (c : Capture) (lo : Word) (code : Nat) (tag : BitVec 16) : Capture :=
  if c.valid then { c with ovf := true } else { valid := true, ovf := false, lo := lo, code := BitVec.ofNat 8 code, tag := tag }

/-- A refusal, as it is logged, counted and captured (R154, R166). -/
def State.logRefusal (s : State) (addr : Word) (code : Nat) (tag : BitVec 16) : State :=
  let s := ((s.logEvent 0x30 .chn addr (BitVec.ofNat 32 code) 0 0 tag).pageEvent .chn 1).count 11 1
  { s with chn := { s.chn with refuse := s.chn.refuse.take addr code tag } }

/-- The eight bytes of a completion word (Table 7.9); `flags` are its bits [38:32] (DEDUCED, log entry 40). -/
def doneBytes (tag : BitVec 16) (code flags : Nat) (step : Word) : List Byte :=
  wordBytes step ++ leBytes 4 (tag.toNat * 2 ^ 16 + code * 2 ^ 8 + flags)

/-- The flags of Table 7.9 (DEDUCED, log entry 40). -/
def Chain.doneFlags (c : Chain) (widen : Bool) : Nat :=
  64 * b2n c.dropped + 32 * b2n c.stale + 16 * b2n widen + 8 * b2n c.lenMismatch + 4 * b2n c.anyBoundLost
  + 2 * b2n c.anyNonfinite + b2n c.anyEmpty

/-- The code a chain ends with (Table 7.8). -/
def Chain.code (c : Chain) : Nat := match c.st with | .ending k => k | _ => 0

/-- Issues the completion word of a chain (R160) (DEDUCED, log entry 40). -/
def State.issueWord (s : State) (c : Chain) : State :=
  let w := !(s.widenings c).isEmpty
  (s.modChain c.uid (fun c => { c with wordIssued := true, widen := w })).issueWrite (.doneWord c.uid)
    (cellsAt c.d.doneAddr (doneBytes c.d.tag c.code (c.doneFlags w) s.step))

/-- Evaluations of a chain are in flight. -/
def State.chainFlies (s : State) (uid : Nat) : Bool :=
  s.chn.flights.any (fun f => match f.chain with | some p => p.1 == uid | none => false)

/-- Issues the completion word of every chain that has nothing left to do: a completed chain, or one being ended whose
evaluations have drained, once its other writes are complete (R160, R161). -/
def State.issueWords (s : State) : State :=
  s.chains.foldl (fun (s : State) c =>
    if c.wordIssued || c.writes ≠ 0 then s
    else if c.running then (if c.finished then s.issueWord c else s)
    else if s.chainFlies c.uid then s
    else s.issueWord c) s

/-- A read of a chain. -/
def ReadTag.ofChain (uid : Nat) (t : ReadTag) : Bool :=
  match t with
  | .item u _ | .foldTile u _ | .treeMerge u => u == uid
  | _ => false

/-- Ends a chain with a code (R161, R162): it issues nothing more, and its items and partial capsules are dropped. -/
def State.endChain (s : State) (uid code : Nat) : State :=
  (s.modChain uid (fun c => if c.running && !c.wordIssued then
    { c with st := .ending code, pass2 := c.inPass2, items := [], parts := [], foldData := none, finished := false } else c)).stopReads
    (ReadTag.ofChain uid)

/-- A P0 access of a chain failed: SPAD_ERR with the CHN page, and the chain stops (R162) (DEDUCED, log entry 11). A
further error of a chain that is being ended changes nothing more: it keeps its code, and logs none, while the word
is not issued (DESIGN CHOICE, log entry 93). -/
def State.failChain (s : State) (uid addr : Nat) : State :=
  match s.chainOf uid with
  | some c => if c.running && !c.wordIssued then (s.logSpadErr addr .chn c.d.tag).endChain uid 0x13 else s
  | none => s

/-- A first writer that ended before it fixed T leaves its window without one (R203). -/
def State.leaveFirst (s : State) (uid : Nat) : State :=
  { s with num := { s.num with windows := s.num.windows.map (fun w =>
      if w.first == some uid && w.t.isNone then { w with first := none, amaxPre := none } else w) } }

/-- The slot of a chain becomes free. -/
def State.freeSlot (s : State) (uid : Nat) : State :=
  { s with chn := { s.chn with slots := s.chn.slots.map (fun o => match o with
      | some c => if c.uid == uid then none else o
      | none => none) } }

/-- COMPLETION_WORD_WRITTEN (R160): the acknowledgement of a completion word; its write may have failed (R162). -/
def State.wordWritten (s : State) (uid : Nat) (err : Bool) : State :=
  match s.chainOf uid with
  | none => s
  | some c =>
    if err then
      (((s.logSpadErr c.d.doneAddr .chn c.d.tag).leaveFirst uid).leaveWindows uid).freeSlot uid
    else
      let s1 := if c.code = 0 then s.count 10 1 else s
      let s2 := ((s1.widen c).leaveFirst uid).leaveWindows uid
      let s3 := s2.freeSlot uid
      match c.code, c.phi with
      | 0, some p => if c.d.sched then s3.deliverPhi (bitsOf c.d.imm2 5 0) c.step p else s3
      | _, _ => s3

/-! ## Submission (R154) -/

/-- Starts the descriptor read of the submission at the head of the queue. -/
def State.submitGo (s : State) : State :=
  match s.chn.queue with
  | q :: r =>
    if q.reading || q.data.isSome || !descAddrOk q.addr.toNat then s
    else ({ s with chn := { s.chn with queue := { q with reading := true } :: r } }).issueRead .descriptor [(q.addr.toNat, 64)]
  | [] => s

/-- A write of DL_CHN_SUBMIT (R154). -/
def State.submit (s : State) (rq : Requester) (v : Word) : State :=
  if s.chn.queue.length ≥ 16 then
    ((({ s with chn := { s.chn with qfull := true } } : State)).regFault .chn .queue rq 0x040).pageEvent .chn 2
  else ({ s with chn := { s.chn with queue := s.chn.queue ++ [({ addr := v } : Submission)] } } : State).submitGo

/-- The descriptor's data, or none where its read failed (DEDUCED, log entry 38). -/
def State.descriptorData (s : State) (data : Option (List Byte)) : State :=
  match s.chn.queue with
  | q :: r => { s with chn := { s.chn with queue := { q with data := some data } :: r } }
  | [] => s

/-- Puts an armed chain into the lowest free slot. -/
def State.arm (s : State) (addr : Word) (d : ChainDesc) : State :=
  match s.chn.slots.findIdx? (·.isNone) with
  | some i =>
    let c : Chain := { uid := s.chn.nextUid, addr := addr, d := d, live := List.replicate d.rows false,
                       zs := List.replicate d.rows none }
    { s with chn := { s.chn with nextUid := s.chn.nextUid + 1, slots := s.chn.slots.set i (some c) } }
  | none => s

/-- Ends the submission at the head of the queue: armed, or refused (R154) (DEDUCED, log entry 38). -/
def State.judgeSubmission (s : State) (addr : Word) (data : Option (List Byte)) : State :=
  match data with
  | none => s.logRefusal addr 0x01 0
  | some bs =>
    let d := parseChain (wordsOf 16 bs)
    match s.submissionCode addr d with
    | 0 => s.arm addr d
    | code =>
      let s1 := s.logRefusal addr code d.tag
      if d.doneAddr % 8 = 0 && d.doneAddr + 8 ≤ spadTop then
        s1.issueWrite (.refusedWord d.tag) (cellsAt d.doneAddr (doneBytes d.tag code 0 s.step))
      else s1

/-- SUBMISSION_CHECK: the submission at the head is judged once its descriptor is read. -/
def State.submissionStep (s : State) : State :=
  match s.chn.queue with
  | [] => s
  | q :: r =>
    let pop : State := { s with chn := { s.chn with queue := r } }
    if !descAddrOk q.addr.toNat then (pop.judgeSubmission q.addr none).submitGo
    else match q.data with
      | some data => (pop.judgeSubmission q.addr data).submitGo
      | none => s.submitGo

/-! ## Admission (R155) -/

/-- The evaluations of a chain, named and fixed, as they resolve in a bank (R92, R153); none where an ID is undefined. -/
def State.chainFns (s : State) (b : Bool) (d : ChainDesc) : Option (Option Resolved × Option Resolved) :=
  match d.chain with
  | 1 | 5 => some (some (s.ownFn 0x01 d.g), none)
  | 3 =>
    match s.resolve b 0x10 d.g, s.resolve b 0x11 d.g with
    | some f, some g => some (some f, some g)
    | _, _ => none
  | 4 => (s.resolve b d.func d.g).map (fun f => (some f, none))
  | _ => some (none, none)

/-- The fixed evaluations made on completion and in merges (Table 7.5). -/
def State.chainOwn (s : State) (d : ChainDesc) : List Resolved :=
  let q := fun id => s.ownFn id .Q
  match d.chain with
  | 1 => [q 0x01]
  | 2 => [q 0x05]
  | 5 => [q 0x01, q 0x03]
  | 6 => [q 0x06]
  | 8 => if d.plainOpt then [] else [q 0x01]
  | _ => []

/-- The checks at admission (Table 7.8, marked A): the code, and what the chain is pinned to. -/
def State.admissionCode (s : State) (d : ChainDesc) : Nat × Option Resolved × Option Resolved × List TableKey :=
  let b := s.activeBank
  match s.chainFns b d with
  | none => (0x07, none, none, [])
  | some (f, g) =>
    let named := f.toList ++ g.toList
    let ws := ((named ++ s.chainOwn d).flatMap s.tablesOf).eraseDups
    let k := s.tbl.bank b
    if (k.quarantine || k.fault) && named.any s.usesRam then (0x10, f, g, ws)
    else if s.wsBlocks ws > 64 then (0x11, f, g, ws)
    else (0, f, g, ws)

/-- CHAIN_ADMISSION: pins the chain, resolves its evaluations and makes the checks (R155). -/
def State.admitChain (s : State) (c : Chain) : State :=
  let (code, f, g, ws) := s.admissionCode c.d
  let others := s.chains.filter (fun o => o.uid != c.uid)
  let n := s.tbl.admits + 1
  if code ≠ 0 then
    let s1 := s.modChain c.uid (fun c => { c with st := .ending code, bank := s.activeBank, step := s.step, admitNo := n })
    s1.logRefusal c.addr code c.d.tag
  else
    let s1 := s.modChain c.uid (fun c => { c with
      st := .admitted, bank := s.activeBank, step := s.step, seed := s.num.seed, limSat := s.num.widenSat,
      limUfl := s.num.widenUfl, fn := f, fn2 := g, ws := ws, admitNo := n })
    let ids := (c.d.outIds.map (·.2.1)).eraseDups
    (s1.wantTables ws).openPending c.uid c.addr c.d.tag s.step ids others

/-! ## Cancels (R161, R314) -/

/-- A write of DL_CHN_CANCEL (DEDUCED, log entry 38). -/
def State.cancel (s : State) (rq : Requester) (v : Word) : State :=
  match s.chainAt v with
  | some c => (s.endChain c.uid 0x12).issueWords
  | none => s.regFault .chn .state rq 0x044

end Sys2Proof.Machine
end

