-- ==== Sys2Proof/Machine/Ks6.lean ====
section
/-! DEFINITION. KS-6, the counter-based generator of stochastic rounding (R44, R46, Tables 2.10 and 2.11). -/
namespace Sys2Proof.Machine

/-- The per-round rotations of Table 2.11. -/
def ks6Rot : List (Nat × Nat) := [(13, 19), (7, 5), (23, 26), (17, 9), (11, 15), (29, 3)]

/-- One round of R46; `r` is the round number, its constants those of Table 2.11. -/
def ks6Round (k0 k1 : Word) (x : Word × Word × Word × Word) (r : Nat) (rot : Nat × Nat) : Word × Word × Word × Word :=
  let (x0, x1, x2, x3) := x
  let x0 := x0 + x1
  let x3 := (x3 ^^^ x0).rotateLeft rot.1
  let x2 := x2 + x3
  let x1 := (x1 ^^^ x2).rotateLeft rot.2
  let n : Word := BitVec.ofNat 32 (r + 1)
  (x0 + k1 + n * 0x8F1BBCDD, x1, x2 + k0 + n * 0x6A3D9E45, x3)

/-- KS-6 of a 128-bit counter (words c0 to c3) under a 64-bit seed (R46). -/
def ks6 (c0 c1 c2 c3 : Word) (seed : DWord) : Word :=
  let k0 : Word := seed.extractLsb' 0 32
  let k1 : Word := seed.extractLsb' 32 32
  let x := (ks6Rot.zipIdx).foldl (fun x rr => ks6Round k0 k1 x rr.2 rr.1)
    (c0 ^^^ k0, c1 ^^^ k1, c2 ^^^ k0 ^^^ k1 ^^^ 0x5A6C31E7, c3)
  x.1 ^^^ x.2.2.2

/-- The draw of an output element: draw number 0, the chain's admission step, tensor id and element index (R44). -/
def ks6Draw (seed : DWord) (step : Word) (tid : BitVec 16) (elem : Nat) : Nat :=
  let e := elem % 2 ^ 48
  (ks6 0 (BitVec.ofNat 32 e) (BitVec.ofNat 32 (tid.toNat * 65536 + e / 2 ^ 32)) step seed).toNat

end Sys2Proof.Machine
end

