-- ==== Sys2Proof/Machine/Items.lean ====
section
/-! DEFINITION. Work items (R157): the tiles they read (R137 to R141), the evaluations they ask for (R142 to R148, R169),
and what their results form: partial capsules (R118) and outputs (R40, R191, R203). -/
namespace Sys2Proof.Machine

/-! ## Arithmetic of the mode -/

/-- FP32-path operations, or those of Gen-3 mode (R37, R186). -/
def pathAdd (g3 : Bool) (a b : Word) : Word := if g3 then g3add a b else fadd a b
def pathSub (g3 : Bool) (a b : Word) : Word := if g3 then g3sub a b else fsub a b
def pathMul (g3 : Bool) (a b : Word) : Word := if g3 then g3mul a b else fmul a b

/-! ## Items of a chain -/

/-- The item of a key. -/
def Chain.item (c : Chain) (key : Nat) : Option Item := c.items.find? (fun i => i.key == key)

/-- Updates an item. -/
def State.modItem (s : State) (uid key : Nat) (f : Item → Item) : State :=
  s.modChain uid (fun c => { c with items := c.items.map (fun i => if i.key == key then f i else i) })

/-- An item ends. -/
def State.endItem (s : State) (uid : Nat) (it : Item) : State :=
  s.modChain uid (fun c => { c with
    items := c.items.filter (fun i => i.key != it.key), ended := c.ended ++ [(it.pass, it.pre, it.ord)] })

/-- How many items of a pass have ended. -/
def Chain.endedCount (c : Chain) (p : Pass) (pre : Bool) : Nat :=
  (c.ended.filter (fun e => e.1 == p && e.2.1 == pre)).length

/-- Ordinals that a pass covers. -/
def ChainDesc.passOrds (d : ChainDesc) (p : Pass) : List Nat := match p with | .completion => [0] | _ => List.range d.ntiles

/-- The output that a pass writes under a tensor id: which one, the id, the format. -/
def ChainDesc.outOf (d : ChainDesc) (p : Pass) : Option (Nat × Nat × Nat) :=
  let w := match p with
    | .first => if d.chain = 2 then 2 else if d.chain = 5 then 0 else 1
    | .completion => 2
    | .second => 1
  d.outIds.find? (fun o => o.1 == w)

/-- Where an output tile of a pass lies (R137, R143). -/
def ChainDesc.outBaseOf (d : ChainDesc) (p : Pass) (t : Nat) : Nat :=
  match p with
  | .first => if d.chain = 2 then d.out2At t else d.outAt t
  | .completion => d.out2Base
  | .second => d.outAt t

/-! ## What an item reads -/

/-- Address of the mask tile of ordinal t (R141). -/
def ChainDesc.maskAt (d : ChainDesc) (t : Nat) : Nat := (if d.chain = 1 then d.aux0 else d.imm2.toNat) + 2048 * t

/-- Address of the gather list of ordinal t (R140). -/
def ChainDesc.listAt (d : ChainDesc) (t : Nat) : Nat := d.imm2.toNat + 512 * t

/-- All bytes of a range are among the data. -/
def covered (data : List (Nat × List Byte)) (r : Nat × Nat) : Bool :=
  (p0Pieces r.1 r.2).all (fun q => (List.range ((q.2 + 63) / 64)).all (fun i =>
    data.any (fun p => decide (p.1 ≤ q.1 + 64 * i) && decide (q.1 + 64 * i < p.1 + p.2.length))))

/-- The source record of row r under a row gather; none for a masked row (R140). -/
def Chain.gathered (c : Chain) (data : List (Nat × List Byte)) (t r : Nat) : Option Nat :=
  let w := gotWord data (c.d.listAt t + 4 * r)
  if w = 0xFFFFFFFF then none else some w.toNat

/-- The records of a named tile or source matrix that the rows need (R137, R139, R140). -/
def Chain.tileRanges (c : Chain) (data : List (Nat × List Byte)) (t addr : Nat) : List (Nat × Nat) :=
  let b := recordBytes c.d.inFmt
  match c.d.pro with
  | 1 => [(addr, 128 * b)]
  | 2 =>
    if covered data (c.d.listAt t, 4 * c.d.rows) then
      (List.range c.d.rows).filterMap (fun r => (c.gathered data t r).map (fun i => (addr + b * i, b)))
    else []
  | _ => [(addr, c.d.rows * b)]

/-- The address that the doorbell of a kind and ordinal named. -/
def Chain.tileAddr (c : Chain) (kind : Bool) (t : Nat) : Nat := ((c.arrival kind t).map (·.addr)).getD 0

/-- The ranges that an item reads, as far as the data that have come tell (DEDUCED, log entry 11). -/
def Chain.itemRanges (c : Chain) (it : Item) : List (Nat × Nat) :=
  let d := c.d
  let t := it.ord
  let list := if d.pro = 2 then [(d.listAt t, 4 * d.rows)] else []
  let mask := if d.mask = 2 then [(d.maskAt t, 16 * d.rows)] else []
  match it.pass with
  | .first =>
    if d.chain = 8 then [(c.tileAddr false t, 16 * d.rows)]
    else
      list ++ c.tileRanges it.data t (c.tileAddr false t)
      ++ (if d.resid || d.gated then c.tileRanges it.data t (c.tileAddr true t) else []) ++ mask
      ++ (if d.chain = 3 then [(d.aux0, 12 * (if d.hd64 then 32 else 64))] else [])
      ++ (if d.posList then [(d.aux1 + 512 * t, 4 * d.rows)] else [])
      ++ (if d.chain = 5 then [(d.aux0, 4 * d.rows)] else [])
  | .completion => [(d.aux1, 512 * d.rows)]
  | .second =>
    list ++ mask
    ++ (if d.resid then [(d.out2At t, recordBytes d.out2Fmt * d.rows)] else c.tileRanges it.data t (c.tileAddr false t))
    ++ (if d.gain then [(d.aux0 + 512 * t, 512)] else [])

/-! ## Rows -/

/-- Decodes a record of a format, flushing subnormals in Gen-3 mode (R186). -/
def State.decodeOf (s : State) (fmt : Nat) (T : Word) (bytes : List Byte) : List Word :=
  let xs := decodeRow fmt (f32 T) bytes
  if s.gen3 then xs.map flush32 else xs

/-- Row r of a tile of IN_FMT after transpose or gather; none for a row that the list masks (R139, R140). -/
def State.tileRow (s : State) (c : Chain) (it : Item) (kind : Bool) (r : Nat) : Option (List Word) :=
  let b := recordBytes c.d.inFmt
  let addr := c.tileAddr kind it.ord
  let T := if kind then it.scale1 else it.scale0
  match c.d.pro with
  | 1 => some ((List.range 128).map (fun k =>
      let w := decodeElem c.d.inFmt (f32 T) (gotBytes it.data (addr + b * k) b) r
      if s.gen3 then flush32 w else w))
  | 2 => (c.gathered it.data it.ord r).map (fun i => s.decodeOf c.d.inFmt T (gotBytes it.data (addr + b * i) b))
  | _ => some (s.decodeOf c.d.inFmt T (gotBytes it.data (addr + b * r) b))

/-- A row as it enters the chain: its values, and which positions are masked (R141). -/
structure RowIn where
  xs : List Word
  masked : List Bool

/-- A position is masked by the causal rule or by the bitmap (R141) (DEDUCED, log entry 23). -/
def Chain.maskedAt (c : Chain) (it : Item) (r k : Nat) : Bool :=
  match c.d.mask with
  | 1 => decide (c.d.imm1.toNat + 128 * it.ord + k > c.d.imm2.toNat + r)
  | 2 => (gotByte it.data (c.d.maskAt it.ord + 16 * r + k / 8)).getLsbD (k % 8)
  | _ => false

/-- Row r of kind 0 after the prologue's arithmetic (R142, R144, R147). -/
def State.rowIn (s : State) (c : Chain) (it : Item) (r : Nat) : RowIn :=
  match s.tileRow c it false r with
  | none => { xs := List.replicate 128 0, masked := List.replicate 128 true }
  | some xs =>
    let ys :=
      if c.d.chain = 1 then xs.map (fun x => pathMul s.gen3 x c.d.imm0)
      else if c.d.prescale then xs.map (fun x => pathMul s.gen3 x c.d.imm0)
      else if c.d.resid then
        (xs.zip ((s.tileRow c it true r).getD (List.replicate 128 0))).map (fun p => pathAdd s.gen3 p.1 p.2)
      else xs
    { xs := ys, masked := (List.range 128).map (c.maskedAt it r) }

/-- The positions of a row that enter a statistic: presented and not masked, and for a max-relative one not −∞
(DEDUCED, log entry 24). -/
def Chain.liveIn (c : Chain) (it : Item) (row : RowIn) : List Bool :=
  (row.xs.zip row.masked).zipIdx.map (fun p =>
    c.d.presented it.ord p.2 && !p.1.2 && (c.d.plain || !c.d.hasStat || p.1.1 != negInf32))

/-- The maximum of the live values of a row (R114). -/
def rowMax (xs : List Word) (live : List Bool) : Word :=
  (xs.zip live).foldl (fun m p => if p.2 then fmax m p.1 else m) negInf32

/-! ## Positions of CH_ROPE (R146) -/

/-- The frequency index of a column, whether it is the first of its pair, and its partner. -/
def ChainDesc.ropePair (d : ChainDesc) (k : Nat) : Nat × Bool × Nat :=
  let h := if d.hd64 then 64 else 128
  let j := k % h
  if d.split then
    if j < h / 2 then (j, true, k + h / 2) else (j - h / 2, false, k - h / 2)
  else (j / 2, j % 2 == 0, if j % 2 = 0 then k + 1 else k - 1)

/-- The columns whose results are the sine and the cosine of a column's pair: each element of a pair that is presented
whole evaluates one of them, and an element whose partner is not presented both (R146) (DEDUCED, log entry 23). -/
def ChainDesc.ropeCols (d : ChainDesc) (t k : Nat) : Nat × Nat :=
  let (_, fst, q) := d.ropePair k
  if d.presented t q then (if fst then (k, q) else (q, k)) else (k, k)

/-- The position of a row. -/
def Chain.ropePos (c : Chain) (it : Item) (r : Nat) : Nat :=
  if c.d.posList then (gotWord it.data (c.d.aux1 + 512 * it.ord + 4 * r)).toNat
  else (c.d.imm2.toNat + 128 * it.ord + r) % 2 ^ 32

/-- The evaluation input of a row and a frequency. -/
def Chain.ropeInput (c : Chain) (it : Item) (r i : Nat) : EvIn :=
  posInput (c.ropePos it r) (leNat (gotBytes it.data (c.d.aux0 + 12 * i) 12))

/-! ## The evaluations of an item -/

/-- The label of a row (R148). -/
def Chain.label (c : Chain) (r : Nat) : Word := c.labels.getD r 0xFFFFFFFF

/-- The class at column k of an ordinal is the row's label. -/
def Chain.isLabel (c : Chain) (t r k : Nat) : Bool := c.d.imm1.toNat + 128 * t + k == (c.label r).toNat

/-- The evaluations of a row, in increasing column (DEDUCED, log entry 23). -/
def State.rowEvals (s : State) (c : Chain) (it : Item) (r : Nat) : List EvalReq :=
  let ks := (List.range 128).filter (c.d.presented it.ord)
  let req := fun (k w : Nat) (how : Resolved) (i : EvIn) =>
    ({ pinna := s.pinnaOf r k, row := r, col := k, which := w, how := how, input := i } : EvalReq)
  match it.pass, c.fn with
  | .first, some f =>
    if c.d.chain = 3 then
      ks.flatMap (fun k =>
        let i := c.ropeInput it r (c.d.ropePair k).1
        let cols := c.d.ropeCols it.ord k
        (if cols.1 = k then [req k 0 f i] else []) ++ (if cols.2 = k then [req k 1 (c.fn2.getD f) i] else []))
    else
      let row := s.rowIn c it r
      if c.d.chain = 4 then ks.map (fun k => req k 0 f (.x (row.xs.getD k 0)))
      else
        let m := rowMax row.xs (c.liveIn it row)
        ks.map (fun k => req k 0 f (.x (pathSub s.gen3 (row.xs.getD k 0) m)))
  | .second, some f =>
    if c.d.chain = 5 then
      let row := s.rowIn c it r
      ks.map (fun k => req k 0 f (.x (pathSub s.gen3 (row.xs.getD k 0) (c.lse.getD r 0))))
    else []
  | _, _ => []

/-- Every evaluation of an item, row by row (R157). -/
def State.itemEvals (s : State) (c : Chain) (it : Item) : List EvalReq :=
  (List.range c.d.rows).flatMap (s.rowEvals c it)

/-! ## Starting items -/

/-- The T's of an item's tiles, once they are fixed (R194, R202). -/
def State.itemScales (s : State) (c : Chain) (it : Item) : State × Option (Word × Word) :=
  let scaleOf := fun (s : State) (kind : Bool) => match c.arrival kind it.ord with
    | some a => s.decodeScale c.step a.itid.toNat c.d.inFmt
    | none => (s, some one32)
  let (s, t0) := if it.pass == .completion || c.d.chain == 8 || (it.pass == .second && c.d.resid) then (s, some one32)
    else scaleOf s false
  let (s, t1) := if it.pass == .first && (c.d.resid || c.d.gated) then scaleOf s true else (s, some one32)
  match t0, t1 with
  | some a, some b => (s, some (a, b))
  | _, _ => (s, none)

/-- Moves an item towards readiness: it reads what it lacks, waits for its scales, and forms its evaluations. A range
outside scratchpad stops the chain as a failed read does (log entry 11). -/
def State.itemAdvance (s : State) (uid key : Nat) : State :=
  match s.chainOf uid with
  | none => s
  | some c =>
    match c.item key with
    | none => s
    | some it =>
      if it.ready || s.reading (.item uid key) then s
      else
        let rs := c.itemRanges it
        match rs.find? (fun r => decide (r.1 + r.2 > spadTop)) with
        | some r => s.failChain uid r.1
        | none =>
          let need := rs.filter (fun r => !covered it.data r)
          if !need.isEmpty then s.issueRead (.item uid key) need
          else
            let (s1, ts) := s.itemScales c it
            match ts with
            | none => s1
            | some (a, b) =>
              let it1 := { it with scale0 := a, scale1 := b }
              let c1 := if c.d.chain = 5 && c.labels.isEmpty then
                  { c with labels := (List.range c.d.rows).map (fun r => gotWord it.data (c.d.aux0 + 4 * r)) } else c
              let s2 := s1.modChain uid (fun c => { c with labels := c1.labels })
              s2.modItem uid key (fun _ => { it1 with
                ready := true, stamp := s2.readyTime, todo := s2.itemEvals c1 it1 })

/-- The data of an item's reads came back. -/
def State.itemData (s : State) (uid key : Nat) (got : List (Nat × List Byte)) : State :=
  (s.modItem uid key (fun it => { it with data := it.data ++ got })).itemAdvance uid key

/-- Whether a pass runs its pre-pass now (R203): none while that is not known. -/
def State.prePhase (s : State) (c : Chain) (p : Pass) : State × Option Bool :=
  match c.d.outOf p with
  | none => (s, some false)
  | some (_, tid, fmt) =>
    if c.endedCount p true = (c.d.passOrds p).length then (s, some false)
    else if c.begun.any (fun e => e.1 == p && e.2.1) then (s, some true)
    else if c.begun.any (fun e => e.1 == p) then (s, some false)
    else
      let (s, r) := s.preNeeded c.uid c.step tid fmt
      match r with
      | some true => (s.beginPre c.uid c.step tid, some true)
      | r => (s, r)

/-- The row-block's NM and EP on the merged tile take place here (R178). -/
def State.tileRoot (s : State) (c : Chain) : Bool := c.d.scope == 0 || s.scopeRoot c.d.scope

/-- The ordinals whose items of a pass may begin: their doorbells are accepted and judged, or what they wait for is done
(R144, R147, R157, R203). -/
def State.openOrds (s : State) (c : Chain) (p : Pass) : List Nat :=
  match p with
  | .first => (c.arrivals.filter (fun a => !a.kind && a.rows.isSome
      && (!(c.d.resid || c.d.gated) || (c.arrival true a.ord).isSome))).map (·.ord)
  | .second => if c.complete && c.d.secondPass && c.endedCount .first false == c.d.ntiles && c.writes == 0 then
      List.range c.d.ntiles else []
  | .completion => if c.complete && c.d.mergesTiles && s.tileRoot c && c.writes == 0 then [0] else []

/-- Begins the items of a pass that may begin. -/
def State.spawnPass (s : State) (uid : Nat) (p : Pass) : State :=
  match s.chainOf uid with
  | none => s
  | some c =>
    match s.openOrds c p with
    | [] => s
    | ts =>
      let (s, r) := s.prePhase c p
      match r with
      | none => s
      | some pre =>
        (ts.filter (fun t => !c.begun.contains (p, pre, t))).foldl (fun (s : State) t =>
          match s.chainOf uid with
          | none => s
          | some c =>
            let it : Item := { key := c.nextKey, ord := t, pass := p, pre := pre }
            (s.modChain uid (fun c => { c with
              nextKey := c.nextKey + 1, begun := c.begun ++ [(p, pre, t)], items := c.items ++ [it] })).itemAdvance uid
              c.nextKey) s

/-- Begins every item of a chain that may begin. -/
def State.spawn (s : State) (uid : Nat) : State :=
  match s.chainOf uid with
  | some c => match c.st with
    | .admitted => ((s.spawnPass uid .first).spawnPass uid .completion).spawnPass uid .second
    | _ => s
  | none => s

/-! ## Outputs -/

/-- A row of an output: its number, operands, and which positions are counted elements (R205). -/
structure OutRow where
  row : Nat
  xs : List Val
  counted : List Bool

/-- The final rounding of a chain's element (R25, R43, R186). -/
def State.finalOf (s : State) (c : Chain) (tid t r k : Nat) : Final :=
  if s.gen3 then .rna
  else if c.d.sr then .sr (ks6Draw c.seed c.step (BitVec.ofNat 16 tid) (c.d.elemAt t r k)) else .rne

/-- R36 and R186: small results are flushed. -/
def State.flushOf (s : State) (c : Chain) : Bool := s.gen3 || c.d.grade != 0

/-- AMAX over the counted finite operands of rows (R199). -/
def amaxRows (rows : List OutRow) : Word :=
  rows.foldl (fun a o => (o.xs.zip o.counted).foldl (fun a p =>
    if p.2 && !p.1.nonFinite then fmax a (amax32 p.1) else a) a) 0

/-- Counts of an output that a chain keeps for R207. -/
def OutCount.add (n : OutCount) (h : List Nat) : OutCount :=
  { elems := n.elems + h.getD 0 0, sat := n.sat + h.getD 3 0, ufl := n.ufl + h.getD 2 0 }

/-- Rounds rows once into their output and writes them (R40, R191). `shown` are the positions that are written
(DEDUCED, log entry 23; DEDUCED, log entry 26). -/
def State.emit (s : State) (c : Chain) (o : Nat × Nat × Nat) (base t : Nat) (T : Word) (shown : List Bool)
    (rows : List OutRow) : State :=
  let (w, tid, fmt) := o
  let b := recordBytes fmt
  let outs := rows.map (fun q => (q, encodeRow fmt (f32 T) (s.finalOf c tid t q.row) (s.flushOf c) shown q.xs))
  let h := outs.foldl (fun h p =>
    let e := (p.2.outs.zip p.1.counted).filterMap (fun q => if q.2 then some q.1 else none)
    (h.zip (healthOf e p.2.scaleSat)).map (fun q => q.1 + q.2)) [0, 0, 0, 0, 0]
  let cells := outs.flatMap (fun p => p.2.cells.map (fun q => (base + b * p.1.row + q.1, q.2)))
  let s1 := (s.spend 10 ((outs.map (fun p => p.1.xs.length)).foldl (· + ·) 0)).countWritten tid fmt c.step h (amaxRows rows) (!cells.isEmpty) c.d.tag
  let s2 := s1.modChain c.uid (fun c => if w = 1 then { c with count1 := c.count1.add h } else { c with count2 := c.count2.add h })
  if cells.isEmpty then s2
  else (s2.modChain c.uid (fun c => { c with writes := c.writes + 1 })).issueWrite (.chainOut c.uid) cells

/-- A write of a chain that goes under no tensor id. -/
def State.chainWrite (s : State) (uid : Nat) (cells : List (Nat × Byte)) : State :=
  if cells.isEmpty then s
  else (s.modChain uid (fun c => { c with writes := c.writes + 1 })).issueWrite (.chainOut uid) cells

/-- A capsule tile: the records of the live rows (R142, R152). A tile has 128 records: those after the last row are empty
records of GEN, as R262 has them in a message; the manual does not say (DESIGN CHOICE, log entry 94). -/
def capsuleCells (base : Nat) (g : BitVec 4) (recs : List (Option Rec)) : List (Nat × Byte) :=
  (List.range 128).flatMap (fun r =>
    if r < recs.length then
      match recs.getD r none with
      | some q => cellsAt (base + 16 * r) q.bytes
      | none => []
    else cellsAt (base + 16 * r) (Rec.emptyOf g).bytes)

/-! ## What results form -/

/-- The result of an evaluation of an item. -/
def Item.result (it : Item) (r k w : Nat) : Word :=
  ((it.results.find? (fun p => p.1 == (r, k, w))).map (·.2)).getD nan32

/-- The stored residual of a row and what it decodes as (R144): its operands round to OUT2_FMT once. -/
def State.residual (s : State) (c : Chain) (t r : Nat) (row : RowIn) : List Word :=
  match scalarFmt c.d.out2Fmt with
  | none => row.xs
  | some f => (row.xs.zip row.masked).zipIdx.map (fun p =>
      let v := if p.1.2 then Val.zero else f32 p.1.1
      let w := rne32 (f.decode (f.round (s.finalOf c c.d.tid2.toNat t r p.2) (s.flushOf c) v).code)
      if s.gen3 then flush32 w else w)

/-- The terms of a row at its presented positions (R118, R142, R144, R150) (DEDUCED, log entry 24). -/
def State.rowTerms (s : State) (c : Chain) (it : Item) (r : Nat) (row : RowIn) : List Word :=
  let live := c.liveIn it row
  let ks := (List.range 128).filter (c.d.presented it.ord)
  let xs := if c.d.resid then s.residual c it.ord r row else row.xs
  ks.map (fun k =>
    if !live.getD k false then 0
    else if c.d.plain then let x := xs.getD k 0; pathMul s.gen3 x x
    else it.result r k 0)

/-- The partial capsule of a row (R118, R189). -/
def State.rowPart (s : State) (c : Chain) (it : Item) (r : Nat) : Part :=
  if c.d.chain = 8 then { rc := (Rec.ofBytes (gotBytes it.data (c.tileAddr false it.ord + 16 * r) 16)).canon }
  else
    let row := s.rowIn c it r
    let live := c.liveIn it row
    let ts := s.rowTerms c it r row
    let ks := (List.range 128).filter (c.d.presented it.ord)
    let mx := if c.d.plain then (ts.zip ks).foldl (fun m p => if live.getD p.2 false then fmax m p.1 else m) negInf32
      else rowMax row.xs live
    partialOf s.gen3 c.d.fast c.d.plain c.d.gen mx ts (live.any id)

/-- The exact operands of an output row, before masking. -/
def State.rowOperands (s : State) (c : Chain) (it : Item) (r : Nat) (row : RowIn) : List Val :=
  (List.range 128).map (fun k =>
    let x := row.xs.getD k 0
    match c.d.chain with
    | 1 => f32 (it.result r k 0)
    | 3 =>
      let (_, fst, q) := c.d.ropePair k
      let xv := f32 x
      let pv := if c.d.presented it.ord q then f32 (row.xs.getD q 0) else Val.zero
      let cols := c.d.ropeCols it.ord k
      let sn := f32 (it.result r cols.1 0)
      let cs := f32 (it.result r cols.2 1)
      if fst then (xv.mul cs).sub (pv.mul sn) else (pv.mul sn).add (xv.mul cs)
    | 4 =>
      let f := f32 (it.result r k 0)
      if c.d.gated then f.mul (f32 (((s.tileRow c it true r).getD []).getD k 0)) else f
    | _ => f32 x)

/-- Row r of what the first pass writes. -/
def State.firstRow (s : State) (c : Chain) (it : Item) (r : Nat) : OutRow :=
  let row := s.rowIn c it r
  let live := c.liveIn it row
  let xs := (s.rowOperands c it r row).zip live |>.map (fun p => if p.2 then p.1 else Val.zero)
  { row := r, xs := xs, counted := live }

/-- How a row's record bids its outputs be formed (R123). -/
inductive RowKind where
  | empty
  | nonfinite
  | normal
  deriving DecidableEq, Repr

def Rec.kind (r : Rec) : RowKind := if r.empty then .empty else if r.nonfinite then .nonfinite else .normal

/-- The final record of a row. -/
def Chain.rowRec (c : Chain) (r : Nat) : Rec := c.rowRecs.getD r (Rec.emptyOf c.d.gen)

/-- Row r of what the second pass of CH_RMSQ writes (R144, R190). The words of the gain list and the
immediates are as stored; the operations flush what they take (DESIGN CHOICE, log entry 96). -/
def State.rmsRow (s : State) (c : Chain) (it : Item) (r : Nat) : OutRow :=
  let row := s.rowIn c it r
  let xs := if c.d.resid then
      s.decodeOf c.d.out2Fmt one32 (gotBytes it.data (c.d.out2At it.ord + recordBytes c.d.out2Fmt * r) (recordBytes c.d.out2Fmt))
    else row.xs
  let masked := match c.d.pro with
    | 2 => (c.gathered it.data it.ord r).isNone
    | _ => false
  let f := c.factors.getD r nan32
  let y := fun (k : Nat) =>
    let g := if c.d.gain then gotWord it.data (c.d.aux0 + 512 * it.ord + 4 * k) else one32
    let x := xs.getD k 0
    if s.gen3 then f32 (g3mul (g3mul x f) g) else ((f32 x).mul (f32 f)).mul (f32 g)
  let live := (List.range 128).map (fun k => c.d.presented it.ord k && !masked)
  { row := r, counted := live,
    xs := live.zipIdx.map (fun p =>
      if !p.1 then Val.zero
      else match (c.rowRec r).kind with
        | .empty => Val.zero
        | .nonfinite => .nan
        | .normal => y p.2) }

/-- Row r of the gradient of CH_XENT (R148). -/
def State.gradRow (s : State) (c : Chain) (it : Item) (r : Nat) : OutRow :=
  let row := s.rowIn c it r
  let counted := row.masked.zipIdx.map (fun p => c.d.presented it.ord p.2 && !p.1)
  let ignored := c.label r == 0xFFFFFFFF
  { row := r, counted := counted,
    xs := counted.zipIdx.map (fun p =>
      if !p.1 || ignored then Val.zero
      else match (c.rowRec r).kind with
        | .empty => Val.zero
        | .nonfinite => .nan
        | .normal =>
          let e := f32 (it.result r p.2 0)
          (e.sub (if c.isLabel it.ord r p.2 then Val.one else Val.zero)).mul (f32 c.d.imm0)) }

/-- The value of a merged pair as a divisor: a zero takes the sign of h (R143). -/
def Rec.divisor (r : Rec) : Val := if r.val.isZero then Val.zero.withSign (f32 r.sum).sign else r.val

/-- Row r of the normalised merged tile (R143). -/
def Chain.normRow (c : Chain) (it : Item) (r : Nat) : OutRow :=
  let q := c.rowRec r
  { row := r, counted := List.replicate 128 true,
    xs := (List.range 128).map (fun k =>
      match q.kind with
      | .empty => Val.zero
      | .nonfinite => .nan
      | .normal => (f32 (gotWord it.data (c.d.aux1 + 512 * r + 4 * k))).div q.divisor) }

/-- The rows that an item writes: those whose contribution was not stale (R126). -/
def Chain.writtenRows (c : Chain) (it : Item) : List Nat :=
  let ok := fun r => match it.pass with
    | .completion => c.live.getD r false
    | _ => (c.rowsOf it.ord).getD r true && (it.pass != .second || c.live.getD r false)
  (List.range c.d.rows).filter ok

/-- The output rows of an item. -/
def State.itemRows (s : State) (c : Chain) (it : Item) : List OutRow :=
  (c.writtenRows it).map (fun r =>
    match it.pass with
    | .first => s.firstRow c it r
    | .completion => c.normRow it r
    | .second => if c.d.chain = 5 then s.gradRow c it r else s.rmsRow c it r)

/-- The positions of an item's output that are written (R138, R143). -/
def Chain.shownIn (c : Chain) (it : Item) : List Bool :=
  match it.pass with
  | .completion => List.replicate 128 true
  | _ => (List.range 128).map (c.d.presented it.ord)

/-- Writes the outputs of an item that is done, once T is fixed and stored (R193, R202); then the item ends. -/
def State.writeItem (s : State) (uid key : Nat) : State :=
  match s.chainOf uid with
  | none => s
  | some c =>
    match c.item key with
    | none => s
    | some it =>
      if !it.done then s
      else match c.d.outOf it.pass with
        | none => s.endItem uid it
        | some o =>
          let pre := (s.window o.2.1 c.step).bind (·.amaxPre)
          let (s1, t) := s.outScale uid c.step o.2.1 o.2.2 pre
          match t with
          | none => s1
          | some T => (s1.emit c o (c.d.outBaseOf it.pass it.ord) it.ord T (c.shownIn it) (s1.itemRows c it)).endItem uid it

/-- Non-finite inputs of the presented elements of an item's tiles (R336). -/
def State.nonfinIn (s : State) (c : Chain) (it : Item) : Nat :=
  if c.d.chain = 8 then 0
  else
    let kinds := if c.d.resid || c.d.gated then [false, true] else [false]
    (kinds.flatMap (fun k => (List.range c.d.rows).flatMap (fun r =>
      (((s.tileRow c it k r).getD []).zipIdx.filter (fun p => c.d.presented it.ord p.2 && nonFin32 p.1))))).length

/-- The held logits that an item finds (R148) (DEDUCED, log entry 24). -/
def State.findLogits (s : State) (c : Chain) (it : Item) : List (Option Word) :=
  c.zs.zipIdx.map (fun p =>
    if !(c.rowsOf it.ord).getD p.2 true then p.1
    else
      let row := s.rowIn c it p.2
      match (List.range 128).find? (fun k => c.isLabel it.ord p.2 k && c.d.presented it.ord k && !row.masked.getD k true) with
      | some k => row.xs[k]?
      | none => p.1)

/-- The statistics of a finished first-pass item: partial capsules, held logits and the capsule tile of WCAP (R118, R142,
R148). -/
def State.itemStats (s : State) (c : Chain) (it : Item) : State :=
  let parts := (List.range c.d.rows).map (fun r =>
    if (c.rowsOf it.ord).getD r true then some (s.rowPart c it r) else none)
  let zs := if c.d.chain = 5 then s.findLogits c it else c.zs
  let s1 := s.modChain c.uid (fun c => { c with parts := c.parts ++ [{ ord := it.ord, parts := parts }], zs := zs })
  if c.d.chain = 1 && c.d.wcap then
    let base := if c.d.pv then c.d.outAt it.ord + 128 * recordBytes c.d.outFmt else c.d.aux1 + 2048 * it.ord
    s1.chainWrite c.uid (capsuleCells base c.d.gen (parts.map (fun p => p.map (·.rc))))
  else s1

/-- An item whose evaluations are done: its statistics go on, its outputs wait for their scale; a pre-pass leaves its
AMAX_PRE and nothing else (R203). -/
def State.finishItem (s : State) (uid key : Nat) : State :=
  match s.chainOf uid with
  | none => s
  | some c =>
    match c.item key with
    | none => s
    | some it =>
      if it.pre then
        let s1 := match c.d.outOf it.pass with
          | some o => s.modWindow o.2.1 c.step (fun w => { w with
              amaxPre := some (fmax (w.amaxPre.getD 0) (amaxRows (s.itemRows c it))) })
          | none => s
        (s1.endItem uid it).spawn uid
      else
        let s1 := if it.pass == .first then s.count 6 (s.nonfinIn c it) else s
        let s2 := if it.pass == .first && c.d.hasStat then s1.itemStats c it else s1
        (s2.modItem uid key (fun i => { i with done := true })).writeItem uid key

/-- A result comes to its item; a chain that is being ended drops it (R67, R161). -/
def State.itemResult (s : State) (uid key : Nat) (q : EvalReq) (w : Word) : State :=
  let s1 := s.modItem uid key (fun it => { it with
    inflight := it.inflight - 1, results := it.results ++ [((q.row, q.col, q.which), w)] })
  match (s1.chainOf uid).bind (fun c => c.item key) with
  | some it => if it.todo.isEmpty && it.inflight = 0 then s1.finishItem uid key else s1
  | none => s1

/-- A ready item that asks for no evaluation. -/
def Item.idle (it : Item) : Bool := it.ready && !it.done && it.todo.isEmpty && it.inflight == 0

/-- Work of a chain is all done: its items and its row-block (R158, R160). -/
def State.chainFinished (s : State) (c : Chain) : Bool :=
  (match c.st with | .admitted => true | _ => false)
  && c.endedCount .first false == c.d.ntiles
  && (!c.d.hasStat || (c.complete
    && (!c.d.secondPass || c.endedCount .second false == c.d.ntiles)
    && (!(c.d.mergesTiles && s.tileRoot c) || c.endedCount .completion false == 1)))

/-- Marks the chains whose work is all done, and issues the completion words that are due. -/
def State.finishChains (s : State) : State :=
  let s1 := s.chains.foldl (fun (s : State) c =>
    if s.chainFinished c then s.modChain c.uid (fun c => { c with finished := true }) else s) s
  s1.issueWords

/-- Moves on the items that waited for a scale or a window, and begins those that may. -/
def State.itemsGo (s : State) : State :=
  s.chains.foldl (fun (s : State) c =>
    let s1 := c.items.foldl (fun (s : State) it =>
      if it.done then s.writeItem c.uid it.key else if it.ready then s else s.itemAdvance c.uid it.key) s
    s1.spawn c.uid) s

end Sys2Proof.Machine
end

