-- ==== Sys2Proof/Machine/Fold.lean ====
section
/-! DEFINITION. Folds (R121, R172, R174), the completion of a row-block (R158) and the work on a completed statistic (R122
to R124, R143 to R150). -/
namespace Sys2Proof.Machine

/-! ## Evaluations on a chain's own account -/

/-- The arguments of the two rescale factors that a merge evaluates (R170); none where no side is scaled. -/
def mergeArgs (a b : Rec) : List Word :=
  if a.empty || b.empty then []
  else
    let m := fmax a.max b.max
    if nonFin32 m then [] else [fsub a.max m, fsub b.max m]

/-- What the rescale factors of a merge of row `r` do beside their results (R153, R170) (DEDUCED, log entry 25). -/
def State.mergeUse (s : State) (c : Chain) (r : Nat) (a b : Rec) : State :=
  if c.d.plain then s else (mergeArgs a b).foldl (fun (s : State) x => s.ownUse c.bank c.d.tag (s.rowPinna r) 0x01 x) s

/-- The merge of two records of row `r` of a statistic (R113, R170) (DEDUCED, log entry 25). -/
def State.mergeRec (s : State) (plain : Bool) (r : Nat) (a b : Rec) : Rec :=
  if plain then mergePlain a b else mergeMax s.gen3 (s.mergeExp (s.rowPinna r)) a b

/-! ## The fold (R172) -/

/-- A context can take a fold of a generation: it holds that generation (R126, R129). -/
def State.ctxTakes (s : State) (i : Nat) (g : BitVec 4) : Bool :=
  match s.ctxState i with
  | some st => st.gen == g
  | none => false

/-- An event of a context that is logged once for each of its generations (R325). -/
def State.noteOnce (s : State) (unknown : Bool) (i : Nat) (g : BitVec 4) (tag : BitVec 16) : State :=
  if s.ctx.noted.contains (unknown, i, g) then s
  else
    let s1 : State := { s with ctx := { s.ctx with noted := (unknown, i, g) :: s.ctx.noted } }
    (s1.logEvent (if unknown then 0x3B else 0x3A) .ctx (BitVec.ofNat 32 i) 0 0 0 tag).pageEvent .ctx 3

/-- CTX_BOUND_LOST (R121). -/
def State.boundLost (s : State) (i : Nat) (tag : BitVec 16) : State :=
  match s.ctxState i with
  | some st => s.noteOnce false i st.gen tag
  | none => s

/-- Folds one partial capsule into its context. -/
def State.foldRow (s : State) (c : Chain) (r : Nat) (p : Part) : State :=
  let i := c.ctxOf r
  let a := s.ctxRec i
  let s1 := s.setCtxRec i (foldPart s.gen3 c.d.plain (s.mergeExp (s.rowPinna r)) a p)
  let s2 := s1.mergeUse c r a p.rc
  if losesBound a p.rc then s2.boundLost i c.d.tag else s2

/-- FP32 words of row r of a tile (DEDUCED, log entry 42). -/
def tileWords (data : List (Nat × List Byte)) (addr r : Nat) : List Word := wordsOf 128 (gotBytes data (addr + 512 * r) 512)

/-- The cells of a row of an FP32 tile. -/
def tileCellsOf (addr r : Nat) (ws : List Word) : List (Nat × Byte) := cellsAt (addr + 512 * r) (ws.flatMap wordBytes)

/-- The rows of an ordinal that fold (R126). -/
def Chain.foldRows (c : Chain) (pr : PartRow) : List (Nat × Part) :=
  (List.range c.d.rows).filterMap (fun r =>
    if (c.rowsOf pr.ord).getD r false then (pr.parts.getD r none).map (fun p => (r, p)) else none)

/-- The accumulator tile after the fold of an ordinal (R171, R172): `a` are the records before it
(DEDUCED, log entry 42). -/
def State.foldTile (s : State) (c : Chain) (t : Nat) (rows : List (Nat × Part)) (data : List (Nat × List Byte)) :
    List (Nat × Byte) :=
  let o := c.tileAddr true t
  (List.range c.d.rows).flatMap (fun r =>
    let acc := if t = 0 then List.replicate 128 (0 : Word) else tileWords data c.d.aux1 r
    match rows.find? (fun p => p.1 == r) with
    | some p =>
      let how := mergeHow (s.mergeExp (s.rowPinna r)) (s.ctxRec (c.ctxOf r)) p.2.rc
      tileCellsOf c.d.aux1 r ((acc.zip (tileWords data o r)).map (fun q => mergeElem how q.1 q.2))
    | none => if t = 0 then tileCellsOf c.d.aux1 r acc else [])

/-- Non-finite elements of a kind-1 tile (R336). -/
def Chain.foldNonfin (c : Chain) (t : Nat) (rows : List (Nat × Part)) (data : List (Nat × List Byte)) : Nat :=
  (rows.flatMap (fun p => (tileWords data (c.tileAddr true t) p.1).filter nonFin32)).length

/-- The records of a row-block as its contexts hold them; where a context has left the generation meanwhile, the row's
contributions after that being stale, the record its last fold left; an empty one for a row with no contribution (R126). -/
def State.blockRecs (s : State) (c : Chain) : List Rec :=
  (List.range c.d.rows).map (fun r =>
    if !c.live.getD r false then Rec.emptyOf c.d.gen
    else if s.ctxTakes (c.ctxOf r) c.d.gen then s.ctxRec (c.ctxOf r)
    else (lookupKey r c.folds).getD (s.ctxRec (c.ctxOf r)))

/-- After the last fold: the instance's leaf is formed, and under LOCAL scope it is final (R172, R178). -/
def State.leafFormed (s : State) (uid : Nat) : State :=
  match s.chainOf uid with
  | some c =>
    if c.folded = c.d.ntiles then
      let recs := s.blockRecs c
      s.modChain uid (fun c => { c with
        leaf := true, final := c.d.scope == 0, rowRecs := recs, nodeRecs := recs })
    else s
  | none => s

/-- Folds an ordinal whose data are here (DEDUCED, log entry 34; DEDUCED, log entry 42). -/
def State.foldNow (s : State) (c : Chain) (pr : PartRow) (rows : List (Nat × Part)) : State :=
  let t := pr.ord
  let data := c.foldData.getD []
  let s1 := if c.d.mergesTiles then
      (s.count 6 (c.foldNonfin t rows data)).chainWrite c.uid (s.foldTile c t rows data)
    else s
  let s2 := rows.foldl (fun (s : State) p => s.foldRow c p.1 p.2) s1
  let live := c.live.zipIdx.map (fun q => q.1 || rows.any (fun p => p.1 == q.2))
  let folds := rows.foldl (fun m p => setKey p.1 (s2.ctxRec (c.ctxOf p.1)) m) c.folds
  let s3 := s2.modChain c.uid (fun c => { c with
    folds := folds, parts := c.parts.filter (fun q => q.ord != t), folded := t + 1, live := live, foldData := none })
  (s3.leafFormed c.uid).ctxGo

/-- PARTIAL_CAPSULE_FOLD of a slot: the next ordinal folds, once its capsules are formed, its contexts hold the generation
and are in the cache, and its kind-1 tile is read (R126, R172, R174)
(DESIGN CHOICE, log entry 9; DEDUCED, log entry 34). -/
def State.fold (s : State) (slot : Nat) : State :=
  match s.chainIn slot with
  | none => s
  | some c =>
    match c.st, c.parts.find? (fun q => q.ord == c.folded) with
    | .admitted, some pr =>
      let rows := c.foldRows pr
      if !rows.all (fun p => s.ctxTakes (c.ctxOf p.1) c.d.gen) then s
      else
        let (s1, ok) := s.needLines ((rows.map (fun p => c.ctxOf p.1 / 128)).eraseDups)
        if !ok then s1
        else if !c.d.mergesTiles || c.foldData.isSome then s1.foldNow c pr rows
        else match c.arrival true pr.ord with
          | none => s1
          | some a =>
            if s1.reading (.foldTile c.uid pr.ord) || c.writes ≠ 0 then s1
            else if a.addr + 512 * c.d.rows > spadTop then s1.failChain c.uid a.addr
            else s1.issueRead (.foldTile c.uid pr.ord)
              ((a.addr, 512 * c.d.rows) :: (if pr.ord = 0 then [] else [(c.d.aux1, 512 * c.d.rows)]))
    | _, _ => s

/-! ## Completion of a row-block (R158) -/

/-- The length of a row (R122); none where it is unknown. -/
def ChainDesc.lengthOf (d : ChainDesc) (q : Rec) : Option Nat :=
  if d.declLen ≠ 0 then some d.declLen else if q.boundLost then none else some q.count

/-- Flags and CHN_LEN_MISMATCH of a row at completion (R158, Table 7.9). -/
def State.rowDone (s : State) (c : Chain) (r : Nat) : State :=
  let q := c.rowRec r
  let s1 := s.modChain c.uid (fun c => { c with
    anyBoundLost := c.anyBoundLost || q.boundLost, anyNonfinite := c.anyNonfinite || q.nonfinite,
    anyEmpty := c.anyEmpty || q.empty })
  if c.d.declLen ≠ 0 && c.d.declLen ≤ countMax && !q.boundLost && q.count ≠ c.d.declLen then
    ((s1.modChain c.uid (fun c => { c with lenMismatch := true })).logEvent 0x31 .chn (BitVec.ofNat 32 (c.ctxOf r))
      (BitVec.ofNat 32 q.count) (BitVec.ofNat 32 c.d.declLen) 0 c.d.tag).pageEvent .chn 3
  else s1

/-- v of R144, rounded once; R190 in Gen-3 mode (DEDUCED, log entry 37). -/
def State.rmsV (s : State) (q : Rec) (n : Nat) (eps : Word) : Word :=
  if s.gen3 then g3add (rne32g3 ((f32 (flush32 q.sum)).div (Val.ofNat n))) eps
  else rne32 ((q.val.div (Val.ofNat n)).add (f32 eps))

/-- The RMS factor of a row (R123, R124, R144) (DEDUCED, log entry 37). -/
def State.rmsFactor (s : State) (c : Chain) (r : Nat) : State × Word :=
  let q := c.rowRec r
  match q.kind with
  | .empty => (s, 0)
  | .nonfinite => (s, nan32)
  | .normal =>
    match c.d.lengthOf q with
    | none => (s.noteOnce true (c.ctxOf r) c.d.gen c.d.tag, nan32)
    | some n =>
      let v := s.rmsV q n c.d.imm0
      if (f32 v).isZero then (s.count 5 1, 0)
      else
        let p := s.rowPinna r
        (s.ownUse c.bank c.d.tag p 0x05 v, s.fixedEval p 0x05 v)

/-- The RMS factors of every row. -/
def State.rmsDone (s : State) (c : Chain) (rows : List Nat) : State :=
  let r := (List.range c.d.rows).foldl (fun (p : State × List Word) r =>
    if rows.contains r then let q := p.1.rmsFactor c r; (q.1, p.2 ++ [q.2]) else (p.1, p.2 ++ [0])) (s, [])
  r.1.modChain c.uid (fun c => { c with factors := r.2 })

/-- lse of a row (R123, R148). -/
def State.rowLse (s : State) (c : Chain) (r : Nat) : State × Word :=
  let q := c.rowRec r
  match q.kind with
  | .empty => (s, negInf32)
  | .nonfinite => (s, nan32)
  | .normal =>
    let p := s.rowPinna r
    let v := rne32 q.val
    (s.ownUse c.bank c.d.tag p 0x03 v, fadd q.max (s.fixedEval p 0x03 v))

/-- The loss of a row (R123, R148), and whether XENT_LABEL is logged. Under CHIP or GROUP scope the manual states no loss
where the label's class lies here and is masked: none then (DEDUCED, log entry 41). -/
def Chain.rowLoss (c : Chain) (r : Nat) (lse : Word) : Option Word × Bool :=
  let q := c.rowRec r
  let held := c.zs.getD r none
  let here := decide (c.d.imm1.toNat ≤ (c.label r).toNat) && decide ((c.label r).toNat < c.d.imm1.toNat + 128 * c.d.ntiles)
  if c.label r = 0xFFFFFFFF then (some 0, false)
  else match q.kind, held with
    | .empty, _ => (some 0, false)
    | .nonfinite, h => (some nan32, c.d.scope == 0 && h.isNone)
    | .normal, some z => (some (fsub lse z), false)
    | .normal, none => if c.d.scope = 0 then (some nan32, true) else if here then (none, false) else (some 0, false)

/-- Loss and lse of every row; a row with no contribution counts as an empty one (R126, R148)
(DEDUCED, log entry 41). -/
def State.xentRows (s : State) (c : Chain) (rows : List Nat) : State × List (Word × Word) :=
  (List.range c.d.rows).foldl (fun (p : State × List (Word × Word)) r =>
    if !rows.contains r then (p.1, p.2 ++ [(0, negInf32)])
    else
      let (s2, lse) := p.1.rowLse c r
      let l := c.rowLoss r lse
      let w := l.1.getD (Config.maskedLoss (c.label r) lse)
      let s3 := if l.2 then s2.logEvent 0x32 .chn (BitVec.ofNat 32 (c.ctxOf r)) (c.label r) 0 0 c.d.tag else s2
      let s4 := if nonFin32 w then s3.count 7 1 else s3
      (s4, p.2 ++ [(w, lse)])) (s, [])

/-- The hash of the fingerprint record (R149). -/
def lseHash (ctxFirst : Nat) (lses : List Word) : DWord :=
  (lses.zipIdx).foldl (fun (h : DWord) p =>
    (h ^^^ BitVec.ofNat 64 ((ctxFirst + p.2) * 2 ^ 32 + p.1.toNat)) * 0x9E3779B97F4A7C15) 0

/-- Completion of CH_XENT: losses and the fingerprint record (R148, R149). -/
def State.xentDone (s : State) (c : Chain) (rows : List Nat) : State :=
  let (s1, ls) := s.xentRows c rows
  let p := (ls.map (·.1)).foldl (fun p w => pairAdd p (w, 0)) ((0, 0) : Word × Word)
  let h := lseHash c.d.ctxFirst (ls.map (·.2))
  let s2 := s1.modChain c.uid (fun c => { c with lse := ls.map (·.2) })
  let s3 := s2.chainWrite c.uid (rows.flatMap (fun r => cellsAt (c.d.out2Base + 4 * r) (wordBytes (ls.getD r (0, 0)).1)))
  s3.chainWrite c.uid (cellsAt c.d.aux1 (wordBytes p.1 ++ wordBytes p.2 ++ leBytes 8 h.toNat))

/-- The clip factor (R150). -/
def clipFactor (tau nu : Word) : Word :=
  if nonFin32 nu then nan32
  else if Val.le (f32 nu) (f32 tau) then one32 else rne32 ((f32 tau).div (f32 nu))

/-- Completion of CH_GNORM (R150). Its record's words are no elements of an output: those that are not finite do not
count in NONFIN_OUT, nor do those of CH_XENT's fingerprint record; the manual does not say (DESIGN CHOICE, log entry 26). -/
def State.gnormDone (s : State) (c : Chain) (rows : List Nat) : State :=
  let p := rows.foldl (fun p r => pairAdd p (c.rowRec r).pair) ((0, 0) : Word × Word)
  let v := rne32 (pairVal p)
  let nu := s.fixedEval (s.rowPinna 0) 0x06 v
  let phi := clipFactor c.d.imm0 nu
  let s1 := s.ownUse c.bank c.d.tag (s.rowPinna 0) 0x06 v
  let s2 := if nonFin32 nu then s1.logEvent 0x33 .chn nu (BitVec.ofNat 32 (bitsOf c.d.imm2 5 0)) 0 0 c.d.tag else s1
  (s2.modChain c.uid (fun c => { c with phi := some phi })).chainWrite c.uid
    (cellsAt c.d.aux1 (wordBytes p.1 ++ wordBytes p.2 ++ wordBytes nu ++ wordBytes phi))

/-- The work on the completed statistic of a chain (DEDUCED, log entry 41). -/
def State.statDone (s : State) (c : Chain) (rows : List Nat) : State :=
  match c.d.chain with
  | 2 => s.rmsDone c rows
  | 5 => s.xentDone c rows
  | 6 => s.gnormDone c rows
  | 8 =>
    if c.d.wcap then
      s.chainWrite c.uid (capsuleCells c.d.aux0 c.d.gen ((List.range c.d.rows).map (fun r =>
        if rows.contains r then some (c.rowRec r) else none)))
    else s
  | _ => s

/-- ROW_BLOCK_COMPLETE of a slot: every ordinal has folded and the final records are here (R158). -/
def State.rowBlock (s : State) (slot : Nat) : State :=
  match s.chainIn slot with
  | none => s
  | some c =>
    match c.st with
    | .admitted =>
      if c.final && !c.complete then
        let rows := (List.range c.d.rows).filter (fun r => c.live.getD r false)
        let s1 := rows.foldl (fun (s : State) r => s.rowDone c r) s
        let s2 := s1.statDone c rows
        ((s2.modChain c.uid (fun c => { c with complete := true })).spawn c.uid).finishChains
      else s
    | _ => s

end Sys2Proof.Machine
end

