-- ==== Sys2Proof/Machine/Arrive.lean ====
section
/-! DEFINITION. Messages that come in (R249, R252 to R254, R262, R265, R342): their credit classes and places, the ingress
queues, doorbells (R155, R156, R340) and the generation checks they wait for (R126). -/
namespace Sys2Proof.Machine

/-! ## Credit classes of messages -/

/-- Credit class of a P3 header (Table 12.1). The manual names no class for a reserved TYPE: a free choice of the two
(DEDUCED, log entry 17). -/
def p3HeaderClass (h : Header) : Nat :=
  match hType h with
  | 2 | 4 => 2
  | 1 | 3 | 5 => 1
  | k => if Config.freeBit k then 1 else 2

/-- Class and stream of a message, and the port it comes on; none for a tree message of reserved KIND (R262)
(DEDUCED, log entry 17). -/
def msgClass : PortMsg → Option (Nat × Nat × Nat)
  | .p3 h => some (3, p3HeaderClass h, 0)
  | .lane g _ => some (1, 0, g.val)
  | .tree via m =>
    let l := TreeMsgF.level m
    match TreeMsgF.kind m, via with
    | 1, .p4 => some (4, 6, l - 1)
    | 1, .remote => some (3, 3, 3 * (l - 1) + (TreeMsgF.child m - 1))
    | 2, .p4 => some (4, 7, 0)
    | 2, .remote => some (3, 4, 0)
    | 3, .p4 => some (4, 8, 0)
    | 3, .remote => some (3, 5, 0)
    | _, _ => none

/-- A tree message comes on a stream of R263: the instance tree's on P4, the chip tree's as REMOTE
(DEDUCED, log entry 17). -/
def streamExists (via : TreeVia) (m : TreeMsg) : Bool :=
  let l := TreeMsgF.level m
  (TreeMsgF.tree m == (via == .remote)) && decide (1 ≤ l)
  && (match via with | .p4 => decide (l ≤ 4) | .remote => decide (l ≤ 5))
  && (if TreeMsgF.kind m = 1 then
        (match via with | .p4 => TreeMsgF.child m == 1 | .remote => decide (1 ≤ TreeMsgF.child m))
      else true)

/-- Places that a class and stream has (Table 12.8). -/
def classPlaces : PortMsg → Nat
  | .p3 h => if p3HeaderClass h = 1 then 32 else 4
  | .lane _ _ => 4
  | .tree via m => if streamExists via m then (match TreeMsgF.kind m with | 1 => 3 | 2 => 4 | _ => 8) else 0

/-- Messages of a class and stream that wait in an ingress queue. -/
def State.queuedOf (s : State) (cls stream : Nat) : Nat :=
  let hit := fun (m : PortMsg) => match msgClass m with | some (_, c, i) => c == cls && i == stream | none => false
  if cls = 0 then (s.port.p1.filter (fun p => p.1.val == stream)).length
  else if cls ≤ 5 then (s.port.p3.filter (fun p => hit p.2)).length
  else (s.port.p4.filter (fun m => hit (.tree .p4 m))).length

/-- Class and stream of a message in the node buffer. -/
def HeldMsg.place (h : HeldMsg) : Nat × Nat :=
  if h.down then (if h.remote then 4 else 7, 0)
  else if h.remote then (3, 3 * (h.level - 1) + (h.child - 1)) else (6, h.level - 1)

/-- Places of a class and stream that hold a message (Table 12.8). -/
def State.placesUsed (s : State) (cls stream : Nat) : Nat :=
  let inner :=
    if cls = 0 then (s.chn.lanes.filter (fun l => l.group.val == stream)).length
    else if cls = 5 || cls = 8 then
      ((s.tree.checks.filter (fun c => !c.sent && !c.concluded)).flatMap (·.ops)).filter (fun o => o.1.1 == (cls == 5)) |>.length
    else (s.tree.held.filter (fun h => h.place == (cls, stream))).length
  s.queuedOf cls stream + inner

/-! ## Ingress -/

/-- Messages are taken from the ports in READY, and those accepted before an entry during it (R269, Table 12.13). -/
def State.takes (s : State) : Bool :=
  !s.inReset && (match s.pwr.st with
    | .ready => true
    | .entering => true
    | _ => false)

/-- CREDIT_OVER (R342) with the port, the class and the STREAM of R265, which is zero on P1. -/
def State.creditOver (s : State) (port cls stream : Nat) : State :=
  s.logEvent 0x07 .port (BitVec.ofNat 32 port) (BitVec.ofNat 32 cls)
    (if port = 1 then 0 else BitVec.ofNat 32 stream) 0

/-- An accepted message in RESTING starts a wake, and in ENTERING towards Resting abandons the entry (R275, R277). -/
def State.messageWakes (s : State) : State :=
  match s.pwr.st, s.pwr.entering with
  | .resting, _ => s.wake true
  | .entering, .toResting => s.abandonEntry
  | _, _ => s

/-- What a lane request holds: a FETCH is a header alone (R257). -/
def laneBeats (r : LaneReq) : LaneReq := if lType r.hdr = 1 then { hdr := r.hdr, mask := 0, ops := 0 } else r

/-- Puts an accepted message into its queue. -/
def State.enqueue (s : State) (m : PortMsg) : State :=
  match m with
  | .p3 _ | .tree .remote _ => { s with port := { s.port with p3 := s.port.p3 ++ [(false, m)] } }
  | .tree .p4 t => { s with port := { s.port with p4 := s.port.p4 ++ [t] } }
  | .lane g r => { s with port := { s.port with p1 := s.port.p1 ++ [(g, (laneBeats r))] } }

/-- A message arrives (R300, R342): it is accepted into its queue, discarded, or dropped. True when accepted
(DESIGN CHOICE, log entry 14; DEDUCED, log entry 18). -/
def State.ingress (s : State) (m : PortMsg) : State × Bool :=
  if s.inReset || (!s.port.inited && !s.port.recallSt.done) then (s, false)
  else match msgClass m with
    | none =>
      (match m with
        | .tree _ t => s.logEvent 0x42 .tree (TreeMsgF.word0 t) 0 0 0
        | _ => s, false)
    | some (port, cls, stream) =>
      let k := (cls, stream)
      let r := s.port.recallSt
      let left := (lookupKey k r.left).getD 0
      let past := if r.running then !r.waiting.contains k || decide (left = 0) else decide (classPlaces m ≤ s.placesUsed cls stream)
      if !s.port.inited || past then (s.creditOver port cls stream, false)
      else
        let s1 : State := if r.running then
            { s with port := { s.port with recallSt := { r with left := setKey k (left - 1) r.left } } } else s
        ((s1.enqueue m).messageWakes, true)

/-- Drops the oldest P3 message. -/
def State.popP3 (s : State) : State := { s with port := { s.port with p3 := s.port.p3.drop 1 } }

/-- A P3 message is taken: the one at the head of the queue, or, with the queue empty, as it arrives; otherwise it joins
the queue (R249). `act` is told whether DL_ARV_RING formed it (DESIGN CHOICE, log entry 14). -/
def State.takeP3 (s : State) (m : PortMsg) (act : State → Bool → State) : State :=
  match s.port.p3 with
  | (rung, q) :: _ =>
    if q = m then (if s.takes then act s.popP3 rung else s) else (s.ingress m).1
  | [] =>
    let (s1, ok) := s.ingress m
    if ok && s1.takes then act s1.popP3 false else s1

/-- A P4 message is taken, likewise. -/
def State.takeP4 (s : State) (t : TreeMsg) (act : State → State) : State :=
  let pop := fun (s : State) => ({ s with port := { s.port with p4 := s.port.p4.drop 1 } } : State)
  match s.port.p4 with
  | q :: _ => if q = t then (if s.takes then act (pop s) else s) else (s.ingress (.tree .p4 t)).1
  | [] =>
    let (s1, ok) := s.ingress (.tree .p4 t)
    if ok && s1.takes then act (pop s1) else s1

/-- The credit of a P3 message that leaves the queue comes back, unless DL_ARV_RING formed it: that one spent none. -/
def State.returnP3 (s : State) (h : Header) (rung : Bool) : State :=
  if rung then s else s.returnCredit (p3HeaderClass h) 0 1

/-! ## Generation checks in order (R126) -/

/-- Sets which rows of a kind-0 doorbell are not stale. -/
def State.setRows (s : State) (uid ord : Nat) (oks : List Bool) : State :=
  s.modChain uid (fun c => { c with
    stale := c.stale || oks.any (fun b => !b),
    arrivals := c.arrivals.map (fun a => if !a.kind && a.ord == ord then { a with rows := some oks } else a) })

/-- What identifies a held message. -/
def HeldMsg.key (h : HeldMsg) : MsgKey :=
  { down := h.down, tree := h.tree, level := h.level, child := h.child, step := h.step, ctx := h.ctx, gen := h.gen }

/-- Sets which rows of a used tree message are not stale; a row of an UP message that is accepted contributes (R126). -/
def State.setMsgRows (s : State) (c : Chain) (k : MsgKey) (oks : List Bool) : State :=
  let s1 := s.modChain c.uid (fun c => { c with
    stale := c.stale || oks.any (fun b => !b),
    live := if k.down then c.live else (c.live.zip oks).map (fun p => p.1 || p.2) })
  { s1 with tree := { s1.tree with held := s1.tree.held.map (fun h =>
      if h.stage == 1 && h.key == k then { h with stage := 2, rows := oks } else h) } }

/-- Takes generation checks and commands in their order, as far as the generations they need are on chip. -/
def State.pumpCtxGo : Nat → State → State
  | 0, s => s
  | n + 1, s =>
    match s.ctx.waits with
    | [] => { s with ctx := { s.ctx with peeks := [] } }
    | w :: r =>
      let rest : State := { s with ctx := { s.ctx with waits := r } }
      match w with
      | .command v count => (rest.ctxBegin v count).ctxGo.pumpCtxGo n
      | .check uid ord =>
        match s.chainOf uid with
        | none => rest.pumpCtxGo n
        | some c =>
          if !c.running then rest.pumpCtxGo n
          else match s.peeksNeeded ((List.range c.d.rows).map c.ctxOf) with
            | [] =>
              let (s1, oks) := rest.checkRows c.d.tag c.d.gen c.d.ctxFirst c.d.rows
              let s2 : State := { s1 with ctx := { s1.ctx with peeks := [] } }
              ((s2.setRows uid ord oks).spawn uid).pumpCtxGo n
            | ks => s.startPeeks ks
      | .tree k =>
        match s.blockChain k.ctx k.gen with
        | none => rest.pumpCtxGo n
        | some c =>
          if !c.running then rest.pumpCtxGo n
          else match s.peeksNeeded ((List.range c.d.rows).map c.ctxOf) with
            | [] =>
              let (s1, oks) := rest.checkRows c.d.tag c.d.gen c.d.ctxFirst c.d.rows
              let s2 : State := { s1 with ctx := { s1.ctx with peeks := [] } }
              (s2.setMsgRows c k oks).pumpCtxGo n
            | ks => s.startPeeks ks

/-- Takes what can be taken (DEDUCED, log entry 33). -/
def State.pumpCtx (s : State) : State := s.pumpCtxGo (s.ctx.waits.length + 1)

/-- A write of DL_CTX_DRAIN (R128). -/
def State.ctxCommand (s : State) (v : Word) : State :=
  let n := s.ctx.drainCount.toNat
  match s.ctxRefusal v with
  | some code => s.ctxReport v n code
  | none =>
    let s1 : State := { s with ctx := { s.ctx with cmdBusy := true, waits := s.ctx.waits ++ [.command v n] } }
    s1.pumpCtx

/-! ## Doorbells -/

/-- Arguments of the ARV events of a doorbell (Table 16.3). -/
def bellArgs (h : Header) : Word × Word × Word :=
  (hDescAddr h, BitVec.ofNat 32 (hOrdinal h + b2n (hKind h) * 2 ^ 16), BitVec.ofNat 32 ((hGen h).toNat * 2 ^ 20 + hCtx h))

/-- Captures the first dropped P3 message (Table 15.6). -/
def State.captureDrop (s : State) (h : Header) (reason ord : Nat) : State :=
  { s with chn := { s.chn with drop := s.chn.drop.take (hDescAddr h) reason (BitVec.ofNat 16 ord) } }

/-- Drops a doorbell with an event (R156): reason 1 no chain, 2 bad tile, 3 duplicate, 4 mismatch. -/
def State.dropBell (s : State) (h : Header) (reason : Nat) (c : Option Chain) : State :=
  let a := bellArgs h
  let tag := match c with | some c => c.d.tag | none => 0
  let s1 := match c with | some c => s.modChain c.uid (fun c => { c with dropped := true }) | none => s
  let s2 := (((s1.count 13 1).logEvent (0x08 + reason) .arv a.1 a.2.1 a.2.2 0 tag).pageEvent .arv 1)
  s2.captureDrop h reason (hOrdinal h)

/-- Why a chain drops a doorbell (R156), 0 where it accepts it. -/
def Chain.bellFault (c : Chain) (h : Header) : Nat :=
  if hOrdinal h ≥ c.d.ntiles || (hKind h && !c.d.usesKind1) then 2
  else if (c.arrival (hKind h) (hOrdinal h)).isSome then 3
  else if c.d.hasStat && (hCtx h != c.d.ctxFirst || hGen h != c.d.gen) then 4
  else 0

/-- Accepts a doorbell of an admitted chain (R156): its tile is there, and its rows wait for the generation check. -/
def State.acceptBell (s : State) (c : Chain) (h : Header) : State :=
  let checked := c.d.hasStat && !hKind h
  let a : Arrival := { kind := hKind h, ord := hOrdinal h, addr := hTileAddr h, itid := hItid h,
                       rows := if checked then none else some (List.replicate c.d.rows true) }
  let s1 := (s.count 12 1).modChain c.uid (fun c => { c with arrivals := c.arrivals ++ [a] })
  if checked then
    ({ s1 with ctx := { s1.ctx with waits := s1.ctx.waits ++ [.check c.uid (hOrdinal h)] } } : State).pumpCtx
  else s1.spawn c.uid

/-- A DOORBELL taken on P3 (R155, R156, R340). -/
def State.takeBell (s : State) (h : Header) : State :=
  match s.chainAt (hDescAddr h) with
  | none => s.dropBell h 1 none
  | some c =>
    if !c.running then s
    else match c.bellFault h with
      | 0 =>
        if c.admitted then s.acceptBell c h
        else
          let s1 := s.admitChain c
          match s1.chainOf c.uid with
          | some c1 => if c1.running then s1.acceptBell c1 h else s1.issueWords
          | none => s1
      | k => s.dropBell h k (some c)

/-- A message of reserved TYPE (R252). -/
def State.takeBad (s : State) (h : Header) : State :=
  ((s.logEvent 0x08 .arv (hLow h) 0 0 0).pageEvent .arv 1).captureDrop h 5 0

/-! ## The ring (R254, R315) -/

/-- A write of DL_ARV_RING[3]. -/
def State.ring (s : State) (rq : Requester) (v : Word) : State :=
  let w := fun i => (s.chn.ring.getD i 0).toNat
  let h0 : Header := BitVec.ofNat 128 (w 0 + 2 ^ 32 * w 1 + 2 ^ 64 * w 2 + 2 ^ 96 * v.toNat)
  let h : Header := (h0 &&& ~~~(BitVec.ofNat 128 (3 * 2 ^ 26))) ||| BitVec.ofNat 128 (2 * 2 ^ 26)
  let ty := hType h
  if ty ≠ 1 && ty ≠ 2 && ty ≠ 3 then s.regFault .arv .value rq 0x04C
  else
    let cls := p3HeaderClass h
    if s.placesUsed cls 0 ≥ classPlaces (.p3 h) then
      ((({ s with chn := { s.chn with ringFull := true } } : State)).regFault .arv .queue rq 0x04C).pageEvent .arv 2
    else { s with port := { s.port with p3 := s.port.p3 ++ [(true, .p3 h)] } }

end Sys2Proof.Machine
end

