-- ==== Sys2Proof/Machine/Trees.lean ====
section
/-! DEFINITION. Row-blocks in the trees (R176 to R181, R253): the receipt of UP and DOWN messages, the merges of a node, and
the descent of the final record. -/
namespace Sys2Proof.Machine

/-! ## Receipt (Table 8.4) -/

/-- A message as the node buffer keeps it. -/
def heldOf (via : TreeVia) (m : TreeMsg) : HeldMsg :=
  { down := TreeMsgF.kind m == 2, tree := TreeMsgF.tree m, level := TreeMsgF.level m, child := TreeMsgF.child m,
    step := TreeMsgF.step m, ctx := TreeMsgF.ctx m, gen := TreeMsgF.gen m, recs := recsOf 128 m.payload,
    wsAddr := TreeMsgF.wsAddr m, remote := via == .remote, hdr0 := TreeMsgF.word0 m }

/-- The header of a held message, as far as TREE_STALE reports it. -/
def HeldMsg.msg (h : HeldMsg) : TreeMsg :=
  { hdr := BitVec.ofNat 256 (h.hdr0.toNat + h.step.toNat * 2 ^ 32 + (h.ctx + h.gen.toNat * 2 ^ 20) * 2 ^ 64), payload := [] }

/-- Removes the first held message equal to one. -/
def dropHeld (h : HeldMsg) : List HeldMsg → List HeldMsg
  | [] => []
  | q :: r => if q = h then r else q :: dropHeld h r

/-- Replaces the first held message equal to one. -/
def swapHeld (h g : HeldMsg) : List HeldMsg → List HeldMsg
  | [] => []
  | q :: r => if q = h then g :: r else q :: swapHeld h g r

/-- A message leaves the node buffer, and its credit returns (Table 12.8) (DEDUCED, log entry 43). -/
def State.releaseHeld (s : State) (h : HeldMsg) : State :=
  ({ s with tree := { s.tree with held := dropHeld h s.tree.held } } : State).returnCredit h.place.1 h.place.2 1

/-- Judges a message of the buffer under Table 8.4; one of a chip-tree child with an output tile once its TREE_TILE doorbell
is here (R253) (DEDUCED, log entry 43). -/
def State.judgeHeld (s : State) (h : HeldMsg) : State :=
  if h.stage ≠ 0 then s
  else match s.blockChain h.ctx h.gen with
    | none => if stepBelow h.step s.step then (s.treeStale h.msg s.step).releaseHeld h else s
    | some c =>
      if c.d.mergesTiles && h.remote && !h.down && !h.tile then s
      else if !c.admitted then s
      else if c.step != h.step then (s.treeStale h.msg c.step).releaseHeld h
      else if s.tree.used.contains h.key then (s.count 18 1).releaseHeld h
      else
        let s1 : State := { s with
          tree := { s.tree with held := swapHeld h { h with stage := 1 } s.tree.held, used := s.tree.used ++ [h.key] },
          ctx := { s.ctx with waits := s.ctx.waits ++ [.tree h.key] } }
        s1.pumpCtx

/-- Judges every message of the buffer, and forgets what concerns row-blocks that are gone. -/
def State.judgeAll (s : State) : State :=
  let s1 := s.tree.held.foldl (fun (s : State) h => s.judgeHeld h) s
  let lives := fun (step : Word) (ctx : Nat) (g : BitVec 4) => match s1.blockChain ctx g with
    | some c => c.admitted && c.step == step
    | none => false
  let s2 := (s1.tree.held.filter (fun h => h.stage != 0 && !lives h.step h.ctx h.gen)).foldl
    (fun (s : State) h => s.releaseHeld h) s1
  { s2 with tree := { s2.tree with used := s2.tree.used.filter (fun k => lives k.step k.ctx k.gen) } }

/-- Pairs a TREE_TILE doorbell with its REMOTE UP message, or holds it (R253) (DEDUCED, log entry 44). -/
def State.pairTile (s : State) (k : MsgKey) : State :=
  match s.tree.held.find? (fun h => h.stage == 0 && h.remote && !h.tile && h.key == k) with
  | some h => ({ s with tree := { s.tree with held := swapHeld h { h with tile := true } s.tree.held } } : State).judgeAll
  | none => { s with tree := { s.tree with tiles := s.tree.tiles ++ [k] } }

/-- An UP or DOWN message is taken: it enters the node buffer, with its TREE_TILE doorbell where that came first
(DEDUCED, log entry 43). -/
def State.takeHeld (s : State) (via : TreeVia) (m : TreeMsg) : State :=
  let h := heldOf via m
  let paired := h.remote && !h.down && s.tree.tiles.contains h.key
  let h1 := { h with tile := paired }
  ({ s with tree := { s.tree with
      held := s.tree.held ++ [h1], tiles := if paired then s.tree.tiles.erase h.key else s.tree.tiles } } : State).judgeAll

/-! ## The node -/

/-- The records of a message for the rows of a row-block: the stale rows contribute nothing (R126). -/
def HeldMsg.contrib (h : HeldMsg) (rows : Nat) (g : BitVec 4) : List Rec :=
  (List.range rows).map (fun r => if h.rows.getD r false then h.recs.getD r (Rec.emptyOf g) else Rec.emptyOf g)

/-- The message of an operand of a row-block, used and checked. -/
def State.operandMsg (s : State) (c : Chain) (k : Bool × Nat × Nat) : Option HeldMsg :=
  s.tree.held.find? (fun h => h.stage == 2 && !h.down && h.ctx == c.d.ctxFirst && h.gen == c.d.gen && h.step == c.step
    && h.tree == k.1 && h.level == k.2.1 && h.child == k.2.2)

/-- Where the tile of a child lies (R180). Under SCOPE GROUP an instance-tree message carries no address (Table 12.7), and the
manual does not say how the parent instance knows the child's slot 0: it is free (DESIGN CHOICE, log entry 97). -/
def Chain.childTile (c : Chain) (h : HeldMsg) : Nat :=
  if h.tree then c.d.aux1 + 67584 * (1 + 3 * (h.level - 1) + (h.child - 1))
  else if c.d.scope = 1 then h.wsAddr
  else (Config.childSlot h.level c.d.ctxFirst h.step).toNat % 2 ^ 30 / 64 * 64

/-- Merges two lists of records row by row (R113, R170), with what the clamps and the lost bounds report. -/
def State.mergeRows (s : State) (c : Chain) (xs ys : List Rec) : State × List Rec :=
  (xs.zip ys).zipIdx.foldl (fun (p : State × List Rec) q =>
    let (a, b) := q.1
    let s1 := p.1.mergeUse c q.2 a b
    let s2 := if losesBound a b then s1.boundLost (c.ctxOf q.2) c.d.tag else s1
    (s2, p.2 ++ [s.mergeRec c.d.plain q.2 a b])) (s, [])

/-- Merges two tiles row by row, under the records of their sides (R171). -/
def State.mergeTiles (s : State) (xs ys : List Rec) (ta tb : List (List Word)) : List (List Word) :=
  (((xs.zip ys).zip (ta.zip tb)).zipIdx).map (fun q =>
    let p := q.1
    let how := mergeHow (s.mergeExp (s.rowPinna q.2)) p.1.1 p.1.2
    (p.2.1.zip p.2.2).map (fun q => mergeElem how q.1 q.2))

/-- The rows of an FP32 tile in the data. -/
def tileRows (data : List (Nat × List Byte)) (addr rows : Nat) : List (List Word) :=
  (List.range rows).map (tileWords data addr)

/-- The next operands of the node (R176, R177): one message, or children 2 and 3 of one chip-tree level, which merge with
each other first. None while one is missing. -/
def State.nextOperands (s : State) (c : Chain) (ks : List (Bool × Nat × Nat)) : Option (List HeldMsg) :=
  match ks with
  | k :: k' :: _ =>
    if k.1 && k.2.2 == 2 && k'.1 && k'.2.1 == k.2.1 && k'.2.2 == 3 then
      match s.operandMsg c k, s.operandMsg c k' with
      | some a, some b => some [a, b]
      | _, _ => none
    else (s.operandMsg c k).map (fun a => [a])
  | [k] => (s.operandMsg c k).map (fun a => [a])
  | [] => none

/-- Merges the next operands into the running records of the node, and their tiles into workspace slot 0. -/
def State.nodeMerge (s : State) (c : Chain) (ms : List HeldMsg) : State :=
  let n := c.d.rows
  let data := c.foldData.getD []
  let recs := ms.map (fun h => h.contrib n c.d.gen)
  let tiles := ms.map (fun h => tileRows data (c.childTile h) n)
  let own := tileRows data c.d.aux1 n
  let (s1, b, tb) := match recs, tiles with
    | [x, y], [tx, ty] => let p := s.mergeRows c x y; (p.1, p.2, s.mergeTiles x y tx ty)
    | x :: _, tx :: _ => (s, x, tx)
    | _, _ => (s, [], [])
  let (s2, out) := s1.mergeRows c c.nodeRecs b
  let s3 := if c.d.mergesTiles then
      s2.chainWrite c.uid
        ((s.mergeTiles c.nodeRecs b own tb).zipIdx.flatMap (fun p => tileCellsOf c.d.aux1 p.2 p.1))
    else s2
  let s4 := s3.modChain c.uid (fun c => { c with nodeRecs := out, nodePos := c.nodePos + ms.length, foldData := none })
  ms.foldl (fun (s : State) h => s.releaseHeld h) s4

/-- An UP or DOWN message of a row-block (R181, Table 12.7). -/
def State.blockMsg (s : State) (c : Chain) (down : Bool) (recs : List Rec) (tree : Bool) (level child dstRank : Nat) : TreeMsg :=
  let ws := if !down && c.d.mergesTiles && !tree && c.d.scope = 1 then c.d.aux1 else 0
  { hdr := treeHdr (if down then 2 else 1) tree level child s.self 0 c.step (c.d.ctxFirst + c.d.gen.toNat * 2 ^ 20) s.rankNat
      dstRank ws 2048,
    payload := recsPayload c.d.gen recs }

/-- Chains submitted before this one that have still to send on the same stream (R264). -/
def State.sendsBefore (s : State) (c : Chain) : Bool :=
  s.chains.any (fun o => decide (o.uid < c.uid) && o.running && o.d.treeScoped && !o.sentUp
    && (s.instParent.isSome || o.d.scope == c.d.scope))

/-- The final records are written into the contexts of their rows, replacing the running ones (R178), and descend. -/
def State.finalRecords (s : State) (c : Chain) (recs : List Rec) (ok : Nat → Bool) : State :=
  let s1 := (List.range c.d.rows).foldl (fun (s : State) r =>
    if ok r then s.setCtxRec (c.ctxOf r) (recs.getD r (Rec.emptyOf c.d.gen)) else s) s
  let s2 := s1.modChain c.uid (fun c => { c with
    rowRecs := recs, final := true, sentUp := true,
    live := c.live.zipIdx.map (fun p => p.1 && ok p.2) })
  (s2.sendDown c.d.scope 1 (fun tree level child dst => s2.blockMsg c true recs tree level child dst)).ctxGo

/-- The contexts of the rows can take their final records: they hold the generation and are in the cache (R126). -/
def State.finalReady (s : State) (c : Chain) (rows : List Nat) : State × Bool :=
  if !rows.all (fun r => s.ctxTakes (c.ctxOf r) c.d.gen) then (s, false)
  else s.needLines ((rows.map (fun r => c.ctxOf r / 128)).eraseDups)

/-- Every operand is merged: the result goes up, or the root begins the descent (R176, R178). -/
def State.nodeDone (s : State) (c : Chain) : State :=
  if s.scopeRoot c.d.scope then
    let rows := (List.range c.d.rows).filter (fun r => c.live.getD r false)
    let (s1, ok) := s.finalReady c rows
    if ok then s1.finalRecords c c.nodeRecs (fun r => rows.contains r) else s1
  else if c.sentUp || c.writes ≠ 0 || s.sendsBefore c then s
  else
    (s.modChain c.uid (fun c => { c with sentUp := true })).sendUp c.d.scope 0 (fun tree level child dst =>
      s.blockMsg c false c.nodeRecs tree level child dst)

/-- Moves the node of a row-block on: with tiles, one merge at a time, once both tiles are read. -/
def State.nodeGo : Nat → State → Nat → State
  | 0, s, _ => s
  | n + 1, s, uid =>
    match s.chainOf uid with
    | none => s
    | some c =>
      if !c.running || !c.leaf || c.final || !c.d.treeScoped then s
      else match (s.operands c.d.scope).drop c.nodePos with
        | [] => s.nodeDone c
        | ks => match s.nextOperands c ks with
          | none => s
          | some ms =>
            if !c.d.mergesTiles || c.foldData.isSome then (s.nodeMerge c ms).nodeGo n uid
            else if c.writes ≠ 0 || s.reading (.treeMerge uid) then s
            else
              let len := 512 * c.d.rows
              match ms.find? (fun h => decide (c.childTile h + len > spadTop)) with
              | some h => s.failChain uid (c.childTile h)
              | none => s.issueRead (.treeMerge uid) ((c.d.aux1, len) :: ms.map (fun h => (c.childTile h, len)))

/-- TREE_NODE_MERGE of a slot (DESIGN CHOICE, log entry 9). -/
def State.treeNode (s : State) (slot : Nat) : State :=
  match s.chainIn slot with
  | some c => s.nodeGo 40 c.uid
  | none => s

/-- DOWN messages whose generation check is made deliver their final records (R178). -/
def State.takeFinals (s : State) : State :=
  (s.tree.held.filter (fun h => h.stage == 2 && h.down)).foldl (fun (s : State) h =>
    match s.blockChain h.ctx h.gen with
    | none => s
    | some c =>
      if !c.running || c.final then s.releaseHeld h
      else if !c.leaf then s
      else
        let ok := fun r => h.rows.getD r false
        let (s1, ready) := s.finalReady c ((List.range c.d.rows).filter ok)
        if ready then (s1.finalRecords c (h.recs.take c.d.rows) ok).releaseHeld h else s1) s

/-- Moves the trees on. -/
def State.treeGo (s : State) : State :=
  if s.tree.held.isEmpty then { s with tree := { s.tree with used := s.tree.used.filter (fun k =>
      match s.blockChain k.ctx k.gen with | some c => c.admitted && c.step == k.step | none => false) } }
  else s.judgeAll.takeFinals

end Sys2Proof.Machine
end

