-- ==== Sys2Proof/Machine/Issue.lean ====
section
/-! DEFINITION. Issue (R68, R69, R157, R173, R260), evaluations in flight (R67, R88) and lane requests (R222, R224, R258,
R259, R341). -/
namespace Sys2Proof.Machine

/-! ## Slots -/

/-- Slots of an evaluator in one fc (Table 1.5). -/
def Grade.perEvaluator : Grade → Nat
  | .Q => 1
  | .L => 2
  | .N => 4

/-- How far a pinna's evaluators are filled in one fc: evaluators begun, slots left in the last, and its grade. -/
structure Fill where
  used : Nat := 0
  left : Nat := 0
  grade : Option Grade := none
  /-- Current that E still covers in this fc, and whether work waits for more (R280). -/
  room : Nat := 0
  short : Bool := false

/-- Places a result of `k` slots of a grade with `n` evaluators allowed. -/
def Fill.place (f : Fill) (n : Nat) (g : Grade) (k : Nat) : Option Fill :=
  let per := g.perEvaluator
  let room := if f.grade == some g then f.left else 0
  if n = 0 || room + (n - f.used) * per < k then none
  else if k ≤ room then some { f with left := room - k }
  else
    let m := (k - room + per - 1) / per
    some { f with used := f.used + m, left := m * per - (k - room), grade := some g }

/-- Evaluators of a pinna that may issue under the droop band in force (R286). -/
def State.evaluatorsAllowed (s : State) : Nat := match s.pwr.guardBand with | 0 => 8 | 1 => 6 | 2 => 4 | 3 => 2 | _ => 0

/-- Slots charged for an evaluation of a chain: CH_ROPE uses one per element, so the second evaluation of an element whose
partner is not presented takes none (R146). -/
def State.slotCharge (s : State) (c : Chain) (t : Nat) (q : EvalReq) : Grade × Nat :=
  let (g, k) := s.slotsOf q.how
  (g, if c.d.chain = 3 && q.which == 1 && (c.d.ropeCols t q.col).1 == q.col then 0 else k)

/-! ## Readiness (R157, R173) -/

/-- An item has begun to issue, and its partial capsules are still to come. -/
def Item.holdsPlace (i : Item) : Bool :=
  !i.done && (decide (i.inflight ≠ 0) || !i.results.isEmpty || i.todo.any (fun q => decide (q.paid ≠ 0)))

/-- Partial capsules that hold a place in the stores, or will once they are formed (R173). -/
def State.storeUsed (s : State) : Nat :=
  (s.chains.map (fun c => (c.parts.filter (fun p => p.ord != c.folded)).length
    + (c.items.filter (fun i => i.pass == .first && !i.pre && c.d.hasStat && i.ord != c.folded
        && i.holdsPlace)).length)).foldl (· + ·) 0

/-- An item has begun, or needs no new place. -/
def State.storeAllows (s : State) (c : Chain) (i : Item) : Bool :=
  i.pass != .first || i.pre || !c.d.hasStat || i.ord == c.folded || i.holdsPlace
  || decide (s.storeUsed < 256)

/-- Inserts before the first element that it does not come after. -/
def insertBy (le : α → α → Bool) (x : α) : List α → List α
  | [] => [x]
  | y :: ys => if le x y then x :: y :: ys else y :: insertBy le x ys

/-- The ready items in their order: oldest-ready first, then the lower slot (R157). Each is (stamp, slot, uid, key). -/
def State.readyItems (s : State) : List (Nat × Nat × Nat × Nat) :=
  let all := s.chn.slots.zipIdx.flatMap (fun p => match p.1 with
    | some c => if c.running && s.wsResident c.ws then
        (c.items.filter (fun i => i.ready && !i.done && !(i.todo.isEmpty && decide (i.inflight ≠ 0)))).map
          (fun i => (i.stamp, p.2, c.uid, i.key))
      else []
    | none => [])
  all.foldr (insertBy (fun a b => decide (a.1 < b.1) || (a.1 == b.1 && decide (a.2.1 ≤ b.2.1)))) []

/-! ## Counting slots -/

/-- Ballast slots of a pinna (R285). -/
def State.countBallast (s : State) (p k : Nat) : State :=
  let s1 := (s.count 25 k).spend 4 k
  let ev := modifyAt s1.life.counts.eval p (fun n => satAdd 66 n k)
  { s1 with life := { s1.life with counts := { s1.life.counts with eval := ev } } }

/-! ## Flights -/

/-- An evaluation issues (R67, R327), and a hold of BALLAST_HOLD is over; one that takes no slot is half of an evaluation already considered
(DEDUCED, log entry 23). -/
def State.fly (s : State) (chain : Option (Nat × Nat)) (lane : Nat) (bank own : Bool) (q : EvalReq) : State :=
  let taken := (s.chn.flights.filter (fun f => f.sampled.isSome)).length
  let (s1, smp) := if own then s.considerSample taken else (s, none)
  let f : Flight := { id := s1.chn.nextEval, pinna := q.pinna, chain := chain, lane := lane, req := q, bank := bank,
                      sampled := smp }
  { s1 with
    pwr := { s1.pwr with holding := false }
    chn := { s1.chn with nextEval := s1.chn.nextEval + 1, flights := s1.chn.flights ++ [f] } }

/-- What pinna `p` takes of a list of evaluations, in their order: the fill after them, those issued, those left, and the
slots it takes this fc for a result that needs more than one fc gives, which issues with its last slot (R72, R109). What E
does not cover waits (R280). -/
def takeFor (charge : EvalReq → Grade × Nat) (cost : Grade → Nat) (p n : Nat) (f : Fill) :
    List EvalReq → Fill × List EvalReq × List EvalReq × Nat
  | [] => (f, [], [], 0)
  | q :: r =>
    if q.pinna ≠ p then
      let (f1, a, b, m) := takeFor charge cost p n f r
      (f1, a, q :: b, m)
    else
      let (g, k) := charge q
      let m := n * g.perEvaluator
      let wide := decide (f.used = 0) && decide (n ≠ 0) && (f.place n g (k - q.paid)).isNone
      let i := cost g * (if wide then m else k - q.paid)
      if (wide || (f.place n g (k - q.paid)).isSome) && decide (f.room < i) then ({ f with short := true }, [], q :: r, 0)
      else if wide then
        ({ f with used := n, left := 0, grade := some g, room := f.room - i }, [], { q with paid := q.paid + m } :: r, m)
      else match f.place n g (k - q.paid) with
        | none => (f, [], q :: r, 0)
        | some f1 =>
          let (f2, a, b, m) := takeFor charge cost p n { f1 with room := f.room - i } r
          (f2, q :: a, b, m)

/-- Current of a slot of a grade (Table 13.7). -/
def State.slotCost (s : State) (g : Grade) : Nat := (s.cal.coef.getD (g.code + 1) 0).toNat

/-- Work waits for E in this fc. -/
def State.waitsForEnv (s : State) (b : Bool) : State := { s with env := { s.env with short := s.env.short || b } }

/-- Shows a pinna's last issuing fc (Table 15.2) (DEDUCED, log entry 22). -/
def State.showPinna (s : State) (p : Nat) (g : Nat) (lane : Bool) : State :=
  { s with chn := { s.chn with pinnae := modifyAt s.chn.pinnae p (fun q => { q with grade := BitVec.ofNat 2 g, lane := lane }) } }

/-- Fills pinna `p` from the ready items (R157). -/
def State.fillChain (s : State) (p n : Nat) (items : List (Nat × Nat × Nat × Nat)) : State × Fill × Bool :=
  items.foldl (fun (a : State × Fill × Bool) it =>
    let (s, f, blocked) := a
    match (s.chainOf it.2.2.1).bind (fun c => (c.item it.2.2.2).map (fun i => (c, i))) with
    | none => a
    | some (c, i) =>
      if !i.todo.any (fun q => q.pinna == p) then a
      else if !s.storeAllows c i then (s, f, true)
      else
        let charge := s.slotCharge c i.ord
        let (f1, got, rest, m) := takeFor charge s.slotCost p n f i.todo
        let s1 := match f.grade, f1.grade with
          | none, some g => (s.showPinna p g.code false).countSlots p g m
          | _, _ => s
        let s2 := s1.modItem c.uid i.key (fun i => { i with todo := rest, inflight := i.inflight + got.length })
        let s3 := got.foldl (fun (s : State) q =>
          let g := charge q
          (s.countSlots p g.1 (g.2 - q.paid)).fly (some (c.uid, i.key)) 0 c.bank (decide (g.2 ≠ 0)) q) s2
        (s3, f1, blocked || (decide (n < 8) && rest.any (fun q => q.pinna == p)))) (s, { room := s.envRoom }, false)

/-! ## The lane arbiter (R260) -/

/-- Weight of a lane group. -/
def State.laneWeightOf (s : State) (g : Nat) : Nat := Nat.max 1 (bitsOf s.port.laneWt (4 * g + 3) (4 * g))

/-- The request of a group that waits for its slices: the oldest that evaluates, once its tables are resident. -/
def State.laneOf (s : State) (g : Nat) : Option LaneWork :=
  match s.chn.lanes.find? (fun l => l.group.val == g && !l.todo.isEmpty) with
  | some l => if s.wsResident l.ws then some l else none
  | none => none

/-- Chooses the next request (R260) (DEDUCED, log entry 22). -/
def State.chooseLane (s : State) : State :=
  let gs := (List.range 8).filter (fun g => (s.laneOf g).isSome)
  match gs with
  | [] => { s with chn := { s.chn with laneHead := none } }
  | [g] => { s with chn := { s.chn with laneHead := (s.laneOf g).map (·.no) } }
  | _ =>
    let cr := gs.foldl (fun cr g => modifyAt cr g (fun (x : Int) => x + ((s.laneWeightOf g : Nat) : Int))) s.port.laneCredit
    let best := gs.foldl (fun b g => if cr.getD g 0 > cr.getD b 0 then g else b) (gs.headD 0)
    let sum := (gs.map s.laneWeightOf).foldl (· + ·) 0
    { s with
      port := { s.port with laneCredit := modifyAt cr best (fun (x : Int) => x - ((sum : Nat) : Int)) },
      chn := { s.chn with laneHead := (s.laneOf best).map (·.no) } }

/-- The request whose slices issue now. -/
def State.laneNow (s : State) : Option LaneWork :=
  s.chn.laneHead.bind (fun n => s.chn.lanes.find? (fun l => l.no == n && !l.todo.isEmpty))

/-- Updates a lane request. -/
def State.modLane (s : State) (no : Nat) (f : LaneWork → LaneWork) : State :=
  { s with chn := { s.chn with lanes := s.chn.lanes.map (fun l => if l.no == no then f l else l) } }

/-- Lanes of a slice (R260). -/
def Grade.sliceLanes : Grade → Nat
  | .Q => 8
  | .L => 16
  | .N => 32

/-- Grade of a lane request; in Gen-3 mode GRADE is ignored (R258). -/
def State.laneGrade (s : State) (h : Header) : Grade := if s.gen3 then .Q else (gradeOf (lGrade h)).getD .Q

/-- The lanes of a slice as evaluations of pinna `p`. -/
def LaneWork.reqs (l : LaneWork) (p : Nat) (xs : List (Nat × Word)) : List EvalReq :=
  xs.map (fun q => { pinna := p, row := 0, col := q.1, which := 0, how := l.how.getD (.native 0 .Q), input := .x q.2 })

/-- The request whose slice pinna `p` holds. -/
def State.lanePart (s : State) (p : Nat) : Option LaneWork := s.chn.lanes.find? (fun l => (lookupKey p l.parts).isSome)

/-- Lane work is ready for pinna `p`: a slice that it holds, or one of the request at the head. -/
def State.laneReady (s : State) (p : Nat) : Bool := (s.lanePart p).isSome || s.laneNow.isSome

/-- Gives pinna `p` the next slice of the request at the head where it holds none (R260) (DEDUCED, log entry 22). -/
def State.takeSlice (s : State) (p : Nat) : State :=
  if (s.lanePart p).isSome then s
  else match s.laneNow with
    | none => s
    | some l =>
      let m := (s.laneGrade l.req.hdr).sliceLanes
      let s1 := s.modLane l.no (fun l => { l with
        todo := l.todo.drop m, parts := setKey p (l.reqs p (l.todo.take m)) l.parts })
      if l.todo.length ≤ m then s1.chooseLane else s1

/-- Entering RESTING the block admits no new work item to issue; what has begun goes on (R275). -/
def State.admitsNew (s : State) : Bool := !(s.pwr.st == .entering && s.pwr.entering == .toResting)

/-- Issues what the pinna's slots of this fc hold of its slice; the rest of the slice waits for its next fc. True where work
waited for E or a droop band (DEDUCED, log entry 22). -/
def State.fillLane (s : State) (p n : Nat) : State × Bool :=
  let s := if n = 0 || !s.admitsNew then s else s.takeSlice p
  match s.lanePart p with
  | none => (s, decide (n = 0))
  | some l =>
    let reqs := (lookupKey p l.parts).getD []
    let charge := fun (q : EvalReq) => s.slotsOf q.how
    let (f, got, rest, m) := takeFor charge s.slotCost p n { room := s.envRoom } reqs
    let g := s.laneGrade l.req.hdr
    if n = 0 then (s, true) else
    let s1 := s.modLane l.no (fun l => { l with
      parts := if rest.isEmpty then dropKey p l.parts else setKey p rest l.parts })
    let sg := ((reqs.head?).map (fun q => (charge q).1)).getD g
    let s2 := (s1.showPinna p sg.code true).countSlots p sg m
    let s3 := got.foldl (fun (s : State) q =>
      let k := charge q
      (s.countSlots p k.1 (k.2 - q.paid)).fly none l.no l.bank true q) s2
    (s3.waitsForEnv f.short, f.short || (decide (n < 8) && !rest.isEmpty))

/-! ## One fc of issue -/

/-- Arbitration of a pinna when both classes have work ready (R69): true for the chain class. -/
def State.contend (s : State) (p : Nat) : State × Bool :=
  let q := s.chn.pinnae.getD p {}
  let wc := Nat.max 1 s.chn.chnWeight.toNat
  let wl := Nat.max 1 s.chn.laneWeight.toNat
  let c := q.creditChn + (wc : Int)
  let l := q.creditLane + (wl : Int)
  let chain := decide (c ≥ l)
  let q1 := if chain then { q with creditChn := c - ((wc + wl : Nat) : Int), creditLane := l }
    else { q with creditChn := c, creditLane := l - ((wc + wl : Nat) : Int) }
  (({ s with chn := { s.chn with pinnae := s.chn.pinnae.set p q1 } } : State).count 23 1, chain)

/-- Issue in pinna `p`: the class granted, its work, and ballast in what no class uses (R68, R285). True where work ready
waited for E, a store or a droop band (DESIGN CHOICE, log entry 21). -/
def State.issuePinna (s : State) (items : List (Nat × Nat × Nat × Nat)) (halt : Bool) (ballast p : Nat) : State × Bool :=
  let n := s.evaluatorsAllowed
  let chain := items.any (fun it => match (s.chainOf it.2.2.1).bind (fun c => c.item it.2.2.2) with
    | some i => i.todo.any (fun q => q.pinna == p)
    | none => false)
  let lane := !halt && (if s.admitsNew then s.laneReady p else (s.lanePart p).isSome)
  let bal := fun (s : State) (free : Nat) =>
    let i := (s.cal.coef.getD 4 0).toNat
    let k := Nat.min ballast (4 * free)
    let k := if i = 0 then k else Nat.min k (s.envRoom / i)
    if k = 0 || !s.ballastAllowed then s else s.countBallast p k
  let chains := fun (s : State) =>
    let (s1, f, b) := s.fillChain p n items
    (bal (s1.waitsForEnv f.short) (n - f.used), b || f.short)
  match chain, lane with
  | false, false => (bal s n, false)
  | false, true => s.fillLane p n
  | true, false => chains s
  | true, true =>
    let (s1, ok) := s.contend p
    if ok then chains s1 else s1.fillLane p n

/-- The item of an entry of the ready list has begun to issue. -/
def State.begun (s : State) (it : Nat × Nat × Nat × Nat) : Bool :=
  match (s.chainOf it.2.2.1).bind (fun c => c.item it.2.2.2) with
  | some i => i.holdsPlace
  | none => false

/-- HALT acts while the page's functions are usable (R306) (DEDUCED, log entry 69). -/
def State.halting (s : State) : Bool := s.dbg.en && s.dbg.halt

/-- WORK_ITEM_ISSUE: one fc over all pinnae (DESIGN CHOICE, log entry 21). Items that ask for no evaluation finish in their
order, as the stores allow (R173). -/
def State.issue (s : State) (ballast : Nat) : State :=
  if !s.takes then s
  else
    let halt := s.halting
    let items := if halt then [] else s.readyItems.filter (fun it => s.admitsNew || s.begun it)
    let s := if !halt && s.laneNow.isNone then s.chooseLane else s
    let (s1, stalled) := (List.range s.pinnaCount).foldl (fun (a : State × Bool) p =>
      let (s2, b) := a.1.issuePinna items halt ballast p
      (s2, a.2 || b)) (s, false)
    let s2 := items.foldl (fun (s : State) it =>
      match (s.chainOf it.2.2.1).bind (fun c => (c.item it.2.2.2).map (fun i => (c, i))) with
      | some (c, i) =>
        if i.idle && i.results.isEmpty && s.storeAllows c i then s.finishItem it.2.2.1 it.2.2.2 else s
      | none => s) s1
    let s3 : State := { s2 with chn := { s2.chn with stamp := s2.chn.stamp + 1 } }
    if stalled then s3.count 24 1 else s3

/-! ## Lane requests -/

/-- Width in bits of a lane format; the reserved codes are delimited as FP32 (R258). -/
def laneWidth (fmt : Nat) : Nat := if fmt = 1 || fmt = 2 then 16 else 32

/-- The format of a lane request's results. -/
def laneFmt (fmt : Nat) : Fmt := match fmt with | 1 => .bf16 | 2 => .fp16 | _ => .fp32

/-- The canonical NaN of a lane format in every lane (DEDUCED, log entry 31). -/
def laneNaNs (fmt : Nat) : List Word := List.replicate 128 (BitVec.ofNat 32 (laneFmt fmt).nanCode)

/-- An operand of a lane request as FP32 (R257, R258), before the prescale. -/
def State.laneOperand (s : State) (r : LaneReq) (k : Nat) : Word :=
  let w := laneWidth (lFmt r.hdr)
  let v := rne32 ((laneFmt (lFmt r.hdr)).decode ((r.ops.toNat >>> (w * k)) % 2 ^ w))
  if s.gen3 then flush32 v else v

/-- What a lane evaluates (DEDUCED, log entry 31). -/
def State.laneInput (s : State) (r : LaneReq) (x : Word) : Word :=
  if lPre r.hdr then pathMul s.gen3 x (lImm r.hdr) else x

/-- Rounds a lane's result once into its format (R36, R41, R186), and counts it (R336). -/
def State.laneRound (s : State) (h : Header) (w : Word) : State × Word :=
  let flush := s.gen3 || s.laneGrade h != .Q
  let r := (laneFmt (lFmt h)).round (if s.gen3 then .rna else .rne) flush (f32 w)
  (((s.count 7 (b2n r.nonfin)).count 8 (b2n r.unf)).count 9 (b2n r.sat), BitVec.ofNat 32 r.code)

/-- A lane request that returns the canonical NaN in every lane without evaluation: the results leave under R259. The NaN
results count as non-finite outputs (R336) (DEDUCED, log entry 31). -/
def State.laneRefused (s : State) (no : Nat) (fmt : Nat) : State :=
  (s.count 7 128).modLane no (fun l => { l with returned := some (laneNaNs fmt) })

/-- The results of a request are all here: they are rounded, and inactive lanes return +0 (R258). -/
def State.laneFinish (s : State) (no : Nat) : State :=
  match s.chn.lanes.find? (fun l => l.no == no) with
  | none => s
  | some l =>
    if l.returned.isSome || l.fetch.isSome || !l.todo.isEmpty || !l.parts.isEmpty || s.chn.flights.any (fun f => f.chain.isNone && f.lane == no) then s
    else
      let (s1, ws) := (List.range 128).foldl (fun (a : State × List Word) k =>
        match lookupKey k l.results with
        | some w => let r := a.1.laneRound l.req.hdr w; (r.1, a.2 ++ [r.2])
        | none => (a.1, a.2 ++ [0])) (s, [])
      s1.modLane no (fun l => { l with returned := some ws })

/-- A schedule fetch as it stands (R222): its answer, and whether it is stale; none while it waits. -/
def State.fetchAnswer (s : State) (g : Nat) (step : Word) : Option (Word × Bool) :=
  let q := s.group g
  if !s.groupOn g || stepAbove q.gstep step then some (nan32, true)
  else if q.gstep = step && q.given then some (q.eta, false)
  else none

/-- Moves a schedule fetch on (DEDUCED, log entry 32). -/
def State.fetchGo (s : State) (l : LaneWork) : State :=
  match l.fetch, l.returned with
  | some (g, step), none =>
    match s.fetchAnswer g step with
    | none => s
    | some (w, stale) =>
      let s1 := if stale then s.logEvent 0x55 .sch (BitVec.ofNat 32 l.group.val) (BitVec.ofNat 32 g) step 0 else s
      s1.modLane l.no (fun l => { l with returned := some [w] })
  | _, _ => s

/-- Sends the returns that are due: those of one group leave in the order of its requests, with their credit (R259)
(DESIGN CHOICE, log entry 20). -/
def State.laneReturns : Nat → State → State
  | 0, s => s
  | n + 1, s =>
    match s.chn.lanes.find? (fun l => l.returned.isSome
        && !(s.chn.lanes.any (fun q => q.group == l.group && decide (q.no < l.no)))) with
    | none => s
    | some l =>
      let s1 : State := { s with chn := { s.chn with lanes := s.chn.lanes.filter (fun q => q.no != l.no) } }
      let s2 := s1.send (.laneReturn l.group (laneReturnHdr l.req.hdr) (l.returned.getD []))
      (s2.returnCredit 0 l.group.val 1).laneReturns n

/-- Moves the lane requests on. -/
def State.lanesGo (s : State) : State :=
  let s1 := (s.chn.lanes.filter (fun l => l.fetch.isSome && l.returned.isNone)).foldl (fun (s : State) l => s.fetchGo l) s
  s1.laneReturns s1.chn.lanes.length

/-- Admits a lane request into the arbiter's lists; `l` is what it becomes (DESIGN CHOICE, log entry 20). -/
def State.pushLane (s : State) (l : LaneWork) : State :=
  ((({ s with chn := { s.chn with nextLane := s.chn.nextLane + 1, lanes := s.chn.lanes ++ [l] } } : State)).count 3 1).spend 14 1

/-- An EVAL request is admitted (R100, R103, R258, R341). -/
def State.admitEval (s : State) (g : Fin 8) (r : LaneReq) : State :=
  let h := r.hdr
  let no := s.chn.nextLane
  let b := s.activeBank
  let base : LaneWork := { no := no, group := g, req := r, bank := b }
  let s1 := s.pushLane base
  let grp : Word := BitVec.ofNat 32 g.val
  if lType h ≠ 0 || lFmt h > 2 || (!s.gen3 && lGrade h = 3) then
    ((s1.logEvent 0x04 .port grp (hLow h) 0 0).laneRefused no (lFmt h)).lanesGo
  else
    let grade := s.laneGrade h
    let how := if lFunc h = 0x10 || lFunc h = 0x11 then none else s.resolve b (lFunc h) grade
    match how with
    | none =>
      ((s1.logEvent 0x24 .tbl grp (BitVec.ofNat 32 (lFunc h)) (BitVec.ofNat 32 (lGrade h)) 0).laneRefused no (lFmt h)).lanesGo
    | some f =>
      let k := s.tbl.bank b
      if (k.quarantine || k.fault) && s.usesRam f then
        ((s1.logEvent 0x23 .tbl grp (BitVec.ofNat 32 (lFunc h)) (BitVec.ofNat 32 (b2n b)) 0).laneRefused no (lFmt h)).lanesGo
      else
        let ks := (List.range 128).filter (fun k => bitOf r.mask k)
        let xs := ks.map (fun k => (k, s.laneOperand r k))
        let todo := xs.map (fun p => (p.1, s.laneInput r p.2))
        let ws := (s.tablesOf f).eraseDups
        let s2 := (s1.count 6 (xs.filter (fun p => nonFin32 p.2)).length).modLane no (fun l => { l with
          how := some f, ws := ws, todo := todo })
        let s3 := s2.wantTables ws
        if todo.isEmpty then (s3.laneFinish no).lanesGo else s3

/-- A schedule fetch is admitted (R222, R224) (DEDUCED, log entry 32). -/
def State.admitFetch (s : State) (g : Fin 8) (h : Header) : State :=
  let no := s.chn.nextLane
  let grp := lGroup h
  let r : LaneReq := { hdr := h, mask := 0, ops := 0 }
  let base : LaneWork := { no := no, group := g, req := r, bank := s.activeBank, fetch := some (grp, lStep h) }
  let s1 := s.pushLane base
  if s.isD4 then s1.lanesGo
  else
    let s2 := s1.logEvent 0x56 .sch (BitVec.ofNat 32 g.val) (BitVec.ofNat 32 grp) 0 0
    (s2.modLane no (fun l => { l with returned := some [nan32] })).lanesGo

/-- A lane request that has been accepted is admitted. -/
def State.admitLane (s : State) (g : Fin 8) (r : LaneReq) : State :=
  if lType r.hdr = 1 then s.admitFetch g r.hdr else s.admitEval g r

/-- A lane request is taken: the oldest of its group where that is it, or as it arrives (R259)
(DESIGN CHOICE, log entry 20). -/
def State.takeLane (s : State) (g : Fin 8) (r : LaneReq) : State :=
  let pop := fun (s : State) => ({ s with port := { s.port with p1 := s.port.p1.erase (g, (laneBeats r)) } } : State)
  match s.port.p1.find? (fun p => p.1 == g) with
  | some q => if q.2 = (laneBeats r) then (if s.takes then (pop s).admitLane g (laneBeats r) else s) else (s.ingress (.lane g r)).1
  | none =>
    let (s1, ok) := s.ingress (.lane g r)
    if ok && s1.takes then (pop s1).admitLane g (laneBeats r) else s1

/-! ## Results -/

/-- The hold of BALLAST_HOLD begins when work ends: the last evaluation has left, and none is ready (R285). -/
def State.holdBallast (s : State) : State :=
  if s.chn.flights.isEmpty && !s.itemReady && s.pwr.ballastHold ≠ 0 then { s with pwr := { s.pwr with holding := true } } else s

/-- A result goes on to its item or its lane request (R67). -/
def State.deliver (s : State) (f : Flight) (w : Word) : State :=
  match f.chain with
  | some (uid, key) => s.itemResult uid key f.req w
  | none =>
    ((s.modLane f.lane (fun l => { l with results := l.results ++ [(f.req.col, w)] })).laneFinish f.lane).lanesGo

/-- TAG of the chain that a flight belongs to. -/
def State.flightTag (s : State) (f : Flight) : BitVec 16 :=
  match f.chain.bind (fun p => s.chainOf p.1) with
  | some c => c.d.tag
  | none => 0

/-- EVALUATION_RESULT: the result leaves stage 6. One whose sorus entry fails its check waits for the refetch (R88)
(DEDUCED, log entry 27). -/
def State.evalResult (s : State) (id : Nat) : State :=
  match s.chn.flights.find? (fun f => f.id == id) with
  | none => s
  | some f =>
    let o := s.evaluate f.pinna f.req.how f.req.input
    if s.badLooks f.pinna o != ([], []) && !f.refetched then s
    else
      let s1 : State := { s with chn := { s.chn with flights := s.chn.flights.filter (fun q => q.id != id) } }
      let s2 := s1.count 4 o.clamps
      let s3 := match f.sampled with
        | some q => s2.addSample f.pinna f.req.how f.bank f.req.input o q (s.flightTag f)
        | none => s2
      (s3.deliver f o.bits).holdBallast

/-- SORUS_REFETCH of a flight: every entry it looked up whose sorus copy fails its check is re-read (R88). -/
def State.sorusRefetch (s : State) (id : Nat) : State :=
  match s.chn.flights.find? (fun f => f.id == id) with
  | none => s
  | some f =>
    let bad := s.badLooks f.pinna (s.evaluate f.pinna f.req.how f.req.input)
    if (bad.1.isEmpty && bad.2.isEmpty) || f.refetched then s
    else
      let s2 := s.refetchAll (s.flightTag f) f.pinna bad
      { s2 with chn := { s2.chn with flights := s2.chn.flights.map (fun q => if q.id == id then { q with refetched := true } else q) } }

end Sys2Proof.Machine
end

