-- ==== Sys2Proof/Machine/Steps.lean ====
section
/-! DEFINITION. Step tokens (R250, R251, R232, R241, R245), image-fragment doorbells (R243), fault notices (R246) and the
resumption of an image (R245). -/
namespace Sys2Proof.Machine

/-- DL_IMG_STATUS.STATE (Table 14.11). -/
def ImgState.code : ImgState → Nat
  | .normal => 0 | .awaiting => 1 | .filling => 2 | .resumable => 3 | .applying => 4

/-- Every window that is open learns that a later token has come (R201), and the T's of ids that were only decoded are kept
while a chain of their window runs. -/
def State.laterWindows (s : State) : State :=
  { s with num := { s.num with
      windows := s.num.windows.map (fun w => if w.step == s.step then w else { w with later := true }),
      decodeT := s.num.decodeT.filter (fun p => s.chains.any (fun c => c.admitted && c.step == p.2.1)) } }

/-- The counts of the sentinel that hold for a window restart (R327, R329). -/
def State.sentinelToken (s : State) : State :=
  { s with sen := { s.sen with viol0 := 0, viol1 := 0, windowSamples := 0 } }

/-- STEP_JUMP of a token that no ROLLBACK announced (R251). -/
def State.logJump (s : State) (old t : Word) : State :=
  if s.img.expect.isNone && s.stepSeen && t != old + 1 then s.logEvent 0x02 .arv old t 0 0 else s

/-- The token that a ROLLBACK announced is expected no more; another one in its place logs REPLAY_TOKEN (R232). -/
def State.logReplay (s : State) (t : Word) : State :=
  match s.img.expect with
  | some e =>
    let s1 : State := { s with img := { s.img with expect := none } }
    if t = e then s1 else s1.logEvent 0x5A .img e t 0 0
  | none => s

/-- A token opens window `t` (R250, R251): the step-start state is retained, the engine snapshots, and what the token passes
is dropped. Events are logged in page order (R334). -/
def State.openWindowOf (s : State) (t : Word) : State :=
  let s2 : State := { s with step := t }
  let s3 := (s2.logJump s.step t).laterWindows.sentinelToken
  let s4 : State := { s3 with stepSeen := true }
  let (s5, gone) := s4.retainStep t
  ((s5.ageChecks.judgeAll.scheduleToken).logReplay t).logReleased gone

/-- A token is processed in NORMAL (R251). -/
def State.normalToken (s : State) (t : Word) : State :=
  if t = s.step then s.logEvent 0x01 .arv t 0 0 0 else s.openWindowOf t

/-- A token that opens a window freezes the counters as they stood before its ingress fc (R305, R333); `old` is the step it
finds. -/
def State.freezeFrom (s : State) (old t : Word) : State := if t = old then s else s.freezeAt t

/-- A token that waits for a ROLLBACK or an apply; `base` is the step that it leaves (R245, R248). -/
def State.queueToken (s : State) (base t : Word) : State :=
  let s1 := s.freezeFrom ((s.img.tokens.getLast?).getD base) t
  { s1 with img := { s1.img with tokens := s1.img.tokens ++ [t] } }

/-- The step that the running ROLLBACK leaves (R231). -/
def State.rollbackStep (s : State) : Word :=
  match s.img.cmd with
  | some c => c.step - 1
  | none => s.step

/-- The image's step token is presented: the apply begins (R245). The counters freeze in the token's fc (R333). -/
def State.beginApply (s : State) : State :=
  let s1 := s.freezeAt s.img.fillStep
  { s1 with img := { s1.img with st := .applying, applyLeft := List.range 4096 } }

/-- The token differs from the image's STEP: the image is refused (R245) (DEDUCED, log entry 52). -/
def State.restoreSkew (s : State) (t : Word) : State :=
  let old := s.img.fillStep
  let s1 := (s.logEvent 0x5F .img old t 0 0).pageEvent .img 3
  let s2 := s1.imgAwait .awaiting
  { s2 with step := t, stepSeen := true, img := { s2.img with err := 0xC } }

/-- Outside NORMAL a token is recorded and opens no window (R241) (DEDUCED, log entry 55). -/
def State.recordToken (s : State) (t : Word) : State :=
  ({ s with step := t, stepSeen := true } : State).laterWindows

/-- A step token is taken on P3 (R251, R241, R245) (DEDUCED, log entry 52; DEDUCED, log entry 55). -/
def State.stepToken (s : State) (t : Word) : State :=
  match s.img.st with
  | .normal => if s.rollingBack then s.queueToken s.rollbackStep t else (s.freezeFrom s.step t).normalToken t
  | .resumable => if t = s.img.fillStep then s.beginApply else s.restoreSkew t
  | .applying => s.queueToken s.img.fillStep t
  | .awaiting | .filling => s.recordToken t

/-- Tokens that waited for a ROLLBACK or an apply are taken in their order (R245). -/
def State.takeTokens (s : State) : State :=
  if s.img.st == .normal && !s.rollingBack then
    s.img.tokens.foldl (fun (s : State) t => s.normalToken t) { s with img := { s.img with tokens := [] } }
  else s

/-- IMG_RESUMED: every entry is written; the configuration and the engine's state are those of the image, only its step is
retained, and its token opens the window (R245). -/
def State.resume (s : State) : State :=
  if s.applyDone then
    let t := s.img.fillStep
    let s1 := s.applyConfig
    let copy : StepCopy := { step := t, seed := s1.num.seed, groups := s1.sch.copyWords }
    let s3 : State := { s1 with
      step := t, stepSeen := true,
      img := { s1.img.discard with st := .normal, checked := t - 1, log := [], stopped := false, expect := none,
                                   retained := if s1.img.logSize = 0 then [] else [copy],
                                   everRetained := s1.img.everRetained || s1.img.logSize != 0 } }
    let s4 := s3.sentinelToken.ageChecks.judgeAll.scheduleToken
    ((s4.logEvent 0x61 .img t 0 0 0).pageEvent .img 2).takeTokens
  else s

/-- An image-fragment doorbell enters the intake (R243). -/
def State.fragBell (s : State) (addr : Nat) : State :=
  let s1 : State := { s with img := { s.img with fragQ := s.img.fragQ ++ [{ addr := addr }] } }
  s1.intake s1.img.fragQ.length

/-- A fault notice (R246) (DEDUCED, log entry 52). -/
def State.faultNotice (s : State) (code rank : Nat) : State :=
  let s1 := s.logEvent 0x03 .img (BitVec.ofNat 32 code) (BitVec.ofNat 32 rank) (BitVec.ofNat 32 s.img.st.code) 0
  match s.img.st with
  | .awaiting | .filling | .resumable => s1.imgAbort .awaiting 1
  | _ => s1

end Sys2Proof.Machine
end

