-- ==== Sys2Proof/Machine/Answers.lean ====
section
/-! DEFINITION. The answers of the scratchpad (R255, R256): what each unit does with its data, its acknowledgement or an
error; and how the units move on after a command. -/
namespace Sys2Proof.Machine

/-! ## Moving on -/

/-- Reads of DL_CTX_QRESULT that wait for a region record start its read (R316). -/
def State.startQueries (s : State) : State :=
  (s.port.waits.filter (fun w => !w.shadow)).foldl (fun (s : State) w => s.startPeeks [(frameData w.frame).toNat / 128]) s

/-- The units go on with what no longer waits for anything. -/
def State.settle (s : State) : State :=
  if s.inReset then s
  else match s.pwr.st with
    | .ready | .entering =>
      let s1 := s.takeTokens.judgesGo.itemsGo.finishChains.treeGo.pumpCtx.ctxGo
      let s2 := s1.tenGo.imgGo.applyGo
      (s2.intake (s2.img.fragQ.length + 1)).startQueries.lanesGo.pumpLog.startFill
    | _ => s.startHeldWake

/-! ## Errors -/

/-- An error that concerns no chain: SPAD_ERR with the page of the unit (R255). -/
def State.unitErr (s : State) (a : Nat) (p : Page) : State := s.logSpadErr a p

/-- Stops the chains of a list (R162); SPAD_ERR names the unit's page where there is none. -/
def State.failChains (s : State) (a : Nat) (p : Page) (cs : List Chain) : State :=
  match cs with
  | [] => s.unitErr a p
  | _ => cs.foldl (fun (s : State) c => s.failChain c.uid a) s

/-- Admitted chains that wait for a context tile. -/
def State.tileWaiters (s : State) (k : Nat) : List Chain :=
  s.chains.filter (fun c => c.running && c.admitted && c.d.hasStat && c.ctxTiles.contains k
    && (c.parts.any (fun p => p.ord == c.folded) || (c.leaf && !c.final)))

/-- Admitted chains that use a tensor id (DEDUCED, log entry 46). -/
def State.tidWaiters (s : State) (tid : Nat) : List Chain :=
  s.chains.filter (fun c => c.running && c.admitted
    && (c.d.outIds.any (fun o => o.2.1 == tid) || c.arrivals.any (fun a => a.itid.toNat == tid)))

/-- The chain whose generation check stands first, when it waits for a region record. -/
def State.checkHead (s : State) : List Chain :=
  match s.ctx.waits with
  | .check uid _ :: _ => (s.chainOf uid).toList
  | .tree k :: _ => (s.blockChain k.ctx k.gen).toList
  | _ => []

/-! ## Queries (R316) -/

/-- Answers the reads of DL_CTX_QRESULT that wait for a tile: a DRAINED context whose tile is not resident. -/
def State.answerQueries (s : State) (k : Nat) (gen : State → Nat → State × BitVec 4) : State :=
  let due := fun (w : WaitRead) => !w.shadow && (frameData w.frame).toNat / 128 == k
  let s1 : State := { s with port := { s.port with waits := s.port.waits.filter (fun w => !due w) } }
  (s.port.waits.filter due).foldl (fun (s : State) w =>
    let r := gen s ((frameData w.frame).toNat % 128)
    r.1.answerRead w.access (BitVec.ofNat 32 (2 ^ 31 + r.2.toNat * 2 ^ 24))) s1

/-! ## Reads -/

/-- Every piece of a job has come. -/
def State.readData (s : State) (tag : ReadTag) (got : List (Nat × List Byte)) : State :=
  match tag with
  | .descriptor => match s.chn.queue with
    | q :: _ => s.descriptorData (some (gotBytes got q.addr.toNat 64))
    | [] => s
  | .tblLoad => s.loadData got true
  | .ctxLine k => if s.ctxResident k then s else s.insertLine k (recsAt got (s.ctxTileAddr k))
  | .ctxPeek k =>
    let gens := (recsAt got (gotBase got)).map (·.gen)
    let s1 : State := { s with ctx := { s.ctx with peeks := setKey k gens s.ctx.peeks } }
    (s1.answerQueries k (fun s j => (s, gens.getD j 0))).pumpCtx
  | .ctxAdopt k => match s.ctx.cmd with
    | some c =>
      s.adoptTile c k (recsAt got (s.ctxTileAddr k))
    | none => s
  | .item uid key => s.itemData uid key got
  | .foldTile uid _ => s.modChain uid (fun c => { c with foldData := some got })
  | .treeMerge uid => s.modChain uid (fun c => { c with foldData := some got })
  | .regEntry tid =>
    let e := RegEntry.ofBytes (gotBytes got (s.regAddr tid) 128)
    (s.insertEntry tid e).judgeCold tid e.cold
  | .rollback _ => s.rollbackData got
  | .exportEntry k => s.exportData k got
  | .fragment => match s.img.fragQ with
    | f :: _ => s.fragHeader (gotBytes got f.addr 32)
    | [] => s
  | .fragPayload => s.fragPayload got
  | .imgCheck => s.checkData got
  | .imgApply => s

/-- A piece of a job came back as an error: the unit stops as its home states (DEDUCED, log entry 46). -/
def State.readFails (s : State) (j : ReadJob) (a : Nat) : State :=
  match j.tag with
  | .descriptor => s.descriptorData none
  | .tblLoad => (s.unitErr a .tbl).loadData (j.got.filter (fun p => decide (p.1 < a))) false
  | .ctxLine k => s.failChains a .ctx (s.tileWaiters k)
  | .ctxPeek k =>
    let s1 := s.answerQueries k (fun s _ => let n := s.choose; (n.2, (Config.freeWord n.1).extractLsb' 0 4))
    (s1.failChains a .ctx (s1.checkHead.filter (fun _ => !s1.ctx.waits.isEmpty))).pumpCtx
  | .ctxAdopt k => (s.unitErr a .ctx).ctxFail k
  | .item uid _ => s.failChain uid a
  | .foldTile uid _ => s.failChain uid a
  | .treeMerge uid => s.failChain uid a
  | .regEntry tid =>
    let s1 := (s.failChains a .ten (s.tidWaiters tid)).judgeCold tid false
    match s1.num.cmd with
    | some c => if !c.finished && ((c.left ≠ 0 && c.next == tid) || c.waiting.contains tid) then s1.tenFail else s1
    | none => s1
  | .rollback _ => (s.unitErr a .img).imgFail
  | .exportEntry _ => (s.unitErr a .img).imgFail
  | .fragment => (s.unitErr a .img).fragUnreadable
  | .fragPayload => (s.unitErr a .img).fragUnreadable
  | .imgCheck => (s.unitErr a .img).applyFail
  | .imgApply => s

/-- Replaces the job of the read of an id, or takes it out. -/
def State.putJob (s : State) (id : Nat) (q : Option ReadJob) : State :=
  { s with p0 := { s.p0 with
      reads := s.p0.reads.filterMap (fun r => if r.out.any (fun o => o.1 == id) then q else some r) } }

/-- SPAD_READ_DATA: the answer to one read. An answer that no read asked for, or of another length, is none. After an error
the unit stops, and the answers of its other reads are not used (R255). -/
def State.readAnswer (s : State) (id : Nat) (data : Option (List Byte)) : State :=
  match s.p0.reads.find? (fun j => j.out.any (fun o => o.1 == id)) with
  | none => s
  | some j => match j.out.find? (fun o => o.1 == id) with
    | none => s
    | some o =>
      if s.p0.held.any (fun h => h.1 == id) then s else
      let rest := j.out.filter (fun q => q.1 != id)
      match data with
      | none =>
        let s1 := (s.putJob id (ReadJob.kill s.p0.held { j with out := rest })).captureSpad o.2.1
        if j.dead then s1.settle else (s1.readFails j o.2.1).settle
      | some bs =>
        if bs.length ≠ o.2.2 then s
        else if j.dead then (s.putJob id (ReadJob.kill [] { j with out := rest })).settle
        else
          let got := j.got ++ [(o.2.1, bs)]
          if rest.isEmpty then ((s.putJob id none).readData j.tag got).settle
          else s.putJob id (some { j with out := rest, got := got })

/-! ## Writes -/

/-- A write is acknowledged. -/
def State.writeDone (s : State) (tag : WriteTag) : State :=
  match tag with
  | .chainOut uid => s.modChain uid (fun c => { c with writes := c.writes - 1 })
  | .doneWord uid => s.wordWritten uid false
  | .refusedWord _ => s
  | .ctxEvict k => { s with ctx := { s.ctx with evicting := s.ctx.evicting.erase k } }
  | .ctxCmd k => match s.ctx.cmd with
    | some c =>
      let s1 := s.tileDrained c k
      s1.setCtxCmd { c with tiles := c.tiles.drop 1, out := 0 }
    | none => s
  | .regBack tid => { s with num := { s.num with evicting := s.num.evicting.erase tid } }
  | .regScale tid => { s with num := { s.num with windows := s.num.windows.map (fun w =>
      if w.tid == tid && w.opened then { w with stored := true } else w) } }
  | .logRec => s.logAck false
  | .imgLog => s
  | .imgCmd => s
  | .fragCopy => match s.img.fragQ with
    | f :: _ => s.setFrag { f with copied := true }
    | [] => s
  | .imgApply => s

/-- A write came back as an error (DEDUCED, log entry 46). -/
def State.writeFails (s : State) (w : WriteJob) : State :=
  match w.tag with
  | .chainOut uid => (s.modChain uid (fun c => { c with writes := c.writes - 1 })).failChain uid w.addr
  | .doneWord uid => s.wordWritten uid true
  | .refusedWord tag => s.logSpadErr w.addr .chn tag
  | .ctxEvict k => ({ s with ctx := { s.ctx with evicting := s.ctx.evicting.erase k } } : State).unitErr w.addr .ctx
  | .ctxCmd k => (s.unitErr w.addr .ctx).ctxFail k
  | .regBack tid =>
    let s1 : State := { s with num := { s.num with evicting := s.num.evicting.erase tid } }
    let s2 := s1.unitErr w.addr .ten
    let s3 := match s2.num.cmd with | some c => if c.op = 4 then s2.tenFail else s2 | none => s2
    match s3.img.cmd with | some c => if c.op = 2 then s3.imgFail else s3 | none => s3
  | .regScale tid =>
    let us := (s.num.windows.filter (fun q => q.tid == tid && q.opened && !q.stored)).flatMap (·.chains)
    s.failChains w.addr .ten (s.chains.filter (fun c => us.contains c.uid && c.running))
  | .logRec => s.logAck true
  | .imgLog => s.unitErr w.addr .img
  | .imgCmd => (s.unitErr w.addr .img).imgFail
  | .fragCopy => (s.unitErr w.addr .img).fragCopyFail
  | .imgApply => (s.unitErr w.addr .img).applyFail

/-- SPAD_WRITE_ACK: the acknowledgement of one write. -/
def State.writeAnswer (s : State) (id : Nat) (err : Bool) : State :=
  match s.p0.writes.find? (fun w => w.id == id) with
  | none => s
  | some w =>
    let s1 := ({ s with p0 := { s.p0 with writes := s.p0.writes.filter (fun q => q.id != id) } } : State).sendHeld
    if err then ((s1.captureSpad w.addr).writeFails w).settle else (s1.writeDone w.tag).settle

end Sys2Proof.Machine
end

