-- ==== Sys2Proof/Machine/Power.lean ====
section
/-! DEFINITION. The power states (R272 to R279): requests, entries and wakes; the recall of credits (R266, R270); droop
(R286), grants (R283) and forecasts (R284). -/
namespace Sys2Proof.Machine

/-! ## Requests (R275 to R277, Table 13.4) -/

/-- The write-backs that precede Dormant (R134, R196). -/
def State.writeBacks (s : State) : State :=
  let s1 := (s.num.lines.filter (·.dirty)).foldl (fun (s : State) l =>
    let s2 := s.issueWrite (.regBack l.tid) (cellsAt (s.regAddr l.tid) l.e.bytes)
    { s2 with num := { s2.num with
        evicting := s2.num.evicting ++ [l.tid],
        lines := s2.num.lines.map (fun q => if q.tid == l.tid then { q with dirty := false } else q) } }) s
  (s1.ctx.lines.filter (·.dirty)).foldl (fun (s : State) l =>
    let cells := s.tileCells l.tile l.recs (fun _ => none)
    let s2 := s.modLine l.tile (fun q => { q with dirty := false })
    if cells.isEmpty then s2
    else
      let s3 := s2.issueWrite (.ctxEvict l.tile) cells
      { s3 with ctx := { s3.ctx with evicting := s3.ctx.evicting ++ [l.tile] } }) s1

/-- Something on chip has still to be written back. -/
def State.anyDirty (s : State) : Bool := s.num.lines.any (·.dirty) || s.ctx.lines.any (·.dirty)

/-- RESULT of DL_PWR_REQ. -/
def State.pwrResult (s : State) (r : BitVec 4) : State := { s with pwr := { s.pwr with result := r } }

/-- A request for DORMANT (R276) (DEDUCED, log entry 58). -/
def State.requestDormant (s : State) : State :=
  let go := fun (s : State) (fromResting : Bool) =>
    if s.occupied then s.refuseDormant
    else ((({ s with pwr := { s.pwr with result := 0, entering := .toDormant fromResting false } } : State).setPwr
      .entering)).writeBacks
  match s.pwr.st, s.pwr.entering with
  | .ready, _ => go s false
  | .resting, _ => if s.pwr.rising then s else go s true
  | .entering, .toResting => go s false
  | _, _ => s

/-- A request for RESTING (R275): from above an entry, from below a wake. An entry to Dormant that came from READY, and has not
begun its recall, turns (Table 13.10). -/
def State.requestResting (s : State) : State :=
  match s.pwr.st with
  | .ready => ({ s with pwr := { s.pwr with result := 0, entering := .toResting } } : State).setPwr .entering
  | .entering =>
    match s.pwr.entering with
    | .toDormant false false => { s with pwr := { s.pwr with result := 0, entering := .toResting } }
    | _ => (s.pwrResult 0).wake false
  | _ => (s.pwrResult 0).wake false

/-- A request for READY (R277). -/
def State.requestReady (s : State) : State := (s.pwrResult 0).wake true

/-- A write of DL_PWR_REQ (Table 13.4): the target is written, and requested (DEDUCED, log entry 58). -/
def State.pwrRequest (s : State) (target : BitVec 2) : State :=
  let s1 : State := { s with pwr := { s.pwr with target := target } }
  match target.toNat with
  | 0 => s1.requestDormant
  | 1 => s1.pwrResult 2
  | 2 => s1.requestResting
  | _ => s1.requestReady

/-- The idle timer expires (R275): IDLE_REST is not 0 and no work item is ready or issuing (DEDUCED, log entry 85). -/
def State.idleExpires (s : State) : State :=
  if s.isReady && s.pwr.idleRest ≠ 0 && !s.itemReady && s.chn.flights.isEmpty then s.requestResting else s

/-! ## Entries -/

/-- ENTER_RESTING: the conditions of R275 hold, E at the Resting level among them, and FCLK is gated. -/
def State.enterResting (s : State) : State :=
  if s.pwr.st == .entering && s.pwr.entering == .toResting && !s.inReset && !s.itemReady && s.chn.flights.isEmpty
      && !s.commandBusy && s.p0Idle && s.envRests && s.port.p3.isEmpty && s.port.p1.isEmpty && s.port.p4.isEmpty then
    ({ s with pwr := { s.pwr with entering := .none, holding := false } } : State).setPwr .resting
  else s

/-- CREDIT_RECALL to every sender (R266, R270); from here on no credit goes back, and each sender has what it holds. -/
def State.beginRecall (s : State) : State :=
  let s1 : State := { s with port := { s.port with recallSt :=
    { waiting := creditClasses.map (fun c => (c.1, c.2.1)), running := true,
      left := creditClasses.map (fun c => ((c.1, c.2.1), c.2.2 - s.placesUsed c.1 c.2.1)) } } }
  { s1 with out := (creditClasses.map (fun c => creditOut 3 c.1 c.2.1 0)).reverse ++ s1.out }

/-- DORMANT_SECOND_CHECK: the write-backs are made, those of entries changed since the request too, and the request is checked
again (R276)
(DEDUCED, log entry 59). -/
def State.secondCheck (s : State) : State :=
  match s.pwr.st, s.pwr.entering with
  | .entering, .toDormant fromResting false =>
    if s.inReset || !s.p0.writes.isEmpty then s
    else if s.anyDirty then s.writeBacks
    else if s.occupied then s.refuseDormant.abandonEntry
    else ({ s with pwr := { s.pwr with entering := .toDormant fromResting true } } : State).beginRecall
  | _, _ => s

/-- Reserved OP or CLASS of a credit word (R265). -/
def cwReserved (w : Word) : Bool := decide (cwOp w = 0) || decide (cwOp w > 4) || decide (cwClass w > 8)

/-- A credit word that the block drops (R265): REST_BAD when it came over P5, TREE_BAD otherwise. -/
def State.badCredit (s : State) (via : CreditPath) (w : Word) : State :=
  if via = .rest then s.logEvent 0x05 .port w 0 0 0 else s.logEvent 0x42 .tree w 0 0 0

/-- The class and stream whose sender answers with a credit word on a path (R265): on P1 the lane group is the stream. -/
def recallKey (via : CreditPath) (w : Word) : Option (Nat × Nat) :=
  match via with
  | .lane g => if cwClass w = 0 then some (0, g.val) else none
  | _ => if cwClass w ≠ 0 && creditPath (cwClass w) (cwStream w) == via then some (cwClass w, cwStream w) else none

/-- RECALL_ACK: a sender answers the recall of its class and stream (R266). -/
def State.recallAnswer (s : State) (via : CreditPath) (w : Word) : State :=
  if cwReserved w then s.badCredit via w
  else if cwOp w ≠ 4 then s
  else
    match recallKey via w with
    | none => s
    | some k =>
      { s with port := { s.port with recallSt := { s.port.recallSt with waiting := s.port.recallSt.waiting.erase k } } }

/-- A lane request has still to issue or to return: Dormant waits for a message that was sent (Table 12.13). -/
def State.lanesBusy (s : State) : Bool := !s.chn.flights.isEmpty || !s.chn.lanes.isEmpty

/-- What entry to DORMANT loses (R279, Table 13.5): sori, caches, grants, whatever no register holds; the command-status
fields read NONE. -/
def State.loseDormant (s : State) : State :=
  { s with
    pwr := { s.pwr with grant := none, lastSent := 0, slots := 0, holding := false, guardBand := 0 }
    env := {}
    tbl := { s.tbl with errCode := 0, errItem := 0, errIndex := 0, resident := [], filling := none, fillQ := [], wanted := [], scrubPos := 0 }
    sen := { s.sen with lfsr := 1, queue := [], windowSamples := 0, viol0 := 0, viol1 := 0, judged := 0, vector := 0,
                        testDue := false }
    chn := { s.chn with lanes := [], laneHead := none }
    ctx := { s.ctx with lines := [], peeks := [], waits := [], cmdErr := 0, errIndex := 0 }
    num := { s.num with lines := [], cmdErr := 0 }
    tree := { s.tree with held := [], tiles := [], used := [], checks := [] }
    img := { s.img with err := 0, fragQ := [] }
    port := { s.port with inited := false, laneCredit := List.replicate 8 0, recallSt := { done := true }, outCredits := [] } }

/-- DORMANT_ENTRY: every class is recalled and nothing is under way (R270, R276). A wake that came during the recall
starts from DORMANT (Table 13.10) (DEDUCED, log entry 59). -/
def State.enterDormant (s : State) : State :=
  if s.recallBegun && !s.inReset && s.recallComplete && s.p0Idle && !s.lanesBusy && s.port.treeOut.isEmpty && s.envRests then
    let late := s.pwr.lateWake
    let s1 := s.loseDormant
    let s2 := ({ s1 with pwr := { s1.pwr with entering := .none, lateWake := none } } : State).setPwr .dormant
    match late with
    | some ready => s2.wake ready
    | none => s2
  else s

/-! ## Wakes -/

/-- WAKING_DONE: VDD_DL's time has passed. The block is RESTING where that is the target; else it goes on to READY, and STATE
stays WAKING until then (R277, R278, Table 13.3, Table 14.4). -/
def State.wakingDone (s : State) : State :=
  if s.pwr.st == .waking && !s.inReset && s.pwr.vddOk then
    if s.pwr.wakeReady then { s with pwr := { s.pwr with rising := true, wakeReady := false } }
    else ({ s with pwr := { s.pwr with rising := false } } : State).setPwr .resting
  else s

/-- The step from RESTING to READY, but for the commands that were held: CREDIT_INIT after Dormant (R270)
(DEDUCED, log entry 60). -/
def State.becomeReady (s : State) : State :=
  let s1 := ({ s with pwr := { s.pwr with rising := false } } : State).setPwr .ready
  let s2 := if s1.port.inited then s1 else s1.creditInit
  s2.settle

/-- The host chip's report of VDD_DL (R278) (DEDUCED, log entry 62). -/
def State.vddReport (s : State) (ok : Bool) : State :=
  ({ s with pwr := { s.pwr with vddOk := ok } } : State).startHeldWake

/-! ## Droop (R286) -/

/-- Threshold of band k in mV (DEDUCED, log entry 62). -/
def State.guardAt (s : State) (k : Nat) : Nat := (s.cal.guard.getD k 0).toNat

/-- The deepest band that satisfies a condition, as GUARD counts bands; 0 for none. -/
def deepest (p : Nat → Bool) : Nat := (List.range 4).foldl (fun b k => if p k then k + 1 else b) 0

/-- A sample below a threshold (DEDUCED, log entry 62). -/
def State.guardEntry (s : State) (mV : Nat) : State :=
  let b := deepest (fun k => decide (mV < s.guardAt k))
  if !s.fclkRuns || b ≤ s.pwr.guardBand then s
  else
    let s1 : State := { s with pwr := { s.pwr with guardBand := b } }
    if b = 4 then
      (s1.logEvent 0x11 .pwr (BitVec.ofNat 32 mV) (BitVec.ofNat 32 (s.guardAt 3)) 0 0).pageEvent .pwr 3
    else s1

/-- VDD_DL has stayed at `mV` or more for 64 fc: the bands it clears by 10 mV are released. -/
def State.guardRelease (s : State) (mV : Nat) : State :=
  let b := deepest (fun k => decide (k < s.pwr.guardBand) && decide (mV < s.guardAt k + 10))
  if s.fclkRuns then { s with pwr := { s.pwr with guardBand := b } } else s

/-! ## Grants and forecasts -/

/-- GRANT took effect, was replaced, expired or was revoked (Table 14.7). -/
def State.setGrant (s : State) (g : Option Grant) : State := ({ s with pwr := { s.pwr with grant := g } } : State).pageEvent .pwr 4

/-- The payload of a GRANT frame (R283). -/
def State.grantWord (s : State) (w : Word) : State :=
  let id := bitsOf w 31 24
  if id = 0 then (match s.pwr.grant with | some _ => s.setGrant none | none => s)
  else s.setGrant (some { id := BitVec.ofNat 8 id, rate := Nat.max 1 (Nat.min 160 (bitsOf w 23 16)), duration := bitsOf w 15 0 })

/-- A grant with a duration expires (R283) (DEDUCED, log entry 85). -/
def State.grantExpires (s : State) : State :=
  match s.pwr.grant with
  | some g => if g.duration = 0 then s else s.setGrant none
  | none => s

/-- An outbound slot of P5 (R284): where no other frame takes it, a FORECAST of E now and 256 fc ahead is sent on a change
past DEADBAND, or as the sixteenth slot in READY and ACTIVE. -/
def State.forecastSlot (s : State) (taken : Bool) : State :=
  if !s.fclkRuns then s
  else
    let n := s.envNow / 65536
    let a := s.envAhead / 65536
    let p : PwrUnit := { s.pwr with slots := s.pwr.slots + 1 }
    let diff := Nat.max a p.lastSent.toNat - Nat.min a p.lastSent.toNat
    if !taken && (decide (diff ≥ p.deadband.toNat) || (s.pwr.st == .ready && decide (p.slots ≥ 16))) then
      let trend := if p.holding then 3 else if a > n then 1 else if a < n then 2 else 0
      let data := p.grantId * 2 ^ 24 + trend * 2 ^ 22 + a * 2 ^ 12 + p.rateInForce * 2 ^ 4
      ({ s with pwr := { p with lastSent := BitVec.ofNat 10 a, slots := 0 } } : State).send (.rest (frameOf 7 0 0 0 data))
    else { s with pwr := p }

/-- BALLAST_HOLD ends (R285) (DEDUCED, log entry 85). -/
def State.holdEnds (s : State) : State := { s with pwr := { s.pwr with holding := false } }

end Sys2Proof.Machine
end

