-- ==== Sys2Proof/Machine/Life.lean ====
section
/-! DEFINITION. The lifetime unit (R288 to R291, R301): the record of Table 13.11, its commands, and what passes in a second
of RCLK. -/
namespace Sys2Proof.Machine

/-! ## The record (Table 13.11) -/

/-- Bytes 8 to 255 of the record. -/
def State.lifeBody (s : State) : List Byte :=
  let c := s.life.counts
  leBytes 2 1 ++ [BitVec.ofNat 8 (b2n (!s.isD4)), BitVec.ofNat 8 (b2n s.life.anchored + 2 * b2n s.life.seeded)]
  ++ leBytes 4 c.snaps ++ leBytes 6 c.powered ++ leBytes 6 c.dormant ++ leBytes 6 c.resting ++ leBytes 6 c.ready
  ++ leBytes 6 c.active ++ leBytes 2 0 ++ leBytes 8 s.life.calendar.toNat ++ leBytes 6 c.wr0 ++ leBytes 6 c.wr1
  ++ leBytes 4 c.ecc0 ++ leBytes 4 c.ecc1 ++ leBytes 4 c.eccr ++ leBytes 8 c.vstress ++ leBytes 4 c.therm ++ leBytes 4 0
  ++ (List.range 40).flatMap (fun p => leBytes 4 (if p < s.pinnaCount then c.eval.getD p 0 / 2 ^ 34 else 0))

/-- MAGIC of the record. -/
def lifeMagic : Nat := 0x444C4C52

/-- The 64 words of the record (DEDUCED, log entry 74). -/
def State.lifeRecord (s : State) : List Word :=
  let b := s.lifeBody
  wordsOf 64 (leBytes 4 lifeMagic ++ wordBytes (crc32c b) ++ b)

/-! ## Commands (R290, R301) -/

/-- A write of DL_LIFE_CMD with SNAP (1) or RESTORE (2). -/
def State.lifeCommand (s : State) (rq : Requester) (op : Nat) : State :=
  match s.life.busy with
  | some _ => s.regFault .life .state rq 0x040
  | none => { s with life := { s.life with busy := some op, args := s.life.inp } }

/-- The check of RESTORE: the code of the first that fails, 0 where all pass (R290). -/
def State.restoreCode (s : State) : Nat :=
  let bs := s.life.args.flatMap wordBytes
  if s.life.seeded then 5
  else if fieldAt bs 0 4 ≠ lifeMagic then 1
  else if fieldAt bs 4 4 ≠ (crc32c (bs.drop 8)).toNat then 2
  else if fieldAt bs 8 2 ≠ 1 then 3
  else if fieldAt bs 10 1 ≠ b2n (!s.isD4) then 4
  else 0

/-- The counts of a record that passed, added to those made since power-on, each saturating (R290, R288)
(DEDUCED, log entry 74). -/
def LifeCounts.restore (c : LifeCounts) (bs : List Byte) : LifeCounts :=
  let f := fun (o n x : Nat) => satAdd (8 * n) x (fieldAt bs o n)
  { powered := f 16 6 c.powered, dormant := f 22 6 c.dormant, resting := f 28 6 c.resting, ready := f 34 6 c.ready,
    active := f 40 6 c.active, wr0 := f 56 6 c.wr0, wr1 := f 62 6 c.wr1, ecc0 := f 68 4 c.ecc0, ecc1 := f 72 4 c.ecc1,
    eccr := f 76 4 c.eccr, vstress := f 80 8 c.vstress, therm := f 88 4 c.therm, snaps := f 12 4 c.snaps,
    eval := (List.range 40).map (fun p => satAdd 66 (c.eval.getD p 0) (fieldAt bs (96 + 4 * p) 4 * 2 ^ 34)) }

/-- What a command that completes does; its code (DEDUCED, log entry 74). -/
def State.lifeEffect (s : State) (op : Nat) : State × Nat :=
  if op = 1 then
    let s1 : State := { s with life := { s.life with
      counts := { s.life.counts with snaps := satAdd 32 s.life.counts.snaps 1 } } }
    ({ s1 with life := { s1.life with record := s1.lifeRecord } }, 0)
  else
    match s.restoreCode with
    | 0 => ({ s with life := { s.life with
        seeded := true, counts := s.life.counts.restore (s.life.args.flatMap wordBytes) } }, 0)
    | k => (s, k)

/-- LIFE_CMD_DONE (R290). -/
def State.lifeDone (s : State) : State :=
  match s.life.busy with
  | none => s
  | some op =>
    let (s1, code) := s.lifeEffect op
    let s2 : State := { s1 with life := { s1.life with busy := none, args := [], err := BitVec.ofNat 3 code } }
    (s2.logEvent 0x12 .life (BitVec.ofNat 32 op) (BitVec.ofNat 32 code) 0 0).pageEvent .life 1

/-- A write of DL_LIFE_ANCHOR_HI, with the anchor whole (R291). -/
def State.setAnchor (s : State) (v : DWord) : State :=
  { s with life := { s.life with anchor := v, calendar := v, anchored := true } }

/-! ## A second (R288, R289, R291) -/

/-- The largest m below 2^24 with m^20 ≤ 2^n: floor(2^(n/20)). -/
def root20 (n : Nat) : Nat :=
  (List.range 24).foldl (fun m i => let m' := m + 2 ^ (23 - i); if m' ^ 20 ≤ 2 ^ n then m' else m) 0

/-- What a second at a mean of v mV adds to VSTRESS: floor(2^16 × 2^((v − 720) / 20)), v clamped to 600–850
(DEDUCED, log entry 75). -/
def stressOf (v : Nat) : Nat := root20 (Nat.max 600 (Nat.min 850 v) - 400)

/-- The thermal cycle counter at a temperature in °C (R289). -/
def LifeUnit.thermal (u : LifeUnit) (t : Int) : LifeUnit :=
  match u.tmin, u.tmax with
  | none, _ => { u with tmin := some t, tmax := none }
  | some m, none => if t < m then { u with tmin := some t } else if t ≥ m + 30 then { u with tmax := some t } else u
  | some _, some x =>
    if t > x then { u with tmax := some t }
    else if t ≤ x - 30 then
      { u with tmin := some t, tmax := none, counts := { u.counts with therm := satAdd 32 u.counts.therm 1 } }
    else u

/-- The state seconds: the second belongs to the state in which it ends (R288) (DEDUCED, log entry 75). -/
def LifeCounts.second (c : LifeCounts) (st : PwrState) (active : Bool) : LifeCounts :=
  let c := { c with powered := satAdd 48 c.powered 1 }
  match st with
  | .dormant | .waking => { c with dormant := satAdd 48 c.dormant 1 }
  | .resting | .entering => { c with resting := satAdd 48 c.resting 1 }
  | .ready => if active then { c with active := satAdd 48 c.active 1 } else { c with ready := satAdd 48 c.ready 1 }

/-- One second of RCLK: `mV` is the mean of VDD_DL where it was in range, `temp` the die temperature
(DEDUCED, log entry 75). -/
def State.second (s : State) (mV : Option Nat) (temp : Int) : State :=
  let c := s.life.counts.second s.pwr.st s.active
  let c1 := match mV with
    | some v => { c with vstress := satAdd 64 c.vstress (stressOf v) }
    | none => c
  { s with life := { s.life with counts := c1, calendar := s.life.calendar + 1 }.thermal temp }

end Sys2Proof.Machine
end

