-- ==== Sys2Proof/Machine/Access.lean ====
section
/-! DEFINITION. Register accesses before they reach a page: the refusals of R11 and R299, register pairs (R14), pages and
their headers (R3, R10, Table 14.2). -/
namespace Sys2Proof.Machine

/-! ## Refusals (R11, R299) -/

/-- The block does not perform an access to a page (R11, R299, R300) (DEDUCED, log entry 63). -/
def State.refuses (s : State) (rq : Requester) (page : Nat) : Bool :=
  if s.inReset then page != 0
  else if s.pwr.st == .dormant || s.pwr.st == .waking then
    (match rq with
      | .core _ => true
      | .rest => decide (page > 3))
  else false

/-- A refused access (R299): counted, recorded in the PWR page, and under AUTOWAKE a wake, but for a block reset. -/
def State.refuseAccess (s : State) (a : Access) : State :=
  let s1 : State := { s with pwr := { s.pwr with dacc := BitVec.ofNat 32 (satAdd 32 s.pwr.dacc.toNat 1) } }
  let s2 := s1.recordFault .pwr .dormant a.rq a.waddr
  if s.pwr.autowake && !s.inReset then s2.wake true else s2

/-- A refused read (R11): all ones, and on P5 STATUS 0b01. -/
def State.refuseRead (s : State) (a : Access) : State := (s.refuseAccess a).answerRead a 0xFFFFFFFF 1

/-- A refused write. -/
def State.refuseWrite (s : State) (a : Access) : State := (s.refuseAccess a).answerWrite a 1

/-! ## Pages -/

/-- The page is implemented on the variant (R3, R294). -/
def State.pagePresent (s : State) (p : Page) : Bool := s.isD4 || !(p == .sch || p == .sen)

/-! ## Pairs (R14) -/

def lo32 (v : DWord) : Word := v.extractLsb' 0 32
def hi32 (v : DWord) : Word := v.extractLsb' 32 32
def join64 (hi lo : Word) : DWord := hi ++ lo

/-- A read of _LO captures the whole. -/
def State.pairLo (s : State) (rq : Requester) (p : PairId) (v : DWord) : State × Word :=
  ({ s with pairs := { s.pairs with captured := setKey (rq, p) (hi32 v) s.pairs.captured } }, lo32 v)

/-- A read of _HI returns what its requester captured, and the capture is spent; without one, the current upper half. -/
def State.pairHi (s : State) (rq : Requester) (p : PairId) (v : DWord) : State × Word :=
  match lookupKey (rq, p) s.pairs.captured with
  | some w => ({ s with pairs := { s.pairs with captured := dropKey (rq, p) s.pairs.captured } }, w)
  | none => (s, hi32 v)

/-- A write of _LO is held for its requester (DEDUCED, log entry 72). -/
def State.holdLo (s : State) (rq : Requester) (p : PairId) (v : Word) : State :=
  { s with pairs := { s.pairs with held := setKey (rq, p) v s.pairs.held } }

/-- What a write of _HI makes the quantity, and the held half spent. -/
def State.joinHi (s : State) (rq : Requester) (p : PairId) (old : DWord) (v : Word) : State × DWord :=
  let lo := (lookupKey (rq, p) s.pairs.held).getD (lo32 old)
  ({ s with pairs := { s.pairs with held := dropKey (rq, p) s.pairs.held } }, join64 v lo)

end Sys2Proof.Machine
end

