-- ==== Sys2Proof/Machine/RegRead.lean ====
section
/-! DEFINITION. What a read of each register of the window returns (chapters 14 and 15), and what it clears (Table 0.4). -/
namespace Sys2Proof.Machine

/-- A word from fields: each is a value with the place of its bit 0. -/
def word (fs : List (Nat × Nat)) : Word := BitVec.ofNat 32 (fs.foldl (fun a f => a + f.1 * 2 ^ f.2) 0)

/-! ## Headers (Table 14.2) -/

/-- PG_CAP (Table 15.1, R298; Table 14.9; Table 14.11). -/
def State.pgCap (s : State) (p : Page) : Word :=
  let d := s.isD4
  match p with
  | .eval => if d then 0x28 else 0x18
  | .tbl => if d then 0xF else 0xE
  | .crz => 0x00010100
  | .chn => 0x1040
  | .ctx => if d then 0x8014 else 0x8012
  | .tree => if d then 0x5410 else 0x5308
  | .num => if d then 0xFFF else 0x7FF
  | .ten => 0x10000
  | .sch => 0x40
  | .sen => 1
  | .img | .cal => if d then 1 else 0
  | _ => 0

/-- PG_STATUS[8] (Table 15.1, Table 14.9). -/
def State.pgBusy (s : State) (p : Page) : Bool :=
  match p with
  | .tbl => s.tbl.cmd.isSome
  | .ctx => s.ctx.cmdBusy
  | .tree => s.tree.fwBusy
  | .ten => s.num.cmd.isSome
  | .cal => s.cal.loaded
  | _ => false

/-- PG_ERR_INFO (Table 14.2). -/
def ErrInfo.word (e : ErrInfo) : Word :=
  Machine.word [(e.cause.toNat, 28), (b2n e.ovf, 27), (b2n e.src, 26), (e.core.toNat, 22), (e.waddr.toNat, 2)]

/-- A header register, at offsets 0x000 to 0x03C. -/
def State.headerWord (s : State) (p : Page) (off : Nat) : Word :=
  let h := s.hdr p
  match off with
  | 0x000 => word [(p.unitCode, 16), (s.inst.toNat, 8), (1, 0)]
  | 0x004 => s.pgCap p
  | 0x008 => word [(b2n h.lock, 31)]
  | 0x00C => word [(b2n (s.pgBusy p), 8), (b2n (h.err.cause != 0), 0)]
  | 0x010 => h.event
  | 0x014 => h.eventEn
  | 0x018 => h.err.word
  | 0x01C => h.seq
  | _ => 0

/-! ## Always-on pages -/

/-- DL_GLB_EVSUM (R296). -/
def State.evsum (s : State) : Nat :=
  Page.all.foldl (fun a p => let h := s.hdr p; if h.event &&& h.eventEn = 0 then a else a + 2 ^ p.bit) 0

/-- DL_GLB_CAP0 and DL_GLB_CAP1 (Table 14.6). -/
def State.glbCap (s : State) (one : Bool) : Word :=
  if one then (if s.isD4 then 0x10405206 else 0x080049E6) else (if s.isD4 then 0x0000A03C else 0x00006005)

/-- The GLB page (Table 14.5). -/
def State.glbWord (s : State) (off : Nat) : Word :=
  match off with
  | 0x040 => s.glbCap false
  | 0x044 => s.glbCap true
  | 0x048 => word [(b2n s.strap, 1), (b2n s.gen3, 0)]
  | 0x04C => s.step
  | 0x050 => word [(s.evsum, 0)]
  | 0x058 => word [(b2n s.inReset, 2), (s.resetCause.toNat, 0)]
  | _ => 0

/-- The PWR page (Tables 14.7, 13.4, 13.8). -/
def State.pwrWord (s : State) (off : Nat) : Word :=
  let p := s.pwr
  match off with
  | 0x040 => s.pwrStateWord
  | 0x044 => word [(p.result.toNat, 4), (p.target.toNat, 0)]
  | 0x048 => word [(p.idleRest.toNat, 16), (p.ballastHold.toNat, 8), (b2n p.autowake, 0)]
  | 0x04C => word [(p.icap.toNat, 16), (p.deadband.toNat, 12), (p.rate.toNat, 0)]
  | 0x050 => word [(p.fclk.toNat, 0)]
  | 0x054 => word [(s.envAhead / 65536, 16), (s.envNow / 65536, 0)]
  | 0x058 => p.dacc
  | _ => 0

/-- The LIFE page (Table 14.8), but for its pairs. -/
def State.lifeWord (s : State) (off : Nat) : Word :=
  let l := s.life
  if off = 0x044 then word [(b2n l.busy.isSome, 8), (b2n l.seeded, 5), (b2n l.anchored, 4), (l.err.toNat, 0)]
  else if 0x100 ≤ off ∧ off < 0x200 then l.record.getD ((off - 0x100) / 4) 0
  else if 0x200 ≤ off ∧ off < 0x300 then l.inp.getD ((off - 0x200) / 4) 0
  else 0

/-- The CAL page (Table 14.9); it reads zero until the calibration set is loaded (R335) (DEDUCED, log entry 68). -/
def State.calWord (s : State) (off : Nat) : Word :=
  let c := s.cal
  if !c.loaded then 0
  else if off = 0x040 then c.rcTrim.setWidth 32
  else if 0x050 ≤ off ∧ off < 0x060 then (c.guard.getD ((off - 0x050) / 4) 0).setWidth 32
  else if 0x080 ≤ off ∧ off < 0x0C0 then (c.coef.getD ((off - 0x080) / 4) 0).setWidth 32
  else if 0x0C0 ≤ off ∧ off < 0x0D0 then (if s.isD4 then (c.thr.getD ((off - 0x0C0) / 4) 0).setWidth 32 else 0)
  else 0

/-! ## PORT (Table 14.10) -/

/-- Free places of a class and stream that has `n`. -/
def State.freePlaces (s : State) (n cls stream : Nat) : Nat := n - s.placesUsed cls stream

def State.portWord (s : State) (off : Nat) : Word :=
  match off with
  | 0x040 => s.port.laneWt
  | 0x044 => word [(b2n (s.port.recallSt.done || s.recallComplete), 1), (b2n (s.port.recallSt.running && !s.recallComplete), 0)]
  | 0x048 => word [(s.freePlaces 8 5 0, 16), (s.freePlaces 4 4 0, 12), (s.freePlaces 4 2 0, 8), (s.freePlaces 32 1 0, 0)]
  | 0x04C => word ((List.range 15).map (fun i => (s.freePlaces 3 3 i, 2 * i)))
  | 0x050 => word ([(s.freePlaces 8 8 0, 12), (s.freePlaces 4 7 0, 8)]
      ++ (List.range 4).map (fun i => (s.freePlaces 3 6 i, 2 * i)))
  | 0x054 => word ((List.range 8).map (fun g => (s.placesUsed 0 g, 4 * g)))
  | 0x058 => s.port.restBad
  | 0x05C => match s.port.spadErr with | some a => word [(1, 31), (a.toNat, 0)] | none => 0
  | _ => 0

/-! ## IMG (Table 14.11) -/

def State.imgWord (s : State) (off : Nat) : Word :=
  let u := s.img
  match off with
  | 0x044 => word [(b2n u.retained.isEmpty, 12), (b2n u.logOvf, 11), (b2n u.cmd.isSome, 10), (u.err.toNat, 4), (u.st.code, 0)]
  | 0x048 => u.argStep
  | 0x04C => u.argGen.setWidth 32
  | 0x050 => u.gen.setWidth 32
  | 0x054 => u.checked
  | 0x058 => (lowestStep (u.retained.map (·.step))).getD 0xFFFFFFFF
  | 0x05C => u.logBase
  | 0x060 => u.logSize
  | 0x064 => u.addr
  | 0x068 => u.size
  | 0x06C => u.frag
  | 0x070 => u.len
  | 0x074 => u.stage
  | 0x078 => u.stageSize
  | 0x07C => word [(if u.st == .filling then u.count else 0, 16), (u.accepted.length, 0)]
  | 0x080 => u.fragStale
  | 0x084 => u.fragBad
  | 0x088 => u.fragDup
  | _ => 0

/-! ## CNT and DBG (Tables 14.12, 14.13) -/

/-- DL_CNT_STATUS.STATE. -/
def CntState.code : CntState → Nat
  | .idle => 0 | .armed _ _ => 1 | .copying => 2 | .frozen => 3

def State.cntWord (s : State) (off : Nat) : Word :=
  match off with
  | 0x044 => s.cnt.arg
  | 0x048 => word [(b2n s.cnt.late, 4), (s.cnt.st.code, 0)]
  | 0x04C => s.cnt.fstep
  | 0x050 => s.cnt.index.setWidth 32
  | _ => 0

/-- HALT is 1 and no evaluation is in flight. -/
def State.halted (s : State) : Bool := s.dbg.halt && s.chn.flights.isEmpty

/-- The table and entry that stand at an index of a sorus, in its block order (R306). -/
def State.sorusAt (s : State) (i : Nat) : Option (TableKey × Nat) :=
  (s.tbl.resident.find? (fun r => r.blocks.contains (i / 64))).bind (fun r =>
    (r.blocks.findIdx? (· == i / 64)).bind (fun j =>
      if 64 * j + i % 64 < s.keyEntries r.key then some (r.key, 64 * j + i % 64) else none))

/-- The entry of a resident table as a pinna's sorus holds it. -/
def State.sorusHeld (s : State) (p : Nat) (k : TableKey) (i : Nat) : Entry :=
  match k with
  | .native row => s.sorusEntry p (.native row) i
  | .user b d => s.sorusEntry p (.user b d) i
  | .gen3 t => (s.sorusCopy p k i).getD (s.romAt (0x3000 + 1024 * t + i))

/-- The entry that DL_DBG_ESEL selects, as stored; none for a sorus entry that no table holds. -/
def State.selected (s : State) : Option Entry :=
  let i := s.dbg.index.toNat
  match s.dbg.space.toNat with
  | 0 => some (if i < s.bankEntries then s.ramEntry false i else 0)
  | 1 => some (if i < s.bankEntries then s.ramEntry true i else 0)
  | 2 => some (if i < 0x6000 then s.romAt i else 0)
  | _ =>
    let p := s.dbg.pinna.toNat
    if p < s.pinnaCount ∧ i < 4096 then (s.sorusAt i).map (fun ke => s.sorusHeld p ke.1 ke.2) else some 0

/-- The DBG page, but for DL_DBG_EDATA (DEDUCED, log entry 68). -/
def State.dbgWord (s : State) (off : Nat) : Word :=
  let d := s.dbg
  if off = 0x040 then word [(b2n d.halt, 1), (b2n d.en, 0)]
  else if !d.en then 0
  else match off with
    | 0x044 => word [(b2n s.halted, 0)]
    | 0x048 => word [(d.space.toNat, 30), (d.pinna.toNat, 16), (d.index.toNat, 0)]
    | _ => 0

/-! ## Compute pages (chapter 15) -/

/-- A number in six bits of two's complement. -/
def six (x : Int) : Nat := (x % 64).toNat

/-- EVAL (Table 15.2). -/
def State.evalWord (s : State) (off : Nat) : Word :=
  if off = 0x040 then word [(s.chn.chnWeight.toNat, 4), (s.chn.laneWeight.toNat, 0)]
  else if 0x100 ≤ off ∧ off < 0x100 + 4 * s.pinnaCount then
    let n := (off - 0x100) / 4
    let p := s.chn.pinnae.getD n {}
    word [(six p.creditChn, 26), (six p.creditLane, 20), (p.grade.toNat, 18), (b2n p.lane, 17),
          (b2n (s.chn.flights.any (fun f => f.pinna == n)), 16)]
  else 0

/-- DL_TBL_SORUS: blocks that neither a table nor a fill under way has, and blocks of tables in use. -/
def State.sorusWord (s : State) : Word :=
  let fill := match s.tbl.filling with | some k => s.keyBlocks k | none => 0
  let used := (s.tbl.resident.filter (fun r => s.keyInUse r.key)).foldl (fun n r => n + r.blocks.length) 0
  word [(s.freeBlocks.length - fill, 16), (b2n s.tbl.filling.isSome, 15), (used, 0)]

/-- TBL (Table 15.3). -/
def State.tblWord (s : State) (off : Nat) : Word :=
  let t := s.tbl
  match off with
  | 0x040 => word [(b2n t.switchPending, 17), (b2n t.active, 16), (t.number.toNat, 0)]
  | 0x048 => t.loadSrc
  | 0x04C => t.loadFirst.setWidth 32
  | 0x050 => t.loadCount.setWidth 32
  | 0x054 => word [(b2n t.bank1.fault, 14), (b2n t.bank1.quarantine, 13), (b2n t.bank1.sealed, 12), (b2n t.bank0.fault, 10),
                   (b2n t.bank0.quarantine, 9), (b2n t.bank0.sealed, 8), (b2n t.romFault, 2),
                   (b2n (s.bankPinned s.shadowBank), 1), (b2n t.cmd.isSome, 0)]
  | 0x058 => t.errInfo
  | 0x05C => s.sorusWord
  | _ => 0

/-- The 64-bit word that DL_CRZ_SEL selects (R313). -/
def State.crzWord (s : State) : DWord :=
  ((s.tbl.bank s.tbl.crzSelBank).crozier s.tbl.crzSel.toNat).getD s.tbl.crzWord.toNat 0

/-- CRZ (Table 15.4), but for its pair. -/
def State.crzPage (s : State) (off : Nat) : Word :=
  let bank := fun (b : Bool) => let k := s.tbl.bank b; word [(k.crzSteps, 16), (k.crzCount, 0)]
  match off with
  | 0x040 => word [(b2n s.tbl.crzSelBank, 16), (s.tbl.crzSel.toNat, 8), (s.tbl.crzWord.toNat, 0)]
  | 0x050 => bank false
  | 0x054 => bank true
  | _ => 0

/-- A chain whose slot shows ADMITTED: admitted, and not refused by the admission itself (R155, R314). -/
def Chain.showsAdmitted (c : Chain) : Bool :=
  match c.st with
  | .armed => false
  | .admitted => true
  | .ending k => c.admitted && k != 0x07 && k != 0x10 && k != 0x11

/-- The registers of a slot (Table 15.5). What is valid only when ADMITTED reads zero before
(DEDUCED, log entry 68). -/
def Chain.slotWord (c : Chain) (k : Nat) : Word :=
  let a := c.showsAdmitted
  match k with
  | 0 => c.addr
  | 1 => word [(if a then 2 else 1, 30), (c.d.chain, 26), (c.d.grade, 24), (b2n (a && c.bank), 23),
               (b2n c.inPass2, 22), (c.d.tag.toNat, 0)]
  | 2 => if a then c.step else 0
  | _ => word [(c.folded, 16), ((c.arrivals.filter (fun r => !r.kind)).length, 0)]

/-- CHN (Table 15.5), but for DL_CHN_REFUSE. -/
def State.chnWord (s : State) (off : Nat) : Word :=
  if off = 0x048 then
    word [(b2n s.chn.qfull, 31), (s.chains.length, 16), (s.chn.queue.length, 8),
          ((s.chains.filter (·.showsAdmitted)).length, 0)]
  else if 0x100 ≤ off ∧ off < 0x500 then
    match s.chainIn ((off - 0x100) / 16) with
    | some c => c.slotWord (off % 16 / 4)
    | none => 0
  else 0

/-- ARV (Table 15.6), but for DL_ARV_DROP. -/
def State.arvWord (s : State) (off : Nat) : Word :=
  match off with
  | 0x040 => s.chn.ring.getD 0 0
  | 0x044 => s.chn.ring.getD 1 0
  | 0x048 => s.chn.ring.getD 2 0
  | 0x050 => word [(b2n s.chn.ringFull, 31)]
  | _ => 0

/-- CTX (Table 15.7), but for DL_CTX_QRESULT. -/
def State.ctxWord (s : State) (off : Nat) : Word :=
  let c := s.ctx
  match off with
  | 0x040 => c.base
  | 0x044 => c.limit.setWidth 32
  | 0x04C => c.drainCount.setWidth 32
  | 0x050 => word [(b2n c.cmdBusy, 31), (c.cmdErr.toNat, 24), (c.errIndex.toNat, 0)]
  | 0x054 => word [(c.lines.length, 24), (s.ctxOpen, 0)]
  | 0x058 => c.query.setWidth 32
  | _ => 0

/-- TREE (Table 15.8), but for its pairs. -/
def State.treeWord (s : State) (off : Nat) : Word :=
  let t := s.tree
  match off with
  | 0x040 => word [(b2n t.valid, 31), (t.nchipsM1.toNat, 10), (t.rank.toNat, 0)]
  | 0x044 => t.imask.setWidth 32
  | 0x054 => word [(b2n t.fwBusy, 31), (b2n t.fwDone, 30), (b2n t.fwMismatch, 29), (b2n t.schMismatch, 28),
                   (t.statId.toNat, 8)]
  | 0x068 => word [((t.held.filter (fun h => !h.down)).length, 0)]
  | _ => 0

/-- NUM (Table 15.9), but for its pair. -/
def State.numWord (s : State) (off : Nat) : Word :=
  let u := s.num
  match off with
  | 0x048 => u.widenSat
  | 0x04C => u.widenUfl
  | 0x050 => word [(b2n u.lastValid, 31), (b2n u.lastOvf, 30), (u.lastFmt.toNat, 16), (u.lastTid.toNat, 0)]
  | _ => 0

/-- TEN (Tables 15.10, 9.8). -/
def State.tenWord (s : State) (off : Nat) : Word :=
  let u := s.num
  match off with
  | 0x040 => u.base
  | 0x048 => u.cmdCount.setWidth 32
  | 0x04C => word [(b2n u.cmd.isSome, 31), (u.lines.length, 16), (u.cmdErr.toNat, 0)]
  | 0x050 => word [(u.kmask.toNat, 16), (u.dormN.toNat, 0)]
  | _ => 0

/-- LOG (Table 15.11). -/
def State.logWord (s : State) (off : Nat) : Word :=
  let l := s.log
  match off with
  | 0x040 => word [(b2n l.en, 0)]
  | 0x044 => l.base
  | 0x048 => l.size
  | 0x04C => l.wr
  | 0x050 => l.rd
  | 0x054 => l.lost
  | 0x058 => l.water.setWidth 32
  | _ => if 0x060 ≤ off ∧ off < 0x080 then l.mask.getD ((off - 0x060) / 4) 0 else 0

/-- A register of a parameter group, by its place in the group's 32 bytes (Tables 10.1, 10.2). -/
def SchGroup.reg (g : SchGroup) (k : Nat) : Word := g.regs.getD k 0

/-- SCH (Table 15.12), but for its pair. -/
def State.schWord (s : State) (off : Nat) : Word :=
  if off = 0x04C then s.sch.scope.setWidth 32
  else if off = 0x050 then s.sch.forceEta
  else if off = 0x054 then word [(b2n s.sch.unchecked, 1), (b2n s.sch.skew, 0)]
  else if 0x100 ≤ off ∧ off < 0x900 then (s.group ((off - 0x100) / 32)).reg ((off - 0x100) % 32 / 4)
  else if 0x900 ≤ off ∧ off < 0xA00 then (s.group ((off - 0x900) / 4)).eta
  else if 0xA00 ≤ off ∧ off < 0xB00 then (s.group ((off - 0xA00) / 4)).gstat
  else if 0xB00 ≤ off ∧ off < 0xC00 then (s.group ((off - 0xB00) / 4)).gstep
  else 0

/-- SEN (Table 15.13). -/
def State.senWord (s : State) (off : Nat) : Word :=
  let u := s.sen
  match off with
  | 0x040 => word [(u.rate.toNat, 8), (b2n u.quarEn, 1), (b2n u.en, 0)]
  | 0x044 => word [(b2n u.viol, 1), (b2n (!u.queue.isEmpty), 0)]
  | 0x048 => (u.info &&& 0x0FFFFFFF) ||| word [(b2n u.valid, 31), (b2n u.ovf, 30)]
  | 0x04C => u.vIn
  | 0x050 => u.vOut
  | 0x054 => u.vRef
  | _ => 0

/-- The current value of a register that is no half of a pair and no free value. -/
def State.regWord (s : State) (p : Page) (off : Nat) : Word :=
  if off < 0x040 then s.headerWord p off
  else match p with
    | .glb => s.glbWord off | .pwr => s.pwrWord off | .life => s.lifeWord off | .cal => s.calWord off
    | .port => s.portWord off | .eval => s.evalWord off | .tbl => s.tblWord off | .crz => s.crzPage off
    | .chn => s.chnWord off | .arv => s.arvWord off | .ctx => s.ctxWord off | .tree => s.treeWord off
    | .num => s.numWord off | .ten => s.tenWord off | .log => s.logWord off | .sch => s.schWord off
    | .sen => s.senWord off | .img => s.imgWord off | .cnt => s.cntWord off | .dbg => s.dbgWord off

/-! ## Reads that clear (RC, Table 0.4) -/

/-- What a read of a register clears. -/
def State.clearRead (s : State) (p : Page) (off : Nat) : State :=
  if off = 0x018 then s.setHdr p { s.hdr p with err := {} }
  else match p, off with
    | .pwr, 0x058 => { s with pwr := { s.pwr with dacc := 0 } }
    | .port, 0x058 => { s with port := { s.port with restBad := 0 } }
    | .port, 0x05C => { s with port := { s.port with spadErr := none } }
    | .img, 0x080 => { s with img := { s.img with fragStale := 0 } }
    | .img, 0x084 => { s with img := { s.img with fragBad := 0 } }
    | .img, 0x088 => { s with img := { s.img with fragDup := 0 } }
    | .num, 0x050 => { s with num := { s.num with lastValid := false, lastOvf := false, lastFmt := 0, lastTid := 0 } }
    | .log, 0x054 => { s with log := { s.log with lost := 0 } }
    | .sen, 0x048 => { s with sen := { s.sen with valid := false, ovf := false, info := 0 } }
    | _, _ => s

/-! ## Pairs -/

/-- The pair that a register is a half of; true for the upper half. -/
def pairAt (p : Page) (off : Nat) : Option (PairId × Bool) :=
  match p, off with
  | .life, 0x048 => some (.lifeAnchor, false) | .life, 0x04C => some (.lifeAnchor, true)
  | .life, 0x050 => some (.lifeCal, false) | .life, 0x054 => some (.lifeCal, true)
  | .cnt, 0x054 => some (.cntShadow, false) | .cnt, 0x058 => some (.cntShadow, true)
  | .cnt, 0x05C => some (.cntLive, false) | .cnt, 0x060 => some (.cntLive, true)
  | .crz, 0x044 => some (.crzWord, false) | .crz, 0x048 => some (.crzWord, true)
  | .chn, 0x04C => some (.chnRefuse, false) | .chn, 0x050 => some (.chnRefuse, true)
  | .arv, 0x054 => some (.arvDrop, false) | .arv, 0x058 => some (.arvDrop, true)
  | .tree, 0x048 => some (.treeChkVal, false) | .tree, 0x04C => some (.treeChkVal, true)
  | .tree, 0x058 => some (.treeMin, false) | .tree, 0x05C => some (.treeMin, true)
  | .tree, 0x060 => some (.treeMax, false) | .tree, 0x064 => some (.treeMax, true)
  | .num, 0x040 => some (.numSeed, false) | .num, 0x044 => some (.numSeed, true)
  | .sch, 0x040 => some (.schGen, false) | .sch, 0x044 => some (.schGen, true)
  | _, _ => none

/-- The whole of a capture pair: CODE or REASON stands `lo` bits up in the upper half, TAG or ORDINAL in its low bits. -/
def Capture.dword (c : Capture) : DWord :=
  join64 (word [(b2n c.valid, 31), (b2n c.ovf, 30), (c.code.toNat, 16), (c.tag.toNat, 0)]) c.lo

/-- The current value of a pair. -/
def State.pairValue (s : State) (p : PairId) : DWord :=
  match p with
  | .lifeAnchor => s.life.anchor
  | .lifeCal => s.life.calendar
  | .cntShadow => BitVec.ofNat 64 (s.shadowCount s.cnt.index.toNat)
  | .cntLive => BitVec.ofNat 64 (s.liveCount s.cnt.index.toNat)
  | .crzWord => s.crzWord
  | .chnRefuse => s.chn.refuse.dword
  | .arvDrop => s.chn.drop.dword
  | .treeChkVal => s.tree.chkVal
  | .treeMin => s.tree.statMin
  | .treeMax => s.tree.statMax
  | .numSeed => s.num.seed
  | .schGen => s.sch.gen

/-- What a read of a pair clears: the captures of DL_CHN_REFUSE and DL_ARV_DROP (Tables 15.5, 15.6). -/
def State.clearPair (s : State) (p : PairId) : State :=
  match p with
  | .chnRefuse => { s with chn := { s.chn with refuse := {} } }
  | .arvDrop => { s with chn := { s.chn with drop := {} } }
  | _ => s

/-- A read of a half of a pair (R14): the lower half captures the whole, and clears it where it is RC; the upper half
without a capture returns the current upper half, and clears likewise. Which read of a pair clears it the manual does not
say (DESIGN CHOICE, log entry 95). -/
def State.readPair (s : State) (rq : Requester) (p : PairId) (hi : Bool) : State × Word :=
  let v := s.pairValue p
  if hi then
    let r := s.pairHi rq p v
    (if (lookupKey (rq, p) s.pairs.captured).isSome then r.1 else r.1.clearPair p, r.2)
  else
    let r := s.pairLo rq p v
    (r.1.clearPair p, r.2)

/-! ## A read -/

/-- The value a read of a register returns, with what it clears. -/
def State.readReg (s : State) (rq : Requester) (p : Page) (off : Nat) : State × Word :=
  if !s.pagePresent p then (s, 0)
  else match pairAt p off with
    | some (pid, hi) => s.readPair rq pid hi
    | none =>
      if p = .dbg ∧ s.dbg.en = true ∧ (off = 0x04C ∨ off = 0x050 ∨ off = 0x054) then
        match s.selected with
        | some e => (s, e.extractLsb' (8 * (off - 0x04C)) 32)
        | none =>
          let r := s.choose
          (r.2, (Config.freeSorus r.1 s.dbg.pinna.toNat s.dbg.index.toNat).extractLsb' (8 * (off - 0x04C)) 32)
      else if p = .img ∧ off = 0x058 ∧ s.img.retained.isEmpty = true ∧ s.img.everRetained = true then
        let r := s.choose
        (r.2, Config.freeWord r.1)
      else if p = .ctx ∧ off = 0x05C then (s, s.queryWord s.ctx.query.toNat)
      else (s.clearRead p off, s.regWord p off)

/-- A read that is not answered at once: of DL_CNT_SHADOW_LO while its counter is not copied (R305), and of
DL_CTX_QRESULT for a DRAINED context whose tile is not resident (R316). -/
def State.readWaits (s : State) (p : Page) (off : Nat) : Bool :=
  match p, off with
  | .cnt, 0x054 => !s.shadowReady s.cnt.index.toNat
  | .ctx, 0x05C =>
    let i := s.ctx.query.toNat
    decide (i < s.ctx.limit.toNat) && s.ctxDrained i && !s.ctxResident (i / 128)
  | _, _ => false

/-- A register read (R8 to R11, R261, R268, R299): refused, returned as zero with the fault recorded, left to wait, or
performed and answered. -/
def State.busRead (s : State) (a : Access) : State :=
  if s.refuses a.rq a.page then s.refuseRead a
  else match pageOf a.page with
    | none => s.answerRead a 0
    | some p =>
      if a.off % 4 ≠ 0 ∨ a.bytes ≠ 4 then
        (if s.pagePresent p then s.recordFault p .width a.rq a.waddr else s).answerRead a 0
      else if s.pagePresent p && s.readWaits p a.off then
        if p = .cnt then s.waitRead a true s.cnt.index.toNat
        else
          let s1 := s.waitRead a false s.ctx.query.toNat
          if s1.takes then s1.startQueries else s1
      else
        let r := s.readReg a.rq p a.off
        r.1.answerRead a r.2

end Sys2Proof.Machine
end

