-- ==== Sys2Proof/Machine/Reset.lean ====
section
/-! DEFINITION. Block resets (R300), the calibration load (R335) and the strap (R183). -/
namespace Sys2Proof.Machine

/-- The RAM entry that a load abandoned by a reset was writing (R94) (DEDUCED, log entry 65). -/
def TblUnit.tornEntry (t : TblUnit) : Option Nat :=
  match t.cmd with
  | some c => if c.op = 1 && !c.finished && decide (c.done < c.count) then some (c.first + c.done) else none
  | none => none

/-- A bank in the state of R93 with the RAM entries of another. -/
def Bank.keepRam (k : Bank) (sealed : Bool) : Bank := { sealed := sealed, ram := k.ram }

/-- The table store after a reset (R93, R94): a torn entry is undefined (DEDUCED, log entry 65). -/
def State.tblReset (s : State) : TblUnit :=
  let shadow := s.shadowBank
  let torn := fun (b : Bool) (k : Bank) => match s.tbl.tornEntry with
    | some i => if b == shadow then { k with ram := Store.erase k.ram i } else k
    | none => k
  { bank0 := (torn false s.tbl.bank0).keepRam true, bank1 := (torn true s.tbl.bank1).keepRam false,
    romDefects := s.tbl.romDefects }

/-- The page headers after a reset: those of the LIFE page keep their values, and every LOCK clears (R300). -/
def State.hdrsReset (s : State) : List PageHdr :=
  (List.replicate 20 ({} : PageHdr)).set Page.life.bit { s.hdr .life with lock := false }

/-- The registers and units at their reset values, but for what R300 keeps (DESIGN CHOICE, log entry 64). -/
def State.resetUnits (s : State) (cause : BitVec 2) : State :=
  { s with
    gen3 := s.strap, step := 0xFFFFFFFF, stepSeen := false, inReset := true, resetCause := cause, fc := 0,
    hdrs := s.hdrsReset, pairs := {}
    pwr := { ({} : PwrUnit) with st := s.pwr.st, vddOk := s.pwr.vddOk }, env := {}
    life := { s.life with busy := none, args := [] }
    port := { ({} : PortUnit) with inited := false, behind := s.port.behind }
    tbl := s.tblReset, sen := {}, chn := {}, ctx := {}, tree := {}, num := {}, log := {}, sch := {}, img := {}, cnt := {}
    dbg := {}
    p0 := { nextId := s.p0.nextId } }

/-- A block reset starts (R300): reads that wait are refused, with no wake (Table 14.14) (DEDUCED, log entry 63). -/
def State.startReset (s : State) (cause : BitVec 2) : State :=
  s.port.waits.foldl (fun (s : State) w => s.refuseRead w.access) (s.resetUnits cause)

/-- Power-on of the always-on domain: the RAM is undefined, the lifetime counts and the calendar are zero, and the
calibration set is not loaded. -/
def State.powerOn (s : State) : State :=
  let s1 : State := { s with
    powerOns := s.powerOns + 1, life := {}, cal := { s.cal with loaded := false }, hdrs := List.replicate 20 {}
    tbl := { s.tbl with bank0 := { s.tbl.bank0 with ram := [] }, bank1 := { s.tbl.bank1 with ram := [] }, cmd := none }
    port := { s.port with waits := [], behind := [] } }
  let s2 := s1.startReset 0
  { s2 with pwr := { s2.pwr with st := .dormant } }

/-- BLOCK_RESET_END (R300) (DEDUCED, log entry 63). -/
def State.endReset (s : State) : State :=
  if s.inReset then
    let s1 : State := { s with inReset := false, fc := 0, pwr := { s.pwr with entering := .none } }
    if s1.resetCause ≠ 0 && s1.pwr.vddOk then (s1.setPwr .ready).creditInit
    else (s1.setPwr .dormant).startHeldWake
  else s

/-- CALIBRATION_LOAD (R335, R343); the sentinel thresholds are zero on Derlith-4M. -/
def State.loadCal (s : State) (trim : BitVec 9) (guard : List (BitVec 10)) (coef thr : List (BitVec 16)) : State :=
  ({ s with cal := { loaded := true, rcTrim := trim, guard := guard, coef := coef,
                     thr := if s.isD4 then thr else List.replicate 4 0 } } : State).startHeldWake

/-- The live level of GWD_COMPAT3 (R183). -/
def State.strapLevel (s : State) (level : Bool) : State := { s with strap := level }

end Sys2Proof.Machine
end

