-- ==== Sys2Proof/Machine/RegWrite.lean ====
section
/-! DEFINITION. What a write of each register of the window does (chapters 14 and 15): access codes (Table 0.4), PG_SEQ
(R297), and the writes that the manual refuses, with their CAUSE (Table 14.3). -/
namespace Sys2Proof.Machine

/-! ## Access codes -/

/-- Performs a write of RW fields, and counts it in PG_SEQ where the register's value changed (R297). -/
def State.rw (s : State) (p : Page) (off : Nat) (t : State) : State :=
  if t.regWord p off = s.regWord p off then t else t.bumpSeq p

/-- A write of the upper half of a pair (R14): `f` sets the quantity (DEDUCED, log entry 72). -/
def State.rwPair (s : State) (rq : Requester) (p : Page) (pid : PairId) (v : Word) (f : State → DWord → State) : State :=
  let old := s.pairValue pid
  let r := s.joinHi rq pid old v
  let t := f r.1 r.2
  if r.2 = old then t else t.bumpSeq p

/-- A header write: LOCK, W1C bits of PG_EVENT, PG_EVENT_EN; the rest is read-only (Table 14.2). -/
def State.writeHeader (s : State) (p : Page) (off : Nat) (v : Word) : State :=
  let h := s.hdr p
  match off with
  | 0x008 => s.setHdr p { h with lock := h.lock || bitOf v 31 }
  | 0x010 => s.setHdr p { h with event := h.event &&& ~~~v }
  | 0x014 => s.setHdr p { h with eventEn := v }
  | _ => s

/-! ## Commands (R277) -/

/-- A write of DL_CNT_FREEZE (R305): AT_STEP (1) and NEXT (2) arm, but not while COPYING; DISARM (3)
(DEDUCED, log entry 70). -/
def State.freeze (s : State) (rq : Requester) (op : Nat) : State :=
  let arm := fun (atStep : Option Word) =>
    match s.cnt.st with
    | .copying => s.regFault .cnt .state rq 0x040
    | .frozen => { s with cnt := { s.cnt with st := .armed atStep true } }
    | .armed _ f => { s with cnt := { s.cnt with st := .armed atStep f } }
    | .idle => { s with cnt := { s.cnt with st := .armed atStep false } }
  match op with
  | 1 => arm (some s.cnt.arg)
  | 2 => arm none
  | 3 => (match s.cnt.st with
    | .armed _ _ => { s with cnt := { s.cnt with st := .idle } }
    | _ => s)
  | _ => s.regFault .cnt .command rq 0x040

/-- A write of DL_SCH_CMD (R221). -/
def State.schWrite (s : State) (rq : Requester) (v : Word) : State :=
  let op := bitsOf v 31 28
  if op = 1 ∨ op = 2 then
    let r := s.schCommand (op == 2) (bitOf v 6) (bitsOf v 5 0)
    if r.2 then r.1 else r.1.regFault .sch .state rq 0x048
  else s.regFault .sch .command rq 0x048

/-- A write of DL_TREE_CHK_CMD (R182, R317). -/
def State.checkWrite (s : State) (rq : Requester) (v : Word) : State :=
  match s.checkRefusal v with
  | some c => s.regFault .tree c rq 0x050
  | none =>
    (({ s with tree := { s.tree with fwBusy := true } } : State).startCheck (bitsOf v 7 0) (bitsOf v 9 8) s.tree.chkVal).1

/-- A write of DL_CHN_SUBMIT: outside NORMAL it is ignored (R241). -/
def State.submitWrite (s : State) (rq : Requester) (v : Word) : State :=
  if s.img.st = .normal then s.submit rq v else s.regFault .chn .state rq 0x040

/-- A write of DL_TBL_CMD (Table 5.5). -/
def State.tblWrite (s : State) (rq : Requester) (v : Word) : State :=
  let op := bitsOf v 31 28
  if 1 ≤ op ∧ op ≤ 6 then s.tblCommand op else s.regFault .tbl .command rq 0x044

/-- The command registers of R277. -/
def isCommand (p : Page) (off : Nat) (v : Word) : Bool :=
  match p, off with
  | .tbl, 0x044 => true
  | .tbl, 0x040 => bitOf v 31
  | .ctx, 0x048 => true
  | .ten, 0x044 => true
  | .img, 0x040 => true
  | .chn, 0x040 => true
  | .chn, 0x044 => true
  | .arv, 0x04C => true
  | .cnt, 0x040 => true
  | .sch, 0x048 => true
  | .tree, 0x050 => true
  | _, _ => false

/-- Records the fault of a command that its unit refuses by a code of its own (R295). -/
def State.noteCommand (s : State) (rq : Requester) (p : Page) (off : Nat) (c : Option Cause) : State :=
  match c with
  | some c => s.regFault p c rq off
  | none => s

/-- The fault of an image command: reserved, or not allowed in the state (Table 14.3, Table 11.10). -/
def State.imgCause (s : State) (op : Nat) : Option Cause :=
  if op = 0 || decide (op ≥ 8) then some .command
  else if s.img.cmd.isNone && !imgAllowed s.img.st op then some .state
  else none

/-- The fault of a command whose operation is reserved (Table 14.3). -/
def reservedCause (reserved : Bool) : Option Cause := if reserved then some .command else none

/-- Performs a write of a command register (DEDUCED, log entry 60). -/
def State.command (s : State) (rq : Requester) (p : Page) (off : Nat) (v : Word) : State :=
  match p, off with
  | .tbl, 0x044 => s.tblWrite rq v
  | .tbl, 0x040 => s.switchWrite
  | .ctx, 0x048 => (s.noteCommand rq p off (reservedCause (bitsOf v 31 30 = 3))).ctxCommand v
  | .ten, 0x044 => (s.noteCommand rq p off (reservedCause (bitsOf v 31 28 = 0 || decide (bitsOf v 31 28 ≥ 5)))).tenCommand rq v
  | .img, 0x040 => (s.noteCommand rq p off (s.imgCause (bitsOf v 31 28))).imgCommand (bitsOf v 31 28)
  | .chn, 0x040 => s.submitWrite rq v
  | .chn, 0x044 => s.cancel rq v
  | .arv, 0x04C => s.ring rq v
  | .cnt, 0x040 => s.freeze rq (bitsOf v 31 28)
  | .sch, 0x048 => s.schWrite rq v
  | .tree, 0x050 => s.checkWrite rq v
  | _, _ => s

/-- The argument registers as they stand. -/
def State.cmdArgs (s : State) : CmdArgs :=
  { loadSrc := s.tbl.loadSrc, loadFirst := s.tbl.loadFirst, loadCount := s.tbl.loadCount, drainCount := s.ctx.drainCount,
    tenCount := s.num.cmdCount, imgStep := s.img.argStep, imgGen := s.img.argGen, imgAddr := s.img.addr,
    imgSize := s.img.size, imgFrag := s.img.frag, ring := s.chn.ring, cntArg := s.cnt.arg, forceEta := s.sch.forceEta,
    chkVal := s.tree.chkVal }

/-- The state with other argument registers. -/
def State.withArgs (s : State) (a : CmdArgs) : State :=
  { s with
    tbl := { s.tbl with loadSrc := a.loadSrc, loadFirst := a.loadFirst, loadCount := a.loadCount }
    ctx := { s.ctx with drainCount := a.drainCount }
    num := { s.num with cmdCount := a.tenCount }
    img := { s.img with argStep := a.imgStep, argGen := a.imgGen, addr := a.imgAddr, size := a.imgSize, frag := a.imgFrag }
    chn := { s.chn with ring := a.ring }
    cnt := { s.cnt with arg := a.cntArg }
    sch := { s.sch with forceEta := a.forceEta }
    tree := { s.tree with chkVal := a.chkVal } }

/-- A write of a command register: performed, held for READY in RESTING with its arguments, refused once a recall has begun
(R276, R277, R309). A switch is pending from its write on (R312). -/
def State.commandWrite (s : State) (rq : Requester) (p : Page) (off : Nat) (v : Word) : State :=
  if s.recallBegun then s.regFault p .state rq off
  else if s.pwr.st = .resting then
    if p = .tbl ∧ off = 0x040 then s.switchWrite.wake true
    else
      let c : HeldCmd := { rq := rq, page := p, off := off, v := v, args := s.cmdArgs }
      ({ s with pwr := { s.pwr with held := s.pwr.held ++ [c] } } : State).wake true
  else (s.command rq p off v).settle

/-- Runs a command that was held, on the arguments of its write (R309). -/
def State.runHeld (s : State) (c : HeldCmd) : State :=
  (((s.withArgs c.args).command c.rq c.page c.off c.v).settle).withArgs s.cmdArgs

/-- RESTING_TO_READY: the block is READY and runs the commands that were held (R277). -/
def State.nowReady (s : State) : State :=
  if (s.pwr.st = .resting ∨ s.pwr.st = .waking) ∧ s.pwr.rising = true ∧ s.inReset = false then
    let s1 : State := { s with pwr := { s.pwr with held := [] } }
    s.pwr.held.foldl (fun (s : State) c => s.runHeld c) s1.becomeReady
  else s

/-! ## Always-on pages -/

/-- GLB (Table 14.5). -/
def State.writeGlb (s : State) (rq : Requester) (off : Nat) (v : Word) : State :=
  if off = 0x054 then (if v = 0xA5 then s.startReset 2 else s.regFault .glb .value rq 0x054) else s

/-- PWR (Tables 13.4, 13.8, 14.7). -/
def State.writePwr (s : State) (rq : Requester) (off : Nat) (v : Word) : State :=
  match off with
  | 0x044 =>
    let t := v.extractLsb' 0 2
    let s1 := s.pwrRequest t
    if t = s.pwr.target then s1 else s1.bumpSeq .pwr
  | 0x048 => s.rw .pwr off { s with pwr := { s.pwr with
      idleRest := v.extractLsb' 16 16, ballastHold := v.extractLsb' 8 8, autowake := bitOf v 0 } }
  | 0x04C => s.rw .pwr off { s with pwr := { s.pwr with
      icap := v.extractLsb' 16 10, deadband := v.extractLsb' 12 4, rate := v.extractLsb' 0 8 } }
  | 0x050 =>
    let f := bitsOf v 11 0
    if 1200 ≤ f ∧ f ≤ 2600 then s.rw .pwr off { s with pwr := { s.pwr with fclk := BitVec.ofNat 12 f } }
    else s.regFault .pwr .value rq off
  | _ => s

/-- LIFE (Table 14.8). -/
def State.writeLife (s : State) (rq : Requester) (off : Nat) (v : Word) : State :=
  if off = 0x040 then
    let op := bitsOf v 31 28
    if op = 1 ∨ op = 2 then s.lifeCommand rq op else s.regFault .life .command rq 0x040
  else if off = 0x048 then s.holdLo rq .lifeAnchor v
  else if off = 0x04C then s.rwPair rq .life .lifeAnchor v State.setAnchor
  else if 0x200 ≤ off ∧ off < 0x300 then
    s.rw .life off { s with life := { s.life with inp := s.life.inp.set ((off - 0x200) / 4) v } }
  else s

/-- The calibration set with one register replaced; none where the offset names no register. -/
def CalUnit.put (c : CalUnit) (off : Nat) (v : Word) : Option CalUnit :=
  if off = 0x040 then some { c with rcTrim := v.extractLsb' 0 9 }
  else if 0x050 ≤ off ∧ off < 0x060 then some { c with guard := c.guard.set ((off - 0x050) / 4) (v.extractLsb' 0 10) }
  else if 0x080 ≤ off ∧ off < 0x0C0 then some { c with coef := c.coef.set ((off - 0x080) / 4) (v.extractLsb' 0 16) }
  else if 0x0C0 ≤ off ∧ off < 0x0D0 then some { c with thr := c.thr.set ((off - 0x0C0) / 4) (v.extractLsb' 0 16) }
  else none

/-- The four guard thresholds fall strictly (R302). -/
def CalUnit.guardsFall (c : CalUnit) : Bool :=
  (List.range 3).all (fun k => decide ((c.guard.getD (k + 1) 0).toNat < (c.guard.getD k 0).toNat))

/-- CAL (R292, R302, R335): a performed write also replaces the value in the host chip's calibration store. -/
def State.writeCal (s : State) (rq : Requester) (off : Nat) (v : Word) : State :=
  match s.cal.put off v with
  | none => s
  | some c =>
    if !s.cal.loaded then s.regFault .cal .state rq off
    else if 0x0C0 ≤ off ∧ s.isD4 = false then s
    else if (s.hdr .cal).lock then s.regFault .cal .locked rq off
    else if !c.guardsFall && decide (off < 0x060) && decide (0x050 ≤ off) then s.regFault .cal .value rq off
    else
      let t := s.rw .cal off { s with cal := c }
      t.send (.calStore (BitVec.ofNat 12 off) (t.regWord .cal off))

/-! ## Housekeeping pages -/

/-- PORT (Table 14.10, R260). -/
def State.writePort (s : State) (off : Nat) (v : Word) : State :=
  if off = 0x040 then
    s.rw .port off { s with port := { s.port with laneWt := v, laneCredit := List.replicate 8 0 } }
  else s

/-- A write to DL_IMG_LOG_BASE or DL_IMG_LOG_SIZE (R229, R304): it releases every retained step
(DEDUCED, log entry 54). -/
def State.writeImgLog (s : State) (rq : Requester) (size : Bool) (v : Word) : State :=
  let off := if size then 0x060 else 0x05C
  if !s.quiet || s.img.cmd.isSome then s.regFault .img .state rq off
  else if v.toNat % 4096 ≠ 0 then s.regFault .img .value rq off
  else
    let s1 := (s.img.retained.map (·.step)).foldl (fun (s : State) w =>
      if stepAbove w s.img.checked then s.releaseStep w else s.freeStep w) s
    let s2 : State := { s1 with img := { s1.img with log := [], logHead := 0 } }
    s.rw .img off (if size then { s2 with img := { s2.img with logSize := v } }
                   else { s2 with img := { s2.img with logBase := v } })

/-- A write to DL_IMG_STAGE or DL_IMG_STAGE_SIZE (R304) (DEDUCED, log entry 54). -/
def State.writeStage (s : State) (rq : Requester) (size : Bool) (v : Word) : State :=
  let off := if size then 0x078 else 0x074
  if s.img.st ≠ .normal ∧ s.img.st ≠ .awaiting then s.regFault .img .state rq off
  else if size then s.rw .img off { s with img := { s.img with stageSize := v } }
  else if v.toNat % 64 ≠ 0 then s.regFault .img .value rq off
  else s.rw .img off { s with img := { s.img with stage := v } }

/-- IMG (Table 14.11), but for its command register. -/
def State.writeImg (s : State) (rq : Requester) (off : Nat) (v : Word) : State :=
  match off with
  | 0x044 => { s with img := { s.img with logOvf := s.img.logOvf && !bitOf v 11 } }
  | 0x048 => s.rw .img off { s with img := { s.img with argStep := v } }
  | 0x04C => s.rw .img off { s with img := { s.img with argGen := v.extractLsb' 0 16 } }
  | 0x05C => s.writeImgLog rq false v
  | 0x060 => s.writeImgLog rq true v
  | 0x064 => s.rw .img off { s with img := { s.img with addr := v } }
  | 0x068 => s.rw .img off { s with img := { s.img with size := v } }
  | 0x06C => s.rw .img off { s with img := { s.img with frag := v } }
  | 0x074 => s.writeStage rq false v
  | 0x078 => s.writeStage rq true v
  | _ => s

/-- CNT (Table 14.12), but for its command register. -/
def State.writeCnt (s : State) (off : Nat) (v : Word) : State :=
  match off with
  | 0x044 => s.rw .cnt off { s with cnt := { s.cnt with arg := v } }
  | 0x050 => s.rw .cnt off { s with cnt := { s.cnt with index := v.extractLsb' 0 10 } }
  | _ => s

/-- FLIP: inverts bit `b` of the selected RAM or sorus entry, its check byte as it stands (R306). -/
def State.flipBit (s : State) (rq : Requester) (b : Nat) : State :=
  let i := s.dbg.index.toNat
  let m : Entry := BitVec.ofNat 96 (2 ^ b)
  let ram := fun (bank : Bool) =>
    if i < s.bankEntries ∧ b < 96 then s.writeRam bank i (s.ramEntry bank i ^^^ m) else s
  match s.dbg.space.toNat with
  | 0 => ram false
  | 1 => ram true
  | 2 => s.regFault .dbg .value rq 0x058
  | _ =>
    let p := s.dbg.pinna.toNat
    if p < s.pinnaCount ∧ i < 4096 ∧ b < 96 then
      match s.sorusAt i with
      | some (k, e) => s.setCopy k p e (some (s.sorusHeld p k e ^^^ m))
      | none => s
    else s

/-- DL_DBG_INJECT (Table 14.13) (DEDUCED, log entry 69). -/
def State.inject (s : State) (rq : Requester) (v : Word) : State :=
  if !s.dbg.en then s
  else if bitsOf v 31 28 = 1 then s.flipBit rq (bitsOf v 6 0)
  else s.regFault .dbg .command rq 0x058

/-- DBG (Table 14.13, R306): EN is RWL; with EN at 0 only DL_DBG_CTRL takes writes (DEDUCED, log entry 69). -/
def State.writeDbg (s : State) (rq : Requester) (off : Nat) (v : Word) : State :=
  match off with
  | 0x040 =>
    let t := s.rw .dbg off { s with dbg := { s.dbg with
      halt := bitOf v 1, en := if (s.hdr .dbg).lock then s.dbg.en else bitOf v 0 } }
    if (s.hdr .dbg).lock then t.regFault .dbg .locked rq off else t
  | 0x048 =>
    if s.dbg.en then
      s.rw .dbg off { s with dbg := { s.dbg with
        space := v.extractLsb' 30 2, pinna := v.extractLsb' 16 6, index := v.extractLsb' 0 16 } }
    else s
  | 0x058 => s.inject rq v
  | _ => s

/-! ## Compute pages -/

/-- EVAL (Table 15.2, R69): both credits of every pinna become zero. -/
def State.writeEval (s : State) (off : Nat) (v : Word) : State :=
  if off = 0x040 then
    s.rw .eval off { s with chn := { s.chn with
      chnWeight := v.extractLsb' 4 4, laneWeight := v.extractLsb' 0 4,
      pinnae := s.chn.pinnae.map (fun p => { p with creditChn := 0, creditLane := 0 }) } }
  else s

/-- TBL (Table 15.3), but for its command registers. -/
def State.writeTbl (s : State) (off : Nat) (v : Word) : State :=
  match off with
  | 0x048 => s.rw .tbl off { s with tbl := { s.tbl with loadSrc := v } }
  | 0x04C => s.rw .tbl off { s with tbl := { s.tbl with loadFirst := v.extractLsb' 0 16 } }
  | 0x050 => s.rw .tbl off { s with tbl := { s.tbl with loadCount := v.extractLsb' 0 16 } }
  | _ => s

/-- CRZ (Table 15.4). -/
def State.writeCrz (s : State) (off : Nat) (v : Word) : State :=
  if off = 0x040 then
    s.rw .crz off { s with tbl := { s.tbl with
      crzSelBank := bitOf v 16, crzSel := v.extractLsb' 8 8, crzWord := v.extractLsb' 0 5 } }
  else s

/-- CHN (Table 15.5), but for its command registers. -/
def State.writeChn (s : State) (off : Nat) (v : Word) : State :=
  if off = 0x048 then { s with chn := { s.chn with qfull := s.chn.qfull && !bitOf v 31 } } else s

/-- ARV (Table 15.6), but for the word that rings. -/
def State.writeArv (s : State) (off : Nat) (v : Word) : State :=
  if off = 0x040 ∨ off = 0x044 ∨ off = 0x048 then
    s.rw .arv off { s with chn := { s.chn with ring := s.chn.ring.set ((off - 0x040) / 4) v } }
  else if off = 0x050 then { s with chn := { s.chn with ringFull := s.chn.ringFull && !bitOf v 31 } }
  else s

/-- A write to DL_CTX_BASE or DL_CTX_LIMIT (R116) (DEDUCED, log entry 36). -/
def State.writeCtxRegion (s : State) (rq : Requester) (limit : Bool) (v : Word) : State :=
  let off := if limit then 0x044 else 0x040
  let n := bitsOf v 20 0
  if (if limit then n % 128 ≠ 0 ∨ n > s.maxContexts else v.toNat % 2048 ≠ 0) then s.regFault .ctx .value rq off
  else if s.ctxOpen ≠ 0 ∨ s.ctx.lines ≠ [] then s.regFault .ctx .state rq off
  else s.rw .ctx off (if limit then { s with ctx := { s.ctx with limit := BitVec.ofNat 21 n } }
                      else { s with ctx := { s.ctx with base := v } })

/-- CTX (Table 15.7), but for its command register. -/
def State.writeCtx (s : State) (rq : Requester) (off : Nat) (v : Word) : State :=
  match off with
  | 0x040 => s.writeCtxRegion rq false v
  | 0x044 => s.writeCtxRegion rq true v
  | 0x04C => s.rw .ctx off { s with ctx := { s.ctx with drainCount := v.extractLsb' 0 21 } }
  | 0x058 => s.rw .ctx off { s with ctx := { s.ctx with query := v.extractLsb' 0 20 } }
  | _ => s

/-- A write to DL_TREE_CFG or DL_TREE_IMASK (R175). -/
def State.writeTreeCfg (s : State) (rq : Requester) (imask : Bool) (v : Word) : State :=
  let off := if imask then 0x044 else 0x040
  if s.chains.any (fun c => c.d.treeScoped) then s.regFault .tree .state rq off
  else s.rw .tree off (if imask then
      { s with tree := { s.tree with imask := if s.isD4 then v.extractLsb' 0 16 else (v.extractLsb' 0 8).setWidth 16 } }
    else { s with tree := { s.tree with valid := bitOf v 31, nchipsM1 := v.extractLsb' 10 10, rank := v.extractLsb' 0 10 } })

/-- TREE (Table 15.8), but for its command register. -/
def State.writeTree (s : State) (rq : Requester) (off : Nat) (v : Word) : State :=
  match off with
  | 0x040 => s.writeTreeCfg rq false v
  | 0x044 => s.writeTreeCfg rq true v
  | 0x048 => s.holdLo rq .treeChkVal v
  | 0x04C => s.rwPair rq .tree .treeChkVal v (fun s d => { s with tree := { s.tree with chkVal := d } })
  | 0x054 => { s with tree := { s.tree with
      fwDone := s.tree.fwDone && !bitOf v 30, fwMismatch := s.tree.fwMismatch && !bitOf v 29,
      schMismatch := s.tree.schMismatch && !bitOf v 28 } }
  | _ => s

/-- NUM (Table 15.9, R318). -/
def State.writeNum (s : State) (rq : Requester) (off : Nat) (v : Word) : State :=
  match off with
  | 0x040 => s.holdLo rq .numSeed v
  | 0x044 => s.rwPair rq .num .numSeed v (fun s d => { s with num := { s.num with seed := d } })
  | 0x048 => s.rw .num off { s with num := { s.num with widenSat := v &&& 0x01FFFFFF } }
  | 0x04C => s.rw .num off { s with num := { s.num with widenUfl := v &&& 0x01FFFFFF } }
  | _ => s

/-- A write to DL_TEN_BASE (R195). -/
def State.writeTenBase (s : State) (rq : Requester) (v : Word) : State :=
  if v.toNat % 4096 ≠ 0 then s.regFault .ten .value rq 0x040
  else if s.num.lines ≠ [] ∨ s.anyChain then s.regFault .ten .state rq 0x040
  else s.rw .ten 0x040 { s with num := { s.num with base := v } }

/-- TEN (Table 15.10), but for its command register. -/
def State.writeTen (s : State) (rq : Requester) (off : Nat) (v : Word) : State :=
  match off with
  | 0x040 => s.writeTenBase rq v
  | 0x048 => s.rw .ten off { s with num := { s.num with cmdCount := v.extractLsb' 0 17 } }
  | 0x050 => s.rw .ten off { s with num := { s.num with kmask := v.extractLsb' 16 5, dormN := v.extractLsb' 0 16 } }
  | _ => s

/-- A write to DL_LOG_CTRL (R320, R323): EN from 0 to 1 empties the ring. -/
def State.writeLogCtrl (s : State) (v : Word) : State :=
  let en := bitOf v 0
  let t : State := { s with log := { s.log with en := en, rd := if en && !s.log.en then s.log.wr else s.log.rd } }
  (s.rw .log 0x040 t).pumpLog

/-- A write to DL_LOG_BASE or DL_LOG_SIZE (R320) (DEDUCED, log entry 54). -/
def State.writeLogRing (s : State) (rq : Requester) (size : Bool) (v : Word) : State :=
  let off := if size then 0x048 else 0x044
  if s.log.en then s.regFault .log .state rq off
  else if v.toNat % 4096 ≠ 0 ∨ (size = true ∧ v.toNat > 2 ^ 24) then s.regFault .log .value rq off
  else s.rw .log off (if size then { s with log := { s.log with size := v } } else { s with log := { s.log with base := v } })

/-- A write to DL_LOG_RD (R320). -/
def State.writeLogRd (s : State) (rq : Requester) (v : Word) : State :=
  if (s.log.wr - v).toNat > s.log.slots then s.regFault .log .value rq 0x050
  else s.rw .log 0x050 { s with log := { s.log with rd := v } }

/-- LOG (Table 15.11). -/
def State.writeLog (s : State) (rq : Requester) (off : Nat) (v : Word) : State :=
  match off with
  | 0x040 => s.writeLogCtrl v
  | 0x044 => s.writeLogRing rq false v
  | 0x048 => s.writeLogRing rq true v
  | 0x050 => s.writeLogRd rq v
  | 0x058 => s.rw .log off { s with log := { s.log with water := v.extractLsb' 0 20 } }
  | _ =>
    if 0x060 ≤ off ∧ off < 0x080 then
      s.rw .log off { s with log := { s.log with mask := s.log.mask.set ((off - 0x060) / 4) v } }
    else s

/-- A group with one of its registers written (Tables 10.1, 10.2, R214). -/
def SchGroup.setReg (g : SchGroup) (k : Nat) (v : Word) : SchGroup :=
  match k with
  | 0 => { g with cfg := v &&& 0x0007FFFF }
  | 1 => { g with peak := v }
  | 2 => { g with floor := v }
  | 3 => { g with init := v }
  | 4 => { g with warm := v }
  | 5 => { g with len := v }
  | 6 => { g with lfact := v }
  | _ => { g with load := some v }

/-- SCH (Table 15.12), but for its command register. -/
def State.writeSch (s : State) (rq : Requester) (off : Nat) (v : Word) : State :=
  if off = 0x040 then s.holdLo rq .schGen v
  else if off = 0x044 then s.rwPair rq .sch .schGen v (fun s d => { s with sch := { s.sch with gen := d } })
  else if off = 0x04C then s.rw .sch off { s with sch := { s.sch with scope := v.extractLsb' 0 2 } }
  else if off = 0x050 then s.rw .sch off { s with sch := { s.sch with forceEta := v } }
  else if off = 0x054 then { s with sch := { s.sch with unchecked := s.sch.unchecked && !bitOf v 1, skew := s.sch.skew && !bitOf v 0 } }
  else if 0x100 ≤ off ∧ off < 0x900 then
    s.rw .sch off (s.modGroup ((off - 0x100) / 32) (fun g => g.setReg ((off - 0x100) % 32 / 4) v))
  else s

/-- SEN (Table 15.13). -/
def State.writeSen (s : State) (off : Nat) (v : Word) : State :=
  match off with
  | 0x040 =>
    let u := { s.sen with rate := v.extractLsb' 8 5, quarEn := bitOf v 1, en := bitOf v 0 }
    s.rw .sen off { s with sen := { u with barred := u.barred && !bitOf v 1 } }
  | 0x044 => { s with sen := { s.sen with viol := s.sen.viol && !bitOf v 1 } }
  | _ => s

/-! ## A write -/

/-- A performed write to a present page. -/
def State.writeReg (s : State) (rq : Requester) (p : Page) (off : Nat) (v : Word) : State :=
  if off < 0x040 then s.writeHeader p off v
  else if isCommand p off v then s.commandWrite rq p off v
  else match p with
    | .glb => s.writeGlb rq off v | .pwr => s.writePwr rq off v | .life => s.writeLife rq off v
    | .cal => s.writeCal rq off v | .port => s.writePort off v | .eval => s.writeEval off v | .tbl => s.writeTbl off v
    | .crz => s.writeCrz off v | .chn => s.writeChn off v | .arv => s.writeArv off v | .ctx => s.writeCtx rq off v
    | .tree => s.writeTree rq off v | .num => s.writeNum rq off v | .ten => s.writeTen rq off v
    | .log => s.writeLog rq off v | .sch => s.writeSch rq off v | .sen => s.writeSen off v
    | .img => s.writeImg rq off v | .cnt => s.writeCnt off v | .dbg => s.writeDbg rq off v

/-- A register write through one of its ports (R8 to R11, R261, R268, R299): `act` is what it does when it is performed
(DEDUCED, log entry 73). -/
def State.access (s : State) (a : Access) (act : State → Page → State) : State :=
  if s.refuses a.rq a.page then s.refuseWrite a
  else
    let t := match pageOf a.page with
      | none => s
      | some p =>
        if !s.pagePresent p then s
        else if a.off % 4 ≠ 0 ∨ a.bytes ≠ 4 then s.recordFault p .width a.rq a.waddr
        else act s p
    t.answerWrite a

/-- A register write. -/
def State.busWrite (s : State) (a : Access) (v : Word) : State := s.access a (fun s p => s.writeReg a.rq p a.off v)

end Sys2Proof.Machine
end

