-- ==== Sys2Proof/Machine/Rest.lean ====
section
/-! DEFINITION. What comes over P5 and beside the ports: REST frames (R267, R268), credit words for the block's own
messages (R265, R266); and the forms that the commands share. -/
namespace Sys2Proof.Machine

/-- What a command answers. -/
abbrev Answer := Host.Outcome State Fault Refusal

/-! ## Accesses in order (R261, R268) -/

/-- Performs an access. -/
def State.perform (s : State) (b : BusReq) : State :=
  match b.v with
  | none => s.busRead b.a
  | some v => s.busWrite b.a v

/-- A read of the requester waits for its answer. -/
def State.readHeld (s : State) (rq : Requester) : Bool := s.port.waits.any (fun w => w.rq == rq)

/-- Performs the accesses whose requester waits for nothing any more, oldest first. -/
def State.drainBus : Nat → State → State
  | 0, s => s
  | n + 1, s =>
    match s.port.behind.find? (fun b => !s.readHeld b.a.rq) with
    | none => s
    | some b => (({ s with port := { s.port with behind := s.port.behind.erase b } } : State).perform b).drainBus n

/-- The accesses that waited go on. -/
def State.busGo (s : State) : State := s.drainBus s.port.behind.length

/-- Accesses of a requester that are taken and not answered: reads that wait, and what waits behind them. -/
def State.busTaken (s : State) (rq : Requester) : List Access :=
  (s.port.waits.filter (fun w => w.rq == rq)).map WaitRead.access
  ++ (s.port.behind.filter (fun b => b.a.rq == rq)).map (·.a)

/-- An access comes to its port: those of one requester are performed in the order issued, with up to 8 outstanding on P2
(R261, R268). A ninth is not taken (DESIGN CHOICE, log entry 100). -/
def State.portAccess (s : State) (b : BusReq) : State :=
  match s.busTaken b.a.rq with
  | [] => if s.port.behind.isEmpty then s.perform b else (s.perform b).busGo
  | l => if l.length ≥ 8 then s else { s with port := { s.port with behind := s.port.behind ++ [b] } }

/-! ## REST frames -/

/-- A frame that is dropped: counted and logged as REST_BAD (R267) (DEDUCED, log entry 71). -/
def State.restDrop (s : State) (f : BitVec 80) : State :=
  let s1 : State := { s with port := { s.port with restBad := BitVec.ofNat 32 (satAdd 32 s.port.restBad.toNat 1) } }
  s1.logEvent 0x05 .port (f.extractLsb' 48 32) 0 0 0

/-- The access that a request frame names (DESIGN CHOICE, log entry 5). -/
def frameAccess (f : BitVec 80) : Access :=
  { rq := .rest, seq := frameSeq f, page := frameAddr f * 4 / 4096, off := frameAddr f * 4 % 4096 }

/-- A request frame: a retry of an outstanding request is ignored, a fifth is dropped, and the others are performed in
arrival order (R268) (DEDUCED, log entry 71). -/
def State.restRequest (s : State) (f : BitVec 80) (v : Option Word) : State :=
  let l := s.busTaken .rest
  if l.any (fun a => a.seq == frameSeq f) then s
  else if l.length ≥ 4 then s.restDrop f
  else s.portAccess { a := frameAccess f, v := v }

/-- A WAKE frame (R277); it names RESTING or READY, and nothing is named by its other values. -/
def State.wakeFrame (s : State) (f : BitVec 80) : State :=
  if s.inReset then s
  else match bitsOf (frameData f) 1 0 with
    | 2 => (match s.pwr.st with | .ready => s | _ => s.wake false)
    | 3 => s.wake true
    | _ => s

/-- A GRANT frame (R283). -/
def State.grantFrame (s : State) (f : BitVec 80) : State := if s.inReset then s else s.grantWord (frameData f)

/-- A frame comes in (R267): the four types that the host sends, with a right CRC. -/
def State.restFrame (s : State) (f : BitVec 80) : State :=
  if !frameGood f then s.restDrop f
  else match frameType f with
    | 1 => s.restRequest f none
    | 2 => s.restRequest f (some (frameData f))
    | 5 => s.wakeFrame f
    | 6 => s.grantFrame f
    | _ => s.restDrop f

/-! ## Credit words -/

/-- Full count of an outbound class (Table 12.8) (DEDUCED, log entry 19). -/
def outboundMost (cls : Nat) : Nat := match cls with | 3 | 6 => 3 | 4 | 7 => 4 | _ => 8

/-- A credit word for the block's own messages (R265, R266): a return, an initial count, or a recall, which is answered
with the credits that are unused (DEDUCED, log entry 19). -/
def State.creditIn (s : State) (giver : Option (Fin 16)) (w : Word) : State :=
  let cls := cwClass w
  let key := (cls, cwStream w, match giver with | some i => i.val | none => 16)
  let held := (lookupKey key s.port.outCredits).getD 0
  let put := fun (n : Nat) =>
    ({ s with port := { s.port with outCredits := setKey key (Nat.min n (outboundMost cls)) s.port.outCredits } } : State)
  if cwReserved w then s.badCredit .tree w
  else if cls < 3 then s
  else match cwOp w with
    | 1 => (put (held + cwCount w)).pumpTree
    | 2 => (put (cwCount w)).pumpTree
    | 3 => (put 0).send (.credit .tree (creditWord 4 cls (cwStream w) held))
    | _ => s

/-! ## Forms that commands share -/

/-- A happening inside the fast domain: it does not come about while FCLK is gated or the block is in reset (Table 13.1,
R300), and the units move on after it (DESIGN CHOICE, log entry 9). -/
def State.clocked (s : State) (act : State → State) : Answer := .next (if s.fclkRuns then (act s).settle else s)

/-- A command that is a write of one register. -/
def State.writes (s : State) (rq : Requester) (p : Page) (off : Nat) (v : Word) : Answer :=
  .next (s.portAccess { a := accessOf rq p off, v := some v })

/-- A command that is a write of a command register with OP in bits [31:28] (DESIGN CHOICE, log entry 13). -/
def State.writesOp (s : State) (rq : Requester) (p : Page) (off op : Nat) (v : Word) : Answer :=
  s.writes rq p off (setBits v 31 28 op)

/-- A command that is a read of one register. -/
def State.reads (s : State) (rq : Requester) (p : Page) (off : Nat) : Answer := .next (s.portAccess { a := accessOf rq p off })

/-- A message taken on P3, and its credit returned (R249, R252) (DESIGN CHOICE, log entry 14). -/
def State.taken (s : State) (h : Header) (act : State → State) : Answer :=
  .next (s.takeP3 (.p3 h) (fun s rung => (act (s.returnP3 h rung)).settle))

end Sys2Proof.Machine
end

