-- ==== Sys2Proof/Machine/CmdArrive.lean ====
section
/-! DEFINITION. The meanings of messages that are taken on P3 and P4, of lane requests, and of the scratchpad's answers. -/
namespace Sys2Proof.Machine

/-! ## P3 messages (R249, R252) -/

/-- DOORBELL (R155, R156, R340) (DESIGN CHOICE, log entry 15). -/
def execDoorbell (h : Header) (s : State) : Answer := s.taken h (fun s => s.takeBell h)

/-- STEP (R250, R251, R241, R245) (DESIGN CHOICE, log entry 15). -/
def execStep (h : Header) (s : State) : Answer := s.taken h (fun s => s.stepToken (hStep h))

/-- IMG_FRAG (R243) (DESIGN CHOICE, log entry 15). -/
def execImgFrag (h : Header) (s : State) : Answer := s.taken h (fun s => s.fragBell (hFragAddr h))

/-- FAULT (R246). -/
def execFault (h : Header) (s : State) : Answer := s.taken h (fun s => s.faultNotice (hFaultCode h) (hFaultRank h))

/-- TREE_TILE (R253). -/
def execTreeTile (h : Header) (s : State) : Answer := s.taken h (fun s => s.pairTile (treeTileKey h))

/-- ARV_BAD_TYPE: a message of reserved TYPE (R252). -/
def execArvBadType (h : Header) (s : State) : Answer := s.taken h (fun s => s.takeBad h)

/-! ## Tree messages (R262, R181) -/

/-- A tree message is taken from the port it comes on. -/
def State.treeTaken (s : State) (via : TreeVia) (m : TreeMsg) (act : State → State) : Answer :=
  .next (match via with
    | .p4 => s.takeP4 m (fun s => (act s).settle)
    | .remote => s.takeP3 (.tree .remote m) (fun s _ => (act s).settle))

/-- TREE_UP (R176, R177, R181, Table 8.4). -/
def execTreeUp (via : TreeVia) (m : TreeMsg) (s : State) : Answer := s.treeTaken via m (fun s => s.takeHeld via m)

/-- TREE_DOWN (R178). -/
def execTreeDown (via : TreeVia) (m : TreeMsg) (s : State) : Answer := s.treeTaken via m (fun s => s.takeHeld via m)

/-- TREE_CHECK (R182); a result of the schedule engine's check goes to the engine (R220). -/
def execTreeCheck (via : TreeVia) (m : TreeMsg) (s : State) : Answer :=
  s.treeTaken via m (fun s =>
    let r := s.takeCheck m
    match r.2 with
    | some p => r.1.skewResult (TreeMsgF.step m) p.1 p.2
    | none => r.1)

/-- TREE_NODE_MERGE (R176, R177) of the row-block of a slot. -/
def execTreeNodeMerge (slot : Fin 64) (s : State) : Answer := s.clocked (fun s => s.treeNode slot.val)

/-! ## Lane requests (R257 to R260, R222) -/

/-- LANE_REQUEST_EVAL. -/
def execLaneRequestEval (g : Fin 8) (r : LaneReq) (s : State) : Answer := .next (s.takeLane g r).settle

/-- LANE_REQUEST_FETCH: a header alone. -/
def execLaneRequestFetch (g : Fin 8) (h : Header) (s : State) : Answer :=
  .next (s.takeLane g { hdr := h, mask := 0, ops := 0 }).settle

/-! ## P0 (R255, R256) -/

/-- SPAD_READ_DATA: the answer to the read of an id, none for an error. -/
def execSpadReadData (id : Nat) (data : Option (List Byte)) (s : State) : Answer := .next (s.readAnswer id data).busGo

/-- SPAD_WRITE_ACK. -/
def execSpadWriteAck (id : Nat) (err : Bool) (s : State) : Answer := .next (s.writeAnswer id err)

end Sys2Proof.Machine
end

