-- ==== Sys2Proof/Machine/CmdChain.lean ====
section
/-! DEFINITION. The meanings of what happens inside the chain engine, the table unit, the numerics unit, the schedule
engine and the sentinel. -/
namespace Sys2Proof.Machine

/-! ## Chain engine (chapter 7) -/

/-- SUBMISSION_CHECK (R154). -/
def execSubmissionCheck (s : State) : Answer := s.clocked State.submissionStep

/-- WORK_ITEM_ISSUE (R67 to R69, R157, R260, R285): one fc over all pinnae, `ballast` slots of ballast in each where no
class uses them (DESIGN CHOICE, log entry 21). -/
def execWorkItemIssue (ballast : Nat) (s : State) : Answer := s.clocked (fun s => s.issue ballast)

/-- EVALUATION_RESULT (R67) (DEDUCED, log entry 27). -/
def execEvaluationResult (id : Nat) (s : State) : Answer := s.clocked (fun s => s.evalResult id)

/-- SORUS_REFETCH (R88). -/
def execSorusRefetch (id : Nat) (s : State) : Answer := s.clocked (fun s => s.sorusRefetch id)

/-- PARTIAL_CAPSULE_FOLD (R172, R173). -/
def execPartialCapsuleFold (slot : Fin 64) (s : State) : Answer := s.clocked (fun s => s.fold slot.val)

/-- ROW_BLOCK_COMPLETE (R158). -/
def execRowBlockComplete (slot : Fin 64) (s : State) : Answer := s.clocked (fun s => s.rowBlock slot.val)

/-- RESIDENCY_FILL_DONE (R105). -/
def execResidencyFillDone (s : State) : Answer := s.clocked State.fillDone

/-! ## Numerics, schedule, self-check -/

/-- TENSOR_WINDOW_CLOSE (R201). -/
def execTensorWindowClose (tid : BitVec 16) (s : State) : Answer := s.clocked (fun s => s.closeWindow tid.toNat)

/-- ETA_FORMED (R216, R218, R220). -/
def execEtaFormed (g : Fin 64) (s : State) : Answer := s.clocked (fun s => s.formEta g.val)

/-- SCRUB_READ (R326): in READY and ACTIVE. -/
def execScrubRead (s : State) : Answer := s.clocked (fun s => if s.pwr.st == .ready then s.scrub else s)

/-- SENTINEL_JUDGE (R328, R329). -/
def execSentinelJudge (s : State) : Answer := s.clocked State.judgeSample

/-- SEN_SELFTEST (R330). -/
def execSenSelftest (s : State) : Answer := s.clocked State.selfTest

end Sys2Proof.Machine
end

