-- ==== Sys2Proof/Machine/CmdPower.lean ====
section
/-! DEFINITION. The meanings of the power, REST, credit, reset and lifetime commands. -/
namespace Sys2Proof.Machine

/-! ## Power (chapter 13) -/

/-- PWR_REQ_DORMANT (R276): a write of DL_PWR_REQ with TARGET Dormant. -/
def execPwrReqDormant (rq : Requester) (v : Word) (s : State) : Answer := s.writes rq .pwr 0x044 (setBits v 1 0 0)
/-- PWR_REQ_RESTING (R275). -/
def execPwrReqResting (rq : Requester) (v : Word) (s : State) : Answer := s.writes rq .pwr 0x044 (setBits v 1 0 2)
/-- PWR_REQ_READY (R277). -/
def execPwrReqReady (rq : Requester) (v : Word) (s : State) : Answer := s.writes rq .pwr 0x044 (setBits v 1 0 3)
/-- IDLE_REST (R275). -/
def execIdleRest (s : State) : Answer := .next s.idleExpires
/-- ENTER_RESTING (R275). -/
def execEnterResting (s : State) : Answer := .next s.enterResting
/-- DORMANT_SECOND_CHECK (R276). -/
def execDormantSecondCheck (s : State) : Answer := .next s.secondCheck
/-- RECALL_ACK (R266). -/
def execRecallAck (via : CreditPath) (w : Word) (s : State) : Answer := .next (s.recallAnswer via w)
/-- DORMANT_ENTRY (R270, R276, R279). -/
def execDormantEntry (s : State) : Answer := .next s.enterDormant
/-- WAKING_DONE (R278). -/
def execWakingDone (s : State) : Answer := .next s.wakingDone
/-- RESTING_TO_READY (R277, R270). -/
def execRestingToReady (s : State) : Answer := .next s.nowReady
/-- VDD_OK (R278). -/
def execVddOk (ok : Bool) (s : State) : Answer := .next (s.vddReport ok)
/-- GUARD_BAND_ENTRY (R286). -/
def execGuardBandEntry (mV : Nat) (s : State) : Answer := .next (s.guardEntry mV)
/-- GUARD_BAND_RELEASE (R286). -/
def execGuardBandRelease (mV : Nat) (s : State) : Answer := .next (s.guardRelease mV)
/-- GRANT (R283): a REST frame. -/
def execGrant (f : BitVec 80) (s : State) : Answer := .next (s.restFrame f)
/-- GRANT_EXPIRY (R283). -/
def execGrantExpiry (s : State) : Answer := .next s.grantExpires
/-- FORECAST (R284). -/
def execForecast (stateFrame response : Bool) (s : State) : Answer := .next (s.forecastSlot (stateFrame || response))
/-- BALLAST_HOLD_END (R285). -/
def execBallastHoldEnd (s : State) : Answer := .next s.holdEnds
/-- WAKE (R277): a REST frame. -/
def execWake (f : BitVec 80) (s : State) : Answer := .next (s.restFrame f)

/-! ## REST and credits (R265, R267, R268) -/

/-- REST_RD. -/
def execRestRd (f : BitVec 80) (s : State) : Answer := .next (s.restFrame f)
/-- REST_WR. -/
def execRestWr (f : BitVec 80) (s : State) : Answer := .next (s.restFrame f)
/-- OUTBOUND_CREDIT_WORD. -/
def execOutboundCreditWord (g : CreditGiven) (s : State) : Answer := .next (s.creditIn g.giver g.word)

/-! ## Resets (R300, R335, R183) -/

/-- HOST_CHIP_RESET. -/
def execHostChipReset (s : State) : Answer := .next (s.startReset 1).busGo
/-- ALWAYS_ON_POWER_ON. -/
def execAlwaysOnPowerOn (s : State) : Answer := .next s.powerOn
/-- BLOCK_RESET_END. -/
def execBlockResetEnd (s : State) : Answer := .next s.endReset
/-- CALIBRATION_LOAD. -/
def execCalibrationLoad (trim : BitVec 9) (guard : Vector (BitVec 10) 4) (coef : Vector (BitVec 16) 16)
    (thr : Vector (BitVec 16) 4) (s : State) : Answer := .next (s.loadCal trim guard.toList coef.toList thr.toList)
/-- GWD_COMPAT3_CHANGE. -/
def execGwdCompat3Change (level : Bool) (s : State) : Answer := .next (s.strapLevel level)

/-! ## Lifetime and events -/

/-- LIFETIME_SECOND (R288, R289, R291). -/
def execLifetimeSecond (mV : Option Nat) (temp : Int) (s : State) : Answer := .next (s.second mV temp)
/-- EVENT_QUEUE_FLUSH (R323). -/
def execEventQueueFlush (s : State) : Answer := .next (if s.inReset then s else s.pumpLog)

end Sys2Proof.Machine
end

