-- ==== Sys2Proof/Machine/CmdRegs.lean ====
section
/-! DEFINITION. The meanings of register writes and reads (chapters 14 and 15), and of what is accepted at the ports. -/
namespace Sys2Proof.Machine

/-! ## Command registers without an OP -/

/-- DL_CHN_SUBMIT (R154). -/
def execDlChnSubmit (rq : Requester) (v : Word) (s : State) : Answer := s.writes rq .chn 0x040 v
/-- DL_CHN_CANCEL (R161, R314). -/
def execDlChnCancel (rq : Requester) (v : Word) (s : State) : Answer := s.writes rq .chn 0x044 v
/-- DL_ARV_RING[3] (R254, R315). -/
def execDlArvRing (rq : Requester) (v : Word) (s : State) : Answer := s.writes rq .arv 0x04C v
/-- DL_TREE_CHK_CMD (R182, R317). -/
def execDlTreeChkCmd (rq : Requester) (v : Word) (s : State) : Answer := s.writes rq .tree 0x050 v
/-- DL_GLB_RESET (R300). -/
def execDlGlbReset (rq : Requester) (v : Word) (s : State) : Answer := s.writes rq .glb 0x054 v

/-! ## Writes with a rule of their own -/

/-- DL_NUM_SEED_HI (R44, R45). -/
def execDlNumSeedHi (rq : Requester) (v : Word) (s : State) : Answer := s.writes rq .num 0x044 v
/-- DL_LIFE_ANCHOR_HI (R291). -/
def execDlLifeAnchorHi (rq : Requester) (v : Word) (s : State) : Answer := s.writes rq .life 0x04C v
/-- CAL_WRITE (R292, R302, R335): a register of the CAL page. -/
def execCalWrite (rq : Requester) (off : BitVec 12) (v : Word) (s : State) : Answer := s.writes rq .cal off.toNat v
/-- DL_CTX_BASE or DL_CTX_LIMIT (R116). -/
def execDlCtxBaseLimitWrite (rq : Requester) (limit : Bool) (v : Word) (s : State) : Answer :=
  s.writes rq .ctx (if limit then 0x044 else 0x040) v
/-- DL_TEN_BASE (R195). -/
def execDlTenBase (rq : Requester) (v : Word) (s : State) : Answer := s.writes rq .ten 0x040 v
/-- DL_TREE_CFG or DL_TREE_IMASK (R175). -/
def execDlTreeCfgWrite (rq : Requester) (imask : Bool) (v : Word) (s : State) : Answer :=
  s.writes rq .tree (if imask then 0x044 else 0x040) v
/-- DL_EVAL_ARB (R69). -/
def execDlEvalArb (rq : Requester) (v : Word) (s : State) : Answer := s.writes rq .eval 0x040 v
/-- DL_PORT_LANE_WT (R260). -/
def execDlPortLaneWt (rq : Requester) (v : Word) (s : State) : Answer := s.writes rq .port 0x040 v
/-- DL_IMG_LOG_BASE or DL_IMG_LOG_SIZE (R229, R304). -/
def execDlImgLogWrite (rq : Requester) (size : Bool) (v : Word) (s : State) : Answer :=
  s.writes rq .img (if size then 0x060 else 0x05C) v
/-- DL_IMG_STAGE or DL_IMG_STAGE_SIZE (R304). -/
def execDlImgStageWrite (rq : Requester) (size : Bool) (v : Word) (s : State) : Answer :=
  s.writes rq .img (if size then 0x078 else 0x074) v
/-- DL_LOG_RD (R320). -/
def execDlLogRd (rq : Requester) (v : Word) (s : State) : Answer := s.writes rq .log 0x050 v
/-- DL_LOG_CTRL (R320). -/
def execDlLogCtrl (rq : Requester) (v : Word) (s : State) : Answer := s.writes rq .log 0x040 v
/-- DL_LOG_BASE or DL_LOG_SIZE (R320). -/
def execDlLogRingWrite (rq : Requester) (size : Bool) (v : Word) (s : State) : Answer :=
  s.writes rq .log (if size then 0x048 else 0x044) v

/-- Page and offset of the lower half of a pair that firmware writes (R14). -/
def wrPairAt : WrPair → Page × Nat
  | .lifeAnchor => (.life, 0x048)
  | .treeChkVal => (.tree, 0x048)
  | .numSeed => (.num, 0x040)
  | .schGen => (.sch, 0x040)

/-- PAIR_LO_WRITE (R14). -/
def execPairLoWrite (rq : Requester) (p : WrPair) (v : Word) (s : State) : Answer := s.writes rq (wrPairAt p).1 (wrPairAt p).2 v
/-- PAIR_HI_WRITE (R14). -/
def execPairHiWrite (rq : Requester) (p : WrPair) (v : Word) (s : State) : Answer := s.writes rq (wrPairAt p).1 ((wrPairAt p).2 + 4) v

/-- REGISTER_WRITE (R8 to R13, R297): any register of the window. -/
def execRegisterWrite (rq : Requester) (a : RegAddr) (v : Word) (s : State) : Answer :=
  .next (s.portAccess { a := { rq := rq, page := a.page.toNat, off := a.off.toNat, bytes := a.bytes }, v := some v })

/-! ## Reads -/

/-- Page and offset of the lower half of a pair that is read (R14). -/
def rdPairAt : RdPair → Page × Nat
  | .lifeAnchor => (.life, 0x048)
  | .lifeCal => (.life, 0x050)
  | .cntLive => (.cnt, 0x05C)
  | .treeChkVal => (.tree, 0x048)
  | .treeMin => (.tree, 0x058)
  | .treeMax => (.tree, 0x060)
  | .schGen => (.sch, 0x040)

/-- PAIR_LO_READ (R14). -/
def execPairLoRead (rq : Requester) (p : RdPair) (s : State) : Answer := s.reads rq (rdPairAt p).1 (rdPairAt p).2
/-- DL_NUM_SEED_LO_READ (R318). -/
def execDlNumSeedLoRead (rq : Requester) (s : State) : Answer := s.reads rq .num 0x040
/-- DL_CRZ_WORD_LO_READ (R313). -/
def execDlCrzWordLoRead (rq : Requester) (s : State) : Answer := s.reads rq .crz 0x044
/-- DL_CNT_SHADOW_LO_READ (R305). -/
def execDlCntShadowLoRead (rq : Requester) (s : State) : Answer := s.reads rq .cnt 0x054
/-- DL_CTX_QRESULT_READ (R316). -/
def execDlCtxQresultRead (rq : Requester) (s : State) : Answer := s.reads rq .ctx 0x05C
/-- PG_ERR_INFO_READ (R295) of a page of the window. -/
def execPgErrInfoRead (rq : Requester) (page : BitVec 8) (s : State) : Answer :=
  .next (s.portAccess { a := { rq := rq, page := page.toNat, off := 0x018 } })
/-- DL_CHN_REFUSE_READ (R314). -/
def execDlChnRefuseRead (rq : Requester) (h : Half) (s : State) : Answer :=
  s.reads rq .chn (match h with | .lo => 0x04C | .hi => 0x050)
/-- DL_ARV_DROP_READ (R156). -/
def execDlArvDropRead (rq : Requester) (h : Half) (s : State) : Answer :=
  s.reads rq .arv (match h with | .lo => 0x054 | .hi => 0x058)
/-- DL_NUM_LAST_WIDEN_READ (R207). -/
def execDlNumLastWidenRead (rq : Requester) (s : State) : Answer := s.reads rq .num 0x050
/-- DL_SEN_VIOL_INFO_READ (R321). -/
def execDlSenViolInfoRead (rq : Requester) (s : State) : Answer := s.reads rq .sen 0x048
/-- DL_LOG_LOST_READ (R319). -/
def execDlLogLostRead (rq : Requester) (s : State) : Answer := s.reads rq .log 0x054
/-- DL_PWR_DACC_READ (R299). -/
def execDlPwrDaccRead (rq : Requester) (s : State) : Answer := s.reads rq .pwr 0x058
/-- DL_PORT_REST_BAD_READ (R267). -/
def execDlPortRestBadRead (rq : Requester) (s : State) : Answer := s.reads rq .port 0x058
/-- DL_PORT_SPAD_ERR_READ (R255). -/
def execDlPortSpadErrRead (rq : Requester) (s : State) : Answer := s.reads rq .port 0x05C
/-- DL_IMG_FRAG_COUNT_READ (R243). -/
def execDlImgFragCountRead (rq : Requester) (k : FragCount) (s : State) : Answer :=
  s.reads rq .img (match k with | .stale => 0x080 | .bad => 0x084 | .dup => 0x088)

/-- REFUSED_READ: a P2 read of any width and alignment (R8, R11, R299), refused, or returned as zero with the fault recorded,
or performed. -/
def execRefusedRead (core : Fin 16) (a : RawAccess) (s : State) : Answer :=
  .next (s.portAccess { a := { rq := .core core, page := a.addr.toNat / 4096, off := a.addr.toNat % 4096, bytes := a.bytes } })

/-! ## Messages accepted -/

/-- PORT_MESSAGE_ACCEPTED (R249, R275, R342). -/
def execPortMessageAccepted (m : PortMsg) (s : State) : Answer := .next (s.ingress m).1

end Sys2Proof.Machine
end

