-- ==== Sys2Proof/Machine/CmdUnits.lean ====
section
/-! DEFINITION. The meanings of the commands of the table, context, registry, image, counter, schedule, lifetime and debug
units, and of their completions. A command is a write of its register (R261); its OP is the row's own. -/
namespace Sys2Proof.Machine

/-! ## Table commands (Table 5.5) -/

/-- LOAD_ENTRIES (R95, R96). -/
def execLoadEntries (rq : Requester) (v : Word) (s : State) : Answer := s.writesOp rq .tbl 0x044 1 v
/-- LOAD_DESC. -/
def execLoadDesc (rq : Requester) (v : Word) (s : State) : Answer := s.writesOp rq .tbl 0x044 2 v
/-- LOAD_MAP. -/
def execLoadMap (rq : Requester) (v : Word) (s : State) : Answer := s.writesOp rq .tbl 0x044 3 v
/-- LOAD_CRZ. -/
def execLoadCrz (rq : Requester) (v : Word) (s : State) : Answer := s.writesOp rq .tbl 0x044 4 v
/-- SEAL (R97). -/
def execSeal (rq : Requester) (v : Word) (s : State) : Answer := s.writesOp rq .tbl 0x044 5 v
/-- PRELOAD (R106). -/
def execPreload (rq : Requester) (v : Word) (s : State) : Answer := s.writesOp rq .tbl 0x044 6 v
/-- TBL_CMD_DONE (R95). -/
def execTblCmdDone (s : State) : Answer := s.clocked State.tblCmdDone
/-- SWITCH (R312): a write of DL_TBL_EPOCH with SWITCH set. -/
def execSwitch (rq : Requester) (v : Word) (s : State) : Answer := s.writes rq .tbl 0x040 (setBits v 31 31 1)
/-- EPOCH_SWITCH_ACCEPT (R101, R312). -/
def execEpochSwitchAccept (s : State) : Answer := s.clocked State.switchAccept

/-! ## Context commands (Tables 6.6, 6.7) -/

/-- DRAIN (R129) (DESIGN CHOICE, log entry 13). -/
def execDrain (rq : Requester) (v : Word) (s : State) : Answer := s.writes rq .ctx 0x048 (setBits v 31 30 0)
/-- CLEAR (R131) (DESIGN CHOICE, log entry 13). -/
def execClear (rq : Requester) (v : Word) (s : State) : Answer := s.writes rq .ctx 0x048 (setBits v 31 30 1)
/-- ADOPT (R132). -/
def execAdopt (rq : Requester) (v : Word) (s : State) : Answer := s.writes rq .ctx 0x048 (setBits v 31 30 2)
/-- CTX_CMD_DONE (R128). -/
def execCtxCmdDone (s : State) : Answer := s.clocked State.ctxCmdDone

/-! ## Registry commands (Table 9.5) -/

/-- REGISTER (R198). -/
def execRegister (rq : Requester) (v : Word) (s : State) : Answer := s.writesOp rq .ten 0x044 1 v
/-- SET. -/
def execSet (rq : Requester) (v : Word) (s : State) : Answer := s.writesOp rq .ten 0x044 2 v
/-- REWIND. -/
def execRewind (rq : Requester) (v : Word) (s : State) : Answer := s.writesOp rq .ten 0x044 3 v
/-- FLUSH. -/
def execFlush (rq : Requester) (v : Word) (s : State) : Answer := s.writesOp rq .ten 0x044 4 v
/-- TEN_CMD_DONE. -/
def execTenCmdDone (s : State) : Answer := s.clocked State.tenCmdDone

/-! ## Image commands (Table 11.10) -/

/-- CHECKED (R230). -/
def execChecked (rq : Requester) (v : Word) (s : State) : Answer := s.writesOp rq .img 0x040 1 v
/-- ROLLBACK (R231). -/
def execRollback (rq : Requester) (v : Word) (s : State) : Answer := s.writesOp rq .img 0x040 2 v
/-- EXPORT (R239). -/
def execExportImg (rq : Requester) (v : Word) (s : State) : Answer := s.writesOp rq .img 0x040 3 v
/-- EXPORT_BEGIN (R239). -/
def execExportBegin (s : State) : Answer := s.clocked State.exportBegin
/-- PREPARE (R242). -/
def execPrepare (rq : Requester) (v : Word) (s : State) : Answer := s.writesOp rq .img 0x040 4 v
/-- FILL (R243). -/
def execFill (rq : Requester) (v : Word) (s : State) : Answer := s.writesOp rq .img 0x040 5 v
/-- ABORT (R246). -/
def execAbort (rq : Requester) (v : Word) (s : State) : Answer := s.writesOp rq .img 0x040 6 v
/-- LEAVE (R246). -/
def execLeave (rq : Requester) (v : Word) (s : State) : Answer := s.writesOp rq .img 0x040 7 v
/-- IMG_CMD_DONE (R247). -/
def execImgCmdDone (s : State) : Answer := s.clocked State.imgCmdDone
/-- FRAGMENT_COPY_DONE (R243). -/
def execFragmentCopyDone (s : State) : Answer := s.clocked State.fragCopyDone
/-- IMAGE_CHECKS (R244). -/
def execImageChecks (s : State) : Answer := s.clocked State.imageChecks
/-- IMG_RESUMED (R245). -/
def execImgResumed (s : State) : Answer := s.clocked State.resume

/-! ## Counters (R305) -/

/-- AT_STEP. -/
def execAtStep (rq : Requester) (v : Word) (s : State) : Answer := s.writesOp rq .cnt 0x040 1 v
/-- NEXT. -/
def execNext (rq : Requester) (v : Word) (s : State) : Answer := s.writesOp rq .cnt 0x040 2 v
/-- DISARM. -/
def execDisarm (rq : Requester) (v : Word) (s : State) : Answer := s.writesOp rq .cnt 0x040 3 v

/-- COPYING ends: the reads that waited for it are answered (R305). -/
def State.frozen (s : State) : State :=
  if s.cnt.st = .copying then
    let s1 : State := { s with cnt := { s.cnt with st := .frozen } }
    ((s1.logEvent 0x70 .cnt s1.cnt.fstep (BitVec.ofNat 32 (b2n s1.cnt.late)) 0 0).pageEvent .cnt 1).serveShadow
  else s

/-- CNT_FROZEN. -/
def execCntFrozen (s : State) : Answer := s.clocked (fun s => s.frozen.busGo)

/-! ## Schedule commands (R221) -/

/-- RELEASE. -/
def execRelease (rq : Requester) (v : Word) (s : State) : Answer := s.writesOp rq .sch 0x048 1 v
/-- FORCE. -/
def execForce (rq : Requester) (v : Word) (s : State) : Answer := s.writesOp rq .sch 0x048 2 v

/-! ## Lifetime and debug -/

/-- SNAP (R290). -/
def execSnap (rq : Requester) (v : Word) (s : State) : Answer := s.writesOp rq .life 0x040 1 v
/-- RESTORE (R290). -/
def execRestore (rq : Requester) (v : Word) (s : State) : Answer := s.writesOp rq .life 0x040 2 v
/-- LIFE_CMD_DONE (R290): the lifetime unit is always on. -/
def execLifeCmdDone (s : State) : Answer := .next (if s.inReset then s else s.lifeDone)
/-- FLIP (R306). -/
def execFlip (rq : Requester) (v : Word) (s : State) : Answer := s.writesOp rq .dbg 0x058 1 v

end Sys2Proof.Machine
end

