-- ==== Sys2Proof/Machine/Dispatch.lean ====
section
/-! DEFINITION. The meaning of every command, one arm per constructor. -/
namespace Sys2Proof.Machine

/-- The effect of a command on everything but the queue. -/
def exec (i : Instr) (s : State) : Host.Outcome State Fault Refusal :=
  match i with
  | .doorbell h => Sys2Proof.Machine.execDoorbell h s
  | .step h => Sys2Proof.Machine.execStep h s
  | .imgFrag h => Sys2Proof.Machine.execImgFrag h s
  | .fault h => Sys2Proof.Machine.execFault h s
  | .treeTile h => Sys2Proof.Machine.execTreeTile h s
  | .arvBadType h => Sys2Proof.Machine.execArvBadType h s
  | .treeUp via m => Sys2Proof.Machine.execTreeUp via m s
  | .treeDown via m => Sys2Proof.Machine.execTreeDown via m s
  | .treeCheck via m => Sys2Proof.Machine.execTreeCheck via m s
  | .treeNodeMerge slot => Sys2Proof.Machine.execTreeNodeMerge slot s
  | .laneRequestEval group r => Sys2Proof.Machine.execLaneRequestEval group r s
  | .laneRequestFetch group h => Sys2Proof.Machine.execLaneRequestFetch group h s
  | .spadReadData id data => Sys2Proof.Machine.execSpadReadData id data s
  | .spadWriteAck id err => Sys2Proof.Machine.execSpadWriteAck id err s
  | .submissionCheck => Sys2Proof.Machine.execSubmissionCheck s
  | .workItemIssue ballast => Sys2Proof.Machine.execWorkItemIssue ballast s
  | .evaluationResult id => Sys2Proof.Machine.execEvaluationResult id s
  | .sorusRefetch id => Sys2Proof.Machine.execSorusRefetch id s
  | .partialCapsuleFold slot => Sys2Proof.Machine.execPartialCapsuleFold slot s
  | .rowBlockComplete slot => Sys2Proof.Machine.execRowBlockComplete slot s
  | .residencyFillDone => Sys2Proof.Machine.execResidencyFillDone s
  | .tensorWindowClose tid => Sys2Proof.Machine.execTensorWindowClose tid s
  | .etaFormed g => Sys2Proof.Machine.execEtaFormed g s
  | .scrubRead => Sys2Proof.Machine.execScrubRead s
  | .sentinelJudge => Sys2Proof.Machine.execSentinelJudge s
  | .senSelftest => Sys2Proof.Machine.execSenSelftest s
  | .loadEntries rq v => Sys2Proof.Machine.execLoadEntries rq v s
  | .loadDesc rq v => Sys2Proof.Machine.execLoadDesc rq v s
  | .loadMap rq v => Sys2Proof.Machine.execLoadMap rq v s
  | .loadCrz rq v => Sys2Proof.Machine.execLoadCrz rq v s
  | .seal rq v => Sys2Proof.Machine.execSeal rq v s
  | .preload rq v => Sys2Proof.Machine.execPreload rq v s
  | .tblCmdDone => Sys2Proof.Machine.execTblCmdDone s
  | .switch rq v => Sys2Proof.Machine.execSwitch rq v s
  | .epochSwitchAccept => Sys2Proof.Machine.execEpochSwitchAccept s
  | .drain rq v => Sys2Proof.Machine.execDrain rq v s
  | .clear rq v => Sys2Proof.Machine.execClear rq v s
  | .adopt rq v => Sys2Proof.Machine.execAdopt rq v s
  | .ctxCmdDone => Sys2Proof.Machine.execCtxCmdDone s
  | .register rq v => Sys2Proof.Machine.execRegister rq v s
  | .set rq v => Sys2Proof.Machine.execSet rq v s
  | .rewind rq v => Sys2Proof.Machine.execRewind rq v s
  | .flush rq v => Sys2Proof.Machine.execFlush rq v s
  | .tenCmdDone => Sys2Proof.Machine.execTenCmdDone s
  | .checked rq v => Sys2Proof.Machine.execChecked rq v s
  | .rollback rq v => Sys2Proof.Machine.execRollback rq v s
  | .exportImg rq v => Sys2Proof.Machine.execExportImg rq v s
  | .exportBegin => Sys2Proof.Machine.execExportBegin s
  | .prepare rq v => Sys2Proof.Machine.execPrepare rq v s
  | .fill rq v => Sys2Proof.Machine.execFill rq v s
  | .abort rq v => Sys2Proof.Machine.execAbort rq v s
  | .leave rq v => Sys2Proof.Machine.execLeave rq v s
  | .imgCmdDone => Sys2Proof.Machine.execImgCmdDone s
  | .fragmentCopyDone => Sys2Proof.Machine.execFragmentCopyDone s
  | .imageChecks => Sys2Proof.Machine.execImageChecks s
  | .imgResumed => Sys2Proof.Machine.execImgResumed s
  | .atStep rq v => Sys2Proof.Machine.execAtStep rq v s
  | .next rq v => Sys2Proof.Machine.execNext rq v s
  | .disarm rq v => Sys2Proof.Machine.execDisarm rq v s
  | .cntFrozen => Sys2Proof.Machine.execCntFrozen s
  | .release rq v => Sys2Proof.Machine.execRelease rq v s
  | .force rq v => Sys2Proof.Machine.execForce rq v s
  | .snap rq v => Sys2Proof.Machine.execSnap rq v s
  | .restore rq v => Sys2Proof.Machine.execRestore rq v s
  | .lifeCmdDone => Sys2Proof.Machine.execLifeCmdDone s
  | .flip rq v => Sys2Proof.Machine.execFlip rq v s
  | .dlChnSubmit rq v => Sys2Proof.Machine.execDlChnSubmit rq v s
  | .dlChnCancel rq v => Sys2Proof.Machine.execDlChnCancel rq v s
  | .dlArvRing rq v => Sys2Proof.Machine.execDlArvRing rq v s
  | .dlTreeChkCmd rq v => Sys2Proof.Machine.execDlTreeChkCmd rq v s
  | .dlGlbReset rq v => Sys2Proof.Machine.execDlGlbReset rq v s
  | .pwrReqDormant rq v => Sys2Proof.Machine.execPwrReqDormant rq v s
  | .pwrReqResting rq v => Sys2Proof.Machine.execPwrReqResting rq v s
  | .pwrReqReady rq v => Sys2Proof.Machine.execPwrReqReady rq v s
  | .idleRest => Sys2Proof.Machine.execIdleRest s
  | .enterResting => Sys2Proof.Machine.execEnterResting s
  | .dormantSecondCheck => Sys2Proof.Machine.execDormantSecondCheck s
  | .recallAck via w => Sys2Proof.Machine.execRecallAck via w s
  | .dormantEntry => Sys2Proof.Machine.execDormantEntry s
  | .wakingDone => Sys2Proof.Machine.execWakingDone s
  | .restingToReady => Sys2Proof.Machine.execRestingToReady s
  | .vddOk ok => Sys2Proof.Machine.execVddOk ok s
  | .guardBandEntry mV => Sys2Proof.Machine.execGuardBandEntry mV s
  | .guardBandRelease mV => Sys2Proof.Machine.execGuardBandRelease mV s
  | .grant frame => Sys2Proof.Machine.execGrant frame s
  | .grantExpiry => Sys2Proof.Machine.execGrantExpiry s
  | .forecast stateFrame response => Sys2Proof.Machine.execForecast stateFrame response s
  | .ballastHoldEnd => Sys2Proof.Machine.execBallastHoldEnd s
  | .wake frame => Sys2Proof.Machine.execWake frame s
  | .restRd frame => Sys2Proof.Machine.execRestRd frame s
  | .restWr frame => Sys2Proof.Machine.execRestWr frame s
  | .outboundCreditWord g => Sys2Proof.Machine.execOutboundCreditWord g s
  | .hostChipReset => Sys2Proof.Machine.execHostChipReset s
  | .alwaysOnPowerOn => Sys2Proof.Machine.execAlwaysOnPowerOn s
  | .blockResetEnd => Sys2Proof.Machine.execBlockResetEnd s
  | .calibrationLoad trim guard coef thr => Sys2Proof.Machine.execCalibrationLoad trim guard coef thr s
  | .lifetimeSecond mV temp => Sys2Proof.Machine.execLifetimeSecond mV temp s
  | .eventQueueFlush => Sys2Proof.Machine.execEventQueueFlush s
  | .dlNumSeedHi rq v => Sys2Proof.Machine.execDlNumSeedHi rq v s
  | .dlLifeAnchorHi rq v => Sys2Proof.Machine.execDlLifeAnchorHi rq v s
  | .calWrite rq off v => Sys2Proof.Machine.execCalWrite rq off v s
  | .dlCtxBaseLimitWrite rq limit v => Sys2Proof.Machine.execDlCtxBaseLimitWrite rq limit v s
  | .dlTenBase rq v => Sys2Proof.Machine.execDlTenBase rq v s
  | .dlTreeCfgWrite rq imask v => Sys2Proof.Machine.execDlTreeCfgWrite rq imask v s
  | .dlEvalArb rq v => Sys2Proof.Machine.execDlEvalArb rq v s
  | .dlPortLaneWt rq v => Sys2Proof.Machine.execDlPortLaneWt rq v s
  | .dlImgLogWrite rq size v => Sys2Proof.Machine.execDlImgLogWrite rq size v s
  | .dlImgStageWrite rq size v => Sys2Proof.Machine.execDlImgStageWrite rq size v s
  | .dlLogRd rq v => Sys2Proof.Machine.execDlLogRd rq v s
  | .dlLogCtrl rq v => Sys2Proof.Machine.execDlLogCtrl rq v s
  | .dlLogRingWrite rq size v => Sys2Proof.Machine.execDlLogRingWrite rq size v s
  | .pairLoWrite rq p v => Sys2Proof.Machine.execPairLoWrite rq p v s
  | .pairHiWrite rq p v => Sys2Proof.Machine.execPairHiWrite rq p v s
  | .pairLoRead rq p => Sys2Proof.Machine.execPairLoRead rq p s
  | .dlNumSeedLoRead rq => Sys2Proof.Machine.execDlNumSeedLoRead rq s
  | .dlCrzWordLoRead rq => Sys2Proof.Machine.execDlCrzWordLoRead rq s
  | .dlCntShadowLoRead rq => Sys2Proof.Machine.execDlCntShadowLoRead rq s
  | .dlCtxQresultRead rq => Sys2Proof.Machine.execDlCtxQresultRead rq s
  | .pgErrInfoRead rq page => Sys2Proof.Machine.execPgErrInfoRead rq page s
  | .dlChnRefuseRead rq h => Sys2Proof.Machine.execDlChnRefuseRead rq h s
  | .dlArvDropRead rq h => Sys2Proof.Machine.execDlArvDropRead rq h s
  | .dlNumLastWidenRead rq => Sys2Proof.Machine.execDlNumLastWidenRead rq s
  | .dlSenViolInfoRead rq => Sys2Proof.Machine.execDlSenViolInfoRead rq s
  | .dlLogLostRead rq => Sys2Proof.Machine.execDlLogLostRead rq s
  | .dlPwrDaccRead rq => Sys2Proof.Machine.execDlPwrDaccRead rq s
  | .dlPortRestBadRead rq => Sys2Proof.Machine.execDlPortRestBadRead rq s
  | .dlPortSpadErrRead rq => Sys2Proof.Machine.execDlPortSpadErrRead rq s
  | .dlImgFragCountRead rq k => Sys2Proof.Machine.execDlImgFragCountRead rq k s
  | .registerWrite rq a v => Sys2Proof.Machine.execRegisterWrite rq a v s
  | .portMessageAccepted m => Sys2Proof.Machine.execPortMessageAccepted m s
  | .refusedRead core a => Sys2Proof.Machine.execRefusedRead core a s
  | .gwdCompat3Change level => Sys2Proof.Machine.execGwdCompat3Change level s

end Sys2Proof.Machine
end

