-- ==== Sys2Proof/Safety.lean ====
section
/-! DEFINITION. What counts as a sound state: the invariant that every step keeps. -/
namespace Sys2Proof.Machine

/-- PG_ERR_INFO holds a CAUSE of Table 14.3, and with no fault recorded it holds nothing (R295). -/
def ErrInfo.legal (e : ErrInfo) : Bool := decide (e.cause.toNat ≤ 7) && (e.cause != 0 || e == {})

/-- Counter values by number, in their canonical form and within 64 bits (R331). -/
def countsOk (c : List (Nat × Nat)) : Bool := Store.wf (fun _ => some 0) c && c.all (fun p => decide (p.2 < 2 ^ 64))

/-- The four stores of a bank are in their canonical form. -/
def Bank.wf (k : Bank) : Bool :=
  Store.wf (fun _ => none) k.ram && Store.wf (fun _ => some descDefault) k.descs
    && Store.wf (fun i => some (mapDefault i)) k.map && Store.wf (fun _ => some crzDefault) k.crz

/-- An entry to a lower state is under way exactly in ENTERING (R275, R276); a block reset forgets it (R300). -/
def modeOk (inReset : Bool) (st : PwrState) (e : Entering) : Bool := inReset || ((st == .entering) == (e != .none))

/-- Every identifier out on P0 has been given out. -/
def idsOk (next : Nat) (reads : List ReadJob) (writes : List WriteJob) : Bool :=
  reads.all (fun j => j.out.all (fun o => decide (o.1 < next))) && writes.all (fun w => decide (w.id < next))

/-- What the invariant says, over the parts of the state that it concerns: the page headers (Table 14.2), the counters
(R331), the always-on event queue (R323), the slots, pinnae and parameter groups (Table 14.6), the power state and FCLK
(Tables 13.2, 14.7), the identifiers on P0 and the stores of the banks. -/
structure Sound (inReset : Bool) (hdrs : List PageHdr) (live shadow : List (Nat × Nat)) (held : List Event)
    (slots : List (Option Chain)) (pinnae : List Pinna) (groups : List SchGroup) (st : PwrState) (e : Entering)
    (fclk : BitVec 12) (next : Nat) (reads : List ReadJob) (writes : List WriteJob) (bank0 bank1 : Bank) : Prop where
  headers : hdrs.length = 20 ∧ hdrs.all (fun h => h.err.legal) = true
  counters : countsOk live = true ∧ countsOk shadow = true
  queue : held.length ≤ 16
  sizes : slots.length = 64 ∧ pinnae.length = 40 ∧ groups.length = 64
  mode : modeOk inReset st e = true
  clock : 1200 ≤ fclk.toNat ∧ fclk.toNat ≤ 2600
  ids : idsOk next reads writes = true
  banks : bank0.wf = true ∧ bank1.wf = true

/-- A sound state. -/
def State.Inv (s : State) : Prop :=
  Sound s.inReset s.hdrs s.cnt.live s.cnt.shadow s.log.held s.chn.slots s.chn.pinnae s.sch.groups s.pwr.st s.pwr.entering
    s.pwr.fclk s.p0.nextId s.p0.reads s.p0.writes s.tbl.bank0 s.tbl.bank1

/-! ## Settings -/

/-- What firmware, the straps and the host chip set, and what nothing inside the block changes: the straps, LOCK,
PG_EVENT_EN and PG_SEQ of every page, the fields that firmware writes for the block to follow, the writes that wait behind a
read of their requester, and the commands that wait. -/
structure Settings where
  straps : Variant × BitVec 8 × Bool × Bool × BitVec 2
  headers : List (Bool × Word × Word)
  power : BitVec 16 × BitVec 8 × Bool × BitVec 10 × BitVec 4 × BitVec 8 × BitVec 12
  anchor : DWord × Bool × List Word
  cal : CalUnit
  laneWt : Word
  writes : List BusReq
  loads : Word × BitVec 16 × BitVec 16
  crz : Bool × BitVec 8 × BitVec 5
  sentinel : Bool × BitVec 5
  weights : BitVec 4 × BitVec 4 × List Word
  contexts : Word × BitVec 21 × BitVec 21 × BitVec 20
  trees : Bool × BitVec 10 × BitVec 10 × BitVec 16 × DWord
  numerics : Word × Word × Word × BitVec 17 × BitVec 5 × BitVec 16
  ring : Bool × Word × Word × Word × BitVec 20 × List Word
  schedule : DWord × BitVec 2 × Word × List (List Word)
  image : Word × BitVec 16 × Word × Word × Word × Word × Word × Word × Word
  counters : Word × BitVec 10
  debug : DbgUnit
  queue : List Instr

/-- The settings of a group (Table 10.1): CFG, PEAK, FLOOR, INIT, WARM, LEN and LFACT. -/
def SchGroup.settings (g : SchGroup) : List Word := [g.cfg, g.peak, g.floor, g.init, g.warm, g.len, g.lfact]

/-- The settings that a state holds. -/
def State.settings (s : State) : Settings :=
  { straps := (s.variant, s.inst, s.strap, s.gen3, s.resetCause)
    headers := s.hdrs.map (fun h => (h.lock, h.eventEn, h.seq))
    power := (s.pwr.idleRest, s.pwr.ballastHold, s.pwr.autowake, s.pwr.icap, s.pwr.deadband, s.pwr.rate, s.pwr.fclk)
    anchor := (s.life.anchor, s.life.anchored, s.life.inp)
    cal := s.cal
    laneWt := s.port.laneWt
    writes := s.port.behind.filter (fun b => b.v.isSome)
    loads := (s.tbl.loadSrc, s.tbl.loadFirst, s.tbl.loadCount)
    crz := (s.tbl.crzSelBank, s.tbl.crzSel, s.tbl.crzWord)
    sentinel := (s.sen.en, s.sen.rate)
    weights := (s.chn.chnWeight, s.chn.laneWeight, s.chn.ring)
    contexts := (s.ctx.base, s.ctx.limit, s.ctx.drainCount, s.ctx.query)
    trees := (s.tree.valid, s.tree.nchipsM1, s.tree.rank, s.tree.imask, s.tree.chkVal)
    numerics := (s.num.widenSat, s.num.widenUfl, s.num.base, s.num.cmdCount, s.num.kmask, s.num.dormN)
    ring := (s.log.en, s.log.base, s.log.size, s.log.rd, s.log.water, s.log.mask)
    schedule := (s.sch.gen, s.sch.scope, s.sch.forceEta, s.sch.groups.map SchGroup.settings)
    image := (s.img.argStep, s.img.argGen, s.img.logBase, s.img.logSize, s.img.addr, s.img.size, s.img.frag, s.img.stage,
      s.img.stageSize)
    counters := (s.cnt.arg, s.cnt.index)
    debug := s.dbg
    queue := s.pending }

/-- The state holds these settings. -/
def State.Keeps (s : State) (c : Settings) : Prop := s.settings = c

/-! ## Where commands act -/

/-- No earlier access waits: no read of the requester for its answer, and no access behind a read (R261, R268). -/
abbrev State.clearFor (s : State) (rq : Requester) : Prop := s.readHeld rq = false ∧ s.port.behind = []

/-- An access of a requester to a page is performed: no earlier one waits, it is not refused (R11, R299, R300), and the
variant has the page (R3). -/
def State.serves (s : State) (rq : Requester) (p : Page) : Prop :=
  s.clearFor rq ∧ s.refuses rq p.number = false ∧ s.pagePresent p = true

/-- A command register of a page acts as a requester writes it: no earlier access waits, FCLK runs, no recall has begun (R276,
R277), and the variant has the page (R3). -/
def State.performs (s : State) (rq : Requester) (p : Page) : Prop :=
  s.clearFor rq ∧ s.fclkRuns = true ∧ s.recallBegun = false ∧ s.pagePresent p = true

/-- The access of a raw address of the window (R8, R294). -/
def rawAccess (core : Fin 16) (a : RawAccess) : Access :=
  { rq := .core core, page := a.addr.toNat / 4096, off := a.addr.toNat % 4096 }

/-- The access of a write of any width. -/
def regAccess (rq : Requester) (a : RegAddr) : Access :=
  { rq := rq, page := a.page.toNat, off := a.off.toNat, bytes := a.bytes }

end Sys2Proof.Machine

namespace Sys2Proof

/-- The commands that are no register write, no REST frame that writes or grants, no request or wake, no reset and no load
of the calibration set or of an image: nothing that they do changes a setting. -/
def Instr.leavesSettings : Instr → Bool
  | .pwrReqDormant .. | .pwrReqResting .. | .pwrReqReady .. | .grant .. | .wake .. | .restRd .. | .restWr ..
  | .hostChipReset .. | .alwaysOnPowerOn .. | .calibrationLoad .. | .dlGlbReset .. | .imgResumed ..
  | .gwdCompat3Change .. | .dlNumSeedHi .. | .dlLifeAnchorHi .. | .calWrite .. | .dlCtxBaseLimitWrite ..
  | .dlTenBase .. | .dlTreeCfgWrite .. | .dlEvalArb .. | .dlPortLaneWt .. | .dlImgLogWrite ..
  | .dlImgStageWrite .. | .dlLogRd .. | .dlLogCtrl .. | .dlLogRingWrite .. | .pairHiWrite ..
  | .registerWrite .. => false
  | .doorbell .. | .step .. | .imgFrag .. | .fault .. | .treeTile .. | .arvBadType .. | .treeUp ..
  | .treeDown .. | .treeCheck .. | .treeNodeMerge .. | .laneRequestEval .. | .laneRequestFetch ..
  | .spadReadData .. | .spadWriteAck .. | .submissionCheck .. | .workItemIssue .. | .evaluationResult ..
  | .sorusRefetch .. | .partialCapsuleFold .. | .rowBlockComplete .. | .residencyFillDone ..
  | .tensorWindowClose .. | .etaFormed .. | .scrubRead .. | .sentinelJudge .. | .senSelftest ..
  | .loadEntries .. | .loadDesc .. | .loadMap .. | .loadCrz .. | .seal .. | .preload .. | .tblCmdDone ..
  | .switch .. | .epochSwitchAccept .. | .drain .. | .clear .. | .adopt .. | .ctxCmdDone .. | .register ..
  | .set .. | .rewind .. | .flush .. | .tenCmdDone .. | .checked .. | .rollback .. | .exportImg ..
  | .exportBegin .. | .prepare .. | .fill .. | .abort .. | .leave .. | .imgCmdDone .. | .fragmentCopyDone ..
  | .imageChecks .. | .atStep .. | .next .. | .disarm .. | .cntFrozen .. | .release .. | .force .. | .snap ..
  | .restore .. | .lifeCmdDone .. | .flip .. | .dlChnSubmit .. | .dlChnCancel .. | .dlArvRing ..
  | .dlTreeChkCmd .. | .idleRest .. | .enterResting .. | .dormantSecondCheck .. | .recallAck ..
  | .dormantEntry .. | .wakingDone .. | .restingToReady .. | .vddOk .. | .guardBandEntry ..
  | .guardBandRelease .. | .grantExpiry .. | .forecast .. | .ballastHoldEnd .. | .outboundCreditWord ..
  | .blockResetEnd .. | .lifetimeSecond .. | .eventQueueFlush .. | .pairLoWrite .. | .pairLoRead ..
  | .dlNumSeedLoRead .. | .dlCrzWordLoRead .. | .dlCntShadowLoRead .. | .dlCtxQresultRead ..
  | .pgErrInfoRead .. | .dlChnRefuseRead .. | .dlArvDropRead .. | .dlNumLastWidenRead ..
  | .dlSenViolInfoRead .. | .dlLogLostRead .. | .dlPwrDaccRead .. | .dlPortRestBadRead ..
  | .dlPortSpadErrRead .. | .dlImgFragCountRead .. | .portMessageAccepted .. | .refusedRead .. => true

end Sys2Proof

namespace Sys2Proof.Machine

/-- A 4-byte write at an offset of a page. -/
def regAt (p : Page) (off : BitVec 12) : RegAddr := { page := BitVec.ofNat 8 p.number, off := off }

/-- The pair of a row of PAIR_LO_WRITE or PAIR_HI_WRITE (R14). -/
def wrPairId : WrPair → PairId
  | .lifeAnchor => .lifeAnchor | .treeChkVal => .treeChkVal | .numSeed => .numSeed | .schGen => .schGen

/-- The pair of a row of PAIR_LO_READ (R14). -/
def rdPairId : RdPair → PairId
  | .lifeAnchor => .lifeAnchor | .lifeCal => .lifeCal | .cntLive => .cntLive | .treeChkVal => .treeChkVal
  | .treeMin => .treeMin | .treeMax => .treeMax | .schGen => .schGen

end Sys2Proof.Machine
end

