-- ==== Sys2Proof/Certificates/Slice0/Obligations.lean ====
section
/-! DEFINITION. The statements for the provers. -/
open Sys2Proof Sys2Proof.Machine

/-! ## The queue and one fc -/

/-- A step takes the command at the front of the queue: it is that command's effect on the state with the queue's rest. -/
def Obligations.StepTakesFront : Prop :=
  ∀ (s : State) (c : Instr) (rest : List Instr), s.pending = c :: rest → step s = exec c { s with pending := rest }

/-- What one fc does where no command and no access waits (the model's choice, log entry 4): nothing while FCLK is gated; otherwise
fc rises, FC_ACTIVE or FC_READY counts (Table 16.5), DROOP_FC counts in a guard band, the envelope moves on by one fc (R281; its
shape between the limits is log entry 61) and a change from or to ACTIVE is reported (R278), and nothing else happens. The
envelope's next value differs from the last by at most the rate in force, every value of it is at most ICAP, and in READY none is
below the idle current. -/
def Obligations.EmptyQueueIsOneFc : Prop :=
  (∀ s : State, s.pending = [] → s.port.behind = [] →
    (s.fclkRuns = false → step s = .next s) ∧
    (s.fclkRuns = true → s.port.waits = [] →
      let s1 : State := { s with fc := s.fc + 1 }
      let s2 := if s.pwr.st = .ready then s1.count (if s.working then 34 else 33) 1 else s1
      let s3 := if s.pwr.guardBand = 0 then s2 else s2.count 26 1
      let s4 : State := { s3 with env := { plan := (s3.env.plan.drop 1 ++ [s3.envNext]).map s3.clampEnv } }
      step s = .next (if s.pwr.st = .ready ∧ s.working ≠ s.pwr.shownActive then s4.reportState else s4))) ∧
  (∀ s : State,
    let most := 4 * s.pwr.rateInForce * 65536 / s.pwr.fclk.toNat
    s.envNext ≤ s.envAhead + most ∧ s.envAhead ≤ s.envNext + most ∧
    (∀ e : Nat, s.clampEnv e ≤ Nat.max 64 (Nat.min 640 s.pwr.icap.toNat) * 65536 ∧
      (s.pwr.st = .ready → Nat.min (s.asEnv s.idleCoef) (Nat.max 64 (Nat.min 640 s.pwr.icap.toNat) * 65536) ≤ s.clampEnv e)))


/-! ## Reset and the invariant -/

/-- Registers after a host-chip reset, as page, offset and value (chapters 14 to 16; Tables 13.2, 13.8, 14.5 to 14.13,
15.1 to 15.13). -/
def resetWords : List (Page × Nat × Word) :=
  [(.glb, 0x000, 0xD4000001), (.glb, 0x040, 0x0000A03C), (.glb, 0x044, 0x10405206), (.glb, 0x048, 0), (.glb, 0x04C, 0xFFFFFFFF),
   (.glb, 0x050, 0), (.glb, 0x058, 1), (.pwr, 0x040, 0x00100083), (.pwr, 0x044, 3), (.pwr, 0x048, 0),
   (.pwr, 0x04C, 0x02804010), (.pwr, 0x050, 0x960), (.pwr, 0x058, 0), (.life, 0x044, 0), (.port, 0x040, 0x11111111),
   (.port, 0x044, 0), (.port, 0x058, 0), (.port, 0x05C, 0), (.eval, 0x040, 0x000000C4), (.eval, 0x100, 0x000C0000),
   (.tbl, 0x040, 0), (.tbl, 0x048, 0), (.tbl, 0x04C, 0), (.tbl, 0x050, 0), (.tbl, 0x054, 0x00000100), (.tbl, 0x058, 0),
   (.crz, 0x040, 0), (.chn, 0x048, 0), (.arv, 0x050, 0), (.ctx, 0x040, 0), (.ctx, 0x044, 0), (.ctx, 0x04C, 0),
   (.ctx, 0x050, 0), (.ctx, 0x054, 0), (.tree, 0x040, 0), (.tree, 0x044, 0), (.tree, 0x054, 0), (.num, 0x048, 0x01063210),
   (.num, 0x04C, 0x00100040), (.num, 0x050, 0), (.ten, 0x040, 0), (.ten, 0x048, 0), (.ten, 0x04C, 0), (.log, 0x040, 0),
   (.log, 0x044, 0), (.log, 0x048, 0), (.log, 0x04C, 0), (.log, 0x050, 0), (.log, 0x054, 0), (.sch, 0x04C, 0),
   (.sch, 0x054, 0), (.sen, 0x040, 0x00001002), (.sen, 0x044, 0), (.img, 0x044, 0x00001000), (.img, 0x050, 0), (.img, 0x054, 0xFFFFFFFF),
   (.img, 0x058, 0xFFFFFFFF), (.img, 0x05C, 0), (.img, 0x060, 0), (.cnt, 0x048, 0), (.dbg, 0x040, 0)]

/-- A host-chip reset leaves the registers at these values. -/
def Obligations.ResetRegisters : Prop := ∀ r ∈ resetWords, State.reset.regWord r.1 r.2.1 = r.2.2

/-- The state after reset is sound. -/
def Obligations.ResetSound : Prop := State.reset.Inv

/-- Every step keeps a sound state sound: a header for each page, whose PG_ERR_INFO holds a cause of Table 14.3 or nothing (R295);
counters canonical and within 64 bits (R331); at most 16 held records (R323); the slots, pinnae and groups of Table 14.6; an entry
to a lower state under way exactly in ENTERING (R275, R276); FCLK in the range of Table 14.7; identifiers on P0 that were given out;
and the stores of both banks in their canonical form (R94). -/
def Obligations.StepKeepsSound : Prop := ∀ s t : State, s.Inv → step s = .next t → t.Inv

/-- Nothing that happens inside the block changes a setting: every command but the register writes, the frames that write
or grant, the requests and wakes, the resets and the loads of the calibration set and of an image leaves every
setting, where no write waits behind a read. No command touches the queue of the commands that wait, nor the instance number, which PG_IDENT[15:8] of
every page that the variant has reads (R16). -/
def Obligations.HappeningsKeepSettings : Prop :=
  (∀ (c : Instr) (s t : State), c.leavesSettings = true → (∀ b ∈ s.port.behind, b.v = none) → exec c s = .next t →
    t.settings = s.settings) ∧
  ((∀ (c : Instr) (s t : State), exec c s = .next t → t.pending = s.pending) ∧
    ((∀ (s : State) (rq : Requester) (p : Page), s.serves rq p →
       ∃ w : Word, w.extractLsb' 8 8 = s.inst ∧ s.busRead (accessOf rq p 0x000) = s.answerRead (accessOf rq p 0x000) w) ∧
     (∀ (c : Instr) (s t : State), exec c s = .next t → t.inst = s.inst)))

/-! ## The register window (chapter 0, R295 to R299) -/

/-- R3: the pages of units that Derlith-4M lacks read zero at every offset and width and discard writes, with nothing
else changed. -/
def Obligations.AbsentUnit : Prop :=
  ∀ (s : State) (p : Page), s.variant = .d4m → p = .sch ∨ p = .sen →
    (∀ a : Access, a.page = p.number → s.refuses a.rq a.page = false →
      s.busRead a = s.answerRead a 0 ∧ ∀ v, s.busWrite a v = s.answerWrite a) ∧
    (∀ (core : Fin 16) (r : RawAccess), r.addr.toNat / 4096 = p.number → s.refuses (.core core) p.number = false →
      s.clearFor (.core core) → exec (.refusedRead core r) s = .next (s.answerRead (rawAccess core r) 0)) ∧
    (∀ (rq : Requester) (r : RegAddr) (v : Word), r.page.toNat = p.number → s.refuses rq p.number = false → s.clearFor rq →
      exec (.registerWrite rq r v) s = .next (s.answerWrite (regAccess rq r)))

/-- R10: an offset in a page number that the page map lacks reads zero and ignores writes, as a reserved offset does. -/
def Obligations.AbsentPageNumber : Prop :=
  ∀ s : State,
    (∀ a : Access, (∀ p : Page, p.number ≠ a.page) → s.refuses a.rq a.page = false →
      s.busRead a = s.answerRead a 0 ∧ ∀ v, s.busWrite a v = s.answerWrite a) ∧
    (∀ (core : Fin 16) (r : RawAccess), (∀ p : Page, p.number ≠ r.addr.toNat / 4096) →
      s.refuses (.core core) (r.addr.toNat / 4096) = false → s.clearFor (.core core) →
      exec (.refusedRead core r) s = .next (s.answerRead (rawAccess core r) 0)) ∧
    (∀ (rq : Requester) (r : RegAddr) (v : Word), (∀ p : Page, p.number ≠ r.page.toNat) →
      s.refuses rq r.page.toNat = false → s.clearFor rq →
      exec (.registerWrite rq r v) s = .next (s.answerWrite (regAccess rq r)))

/-- R8: an access of another width or alignment is not performed: the read returns zero, the write has no effect, and the
fault is recorded in PG_ERR_INFO of the addressed page. -/
def Obligations.WidthFault : Prop :=
  ∀ (s : State) (p : Page),
    (∀ (core : Fin 16) (r : RawAccess), s.serves (.core core) p → r.addr.toNat / 4096 = p.number →
      (r.bytes ≠ 4 ∨ r.addr.toNat % 4 ≠ 0) →
      exec (.refusedRead core r) s =
        .next ((s.recordFault p .width (.core core) (rawAccess core r).waddr).answerRead (rawAccess core r) 0)) ∧
    (∀ (rq : Requester) (r : RegAddr) (v : Word), s.serves rq p → r.page.toNat = p.number →
      (r.bytes ≠ 4 ∨ r.off.toNat % 4 ≠ 0) →
      exec (.registerWrite rq r v) s =
        .next ((s.recordFault p .width rq (regAccess rq r).waddr).answerWrite (regAccess rq r)))

/-- R11: DORMANT and WAKING serve no access over P2 and over REST only those to GLB, PWR, LIFE and CAL. A refused read
returns all ones and a refused write has no effect; the PWR page's error status is set, and under AUTOWAKE a wake starts. -/
def Obligations.RefusedAccess : Prop :=
  ∀ s : State, s.inReset = false → s.pwr.st = .dormant ∨ s.pwr.st = .waking →
    (∀ a : Access, (a.rq ≠ .rest ∨ 3 < a.page) →
      let s1 : State := { s with pwr := { s.pwr with dacc := BitVec.ofNat 32 (Nat.min (s.pwr.dacc.toNat + 1) 0xFFFFFFFF) } }
      let s2 := s1.recordFault .pwr .dormant a.rq a.waddr
      let s3 := if s.pwr.autowake then s2.wake true else s2
      s.busRead a = s3.answerRead a 0xFFFFFFFF 1 ∧ (∀ v, s.busWrite a v = s3.answerWrite a 1) ∧
      (s.hdrs.length = 20 → (s2.hdr .pwr).err.cause ≠ 0 ∧ (s2.hdr .pwr).event.getLsbD 0 = true)) ∧
    (∀ (core : Fin 16) (r : RawAccess), s.clearFor (.core core) →
      exec (.refusedRead core r) s = .next (s.refuseRead (rawAccess core r))) ∧
    (∀ (rq : Requester) (r : RegAddr) (v : Word), (rq ≠ .rest ∨ 3 < r.page.toNat) → s.clearFor rq →
      exec (.registerWrite rq r v) s = .next (s.refuseWrite (regAccess rq r))) ∧
    (∀ (p : Page) (off : Nat) (v : Word), p.alwaysOn = true → off % 4 = 0 →
      s.busRead (accessOf .rest p off) = (s.readReg .rest p off).1.answerRead (accessOf .rest p off) (s.readReg .rest p off).2 ∧
      s.busWrite (accessOf .rest p off) v = (s.writeReg .rest p off v).answerWrite (accessOf .rest p off))

/-- R12: LOCK of a page stays set until a block reset, and a write of 0 to it has no effect. -/
def Obligations.LockStays : Prop :=
  (∀ (c : Instr) (s t : State) (p : Page), exec c s = .next t → t.inReset = false → (s.hdr p).lock = true →
    (t.hdr p).lock = true) ∧
  (∀ (s : State) (p : Page) (rq : Requester) (v : Word), s.serves rq p → s.hdrs.length = 20 → v.getLsbD 31 = false →
    exec (.registerWrite rq { page := BitVec.ofNat 8 p.number, off := 0x008 } v) s = .next (s.answerWrite (accessOf rq p 0x008)))


/-- R295: a fault fills PG_ERR_INFO of its page where CAUSE is zero, and otherwise leaves the first record and sets OVF;
PG_EVENT.ERR is set and nothing else of the page or of another page changes; a read of PG_ERR_INFO returns the record and
clears it. -/
def Obligations.ErrorInfo : Prop :=
  (∀ (s : State) (p q : Page) (c : Cause) (rq : Requester) (w : BitVec 18), s.hdrs.length = 20 →
    let h := (s.recordFault p c rq w).hdr p
    h = { s.hdr p with event := (s.hdr p).event ||| 1, err := h.err } ∧
    ((s.hdr p).err.cause = 0 → h.err = {
      cause := BitVec.ofNat 4 c.code, ovf := false, src := decide (rq = .rest)
      core := (match rq with | .core k => BitVec.ofNat 4 k.val | .rest => 0), waddr := w }) ∧
    ((s.hdr p).err.cause ≠ 0 → h.err = { (s.hdr p).err with ovf := true }) ∧
    (q ≠ p → (s.recordFault p c rq w).hdr q = s.hdr q)) ∧
  (∀ (s : State) (rq : Requester) (p : Page), s.serves rq p →
    exec (.pgErrInfoRead rq (BitVec.ofNat 8 p.number)) s =
      .next ((s.setHdr p { s.hdr p with err := {} }).answerRead (accessOf rq p 0x018) (s.hdr p).err.word))

/-- R296: bit b of DL_GLB_EVSUM reads 1 exactly while its page has an enabled PG_EVENT bit set; a happening sets its
PG_EVENT bit whether or not it is enabled. -/
def Obligations.EventSummary : Prop :=
  (∀ (s : State) (p : Page), s.evsum.testBit p.bit = decide ((s.hdr p).event &&& (s.hdr p).eventEn ≠ 0)) ∧
  (∀ (s : State) (rq : Requester), s.serves rq .glb →
    s.busRead (accessOf rq .glb 0x050) = s.answerRead (accessOf rq .glb 0x050) (BitVec.ofNat 32 s.evsum)) ∧
  (∀ (s : State) (p : Page) (b : Nat), s.hdrs.length = 20 → b < 32 →
    ((s.pageEvent p b).hdr p) = { s.hdr p with event := (s.hdr p).event ||| BitVec.ofNat 32 (2 ^ b) } ∧
    ((s.pageEvent p b).hdr p).event.getLsbD b = true)


/-! ## Registers -/

/-- R14, reads: a read of a lower half captures the whole for its requester and returns the lower half; the next read of
the upper half by the same requester returns what it captured, and one without a capture returns the current upper half;
no other requester's capture and no other pair's changes. A pair that is RC clears with the capture, or with an upper half
read without one. -/
def Obligations.PairReads : Prop :=
  ∀ (s : State) (rq : Requester),
    let captured := fun (pid : PairId) =>
      ({ s with pairs := { s.pairs with captured := setKey (rq, pid) ((s.pairValue pid).extractLsb' 32 32) s.pairs.captured } } :
        State).clearPair pid
    let lower := fun (pid : PairId) => (s.pairValue pid).extractLsb' 0 32
    (∀ k : RdPair, s.serves rq (rdPairAt k).1 → exec (.pairLoRead rq k) s =
      .next ((captured (rdPairId k)).answerRead (accessOf rq (rdPairAt k).1 (rdPairAt k).2) (lower (rdPairId k)))) ∧
    (s.serves rq .num → exec (.dlNumSeedLoRead rq) s =
      .next ((captured .numSeed).answerRead (accessOf rq .num 0x040) (s.num.seed.extractLsb' 0 32))) ∧
    (s.serves rq .crz → exec (.dlCrzWordLoRead rq) s =
      .next ((captured .crzWord).answerRead (accessOf rq .crz 0x044) (lower .crzWord))) ∧
    (s.serves rq .cnt → s.shadowReady s.cnt.index.toNat = true → exec (.dlCntShadowLoRead rq) s =
      .next ((captured .cntShadow).answerRead (accessOf rq .cnt 0x054) (lower .cntShadow))) ∧
    (s.serves rq .chn → exec (.dlChnRefuseRead rq .lo) s =
      .next ((captured .chnRefuse).answerRead (accessOf rq .chn 0x04C) s.chn.refuse.lo)) ∧
    (s.serves rq .arv → exec (.dlArvDropRead rq .lo) s =
      .next ((captured .arvDrop).answerRead (accessOf rq .arv 0x054) s.chn.drop.lo)) ∧
    (∀ (p : Page) (off : Nat) (pid : PairId), pairAt p off = some (pid, true) → s.serves rq p →
      (∀ w, lookupKey (rq, pid) s.pairs.captured = some w →
        s.busRead (accessOf rq p off) =
          ({ s with pairs := { s.pairs with captured := dropKey (rq, pid) s.pairs.captured } } : State).answerRead
            (accessOf rq p off) w) ∧
      (lookupKey (rq, pid) s.pairs.captured = none →
        s.busRead (accessOf rq p off) =
          (s.clearPair pid).answerRead (accessOf rq p off) ((s.pairValue pid).extractLsb' 32 32))) ∧
    (∀ (pid pid' : PairId) (rq' : Requester) (w : Word), (rq', pid') ≠ (rq, pid) →
      lookupKey (rq', pid') (setKey (rq, pid) w s.pairs.captured) = lookupKey (rq', pid') s.pairs.captured ∧
      lookupKey (rq', pid') (dropKey (rq, pid) s.pairs.captured) = lookupKey (rq', pid') s.pairs.captured ∧
      lookupKey (rq, pid) (setKey (rq, pid) w s.pairs.captured) = some w)

/-- R14, writes: a write of a lower half is held for its requester, in place of what it held; a write of an upper half joins
the half that its requester holds, or the current lower half, and spends it; PG_SEQ counts a change of the
quantity (R297; that a held lower half counts none is the model's reading, log entry 72). A write of
DL_LIFE_ANCHOR_HI also sets the calendar and ANCHORED (R291). -/
def Obligations.PairWrites : Prop :=
  ∀ (s : State) (rq : Requester) (k : WrPair) (v : Word), s.serves rq (wrPairAt k).1 →
    let p := (wrPairAt k).1
    let off := (wrPairAt k).2
    let pid := wrPairId k
    let joined : DWord := v ++ (lookupKey (rq, pid) s.pairs.held).getD ((s.pairValue pid).extractLsb' 0 32)
    let s1 : State := { s with pairs := { s.pairs with held := dropKey (rq, pid) s.pairs.held } }
    let t : State := match k with
      | .lifeAnchor => { s1 with life := { s.life with anchor := joined, calendar := joined, anchored := true } }
      | .treeChkVal => { s1 with tree := { s.tree with chkVal := joined } }
      | .numSeed => { s1 with num := { s.num with seed := joined } }
      | .schGen => { s1 with sch := { s.sch with gen := joined } }
    let u := if joined = s.pairValue pid then t else t.bumpSeq p
    exec (.pairLoWrite rq k v) s =
      .next (({ s with pairs := { s.pairs with held := setKey (rq, pid) v s.pairs.held } } : State).answerWrite (accessOf rq p off)) ∧
    exec (.pairHiWrite rq k v) s = .next (u.answerWrite (accessOf rq p (off + 4))) ∧
    (k = .numSeed → exec (.dlNumSeedHi rq v) s = .next (u.answerWrite (accessOf rq .num 0x044))) ∧
    (k = .lifeAnchor → exec (.dlLifeAnchorHi rq v) s = .next (u.answerWrite (accessOf rq .life 0x04C)))

/-- Registers that a read clears (RC of Table 0.4; Tables 14.7, 14.10, 14.11, 15.5, 15.6, 15.9, 15.11, 15.13): each read
returns the value and clears it, and changes nothing else. A read of DL_CTX_QRESULT for an index outside the limit, or
whose context is not DRAINED or has its tile in the cache, is answered at once and changes nothing (R316, Table 15.7);
outside the limit it reads zero. A read of DL_CNT_SHADOW_LO of a counter that is not copied yet is left to wait
(R305). -/
def Obligations.ReadsThatAct : Prop :=
  (∀ (s : State) (rq : Requester),
     (s.serves rq .num → exec (.dlNumLastWidenRead rq) s = .next
       (({ s with num := { s.num with lastValid := false, lastOvf := false, lastFmt := 0, lastTid := 0 } } : State).answerRead
         (accessOf rq .num 0x050)
         (word [(b2n s.num.lastValid, 31), (b2n s.num.lastOvf, 30), (s.num.lastFmt.toNat, 16), (s.num.lastTid.toNat, 0)]))) ∧
     (s.serves rq .sen → exec (.dlSenViolInfoRead rq) s = .next
       (({ s with sen := { s.sen with valid := false, ovf := false, info := 0 } } : State).answerRead (accessOf rq .sen 0x048)
         (s.regWord .sen 0x048))) ∧
     (s.serves rq .log → exec (.dlLogLostRead rq) s = .next
       (({ s with log := { s.log with lost := 0 } } : State).answerRead (accessOf rq .log 0x054) s.log.lost)) ∧
     (s.serves rq .pwr → exec (.dlPwrDaccRead rq) s = .next
       (({ s with pwr := { s.pwr with dacc := 0 } } : State).answerRead (accessOf rq .pwr 0x058) s.pwr.dacc)) ∧
     (s.serves rq .port → exec (.dlPortRestBadRead rq) s = .next
       (({ s with port := { s.port with restBad := 0 } } : State).answerRead (accessOf rq .port 0x058) s.port.restBad)) ∧
     (s.serves rq .port → exec (.dlPortSpadErrRead rq) s = .next
       (({ s with port := { s.port with spadErr := none } } : State).answerRead (accessOf rq .port 0x05C)
         (match s.port.spadErr with | some a => BitVec.ofNat 32 (2 ^ 31 + a.toNat) | none => 0))) ∧
     (s.serves rq .img → exec (.dlImgFragCountRead rq .stale) s = .next
       (({ s with img := { s.img with fragStale := 0 } } : State).answerRead (accessOf rq .img 0x080) s.img.fragStale)) ∧
     (s.serves rq .img → exec (.dlImgFragCountRead rq .bad) s = .next
       (({ s with img := { s.img with fragBad := 0 } } : State).answerRead (accessOf rq .img 0x084) s.img.fragBad)) ∧
     (s.serves rq .img → exec (.dlImgFragCountRead rq .dup) s = .next
       (({ s with img := { s.img with fragDup := 0 } } : State).answerRead (accessOf rq .img 0x088) s.img.fragDup)) ∧
     (s.serves rq .chn → lookupKey (rq, PairId.chnRefuse) s.pairs.captured = none →
       exec (.dlChnRefuseRead rq .hi) s = .next (({ s with chn := { s.chn with refuse := {} } } : State).answerRead
         (accessOf rq .chn 0x050) (s.chn.refuse.dword.extractLsb' 32 32))) ∧
     (s.serves rq .arv → lookupKey (rq, PairId.arvDrop) s.pairs.captured = none →
       exec (.dlArvDropRead rq .hi) s = .next (({ s with chn := { s.chn with drop := {} } } : State).answerRead
         (accessOf rq .arv 0x058) (s.chn.drop.dword.extractLsb' 32 32)))) ∧
  (∀ (s : State) (rq : Requester),
     (s.serves rq .ctx → s.ctx.limit.toNat ≤ s.ctx.query.toNat →
       exec (.dlCtxQresultRead rq) s = .next (s.answerRead (accessOf rq .ctx 0x05C) 0)) ∧
     (s.serves rq .ctx → s.ctx.query.toNat < s.ctx.limit.toNat →
       s.ctxDrained s.ctx.query.toNat = false ∨ s.ctxResident (s.ctx.query.toNat / 128) = true →
       exec (.dlCtxQresultRead rq) s = .next (s.answerRead (accessOf rq .ctx 0x05C)
         (BitVec.ofNat 32 (2 ^ 31 + (s.ctxHeld s.ctx.query.toNat).1 * 2 ^ 28 + (s.ctxHeld s.ctx.query.toNat).2.toNat * 2 ^ 24
           + b2n (s.ctxResident (s.ctx.query.toNat / 128)) * 2 ^ 16)))) ∧
     (s.serves rq .cnt → s.cnt.st = .copying → s.fc ≤ s.cnt.freezeFc + s.cnt.index.toNat / 4 + 1 →
       exec (.dlCntShadowLoRead rq) s = .next { s with port := { s.port with waits := s.port.waits ++
         [{ rq := rq, frame := frameOf 1 0 (accessOf rq .cnt 0x054).waddr.toNat 0 s.cnt.index.toNat, shadow := true }] } }))


/-- Writes of plain RW registers (Table 0.4): each sets its fields from the written word, and nothing else but PG_SEQ
(`State.rw`, see WritesReadBack). A written FCLK outside 1,200 to 2,600 is not performed and recorded as VALUE (Table 14.7). QUAR_EN
written 1 lifts the bar that a failed self-test sets (R330). -/
def Obligations.PlainRegisters : Prop :=
  ∀ (s : State) (rq : Requester) (v : Word),
    let wr := fun (p : Page) (off : BitVec 12) (t : State) => s.serves rq p →
      exec (.registerWrite rq (regAt p off) v) s = .next ((s.rw p off.toNat t).answerWrite (accessOf rq p off.toNat))
    wr .pwr 0x048 { s with pwr := { s.pwr with
      idleRest := v.extractLsb' 16 16, ballastHold := v.extractLsb' 8 8, autowake := v.getLsbD 0 } } ∧
    wr .pwr 0x04C { s with pwr := { s.pwr with
      icap := v.extractLsb' 16 10, deadband := v.extractLsb' 12 4, rate := v.extractLsb' 0 8 } } ∧
    (1200 ≤ (v.extractLsb' 0 12).toNat → (v.extractLsb' 0 12).toNat ≤ 2600 →
      wr .pwr 0x050 { s with pwr := { s.pwr with fclk := v.extractLsb' 0 12 } }) ∧
    ((v.extractLsb' 0 12).toNat < 1200 ∨ 2600 < (v.extractLsb' 0 12).toNat → s.serves rq .pwr →
      exec (.registerWrite rq (regAt .pwr 0x050) v) s =
        .next ((s.regFault .pwr .value rq 0x050).answerWrite (accessOf rq .pwr 0x050))) ∧
    (∀ i : Fin 64, wr .life (BitVec.ofNat 12 (0x200 + 4 * i.val)) { s with life := { s.life with inp := s.life.inp.set i.val v } }) ∧
    wr .tbl 0x048 { s with tbl := { s.tbl with loadSrc := v } } ∧
    wr .tbl 0x04C { s with tbl := { s.tbl with loadFirst := v.extractLsb' 0 16 } } ∧
    wr .tbl 0x050 { s with tbl := { s.tbl with loadCount := v.extractLsb' 0 16 } } ∧
    wr .crz 0x040 { s with tbl := { s.tbl with
      crzSelBank := v.getLsbD 16, crzSel := v.extractLsb' 8 8, crzWord := v.extractLsb' 0 5 } } ∧
    (∀ i : Fin 3, wr .arv (BitVec.ofNat 12 (0x040 + 4 * i.val)) { s with chn := { s.chn with ring := s.chn.ring.set i.val v } }) ∧
    wr .ctx 0x04C { s with ctx := { s.ctx with drainCount := v.extractLsb' 0 21 } } ∧
    wr .ctx 0x058 { s with ctx := { s.ctx with query := v.extractLsb' 0 20 } } ∧
    wr .num 0x048 { s with num := { s.num with widenSat := v &&& 0x01FFFFFF } } ∧
    wr .num 0x04C { s with num := { s.num with widenUfl := v &&& 0x01FFFFFF } } ∧
    wr .ten 0x048 { s with num := { s.num with cmdCount := v.extractLsb' 0 17 } } ∧
    wr .ten 0x050 { s with num := { s.num with kmask := v.extractLsb' 16 5, dormN := v.extractLsb' 0 16 } } ∧
    wr .log 0x058 { s with log := { s.log with water := v.extractLsb' 0 20 } } ∧
    (∀ i : Fin 8, wr .log (BitVec.ofNat 12 (0x060 + 4 * i.val)) { s with log := { s.log with mask := s.log.mask.set i.val v } }) ∧
    wr .sch 0x04C { s with sch := { s.sch with scope := v.extractLsb' 0 2 } } ∧
    wr .sch 0x050 { s with sch := { s.sch with forceEta := v } } ∧
    wr .sen 0x040 { s with sen := { s.sen with
      rate := v.extractLsb' 8 5, quarEn := v.getLsbD 1, en := v.getLsbD 0, barred := s.sen.barred && !v.getLsbD 1 } } ∧
    wr .img 0x048 { s with img := { s.img with argStep := v } } ∧
    wr .img 0x04C { s with img := { s.img with argGen := v.extractLsb' 0 16 } } ∧
    wr .img 0x064 { s with img := { s.img with addr := v } } ∧
    wr .img 0x068 { s with img := { s.img with size := v } } ∧
    wr .img 0x06C { s with img := { s.img with frag := v } } ∧
    wr .cnt 0x044 { s with cnt := { s.cnt with arg := v } } ∧
    wr .cnt 0x050 { s with cnt := { s.cnt with index := v.extractLsb' 0 10 } }

/-- RW registers with the bits of theirs that hold what is written. -/
def rwRegisters : List (Page × BitVec 12 × Word) :=
  [(.pwr, 0x048, 0xFFFFFF01), (.pwr, 0x04C, 0x03FFF0FF), (.tbl, 0x048, 0xFFFFFFFF), (.tbl, 0x04C, 0x0000FFFF),
   (.tbl, 0x050, 0x0000FFFF), (.crz, 0x040, 0x0001FF1F), (.ctx, 0x04C, 0x001FFFFF), (.ctx, 0x058, 0x000FFFFF),
   (.num, 0x048, 0x01FFFFFF), (.num, 0x04C, 0x01FFFFFF), (.ten, 0x048, 0x0001FFFF), (.ten, 0x050, 0x001FFFFF),
   (.log, 0x058, 0x000FFFFF), (.sch, 0x04C, 0x00000003), (.sch, 0x050, 0xFFFFFFFF), (.sen, 0x040, 0x00001F03),
   (.img, 0x048, 0xFFFFFFFF), (.img, 0x04C, 0x0000FFFF), (.img, 0x064, 0xFFFFFFFF), (.img, 0x068, 0xFFFFFFFF),
   (.img, 0x06C, 0xFFFFFFFF), (.cnt, 0x044, 0xFFFFFFFF), (.cnt, 0x050, 0x000003FF), (.port, 0x040, 0xFFFFFFFF),
   (.eval, 0x040, 0x000000FF)]

/-- A write of an RW register reads back on the bits the register has (Table 0.4), and PG_SEQ of its page counts it exactly
where it changed the register (R297). PG_SEQ of every other page stands. -/
def Obligations.WritesReadBack : Prop :=
  ∀ (s : State) (rq : Requester) (v : Word) (r : Page × BitVec 12 × Word), r ∈ rwRegisters → s.serves rq r.1 → s.hdrs.length = 20 →
    ∃ t : State, exec (.registerWrite rq (regAt r.1 r.2.1) v) s = .next (t.answerWrite (accessOf rq r.1 r.2.1.toNat)) ∧
      t.regWord r.1 r.2.1.toNat = v &&& r.2.2 ∧
      (t.hdr r.1).seq = (if v &&& r.2.2 = s.regWord r.1 r.2.1.toNat then (s.hdr r.1).seq else (s.hdr r.1).seq + 1) ∧
      ∀ q : Page, t.hdr q = { s.hdr q with seq := if q = r.1 then (t.hdr q).seq else (s.hdr q).seq }

/-- Writes of header registers and of status bits that are W1C (Tables 0.4, 14.2, 14.11, 15.5, 15.6, 15.8, 15.12, 15.13):
each 1 clears its bit, each 0 leaves it, and PG_SEQ stands (R297). -/
def Obligations.StatusWrites : Prop :=
  ∀ (s : State) (rq : Requester) (v : Word),
    let wr := fun (p : Page) (off : BitVec 12) (t : State) => s.serves rq p →
      exec (.registerWrite rq (regAt p off) v) s = .next (t.answerWrite (accessOf rq p off.toNat))
    (∀ p : Page, wr p 0x008 (s.setHdr p { s.hdr p with lock := (s.hdr p).lock || v.getLsbD 31 })) ∧
    (∀ p : Page, wr p 0x010 (s.setHdr p { s.hdr p with event := (s.hdr p).event &&& ~~~v })) ∧
    (∀ p : Page, wr p 0x014 (s.setHdr p { s.hdr p with eventEn := v })) ∧
    (∀ (p : Page) (off : BitVec 12), off ∈ [0x000, 0x004, 0x00C, 0x018, 0x01C] → wr p off s) ∧
    wr .chn 0x048 { s with chn := { s.chn with qfull := s.chn.qfull && !v.getLsbD 31 } } ∧
    wr .arv 0x050 { s with chn := { s.chn with ringFull := s.chn.ringFull && !v.getLsbD 31 } } ∧
    wr .tree 0x054 { s with tree := { s.tree with
      fwDone := s.tree.fwDone && !v.getLsbD 30
      fwMismatch := s.tree.fwMismatch && !v.getLsbD 29, schMismatch := s.tree.schMismatch && !v.getLsbD 28 } } ∧
    wr .sch 0x054 { s with sch := { s.sch with unchecked := s.sch.unchecked && !v.getLsbD 1, skew := s.sch.skew && !v.getLsbD 0 } } ∧
    wr .sen 0x044 { s with sen := { s.sen with viol := s.sen.viol && !v.getLsbD 1 } } ∧
    wr .img 0x044 { s with img := { s.img with logOvf := s.img.logOvf && !v.getLsbD 11 } }


/-- Writes of DL_CTX_BASE and DL_CTX_LIMIT (R116), DL_TEN_BASE (R195), DL_TREE_CFG and DL_TREE_IMASK (R175): performed where
the value keeps its alignment and range and the unit does not use the register; otherwise of no effect, and recorded as
VALUE or STATE, the first where both hold being the model's reading (log entries 36 and 73). -/
def Obligations.RegionRegisters : Prop :=
  ∀ (s : State) (rq : Requester) (v : Word),
    (s.serves rq .ctx → v.toNat % 2048 = 0 →
      exec (.dlCtxBaseLimitWrite rq false v) s = .next (State.answerWrite
        (if s.ctxOpen = 0 ∧ s.ctx.lines = [] then s.rw .ctx 0x040 { s with ctx := { s.ctx with base := v } }
         else s.regFault .ctx .state rq 0x040) (accessOf rq .ctx 0x040))) ∧
    (s.serves rq .ctx → v.toNat % 2048 ≠ 0 →
      exec (.dlCtxBaseLimitWrite rq false v) s = .next ((s.regFault .ctx .value rq 0x040).answerWrite (accessOf rq .ctx 0x040))) ∧
    (s.serves rq .ctx → (v.extractLsb' 0 21).toNat % 128 = 0 → (v.extractLsb' 0 21).toNat ≤ s.maxContexts →
      exec (.dlCtxBaseLimitWrite rq true v) s = .next (State.answerWrite
        (if s.ctxOpen = 0 ∧ s.ctx.lines = [] then s.rw .ctx 0x044 { s with ctx := { s.ctx with limit := v.extractLsb' 0 21 } }
         else s.regFault .ctx .state rq 0x044) (accessOf rq .ctx 0x044))) ∧
    (s.serves rq .ctx → ((v.extractLsb' 0 21).toNat % 128 ≠ 0 ∨ s.maxContexts < (v.extractLsb' 0 21).toNat) →
      exec (.dlCtxBaseLimitWrite rq true v) s = .next ((s.regFault .ctx .value rq 0x044).answerWrite (accessOf rq .ctx 0x044))) ∧
    (s.serves rq .ten → v.toNat % 4096 = 0 →
      exec (.dlTenBase rq v) s = .next (State.answerWrite
        (if s.num.lines = [] ∧ s.chains = [] then s.rw .ten 0x040 { s with num := { s.num with base := v } }
         else s.regFault .ten .state rq 0x040) (accessOf rq .ten 0x040))) ∧
    (s.serves rq .ten → v.toNat % 4096 ≠ 0 →
      exec (.dlTenBase rq v) s = .next ((s.regFault .ten .value rq 0x040).answerWrite (accessOf rq .ten 0x040))) ∧
    (s.serves rq .tree → (∀ c ∈ s.chains, c.d.treeScoped = false) →
      exec (.dlTreeCfgWrite rq false v) s = .next (State.answerWrite (s.rw .tree 0x040 { s with tree := { s.tree with
        valid := v.getLsbD 31, nchipsM1 := v.extractLsb' 10 10, rank := v.extractLsb' 0 10 } }) (accessOf rq .tree 0x040)) ∧
      exec (.dlTreeCfgWrite rq true v) s = .next (State.answerWrite (s.rw .tree 0x044 { s with tree := { s.tree with
        imask := match s.variant with
          | .d4 => v.extractLsb' 0 16
          | .d4m => (v.extractLsb' 0 8).setWidth 16 } }) (accessOf rq .tree 0x044))) ∧
    (s.serves rq .tree → (∃ c ∈ s.chains, c.d.treeScoped = true) →
      exec (.dlTreeCfgWrite rq false v) s = .next ((s.regFault .tree .state rq 0x040).answerWrite (accessOf rq .tree 0x040)) ∧
      exec (.dlTreeCfgWrite rq true v) s = .next ((s.regFault .tree .state rq 0x044).answerWrite (accessOf rq .tree 0x044)))

/-- R320: a consume value for which DL_LOG_WR − value exceeds N is not performed and recorded as VALUE; a write of
DL_LOG_BASE or DL_LOG_SIZE with EN 1 is STATE, one that breaks the alignment VALUE; EN from 0 to 1 sets DL_LOG_RD to
DL_LOG_WR. What else these writes do: they set their fields, and a ring that can take records takes the held ones (R323).
That a misaligned write with EN 1 is STATE is the model's reading (log entry 54). -/
def Obligations.LogRegisters : Prop :=
  ∀ (s : State) (rq : Requester) (v : Word), s.serves rq .log →
    exec (.dlLogRd rq v) s = .next (State.answerWrite
      (if (s.log.wr - v).toNat > s.log.size.toNat / 32 then s.regFault .log .value rq 0x050
       else s.rw .log 0x050 { s with log := { s.log with rd := v } }) (accessOf rq .log 0x050)) ∧
    exec (.dlLogCtrl rq v) s = .next (State.answerWrite
      ((s.rw .log 0x040 { s with log := { s.log with
        en := v.getLsbD 0, rd := if v.getLsbD 0 = true ∧ s.log.en = false then s.log.wr else s.log.rd } }).pumpLog)
      (accessOf rq .log 0x040)) ∧
    (s.log.en = true →
      exec (.dlLogRingWrite rq false v) s = .next ((s.regFault .log .state rq 0x044).answerWrite (accessOf rq .log 0x044)) ∧
      exec (.dlLogRingWrite rq true v) s = .next ((s.regFault .log .state rq 0x048).answerWrite (accessOf rq .log 0x048))) ∧
    (s.log.en = false → v.toNat % 4096 ≠ 0 →
      exec (.dlLogRingWrite rq false v) s = .next ((s.regFault .log .value rq 0x044).answerWrite (accessOf rq .log 0x044)) ∧
      exec (.dlLogRingWrite rq true v) s = .next ((s.regFault .log .value rq 0x048).answerWrite (accessOf rq .log 0x048))) ∧
    (s.log.en = false → v.toNat % 4096 = 0 →
      exec (.dlLogRingWrite rq false v) s =
        .next ((s.rw .log 0x044 { s with log := { s.log with base := v } }).answerWrite (accessOf rq .log 0x044)) ∧
      (v.toNat ≤ 2 ^ 24 → exec (.dlLogRingWrite rq true v) s =
        .next ((s.rw .log 0x048 { s with log := { s.log with size := v } }).answerWrite (accessOf rq .log 0x048))))

/-- R304: a write of DL_IMG_LOG_BASE or DL_IMG_LOG_SIZE is performed only while no chain is ARMED or ADMITTED and no table,
context, registry or image command is busy; it releases every retained step, with REPLAY_UNCOVERED (0x58) for each that is
not checked, so that RETAINED_NONE reads 1. A write of DL_IMG_STAGE or DL_IMG_STAGE_SIZE is performed only in NORMAL or
AWAITING. Any other such write, and one that breaks the alignment, has no effect and is recorded as STATE or VALUE;
that STATE comes first where both hold is the model's reading (log entry 54). -/
def Obligations.ImageRegisters : Prop :=
  ∀ (s : State) (rq : Requester) (v : Word), s.serves rq .img →
    let free := s.chains = [] ∧ s.tbl.cmd = none ∧ s.ctx.cmdBusy = false ∧ s.num.cmd = none ∧ s.img.cmd = none
    (∀ size : Bool, ¬ free → exec (.dlImgLogWrite rq size v) s = .next
      ((s.regFault .img .state rq (if size then 0x060 else 0x05C)).answerWrite (accessOf rq .img (if size then 0x060 else 0x05C)))) ∧
    (∀ size : Bool, free → v.toNat % 4096 ≠ 0 → exec (.dlImgLogWrite rq size v) s = .next
      ((s.regFault .img .value rq (if size then 0x060 else 0x05C)).answerWrite (accessOf rq .img (if size then 0x060 else 0x05C)))) ∧
    (∀ size : Bool, free → v.toNat % 4096 = 0 →
      let freed := s.img.retained.foldl (fun (u : State) c =>
        if stepAbove c.step s.img.checked then (u.freeStep c.step).logEvent 0x58 .img c.step 0 0 0 else u.freeStep c.step) s
      exec (.dlImgLogWrite rq size v) s = .next ((s.rw .img (if size then 0x060 else 0x05C) { freed with img := { freed.img with
        log := [], logHead := 0, logSize := if size then v else freed.img.logSize
        logBase := if size then freed.img.logBase else v } }).answerWrite (accessOf rq .img (if size then 0x060 else 0x05C))) ∧
      freed.img.retained = []) ∧
    (s.img.st ≠ .normal → s.img.st ≠ .awaiting →
      exec (.dlImgStageWrite rq false v) s = .next ((s.regFault .img .state rq 0x074).answerWrite (accessOf rq .img 0x074)) ∧
      exec (.dlImgStageWrite rq true v) s = .next ((s.regFault .img .state rq 0x078).answerWrite (accessOf rq .img 0x078))) ∧
    (s.img.st = .normal ∨ s.img.st = .awaiting →
      exec (.dlImgStageWrite rq true v) s =
        .next ((s.rw .img 0x078 { s with img := { s.img with stageSize := v } }).answerWrite (accessOf rq .img 0x078)) ∧
      (v.toNat % 64 = 0 → exec (.dlImgStageWrite rq false v) s =
        .next ((s.rw .img 0x074 { s with img := { s.img with stage := v } }).answerWrite (accessOf rq .img 0x074))) ∧
      (v.toNat % 64 ≠ 0 → exec (.dlImgStageWrite rq false v) s =
        .next ((s.regFault .img .value rq 0x074).answerWrite (accessOf rq .img 0x074))))

/-- The weights of R69 as they act: 0 acts as 1. -/
def weights (s : State) : Nat × Nat := (Nat.max 1 s.chn.chnWeight.toNat, Nat.max 1 s.chn.laneWeight.toNat)

/-- R69. A write of DL_EVAL_ARB sets the weights and makes both credits of every pinna 0; DL_PORT_LANE_WT is the lane
groups' weights (R260), whose write makes their credits 0 too. A contended fc adds its weight to each class's credit,
grants the chain class where its credit is not below the lane class's, and takes both weights from the credit granted; every
other pinna stands, and CONTENDED counts. -/
def Obligations.Arbitration : Prop :=
  (∀ (s : State) (rq : Requester) (v : Word),
    (s.serves rq .eval → exec (.dlEvalArb rq v) s = .next ((s.rw .eval 0x040 { s with chn := { s.chn with
        chnWeight := v.extractLsb' 4 4, laneWeight := v.extractLsb' 0 4,
        pinnae := s.chn.pinnae.map (fun p => { p with creditChn := 0, creditLane := 0 }) } }).answerWrite
      (accessOf rq .eval 0x040))) ∧
    (s.serves rq .port → exec (.dlPortLaneWt rq v) s = .next ((s.rw .port 0x040 { s with port := { s.port with
        laneWt := v, laneCredit := List.replicate 8 0 } }).answerWrite (accessOf rq .port 0x040)))) ∧
  (∀ (s : State) (p : Fin 40), s.chn.pinnae.length = 40 →
    let q := s.chn.pinnae.getD p.val {}
    let c : Int := q.creditChn + (weights s).1
    let l : Int := q.creditLane + (weights s).2
    let sum : Int := (weights s).1 + (weights s).2
    let q1 : Pinna := if l ≤ c then { q with creditChn := c - sum, creditLane := l }
      else { q with creditChn := c, creditLane := l - sum }
    s.contend p.val =
      (({ s with chn := { s.chn with pinnae := s.chn.pinnae.set p.val q1 } } : State).count 23 1, decide (l ≤ c)))

/-- Contended fc of one pinna in a row, and the grants they make: true for the chain class. -/
def contendRun (p : Nat) : Nat → State → State × List Bool
  | 0, s => (s, [])
  | n + 1, s =>
    let r := s.contend p
    let q := contendRun p n r.1
    (q.1, r.2 :: q.2)

/-- The property that follows from R69: after a write of DL_EVAL_ARB and any number of contended fc, every run of
CHN_WEIGHT + LANE_WEIGHT contended fc grants each class exactly its weight. -/
def Obligations.ArbitrationIsFair : Prop :=
  ∀ (s : State) (p : Fin 40) (n : Nat), s.chn.pinnae.length = 40 →
    (s.chn.pinnae.getD p.val {}).creditChn = 0 → (s.chn.pinnae.getD p.val {}).creditLane = 0 →
    let s1 := (contendRun p.val n s).1
    let run := (contendRun p.val ((weights s).1 + (weights s).2) s1).2
    (run.filter (fun b => b)).length = (weights s).1 ∧ (run.filter (fun b => !b)).length = (weights s).2

/-- R335 and R302: while LOADED is 0 every CAL register reads zero and a write to one is not performed and recorded as STATE;
loaded, a guard threshold that would leave the four not strictly falling is not performed and recorded as VALUE; a write
after LOCK is not performed and recorded as LOCKED (R292); every other write changes its register and leaves in the host
chip's calibration store. Loading sets LOADED and the values, and starts a wake that waits. -/
def Obligations.Calibration : Prop :=
  ∀ (s : State) (rq : Requester) (off : BitVec 12) (v : Word) (cal : CalUnit),
    (s.cal.loaded = false → ∀ o : Nat, 0x040 ≤ o → s.regWord .cal o = 0) ∧
    (s.serves rq .cal → off.toNat % 4 = 0 → 0x040 ≤ off.toNat → s.cal.put off.toNat v = some cal →
      (s.cal.loaded = false →
        exec (.calWrite rq off v) s = .next ((s.regFault .cal .state rq off.toNat).answerWrite (accessOf rq .cal off.toNat))) ∧
      (s.cal.loaded = true → (s.variant = .d4 ∨ off.toNat < 0x0C0) → (s.hdr .cal).lock = true →
        exec (.calWrite rq off v) s = .next ((s.regFault .cal .locked rq off.toNat).answerWrite (accessOf rq .cal off.toNat))) ∧
      (s.cal.loaded = true → (s.variant = .d4 ∨ off.toNat < 0x0C0) → (s.hdr .cal).lock = false → cal.guardsFall = false →
        0x050 ≤ off.toNat → off.toNat < 0x060 →
        exec (.calWrite rq off v) s = .next ((s.regFault .cal .value rq off.toNat).answerWrite (accessOf rq .cal off.toNat))) ∧
      (s.cal.loaded = true → (s.variant = .d4 ∨ off.toNat < 0x0C0) → (s.hdr .cal).lock = false →
        (off.toNat < 0x050 ∨ 0x060 ≤ off.toNat ∨ cal.guardsFall = true) →
        let t := s.rw .cal off.toNat { s with cal := cal }
        exec (.calWrite rq off v) s =
          .next ((t.send (.calStore off (t.regWord .cal off.toNat))).answerWrite (accessOf rq .cal off.toNat))) ∧
      (s.cal.loaded = true → s.variant = .d4m → 0x0C0 ≤ off.toNat →
        exec (.calWrite rq off v) s = .next (s.answerWrite (accessOf rq .cal off.toNat)))) ∧
    (∀ (trim : BitVec 9) (guard : Vector (BitVec 10) 4) (coef : Vector (BitVec 16) 16) (thr : Vector (BitVec 16) 4),
      exec (.calibrationLoad trim guard coef thr) s = .next (({ s with cal := {
        loaded := true, rcTrim := trim, guard := guard.toList, coef := coef.toList
        thr := match s.variant with | .d4 => thr.toList | .d4m => [0, 0, 0, 0] } } : State).startHeldWake))



/-- R306: with EN 0 every DBG register but the header and DL_DBG_CTRL reads zero and ignores writes. FLIP with EN 1
(R306): on a RAM entry it inverts the one bit and leaves every other entry of both banks; on an entry of a sorus it inverts the bit
of that pinna's copy, where a table lies there; on an index or bit that does not exist it does nothing; on the ROM it is not
performed and recorded as VALUE. DL_DBG_CTRL, and DL_DBG_ESEL, take what is written; EN of a locked page stands, and
its write is recorded as LOCKED. -/
def Obligations.DebugRegisters : Prop :=
  (∀ (s : State) (rq : Requester), s.serves rq .dbg → s.dbg.en = false →
     (∀ off : BitVec 12, 0x044 ≤ off.toNat → off.toNat % 4 = 0 →
       s.busRead (accessOf rq .dbg off.toNat) = s.answerRead (accessOf rq .dbg off.toNat) 0 ∧
       ∀ v : Word, exec (.registerWrite rq (regAt .dbg off) v) s = .next (s.answerWrite (accessOf rq .dbg off.toNat))) ∧
     (∀ v : Word, exec (.flip rq v) s = .next (s.answerWrite (accessOf rq .dbg 0x058)))) ∧
  (∀ (s : State) (rq : Requester) (v : Word), s.serves rq .dbg →
     (s.dbg.en = true → s.dbg.space = 2 →
       exec (.flip rq v) s = .next ((s.regFault .dbg .value rq 0x058).answerWrite (accessOf rq .dbg 0x058))) ∧
     (s.dbg.en = true → s.dbg.space.toNat < 2 → s.dbg.index.toNat < s.bankEntries → (v.extractLsb' 0 7).toNat < 96 →
       ∃ t : State, exec (.flip rq v) s = .next (t.answerWrite (accessOf rq .dbg 0x058)) ∧
         ∀ (b : Bool) (i : Nat), t.ramEntry b i =
           if b = decide (s.dbg.space = 1) ∧ i = s.dbg.index.toNat
           then s.ramEntry b i ^^^ BitVec.ofNat 96 (2 ^ (v.extractLsb' 0 7).toNat) else s.ramEntry b i) ∧
     (s.dbg.en = true → s.dbg.space = 3 → s.dbg.pinna.toNat < s.pinnaCount → s.dbg.index.toNat < 4096 →
       (v.extractLsb' 0 7).toNat < 96 →
       (s.sorusAt s.dbg.index.toNat = none → exec (.flip rq v) s = .next (s.answerWrite (accessOf rq .dbg 0x058))) ∧
       (∀ k e, s.sorusAt s.dbg.index.toNat = some (k, e) → exec (.flip rq v) s = .next ((s.setCopy k s.dbg.pinna.toNat e
         (some (s.sorusHeld s.dbg.pinna.toNat k e ^^^ BitVec.ofNat 96 (2 ^ (v.extractLsb' 0 7).toNat)))).answerWrite
           (accessOf rq .dbg 0x058)))) ∧
     (s.dbg.en = true → s.dbg.space ≠ 2 → (96 ≤ (v.extractLsb' 0 7).toNat
         ∨ (s.dbg.space.toNat < 2 ∧ s.bankEntries ≤ s.dbg.index.toNat)
         ∨ (s.dbg.space = 3 ∧ (s.pinnaCount ≤ s.dbg.pinna.toNat ∨ 4096 ≤ s.dbg.index.toNat))) →
       exec (.flip rq v) s = .next (s.answerWrite (accessOf rq .dbg 0x058))) ∧
     (s.dbg.en = true → exec (.registerWrite rq (regAt .dbg 0x048) v) s = .next ((s.rw .dbg 0x048 { s with dbg := { s.dbg with
       space := v.extractLsb' 30 2, pinna := v.extractLsb' 16 6, index := v.extractLsb' 0 16 } }).answerWrite
         (accessOf rq .dbg 0x048))) ∧
     ((s.hdr .dbg).lock = false → exec (.registerWrite rq (regAt .dbg 0x040) v) s = .next ((s.rw .dbg 0x040
       { s with dbg := { s.dbg with halt := v.getLsbD 1, en := v.getLsbD 0 } }).answerWrite (accessOf rq .dbg 0x040))) ∧
     ((s.hdr .dbg).lock = true → exec (.registerWrite rq (regAt .dbg 0x040) v) s = .next (((s.rw .dbg 0x040
       { s with dbg := { s.dbg with halt := v.getLsbD 1 } }).regFault .dbg .locked rq 0x040).answerWrite (accessOf rq .dbg 0x040))))

/-- The rhizome RAM (R94): an entry that is written reads as written, every other entry of both banks as before, and the
store keeps its canonical form. -/
def Obligations.RamReadsWhatIsWritten : Prop :=
  ∀ (s : State) (b : Bool) (i : Nat) (e : Entry),
    (s.writeRam b i e).ramEntry b i = e ∧
    (∀ (b' : Bool) (j : Nat), (b', j) ≠ (b, i) → (s.writeRam b i e).ramEntry b' j = s.ramEntry b' j) ∧
    (s.tbl.bank0.wf = true → s.tbl.bank1.wf = true →
      (s.writeRam b i e).tbl.bank0.wf = true ∧ (s.writeRam b i e).tbl.bank1.wf = true)


/-! ## Commands of the units (R95, R128, R198, R247) -/

/-- LOAD_ENTRIES, LOAD_DESC, LOAD_MAP and LOAD_CRZ (R95, R96): with no command busy, the shadow bank not pinned, the items
inside their store and the source aligned and inside the scratchpad, the load clears SEALED, QUARANTINE and FAULT of the
shadow bank, drops what the sori hold of it, and reads its first items; a load of no items has nothing left to do. Which
items one P0 access covers, and that the sori drop the bank at the load's start, is the model's (log entries 28 and 29). -/
def Obligations.TableLoads : Prop :=
  ∀ (s : State) (rq : Requester) (v : Word), s.performs rq .tbl → s.tbl.cmd = none →
    let starts := fun (c : Instr) (op limit size group : Nat) =>
      let src := s.tbl.loadSrc.toNat
      let first := s.tbl.loadFirst.toNat
      let count := s.tbl.loadCount.toNat
      let bank := !s.tbl.active
      let load : TblCmd := { op := op, src := src, first := first, count := count }
      let clean := { s.tbl.bank bank with sealed := false, quarantine := false, fault := false, crzSteps := 0, crzCount := 0 }
      let t : State := { s with tbl := { s.tbl.setBank bank clean with
        resident := s.tbl.resident.filter (fun r => match r.key with | .user b _ => b != bank | _ => true)
        cmd := some load } }
      s.bankPinned bank = false → (count = 0 ∨ first + count ≤ limit) → src % 16 = 0 →
      (count = 0 ∨ src + size * count ≤ 2 ^ 31) →
      exec c s = .next (((if count = 0 then { t with tbl := { t.tbl with cmd := some { load with finished := true } } }
        else t.issueRead .tblLoad [(src, size * Nat.min group count)]).settle).answerWrite (accessOf rq .tbl 0x044))
    starts (.loadEntries rq v) 1 s.bankEntries 16 128 ∧ starts (.loadDesc rq v) 2 512 32 64 ∧
    starts (.loadMap rq v) 3 1024 2 1024 ∧ starts (.loadCrz rq v) 4 256 136 15

/-- What a table command that is not performed, or that ends, reports (R95, R96, R106): a code, an item and an index in
DL_TBL_ERR_INFO, TBL_CMD_DONE (0x20) with it and its page event; nothing else. -/
def tblReported (s : State) (op code item index : Nat) : State :=
  let s1 : State := { s with tbl := { s.tbl with
    errCode := BitVec.ofNat 8 code, errItem := BitVec.ofNat 3 item, errIndex := BitVec.ofNat 16 index } }
  (s1.logEvent 0x20 .tbl (BitVec.ofNat 32 op) s1.tbl.errInfo 0 0).pageEvent .tbl 1

/-- The entry that the seal judges (R339): a correctable one as corrected. -/
def sealEntry (s : State) (bank rom : Bool) (a : Nat) : Entry :=
  let e := if rom then s.romAt a else s.ramEntry bank a
  ((eccOf e).fix e).getD e

/-- A run of a table with its direction (R99): the one of a UNIFORM table, the positive one of a BINADE table and the
negative one of a SIGNED table, whose direction is the opposite. -/
def SealRun (d : Desc) (neg : Bool) (dir lo hi : Nat) : Prop :=
  let n := d.nbin * 2 ^ d.k
  (neg = false ∧ dir = d.monoDecl ∧ lo = 0 ∧ hi = (if d.uniform then 2 ^ d.k else n) - 1) ∨
  (neg = true ∧ d.uniform = false ∧ d.signed = true ∧ dir = 3 - d.monoDecl ∧ lo = n ∧ hi = 2 * n - 1)

/-- The sign rule of R99 for one entry of a run (Grade Q compared times 16). -/
def SealSign (d : Desc) (dir : Nat) (e : Entry) : Prop :=
  let keeps := fun (v : Int) => if dir = 1 then 0 ≤ v else v ≤ 0
  let q := entC1 e * (2 ^ (25 - d.sh1) : Nat)
  entMono e = dir ∧ (d.grade = 2 → keeps (entC1N e 0) ∧ keeps (entC1N e 1)) ∧ (d.grade = 1 → keeps (entC1 e)) ∧
  (d.grade ≠ 1 → d.grade ≠ 2 → keeps q ∧ keeps (q + 2 * entC2 e * (2 ^ (31 - d.sh2) : Nat)))

/-- The wrap value of Table 5.8. -/
def SealWrap (d : Desc) (rd : Nat → Entry) (w : Val) : Prop :=
  let first := (d.segVals rd 0).1
  ((d.front = 2 ∨ d.front = 3 ∨ d.front = 8) ∧ w = first.mul (Val.ofNat 2)) ∨
  ((d.front = 6 ∨ d.front = 7) ∧ w = first.mul (Val.pow2 (-1))) ∨ ((d.front = 9 ∨ d.front = 10) ∧ w = Val.one) ∨
  ((d.front = 4 ∨ d.front = 5) ∧ match indexBinade d (.fin true 1 4) with
    | .at i _ => w = Val.one.add (d.segVals rd i).1
    | .tail v _ => w = Val.one.add v)

/-- A seam, tail or wrap rule of R99 fails at the entry `a` places above BASE. -/
def SealSeam (d : Desc) (rd : Nat → Entry) (a : Nat) : Prop :=
  let place := fun (i : Nat) => if d.grade = 2 then i / 2 else i
  ∃ (neg : Bool) (dir lo hi : Nat), SealRun d neg dir lo hi ∧
    let ordered := fun (u v : Val) => if dir = 1 then u.le v = true else v.le u = true
    let top := d.emin + d.nbin
    (∃ i, lo ≤ i ∧ i < hi ∧ a = place i ∧ ¬ ordered (d.segVals rd i).2 (d.segVals rd (i + 1)).1) ∨
    (d.uniform = false ∧ tailMeets d.front neg true d.emin = true ∧ a = place lo ∧
      ¬ ordered (tailVal d.loLin d.loC (signedPow neg d.emin)) (d.segVals rd lo).1) ∨
    (d.uniform = false ∧ tailMeets d.front neg false top = true ∧ a = place hi ∧ ¬ ordered (d.segVals rd hi).2
      (if neg then tailVal d.hinLin d.hinC (signedPow neg top) else tailVal d.hipLin d.hipC (signedPow neg top))) ∨
    (neg = false ∧ ∃ w, SealWrap d rd w ∧ a = place hi ∧ ¬ ordered (d.segVals rd hi).2 w)

/-- A map word that R92 accepts. -/
def SealMap (k : Bank) (i : Nat) : Prop :=
  let w := k.mapWord i
  let f := i / 4
  let kind := (w.extractLsb' 14 2).toNat
  let index := (w.extractLsb' 0 9).toNat
  (i % 4 = 3 → w = 0) ∧
  (i % 4 ≠ 3 → (w.extractLsb' 9 5).toNat = 0 ∧ (f < 0x40 → builtinExists f = false → kind = 0) ∧ (kind = 0 → index = 0) ∧
    (kind = 3 → index = 0 ∧ builtinExists f = true) ∧
    (kind = 1 → (k.desc index).valid = true ∧ (k.desc index).grade = i % 4 ∧
      ((k.desc index).front = 9 ↔ f = 0x10) ∧ ((k.desc index).front = 10 ↔ f = 0x11)) ∧
    (kind = 2 → index < 256 ∧ crzValid ((k.crozier index).headD 0) = true ∧
      crzGrade ((k.crozier index).headD 0) = i % 4 ∧ f ≠ 0x10 ∧ f ≠ 0x11))

/-- A crozier that R108 accepts. -/
def SealCrozier (k : Bank) (i : Nat) : Prop :=
  let h := (k.crozier i).headD 0
  let step := fun (j : Nat) => (k.crozier i).getD (j + 1) 0
  let op := fun (j : Nat) => ((step j).extractLsb' 60 4).toNat
  let tidx := fun (j : Nat) => ((step j).extractLsb' 32 9).toNat
  h.extractLsb' 28 36 = 0 ∧ (h.extractLsb' 4 2).toNat ≠ 3 ∧ (h.extractLsb' 6 2).toNat ≠ 3 ∧
  ∀ j, j < crzLen h → j + 1 < (k.crozier i).length →
    (1 ≤ op j ∧ op j ≤ 11) ∧
    (op j = 1 ∨ op j = 2 → (k.desc (tidx j)).valid = true ∧ (k.desc (tidx j)).grade = crzGrade h ∧
      (k.desc (tidx j)).front ≠ 9 ∧ (k.desc (tidx j)).front ≠ 10) ∧
    (op j = 2 → ∃ l, l < j ∧ op l = 1 ∧ tidx l = tidx j) ∧
    (op j = 3 → ∃ l, l < j ∧ op l = 2 ∧ ∀ m, l < m → m < j → op m ≠ 1) ∧
    (op j = 10 → (step j).getLsbD 44 = false)

/-- The check of Table 5.6 with code `code` fails at index `i` of the kind `item` of Table 15.3: 1 a RAM entry, 2 a ROM
entry, 3 a descriptor, 4 a map index, 5 a crozier. -/
def SealFails (s : State) (bank : Bool) (code item i : Nat) : Prop :=
  let k := s.tbl.bank bank
  let d := k.desc i
  let entry := fun (bad : Desc → Entry → Prop) => ∃ j, (k.desc j).valid = true ∧ item = (if (k.desc j).space then 2 else 1) ∧
    (k.desc j).base ≤ i ∧ i < (k.desc j).base + (k.desc j).entries ∧ bad (k.desc j) (sealEntry s bank (k.desc j).space i)
  let shape := fun (bad : Desc → (Nat → Entry) → Nat → Prop) => ∃ j a, (k.desc j).valid = true ∧
    item = (if (k.desc j).space then 2 else 1) ∧ (k.desc j).monoDecl ≠ 0 ∧ i = (k.desc j).base + a ∧
    bad (k.desc j) (fun l => sealEntry s bank (k.desc j).space ((k.desc j).base + l)) a
  (code = 5 ∧ item = 3 ∧ d.valid = true ∧ ¬ (d.grade ≠ 3 ∧ d.front ≤ 10 ∧ d.monoDecl ≠ 3 ∧
    (d.uniform = true ↔ d.front = 2 ∨ d.front = 3 ∨ d.front = 9 ∨ d.front = 10) ∧
    (d.uniform = true → d.k ≤ 8 ∧ d.signed = false) ∧
    (d.uniform = false → d.k ≤ 10 ∧ -149 ≤ d.emin ∧ d.emin ≤ 127 ∧ 1 ≤ d.nbin ∧ d.emin + d.nbin ≤ 128) ∧
    (d.grade ≠ 0 → d.sh2 = 0) ∧ d.reserved = false)) ∨
  (code = 6 ∧ item = 3 ∧ d.valid = true ∧ (if d.space then 0x2A1C else s.bankEntries) < d.base + d.entries) ∨
  (code = 7 ∧ entry (fun d e => ¬ (e.extractLsb' 78 10 = 0 ∧ entMono e ≠ 3 ∧ (d.grade = 2 → e.extractLsb' 60 2 = 0) ∧
    (d.grade = 1 → e.extractLsb' 48 14 = 0)))) ∨
  (code = 8 ∧ entry (fun d _ => eccOf (if d.space then s.romAt i else s.ramEntry bank i) = .uncorr)) ∨
  (code = 9 ∧ shape (fun d rd a => ∃ neg dir lo hi l, SealRun d neg dir lo hi ∧ lo ≤ l ∧ l ≤ hi ∧
    a = (if d.grade = 2 then l / 2 else l) ∧ ¬ SealSign d dir (rd a))) ∨
  (code = 10 ∧ shape SealSeam) ∨
  (code = 11 ∧ item = 4 ∧ i < 1024 ∧ ¬ SealMap k i) ∨
  (code = 12 ∧ item = 5 ∧ crzValid ((k.crozier i).headD 0) = true ∧ ¬ SealCrozier k i)

/-- What a seal reports (R97, R339): the first failure in the order of Table 5.6, within one check the least item kind and
then the least index; zeros where nothing fails. -/
def SealVerdict (s : State) (bank : Bool) (code item i : Nat) : Prop :=
  (SealFails s bank code item i ∧ ∀ code' item' i', SealFails s bank code' item' i' →
    code < code' ∨ (code = code' ∧ (item < item' ∨ (item = item' ∧ i ≤ i')))) ∨
  ((∀ code' item' i', ¬ SealFails s bank code' item' i') ∧ code = 0 ∧ item = 0 ∧ i = 0)

/-- SEAL and PRELOAD (R97, R106), and the table commands that are not performed: a reserved OP is recorded as COMMAND and
does nothing; BUSY (1) comes before every other cause; a load ends with PINNED (2), or with RANGE (3) at the first item
that lies past its store, at its first item where the source is misaligned, or at the first item whose source bytes run
past 2^31 (which index a RANGE names is the model's reading, log entry 28); PRELOAD ends with RANGE or NOT_DEFINED (0xF). A
SEAL clears SEALED and reports the first check of Table 5.6 that fails (SealVerdict), or none. -/
def Obligations.TableCommands : Prop :=
  ∀ (s : State) (rq : Requester) (v : Word), s.performs rq .tbl →
    let answers := fun (c : Instr) (t : State) => exec c s = .next ((t.settle).answerWrite (accessOf rq .tbl 0x044))
    (((v.extractLsb' 28 4).toNat = 0 ∨ 7 ≤ (v.extractLsb' 28 4).toNat) →
      answers (.registerWrite rq (regAt .tbl 0x044) v) (s.regFault .tbl .command rq 0x044)) ∧
    (s.tbl.cmd.isSome = true →
      answers (.loadEntries rq v) (tblReported s 1 1 0 0) ∧ answers (.loadDesc rq v) (tblReported s 2 1 0 0) ∧
      answers (.loadMap rq v) (tblReported s 3 1 0 0) ∧ answers (.loadCrz rq v) (tblReported s 4 1 0 0) ∧
      answers (.seal rq v) (tblReported s 5 1 0 0) ∧ answers (.preload rq v) (tblReported s 6 1 0 0)) ∧
    (s.tbl.cmd = none →
      let bank := !s.tbl.active
      let first := s.tbl.loadFirst.toNat
      let count := s.tbl.loadCount.toNat
      let src := s.tbl.loadSrc.toNat
      let range := fun (c : Instr) (op limit size item : Nat) =>
        (count ≠ 0 → limit < first + count → answers c (tblReported s op 3 item (Nat.max first limit))) ∧
        ((count = 0 ∨ first + count ≤ limit) → src % 16 ≠ 0 → answers c (tblReported s op 3 item first)) ∧
        (count ≠ 0 → first + count ≤ limit → src % 16 = 0 → 2 ^ 31 < src + size * count →
          answers c (tblReported s op 3 item (first + (2 ^ 31 - src) / size)))
      (s.bankPinned bank = true →
        answers (.loadEntries rq v) (tblReported s 1 2 1 first) ∧ answers (.loadDesc rq v) (tblReported s 2 2 3 first) ∧
        answers (.loadMap rq v) (tblReported s 3 2 4 first) ∧ answers (.loadCrz rq v) (tblReported s 4 2 5 first)) ∧
      (s.bankPinned bank = false →
        range (.loadEntries rq v) 1 s.bankEntries 16 1 ∧ range (.loadDesc rq v) 2 512 32 3 ∧
        range (.loadMap rq v) 3 1024 2 4 ∧ range (.loadCrz rq v) 4 256 136 5) ∧
      ((s.tbl.bank bank).wf = true → ∀ code item i, SealVerdict s bank code item i →
        answers (.seal rq v) { s with tbl := { s.tbl.setBank bank { s.tbl.bank bank with
            sealed := false, crzSteps := 0, crzCount := 0 } with
          cmd := some { op := 5, code := code, item := item, index := i, finished := true } } }) ∧
      ((1024 ≤ first ∨ first % 4 = 3) → answers (.preload rq v) (tblReported s 6 3 4 first)) ∧
      (first < 1024 → first % 4 ≠ 3 → mapKind ((s.tbl.bank s.tbl.active).mapWord first) = 0 →
        answers (.preload rq v) (tblReported s 6 0xF 4 first)) ∧
      (first < 1024 → first % 4 ≠ 3 → mapKind ((s.tbl.bank s.tbl.active).mapWord first) ≠ 0 →
        let t := s.wantTables (s.preloadTables s.tbl.active first)
        answers (.preload rq v) { t with tbl := { t.tbl with
          cmd := some { op := 6, src := if s.tbl.active then 1 else 0, first := first } } }))


/-- R312: a write of 1 to SWITCH sets PENDING, and a second one has no further effect. The accepted switch makes the shadow
bank active and counts the epoch; a refused one leaves both; either clears PENDING, writes its outcome with ITEM 0 and INDEX
0 and sets its page event, and a command that runs keeps BUSY. -/
def Obligations.EpochSwitch : Prop :=
  ∀ (s : State) (rq : Requester) (v : Word),
    (s.performs rq .tbl → exec (.switch rq v) s = .next
      ((({ s with tbl := { s.tbl with switchPending := true } } : State).settle).answerWrite (accessOf rq .tbl 0x040))) ∧
    (s.fclkRuns = true → s.tbl.switchPending = true →
      let shadow := s.tbl.bank (!s.tbl.active)
      let outcome := fun (code : BitVec 8) (u : TblUnit) =>
        ({ s with tbl := { u with switchPending := false, errCode := code, errItem := 0, errIndex := 0 } } : State)
      (shadow.sealed = false → exec .epochSwitchAccept s = .next ((outcome 0x0D s.tbl).pageEvent .tbl 3).settle) ∧
      (shadow.sealed = true → (shadow.quarantine || shadow.fault) = true →
        exec .epochSwitchAccept s = .next ((outcome 0x0E s.tbl).pageEvent .tbl 3).settle) ∧
      (shadow.sealed = true → (shadow.quarantine || shadow.fault) = false →
        exec .epochSwitchAccept s = .next
          ((outcome 0 { s.tbl with active := !s.tbl.active, number := s.tbl.number + 1 }).pageEvent .tbl 2).settle))

/-- What a context command that does not run, or that ends, reports (R128): its code, CTX_CMD_DONE (0x38) and the page
event. -/
def ctxReported (s : State) (v : Word) (count : Nat) (code : Nat) : State :=
  (({ s with ctx := { s.ctx with cmdErr := BitVec.ofNat 4 code } } : State).logEvent 0x38 .ctx v (BitVec.ofNat 32 count)
    (BitVec.ofNat 32 code) 0).pageEvent .ctx 1

/-- DRAIN, CLEAR and ADOPT (R128 to R132): one written while another is busy reports BUSY (1), a range past the limit
reports RANGE (2), a count of 0 does nothing; every other is busy from then on and takes its place behind the generation
checks and commands that wait, and is accepted at once where none waits. A reserved OP is recorded as COMMAND and reports
RANGE, or BUSY. In the fc in which a DRAIN is accepted (R129) every context of its range that holds a generation becomes
DRAINING with that generation, and in the fc in which a CLEAR is accepted (R131) every context of its range is DRAINING,
one that was DRAINED under GEN, whatever it held; every other context and every record stands; ADOPT changes no state when
it is accepted (R132). -/
def Obligations.ContextCommands : Prop :=
  (∀ (s : State) (rq : Requester) (v : Word), s.performs rq .ctx →
     let n := s.ctx.drainCount.toNat
     let answers := fun (c : Instr) (t : State) => exec c s = .next ((t.settle).answerWrite (accessOf rq .ctx 0x048))
     let all := fun (f : Word → State) =>
       answers (.drain rq v) (f (setBits v 31 30 0)) ∧ answers (.clear rq v) (f (setBits v 31 30 1)) ∧
       answers (.adopt rq v) (f (setBits v 31 30 2))
     let first := (v.extractLsb' 0 20).toNat
     (s.ctx.cmdBusy = true → all (fun w => ctxReported s w n 1)) ∧
     (s.ctx.cmdBusy = false → s.ctx.limit.toNat < first + n → all (fun w => ctxReported s w n 2)) ∧
     (s.ctx.cmdBusy = false → first + n ≤ s.ctx.limit.toNat → n = 0 → all (fun w => ctxReported s w n 0)) ∧
     (s.ctx.cmdBusy = false → first + n ≤ s.ctx.limit.toNat → n ≠ 0 → all (fun w =>
       ({ s with ctx := { s.ctx with cmdBusy := true, waits := s.ctx.waits ++ [.command w n] } } : State).pumpCtx)) ∧
     (s.ctx.cmdBusy = false → first + n ≤ s.ctx.limit.toNat → n ≠ 0 → s.ctx.waits = [] → all (fun w =>
       ((({ s with ctx := { s.ctx with cmdBusy := true } } : State).ctxBegin w n).ctxGo).pumpCtxGo 1)) ∧
     ((v.extractLsb' 30 2).toNat = 3 → answers (.registerWrite rq (regAt .ctx 0x048) v)
       (ctxReported (s.regFault .ctx .command rq 0x048) v n (if s.ctx.cmdBusy then 1 else 2)))) ∧
  (∀ (s : State) (v : Word) (count : Nat) (i : Nat),
     let t := s.ctxBegin v count
     let first := (v.extractLsb' 0 20).toNat
     t.ctx.lines = s.ctx.lines ∧
     ((v.extractLsb' 30 2).toNat = 2 ∨ i < first ∨ first + count ≤ i → Store.get? t.ctx.states i = Store.get? s.ctx.states i) ∧
     ((v.extractLsb' 30 2).toNat ≠ 2 → first ≤ i → i < first + count →
       Store.get? t.ctx.states i = (Store.get? s.ctx.states i).map (fun c => { c with draining := true })) ∧
     (s.ctx.cmd = none → ((v.extractLsb' 30 2).toNat = 2 ∨ i < first ∨ first + count ≤ i) → t.ctxHeld i = s.ctxHeld i) ∧
     ((v.extractLsb' 30 2).toNat ≠ 2 → first ≤ i → i < first + count → ∀ c, s.ctxState i = some c → t.ctxHeld i = (2, c.gen)) ∧
     ((v.extractLsb' 30 2).toNat = 0 → s.ctx.cmd = none → s.ctxState i = none → t.ctxHeld i = s.ctxHeld i) ∧
     ((v.extractLsb' 30 2).toNat = 1 → first ≤ i → i < first + count → s.ctxState i = none →
       t.ctxHeld i = (2, v.extractLsb' 20 4)))




/-- What a registry command that does not run, or that ends, reports (R198): its code, TEN_CMD_DONE (0x4A) and the page
event. -/
def tenReported (s : State) (v : Word) (count : Nat) (code : Nat) : State :=
  (({ s with num := { s.num with cmdErr := BitVec.ofNat 3 code } } : State).logEvent 0x4A .ten v (BitVec.ofNat 32 count)
    (BitVec.ofNat 32 code) 0).pageEvent .ten 1

/-- REGISTER, SET, REWIND and FLUSH (R198): one written while another is busy reports BUSY (1), a range past id 65,535 or a
reserved OP, recorded as COMMAND, reports RANGE (2); every other is busy from then on and works through its entries. What
it does to one entry on chip whose earlier windows are closed (Table 9.5): REGISTER writes KIND, LEVEL and SMAX, clears the
rest, sets SCALE to 1.0 and COLD for KIND 1 to 5; SET writes KIND, LEVEL and SMAX; REWIND clears CUR; FLUSH drops the
entry and writes a dirty one back; no other entry on chip changes. An id that a chain names as TID or TID2 is skipped, with
IN_USE (3) and one STATE fault. TEN_CMD_DONE: one that has nothing left to do ends, and CMD_BUSY clears. The recipe (R200):
T is 1.0 for a reference of +0, and else 2^k, k held to -126 to 127, for the least k with 2^k × fmax ≥ ref × 2^mg; the
reference is the largest of HCOUNT history entries. A decode of a window with no T yet takes SCALE of a COLD entry, 1.0 of
an UNREG one, and else the recipe, which becomes SCALE and the step's T. -/
def Obligations.RegistryCommands : Prop :=
  (∀ (s : State) (rq : Requester) (v : Word),
    (s.performs rq .ten →
      let n := s.num.cmdCount.toNat
      let first := (v.extractLsb' 0 16).toNat
      let answers := fun (c : Instr) (t : State) => exec c s = .next ((t.settle).answerWrite (accessOf rq .ten 0x044))
      let all := fun (f : Nat → Word → State) =>
        answers (.register rq v) (f 1 (setBits v 31 28 1)) ∧ answers (.set rq v) (f 2 (setBits v 31 28 2)) ∧
        answers (.rewind rq v) (f 3 (setBits v 31 28 3)) ∧ answers (.flush rq v) (f 4 (setBits v 31 28 4))
      let start := fun (op : Nat) (w : Word) => ({ rq := rq, v := w, op := op, step := s.step, next := first, left := n } : TenCmd)
      let ended := fun (op : Nat) (w : Word) (code : Nat) (done : Bool) =>
        { start op w with next := first + 1, left := 0, code := code, finished := done }
      (s.num.cmd.isSome = true → all (fun _ w => tenReported s w n 1)) ∧
      (s.num.cmd = none → 65536 < first + n → all (fun _ w => tenReported s w n 2)) ∧
      (((v.extractLsb' 28 4).toNat = 0 ∨ 5 ≤ (v.extractLsb' 28 4).toNat) → answers (.registerWrite rq (regAt .ten 0x044) v)
        (tenReported (s.regFault .ten .command rq 0x044) v n (if s.num.cmd.isSome then 1 else 2))) ∧
      (s.num.cmd = none → first + n ≤ 65536 → all (fun op w => (s.setTenCmd (start op w)).tenGo)) ∧
      (s.num.cmd = none → first + n ≤ 65536 → n = 1 → s.tidNamed first = true →
        all (fun op w => (((s.setTenCmd (start op w)).regFault .ten .state rq 0x044).setTenCmd
          (ended op w 3 (decide (op ≠ 4) || s.num.evicting.isEmpty))))) ∧
      (s.num.cmd = none → first + n ≤ 65536 → n = 1 → ∀ t : Nat → Word → State,
        (∀ op w, 1 ≤ op → op ≤ 4 → (s.setTenCmd (start op w)).tenEntry (start op w) first = .done (t op w)) →
        all (fun op w => (t op w).setTenCmd (ended op w 0 (decide (op ≠ 4) || (t op w).num.evicting.isEmpty))))) ∧
    (∀ c : TenCmd, s.fclkRuns = true → s.num.cmd = some c → c.finished = true → c.left = 0 →
      exec .tenCmdDone s = .next (tenReported { s with num := { s.num with cmd := none } } c.v
        (c.next - (c.v.extractLsb' 0 16).toNat) c.code).settle)) ∧
  (∀ (s : State) (c : TenCmd) (tid : Nat) (l : RegLine), s.tidNamed tid = false → s.earlierPending tid c.step = false →
    s.regLine tid = some l →
    ∃ t : State, s.tenEntry c tid = .done t ∧
      (∀ other, other ≠ tid → (t.regLine other).map (·.e) = (s.regLine other).map (·.e)) ∧
      let holds := fun (e : RegEntry) => (t.regLine tid).map (fun q => (q.e, q.dirty)) = some (e, true)
      let kind := c.v.extractLsb' 21 3
      let level := c.v.extractLsb' 24 3
      let smax := c.v.getLsbD 27
      (c.op = 1 → holds { kind := kind, level := level, smax := smax, scale := 0x3F800000
                          cold := decide (1 ≤ kind.toNat ∧ kind.toNat ≤ 5), rsv := l.e.rsv, rsvWord := l.e.rsvWord }) ∧
      (c.op = 2 → holds { l.e with kind := kind, level := level, smax := smax }) ∧
      (c.op = 3 → holds { l.e with cur := [0, 0, 0, 0, 0] }) ∧
      (c.op = 4 → t.regLine tid = none ∧
        t.num.evicting = (if l.dirty then s.num.evicting ++ [tid] else s.num.evicting))) ∧
  (∀ (e : RegEntry) (ref : Word),
    let mg := (match e.kind.toNat with | 1 => 0 | 4 => 2 | _ => 1) + (if e.cold then 1 else 0)
    let top := if e.smax then 57344 else 448
    (e.recipe 0 = 0x3F800000) ∧
    (∀ n d : Nat, f32 ref = .fin false n d → n ≠ 0 → ∃ k : Int,
      let fits := fun (j : Int) => n * 2 ^ mg * 2 ^ (-j).toNat ≤ top * 2 ^ j.toNat * d
      fits k ∧ (∀ j, j < k → ¬ fits j) ∧
      e.recipe ref = pow2Word (max (-126) (min 127 k))) ∧
    (let seen := e.hist.take (min 16 e.hcount.toNat)
     (∀ w ∈ seen, w.toNat < 0x7F800000) →
       (∀ w ∈ seen, w.toNat ≤ e.ref.toNat) ∧ (e.ref ∈ seen ∨ (e.ref = 0 ∧ ∀ w ∈ seen, w = 0)))) ∧
  (∀ (s : State) (step : Word) (tid fmt : Nat) (l : RegLine), s.gen3 = false → hasTensorScale fmt = true →
    s.earlierPending tid step = false → s.fixedT tid step = none → s.regLine tid = some l →
    let registered := 1 ≤ l.e.kind.toNat ∧ l.e.kind.toNat ≤ 5
    let r := s.decodeScale step tid fmt
    (¬ registered → r.2 = some 0x3F800000 ∧ r.1.fixedT tid step = some 0x3F800000) ∧
    (registered → l.e.cold = true → r.2 = some l.e.scale) ∧
    (registered → l.e.cold = false → r.2 = some (l.e.recipe l.e.ref) ∧ r.1.fixedT tid step = some (l.e.recipe l.e.ref) ∧
      (r.1.regLine tid).map (·.e.scale) = some (l.e.recipe l.e.ref)))

/-- What an image command that is not performed, or that ends, reports (R247): its code, IMG_CMD_DONE (0x5B) and the page
event. -/
def imgReported (s : State) (op code : Nat) : State :=
  (({ s with img := { s.img with err := BitVec.ofNat 4 code } } : State).logEvent 0x5B .img (BitVec.ofNat 32 op)
    (BitVec.ofNat 32 code) 0 0).pageEvent .img 1

/-- An image command that has done its work, whose IMG_CMD_DONE is to come. -/
def imgEnding (s : State) (op code : Nat) : State :=
  { s with img := { s.img with cmd := some { op := op, code := code, finished := true } } }

/-- CHECKED, ROLLBACK, EXPORT and PREPARE (R230, R231, R239, R242): in NORMAL with no command busy each is performed, or
ends with the code of its first failed condition; outside NORMAL each reports STATE (2), and while another is busy BUSY
(1); CHECKED takes a step from DL_IMG_CHECKED to the current step. FILL, ABORT and LEAVE (R243, R246): outside the import
states of Table 11.10 each reports STATE; FILL hands its fragment to the intake; ABORT and LEAVE discard what is staged, stop
the reads of the image checks, raise DL_IMG_GEN and enter AWAITING or NORMAL, with IMG_ABORT (0x60). A command that the
state does not allow also records STATE, and a reserved OP, which reports STATE, records COMMAND (Table 14.3). -/
def Obligations.ImageCommands : Prop :=
  (∀ (s : State) (rq : Requester) (v : Word), s.performs rq .img →
     let answers := fun (c : Instr) (t : State) => exec c s = .next ((t.settle).answerWrite (accessOf rq .img 0x040))
     let a := s.img.argStep
     let quiet := s.chains = [] ∧ s.tbl.cmd = none ∧ s.ctx.cmdBusy = false ∧ s.num.cmd = none
     let retained := ∃ c ∈ s.img.retained, c.step = a
     let disallowed := fun (op : Nat) => imgReported (s.regFault .img .state rq 0x040) op 2
     let inRange := (a = s.img.checked ∨ stepAbove a s.img.checked = true) ∧ (a = s.step ∨ stepBelow a s.step = true)
     (((v.extractLsb' 28 4).toNat = 0 ∨ 8 ≤ (v.extractLsb' 28 4).toNat) → answers (.registerWrite rq (regAt .img 0x040) v)
       (imgReported (s.regFault .img .command rq 0x040) (v.extractLsb' 28 4).toNat (if s.img.cmd.isSome then 1 else 2))) ∧
     (s.img.cmd.isSome = true →
       answers (.checked rq v) (imgReported s 1 1) ∧ answers (.rollback rq v) (imgReported s 2 1) ∧
       answers (.exportImg rq v) (imgReported s 3 1) ∧ answers (.prepare rq v) (imgReported s 4 1)) ∧
     (s.img.cmd = none → s.img.st ≠ .normal →
       answers (.checked rq v) (disallowed 1) ∧ answers (.rollback rq v) (disallowed 2) ∧
       answers (.exportImg rq v) (disallowed 3) ∧ answers (.prepare rq v) (disallowed 4)) ∧
     (s.img.cmd = none → s.img.st = .normal →
       (¬ inRange → answers (.checked rq v) (imgEnding s 1 5)) ∧
       (inRange →
         answers (.checked rq v) (imgEnding { s with img := { s.img with
           checked := a
           log := s.img.log.filter (fun r => stepAbove r.1 a), retained := s.img.retained.filter (fun c => stepAbove c.step a) } } 1 0)) ∧
       (¬ quiet → answers (.rollback rq v) (imgEnding s 2 3)) ∧
       (quiet → (¬ retained ∨ stepAbove a s.step = true ∨ stepAbove a s.img.checked = false) →
         answers (.rollback rq v) (imgEnding s 2 4)) ∧
       (quiet → retained → stepAbove a s.step = false → stepAbove a s.img.checked = true →
         answers (.rollback rq v) { s with img := { s.img with cmd := some { op := 2, step := a } } }) ∧
       (¬ retained → answers (.exportImg rq v) (imgEnding s 3 4)) ∧
       (retained → (s.img.addr.toNat % 32 ≠ 0 ∨ s.img.frag.toNat < 4096 ∨ 1048576 < s.img.frag.toNat
           ∨ s.img.frag.toNat ≠ 2 ^ Nat.log2 s.img.frag.toNat) → answers (.exportImg rq v) (imgEnding s 3 5)) ∧
       (retained → s.img.addr.toNat % 32 = 0 → 4096 ≤ s.img.frag.toNat → s.img.frag.toNat ≤ 1048576 →
         s.img.frag.toNat = 2 ^ Nat.log2 s.img.frag.toNat →
         answers (.exportImg rq v) { s with img := { s.img with cmd := some {
           op := 3, step := a, gen := s.img.argGen, addr := s.img.addr.toNat, size := s.img.size.toNat
           frag := s.img.frag.toNat } } }) ∧
       ((¬ quiet ∨ s.ctxOpen ≠ 0) → answers (.prepare rq v) (imgEnding s 4 3)) ∧
       (quiet → s.ctxOpen = 0 → answers (.prepare rq v)
         (imgEnding (({ s with img := { s.img.discard with gen := s.img.gen + 1, st := .awaiting } } : State).stopReads
           (fun t => t == .imgCheck)) 4 0)))) ∧
  (∀ (s : State) (rq : Requester) (v : Word), s.performs rq .img →
     let answers := fun (c : Instr) (t : State) => exec c s = .next ((t.settle).answerWrite (accessOf rq .img 0x040))
     let disallowed := fun (op : Nat) => imgReported (s.regFault .img .state rq 0x040) op 2
     let restart := fun (st : ImgState) =>
       ((({ s with img := { s.img.discard with gen := s.img.gen + 1, st := st } } : State).stopReads (fun t => t == .imgCheck)).logEvent
         0x60 .img ((s.img.gen + 1).setWidth 32) 0 0 0)
     (s.img.cmd.isSome = true →
       answers (.fill rq v) (imgReported s 5 1) ∧ answers (.abort rq v) (imgReported s 6 1) ∧
       answers (.leave rq v) (imgReported s 7 1)) ∧
     (s.img.cmd = none → (s.img.st = .normal ∨ s.img.st = .applying) →
       answers (.fill rq v) (disallowed 5) ∧ answers (.abort rq v) (disallowed 6) ∧ answers (.leave rq v) (disallowed 7)) ∧
     (s.img.cmd = none → s.img.st = .resumable → answers (.fill rq v) (disallowed 5)) ∧
     (s.img.cmd = none → (s.img.st = .awaiting ∨ s.img.st = .filling) → answers (.fill rq v)
       { s with img := { s.img with fragQ := s.img.fragQ ++ [{ addr := s.img.addr.toNat }] } }) ∧
     (s.img.cmd = none → (s.img.st = .awaiting ∨ s.img.st = .filling ∨ s.img.st = .resumable) →
       answers (.abort rq v) (imgEnding (restart .awaiting) 6 0) ∧ answers (.leave rq v) (imgEnding (restart .normal) 7 0)))



/-- TBL_CMD_DONE (R95, R97): a load or seal that has nothing left to do ends, BUSY clears and its code is reported; a seal
without a failure seals its bank, and a load leaves it unsealed; a PRELOAD ends once none of its tables is filling or waits
for its fill (R106). CTX_CMD_DONE (R128): a command that has nothing left
to do ends; CMD_BUSY clears and its code is reported, with the index of the context whose access failed where it ended
with SPAD_ERR (3). IMG_CMD_DONE (R247): a command that has done its work ends, CMD_BUSY clears, and the log records kept for an export alone
go (R248). EXPORT_BEGIN
(R239): an export whose earlier chains and windows are done starts on the entries. -/
def Obligations.CommandsEnd : Prop :=
  (∀ (s : State) (c : TblCmd), s.fclkRuns = true → s.tbl.cmd = some c → c.op ≤ 5 → c.finished = true →
     let t : State := { s with tbl := { s.tbl with cmd := none } }
     let bank := !s.tbl.active
     let old := s.tbl.bank bank
     (c.op ≠ 5 ∨ c.code ≠ 0 → exec .tblCmdDone s = .next (tblReported t c.op c.code c.item c.index).settle) ∧
     (c.op = 5 → c.code = 0 → exec .tblCmdDone s = .next (tblReported
       { t with tbl := t.tbl.setBank bank { old with sealed := true, crzSteps := old.crzCounts.2, crzCount := old.crzCounts.1 } }
       5 0 c.item c.index).settle)) ∧
  (∀ (s : State) (c : TblCmd), s.fclkRuns = true → s.tbl.cmd = some c → c.op = 6 →
     (∀ k ∈ s.preloadTables (decide (c.src = 1)) c.first, s.tbl.filling ≠ some k ∧ k ∉ s.tbl.fillQ) →
     exec .tblCmdDone s = .next (tblReported { s with tbl := { s.tbl with cmd := none } } 6 c.code c.item c.index).settle) ∧
  ((∀ (s : State) (c : CtxCmd), s.fclkRuns = true → s.ctx.cmd = some c → c.finished = true →
       exec .ctxCmdDone s = .next (ctxReported { s with ctx := { s.ctx with
         cmd := none, cmdBusy := false
         errIndex := if c.code = 3 then BitVec.ofNat 20 c.errIndex else s.ctx.errIndex } } c.v c.count c.code).settle) ∧
    (∀ (s : State) (c : ImgCmd), s.fclkRuns = true → s.img.cmd = some c →
       (c.finished = true → exec .imgCmdDone s =
         .next (imgReported { s with img := { s.img with
           cmd := none, log := s.img.log.filter (fun r => s.img.retained.any (fun p => p.step == r.1)) } } c.op c.code).settle) ∧
       (c.op = 3 → c.stage = 0 → c.finished = false → (∀ h ∈ s.chains, h.admitted = true → stepBelow h.step c.step = false) →
         (∀ w ∈ s.num.windows, w.closable = true → stepBelow w.step c.step = false) →
         exec .exportBegin s = .next
           ({ s with img := { s.img with cmd := some { c with stage := 1, left := List.range 4096 } } } : State).settle)))

/-- FRAGMENT_COPY_DONE (R243): the fragment whose copy is made leaves the intake, its index counts as copied, and the
next fragment is taken up. IMAGE_CHECKS (R244): with every fragment copied they read the staged header; once the staged image
is read they end in RESUMABLE, or reject the image with the code of its fault. IMG_RESUMED (R245): with every entry written
the block is in NORMAL at the image's step, only that step is retained (none without a replay log), DL_IMG_CHECKED is the
step before it, and nothing of the fill stays. -/
def Obligations.ImageFill : Prop :=
  (∀ s : State, s.fclkRuns = true →
     (∀ (f : FragIn) (rest : List FragIn) (i : Nat), s.img.fragQ = f :: rest → f.copying = some i → f.copied = true →
       i ∈ s.img.accepted →
       let t : State := { s with img := { s.img with fragQ := rest, copied := s.img.copied ++ [i] } }
       exec .fragmentCopyDone s = .next (t.intake rest.length).settle) ∧
     (s.img.allCopied = true → s.img.checking = false → exec .imageChecks s = .next
       ((({ s with img := { s.img with checking := true, checkData := false, staged := [] } } : State).issueRead .imgCheck
         [(s.img.stage.toNat, 64)]).settle)) ∧
     (s.img.allCopied = true → s.img.checking = true → s.img.checkData = true → s.imageFault s.img.staged = 0 →
       exec .imageChecks s = .next
         ({ s with img := { s.img with st := .resumable, checking := false, checkData := false } } : State).settle) ∧
     (s.img.allCopied = true → s.img.checking = true → s.img.checkData = true → s.imageFault s.img.staged ≠ 0 →
       exec .imageChecks s = .next (s.imageReject (s.imageFault s.img.staged)).settle)) ∧
  (∀ s : State, s.fclkRuns = true → s.img.st = .applying → s.img.applyLeft = [] → (∀ w ∈ s.p0.writes, w.tag ≠ .imgApply) →
     s.img.tokens = [] → s.tree.held = [] →
     ∃ t : State, exec .imgResumed s = .next t.settle ∧ t.step = s.img.fillStep ∧ t.img.st = .normal ∧
       t.img.checked = s.img.fillStep - 1 ∧ t.img.log = [] ∧ t.img.count = 0 ∧ t.img.accepted = [] ∧
       t.img.retained.map (·.step) = if s.img.logSize = 0 then [] else [s.img.fillStep])



/-! ## Counters, schedule, lifetime (R216, R221, R288 to R290, R305) -/

/-- AT_STEP, NEXT and DISARM (R305): arming in IDLE and FROZEN, and again while ARMED, but not in COPYING, where it is
recorded as STATE; a reserved OP is recorded as COMMAND. The freeze at the token that the unit is armed for, or at the first above it: the shadow takes every live
value, LATE says which. CNT_FROZEN ends COPYING. -/
def Obligations.CounterFreeze : Prop :=
  ∀ (s : State) (rq : Requester) (v : Word),
    let armed := fun (a : Option Word) (f : Bool) => ({ s with cnt := { s.cnt with st := .armed a f } } : State)
    let answers := fun (c : Instr) (t : State) => exec c s = .next ((t.settle).answerWrite (accessOf rq .cnt 0x040))
    let arms := fun (f : Bool) => answers (.atStep rq v) (armed (some s.cnt.arg) f) ∧ answers (.next rq v) (armed none f)
    (s.performs rq .cnt →
      (s.cnt.st = .idle → arms false ∧ answers (.disarm rq v) s) ∧
      (s.cnt.st = .frozen → arms true ∧ answers (.disarm rq v) s) ∧
      (∀ a f, s.cnt.st = .armed a f →
        arms f ∧ answers (.disarm rq v) { s with cnt := { s.cnt with st := .idle } }) ∧
      (s.cnt.st = .copying → answers (.atStep rq v) (s.regFault .cnt .state rq 0x040) ∧
        answers (.next rq v) (s.regFault .cnt .state rq 0x040) ∧ answers (.disarm rq v) s) ∧
      (((v.extractLsb' 28 4).toNat = 0 ∨ 4 ≤ (v.extractLsb' 28 4).toNat) →
        answers (.registerWrite rq (regAt .cnt 0x040) v) (s.regFault .cnt .command rq 0x040))) ∧
    (∀ (t : Word) (a : Option Word) (f : Bool), s.cnt.st = .armed a f →
      let late := match a with | some w => stepAbove t w | none => false
      ((a = none ∨ a = some t ∨ late = true) → s.freezeAt t = { s with cnt := { s.cnt with
        st := .copying, shadow := s.cnt.live, late := late, fstep := t, freezeFc := s.fc } }) ∧
      (a ≠ none → a ≠ some t → late = false → s.freezeAt t = s)) ∧
    (s.fclkRuns = true → s.cnt.st = .copying →
      let t : State := { s with cnt := { s.cnt with st := .frozen } }
      exec .cntFrozen s = .next
        (((t.logEvent 0x70 .cnt s.cnt.fstep (BitVec.ofNat 32 (b2n s.cnt.late)) 0 0).pageEvent .cnt 1).serveShadow).settle)

/-- A group snapshotted again after a release (R221): ITER advanced by 1, for the window of the last token, of the registers as
they stood at it (R214). -/
def caughtUp (g : SchGroup) (step : Word) : SchGroup := ({ g with iter := g.iter + 1, released := false } : SchGroup).take step

/-- A group changed by `f`; where tokens were missed it is snapshotted again and its configuration judged. -/
def groupReleased (s : State) (k missed : Nat) (f : SchGroup → SchGroup) : State :=
  if missed = 0 then s.modGroup k f else (s.modGroup k (fun g => caughtUp (f g) s.step)).logConfig k

/-- RELEASE and FORCE (R221): a command acts on GROUP, or with ALL on every held group, in increasing number. RELEASE releases
the η that the group formed, FORCE the value of DL_SCH_FORCE_ETA; where tokens were missed ITER advances by 1, and the group
is snapshotted for the most recent window. A group that is not held, or has no η to release, is left, and the command is
recorded as STATE; a reserved OP as COMMAND. A token (R214, R218, R220): a held group counts it in MISSED, any other takes a
loaded ITER or advances after a release, and is snapshotted where enabled; a snapshot sets CFG_ERR as R215 says. ETA_FORMED
(R218, R219): a snapshotted group whose turn it is forms ηb; with CLIP 0 that is η, otherwise η waits for its φ, or
takes one that is here already. With CHECK η waits for the skew check, without it η is released: ETA, GSTEP, READY. The
value of ηb (R216), with the sum of the restart cycles. The skew check's result (R220): where min and max agree the
groups that wait for it are released, otherwise they hold with SKEW. -/
def Obligations.ScheduleEngine : Prop :=
  (∀ (s : State) (rq : Requester) (v : Word) (force : Bool), s.performs rq .sch →
     let frees := fun (g : SchGroup) => g.held && (force || g.formed.isSome)
     let one := fun (t : State) (k : Nat) =>
       let g := t.group k
       if frees g then groupReleased t k g.missed
         (fun h => h.release (if force then s.sch.forceEta else g.formed.getD 0) force) else t
     let acted := if v.getLsbD 6 then (List.range 64).filter (fun k => (s.group k).held) else [(v.extractLsb' 0 6).toNat]
     let t := (acted.foldl one s).maybeCheck
     let c : Instr := if force then .force rq v else .release rq v
     ((∀ k ∈ acted, frees (s.group k) = true) → exec c s = .next ((t.settle).answerWrite (accessOf rq .sch 0x048))) ∧
     ((∃ k ∈ acted, frees (s.group k) = false) →
       exec c s = .next (((t.regFault .sch .state rq 0x048).settle).answerWrite (accessOf rq .sch 0x048))) ∧
     (((v.extractLsb' 28 4).toNat = 0 ∨ 3 ≤ (v.extractLsb' 28 4).toNat) → exec (.registerWrite rq (regAt .sch 0x048) v) s =
       .next (((s.regFault .sch .command rq 0x048).settle).answerWrite (accessOf rq .sch 0x048)))) ∧
  (∀ (s : State) (k : Nat), s.variant = .d4 → k < s.sch.groups.length →
     let g := s.group k
     let h := (s.scheduleToken).group k
     let iter := g.load.getD (if g.released then g.iter + 1 else g.iter)
     let regs := [g.cfg, g.peak, g.floor, g.init, g.warm, g.len, g.lfact]
     (g.held = true → h = { g with
       gstat := setBits g.gstat 15 0 (min (g.missed + 1) 65535), iter := g.load.getD g.iter, load := none, tok := regs }) ∧
     (g.held = false → s.sch.gen.getLsbD k = false → h = { g with iter := iter, released := false, load := none, tok := regs }) ∧
     (g.held = false → s.sch.gen.getLsbD k = true → h = { g with
       iter := iter, released := false, load := none, tok := regs, snap := some (regs ++ [iter]), win := s.step
       etab := none, formed := none, phi := none, hashed := false
       gstat := if (schCfgOf (regs ++ [iter])).bad then 0x04000000 else 0 }) ∧
     s.scheduleToken.sch.live = s.sch.gen) ∧
  (∀ c : SchCfg, (c.bad = true ↔ c.warmKind = 3 ∨ 6 ≤ c.decay ∨ c.clip = 3 ∨ nonFin32 c.lfact = true ∨
     (∃ w ∈ [c.peak, c.floor, c.init], nonFin32 w = true ∨ (f32 w).lt Val.zero = true) ∨ Val.zero.lt (f32 c.lfact) = true ∨
     (c.warm = 0 ∧ c.warmKind ≠ 0) ∨ (c.len = 0 ∧ c.decay ≠ 0))) ∧
  (∀ (s : State) (k : Fin 64), s.fclkRuns = true →
     let g := s.group k.val
     let c := g.conf
     let eta := c.base
     let formed := fun (e : Word) (h : SchGroup) => (({ h with etab := some eta, formed := some e } : SchGroup).setStat 30 false)
     let goes := fun (t : State) => exec (.etaFormed k) s = .next (t.maybeCheck).settle
     let out := fun (e : Word) => groupReleased s k.val g.missed (fun h => (formed e h).release e false)
     let waits := fun (e : Word) => s.modGroup k.val (fun h => (formed e h).setStat 29 true)
     (∀ h : SchGroup, (h.release eta false).eta = eta ∧ (h.release eta false).gstep = h.win ∧
       (h.release eta false).ready = true ∧ (h.release eta false).missed = 0) ∧
     ((g.snap = none ∨ g.ready = true ∨ g.held = true ∨ g.etab.isSome = true) → exec (.etaFormed k) s = .next s.settle) ∧
     (k.val < s.sch.groups.length → g.snap.isSome = true → g.ready = false → g.held = false → g.etab = none → g.waitClip = false →
       (∀ j, j < k.val → (s.group j).ready ∨ (s.group j).snap = none ∨ (s.group j).etab.isSome ∨ (s.group j).held) →
       (c.clip = 0 → c.check = false → goes (out eta)) ∧ (c.clip = 0 → c.check = true → goes (waits eta)) ∧
       (c.clip ≠ 0 → g.phi = none →
         goes (s.modGroup k.val (fun h => ({ h with etab := some eta } : SchGroup).setStat 30 true))) ∧
       (∀ p : Word, c.clip ≠ 0 → g.phi = some p → nonFin32 p = false →
         let e := if p = one32 then eta else fmul eta p
         (c.check = false → goes (out e)) ∧ (c.check = true → goes (waits e))) ∧
       (∀ p : Word, c.clip ≠ 0 → g.phi = some p → nonFin32 p = true →
         goes (((s.modGroup k.val (fun h => (({ h with etab := some eta } : SchGroup).setStat 30 false).setStat 27 true)).logEvent
           0x54 .sch (BitVec.ofNat 32 k) g.win 0 0).pageEvent .sch 3)))) ∧
  (∀ c : SchCfg,
     let k := if c.warmKind ≠ 0 then c.iter - c.warm else c.iter
     let kc := (c.place k).1
     let len := (c.place k).2
     let rise := fsub c.peak c.init
     let drop := fsub c.peak c.floor
     let up := fun (part : Val) => rne32 ((f32 c.init).add ((f32 rise).mul part))
     let cos := fun (n d : Nat) => f32 (engineEval 0x11 (.turn (n * 2 ^ 31 / d)))
     (c.warmKind = 1 → c.iter < c.warm → c.base = up (ratio c.iter c.warm)) ∧
     (1 < c.warmKind → c.iter < c.warm → c.base = up (half.sub (half.mul (cos c.iter c.warm)))) ∧
     (c.warmKind = 0 ∨ c.warm ≤ c.iter → ∃ f : Word, c.base = rne32 ((f32 c.floor).add ((f32 drop).mul (f32 f))) ∧
       (c.decay = 0 → f = one32) ∧ (c.decay = 1 → f = rne32 (half.add (half.mul (cos kc len)))) ∧
       (c.decay = 2 → f = rne32 (ratio (len - kc) len)) ∧
       (c.decay = 3 → f = engineEval 0x05 (.x (rne32 (Val.one.add (ratio kc len))))) ∧
       (c.decay = 4 → f = engineEval 0x00 (.x (fmul (rne32 (Val.ofNat kc)) c.lfact))) ∧
       (c.decay = 5 → f = engineEval 0x00 (.x (fmul (rne32 (Val.ofNat (kc / len))) c.lfact)))) ∧
     (c.restart = false → len = c.len ∧ kc = if c.decay = 1 ∨ c.decay = 2 then min k c.len else k) ∧
     (c.restart = true → c.len ≠ 0 → c.mult = 1 → kc = k % c.len ∧ len = c.len) ∧
     (c.restart = true → c.len ≠ 0 → c.mult ≠ 1 → k < 2 ^ 32 → ∃ m : Nat, len = c.len * c.mult ^ m ∧ kc < len ∧
       k = kc + ((List.range m).map (fun j => c.len * c.mult ^ j)).sum)) ∧
  (∀ (s : State) (step : Word) (mn mx : DWord),
     let t : State := if step = s.step then { s with sch := { s.sch with checking := false, checked := true } } else s
     let on := fun (f : SchGroup → SchGroup) => s.sch.groups.map (fun g =>
       if g.waitCheck && decide (g.win = step) && g.hashed then f g else g)
     (mn = mx → s.skewResult step mn mx = { t with sch := { t.sch with
       groups := on (fun g => if g.missed = 0 then g.release (g.formed.getD nan32) false else g) } }) ∧
     (mn ≠ mx → s.skewResult step mn mx = ((({ t with
       sch := { t.sch with skew := true, groups := on (fun g => (g.setStat 29 false).setStat 28 true) }
       tree := { t.tree with schMismatch := true, statId := 1, statMin := mn, statMax := mx } } : State).logEvent 0x50 .sch
         step 0 0 0).pageEvent .sch 1).pageEvent .tree 2))


/-- What LIFE_CMD_DONE reports (R290): BUSY clears, ERR, the event 0x12 and the page event. -/
def lifeReported (s : State) (op code : Nat) : State :=
  (({ s with life := { s.life with busy := none, args := [], err := BitVec.ofNat 3 code } } : State).logEvent 0x12 .life
    (BitVec.ofNat 32 op) (BitVec.ofNat 32 code) 0 0).pageEvent .life 1

/-- SNAP and RESTORE (R290, R301): written while BUSY neither is performed, and STATE is recorded; a reserved OP is recorded as COMMAND. A SNAP that completes
counts itself and replaces DL_LIFE_REC by the record of the counts. A RESTORE checks MAGIC, CRC, VERSION and VARIANT
of what DL_LIFE_IN held, and SEEDED first; where all pass it adds the counts and sets SEEDED. LIFETIME_SECOND (R288,
R289, R291): every count of seconds saturates at 48 bits, the second belongs to the state in which it ends, VSTRESS
grows in a second in which VDD_DL was in range, a thermal cycle ends 30 °C below the maximum after a rise of 30 °C,
and the calendar counts. Nothing else changes. -/
def Obligations.Lifetime : Prop :=
  (∀ (s : State) (rq : Requester) (v : Word),
     (s.serves rq .life →
       let begun := fun (op : Nat) => ({ s with life := { s.life with busy := some op, args := s.life.inp } } : State)
       let answers := fun (c : Instr) (t : State) => exec c s = .next (t.answerWrite (accessOf rq .life 0x040))
       (s.life.busy = none → answers (.snap rq v) (begun 1) ∧ answers (.restore rq v) (begun 2)) ∧
       (s.life.busy.isSome = true → answers (.snap rq v) (s.regFault .life .state rq 0x040) ∧
         answers (.restore rq v) (s.regFault .life .state rq 0x040)) ∧
       (((v.extractLsb' 28 4).toNat = 0 ∨ 3 ≤ (v.extractLsb' 28 4).toNat) →
         answers (.registerWrite rq (regAt .life 0x040) v) (s.regFault .life .command rq 0x040))) ∧
     (s.inReset = false →
       (s.life.busy = some 1 →
         let t : State := { s with life := { s.life with
           counts := { s.life.counts with snaps := Nat.min (s.life.counts.snaps + 1) 0xFFFFFFFF } } }
         exec .lifeCmdDone s = .next (lifeReported { t with life := { t.life with record := t.lifeRecord } } 1 0)) ∧
       (s.life.busy = some 2 →
         let bytes := s.life.args.flatMap wordBytes
         let code := if s.life.seeded then 5
           else if fieldAt bytes 0 4 ≠ 0x444C4C52 then 1
           else if fieldAt bytes 4 4 ≠ (crc32c (bytes.drop 8)).toNat then 2
           else if fieldAt bytes 8 2 ≠ 1 then 3
           else if fieldAt bytes 10 1 ≠ (match s.variant with | .d4 => 0 | .d4m => 1) then 4 else 0
         (code ≠ 0 → exec .lifeCmdDone s = .next (lifeReported s 2 code)) ∧
         (code = 0 → exec .lifeCmdDone s = .next (lifeReported
           { s with life := { s.life with seeded := true, counts := s.life.counts.restore bytes } } 2 0))))) ∧
  (∀ (s : State) (mV : Option Nat) (temp : Int),
     let c := s.life.counts
     let up := fun (b : Bool) (n : Nat) => if b then Nat.min (n + 1) (2 ^ 48 - 1) else n
     let works := s.chn.flights ≠ [] ∨ s.p0.reads ≠ [] ∨ s.p0.writes ≠ [] ∨ s.tbl.filling.isSome ∨ s.tbl.cmd.isSome ∨
       s.ctx.cmdBusy ∨ s.num.cmd.isSome ∨ s.img.cmd.isSome
     let isActive := decide (s.pwr.st = .ready ∧ works)
     let cycle := match s.life.tmin, s.life.tmax with | some _, some x => decide (temp ≤ x - 30) | _, _ => false
     let counts : LifeCounts := { c with
       powered := up true c.powered
       dormant := up (decide (s.pwr.st = .dormant ∨ s.pwr.st = .waking)) c.dormant
       resting := up (decide (s.pwr.st = .resting ∨ s.pwr.st = .entering)) c.resting
       ready := up (decide (s.pwr.st = .ready) && !isActive) c.ready
       active := up isActive c.active
       vstress := match mV with | some v => Nat.min (c.vstress + stressOf v) (2 ^ 64 - 1) | none => c.vstress
       therm := if cycle then Nat.min (c.therm + 1) (2 ^ 32 - 1) else c.therm }
     let range : Option Int × Option Int := match s.life.tmin, s.life.tmax with
       | none, _ => (some temp, none)
       | some m, none => if temp < m then (some temp, none) else (some m, if m + 30 ≤ temp then some temp else none)
       | some m, some x => if x < temp then (some m, some temp) else if temp ≤ x - 30 then (some temp, none) else (some m, some x)
     exec (.lifetimeSecond mV temp) s = .next { s with life := { s.life with
       counts := counts, calendar := s.life.calendar + 1, tmin := range.1, tmax := range.2 } })


/-! ## Submissions and what is accepted (R154, R161, R254, R317, R342) -/

/-- DL_CHN_SUBMIT (R154), SUBMISSION_CHECK and DL_CHN_CANCEL (R161, R314): a write while 16 submissions wait is ignored, recorded as
QUEUE and sets QFULL; one outside NORMAL is recorded as STATE (R241). A submission whose address is unusable, or whose
descriptor could not be read, is refused with DESC_READ and TAG 0; one that passes the checks of Table 7.8 marked S takes the
lowest free slot, ARMED; any other is refused with its code, and its completion word is written where DONE_ADDR can be. A
cancel of no ARMED or ADMITTED chain is recorded as STATE; another ends the chain with CANCELLED, and its reads stop. The
code is that of the first check of Table 7.8 marked S that fails, in the table's order. -/
def Obligations.SubmitAndCancel : Prop :=
  ∀ (s : State) (rq : Requester) (v : Word),
    (s.performs rq .chn →
      let answers := fun (t : State) => exec (.dlChnSubmit rq v) s = .next ((t.settle).answerWrite (accessOf rq .chn 0x040))
      let joined : State := { s with chn := { s.chn with queue := s.chn.queue ++ [({ addr := v } : Submission)] } }
      (s.img.st ≠ .normal → answers (s.regFault .chn .state rq 0x040)) ∧
      (s.img.st = .normal → 16 ≤ s.chn.queue.length → answers
        ((({ s with chn := { s.chn with qfull := true } } : State).regFault .chn .queue rq 0x040).pageEvent .chn 2)) ∧
      (s.img.st = .normal → s.chn.queue = [] → v.toNat % 64 = 0 → v.toNat + 64 ≤ 2 ^ 31 → answers
        (({ s with chn := { s.chn with queue := [{ addr := v, reading := true }] } } : State).issueRead .descriptor
          [(v.toNat, 64)])) ∧
      (s.img.st = .normal → s.chn.queue = [] → (v.toNat % 64 ≠ 0 ∨ 2 ^ 31 < v.toNat + 64) → answers joined) ∧
      (∀ q r, s.img.st = .normal → s.chn.queue = q :: r → s.chn.queue.length < 16 →
        (q.reading = true ∨ q.data.isSome = true ∨ q.addr.toNat % 64 ≠ 0 ∨ 2 ^ 31 < q.addr.toNat + 64) → answers joined)) ∧
    (s.performs rq .chn →
      let answers := fun (t : State) => exec (.dlChnCancel rq v) s = .next ((t.settle).answerWrite (accessOf rq .chn 0x044))
      (s.chainAt v = none → answers (s.regFault .chn .state rq 0x044)) ∧
      (∀ c, s.chainAt v = some c → answers ((s.modChain c.uid (fun c => if c.running && !c.wordIssued then { c with
        st := .ending 0x12, pass2 := c.inPass2, items := [], parts := [], foldData := none, finished := false } else c)).stopReads
          (ReadTag.ofChain c.uid)).issueWords)) ∧
    (∀ (q : Submission) (r : List Submission), s.fclkRuns = true → s.chn.queue = q :: r →
      let t : State := { s with chn := { s.chn with queue := r } }
      let usable := q.addr.toNat % 64 = 0 ∧ q.addr.toNat + 64 ≤ 2 ^ 31
      ((¬ usable ∨ q.data = some none) →
        exec .submissionCheck s = .next ((t.logRefusal q.addr 0x01 0).submitGo).settle) ∧
      (usable → q.data = none → q.reading = true → exec .submissionCheck s = .next s.settle) ∧
      (∀ bs, usable → q.data = some (some bs) →
        let d := parseChain (wordsOf 16 bs)
        let code := t.submissionCode q.addr d
        (∀ i, code = 0 → s.chn.slots.findIdx? (·.isNone) = some i →
          exec .submissionCheck s = .next ((({ t with chn := { t.chn with
            nextUid := s.chn.nextUid + 1
            slots := s.chn.slots.set i (some {
              uid := s.chn.nextUid, addr := q.addr, d := d, live := List.replicate d.rows false
              zs := List.replicate d.rows none }) } } : State).submitGo).settle)) ∧
        (code ≠ 0 →
          let u := t.logRefusal q.addr code d.tag
          exec .submissionCheck s = .next (((if d.doneAddr % 8 = 0 ∧ d.doneAddr + 8 ≤ 2 ^ 31 then
            u.issueWrite (.refusedWord d.tag) (cellsAt d.doneAddr (doneBytes d.tag code 0 s.step)) else u).submitGo).settle)))) ∧
    (∀ (addr : Word) (d : ChainDesc),
      let foldsChains := d.pv = true ∨ d.chain = 5 ∨ d.chain = 6 ∨ d.chain = 8
      let checks : List (Prop × Nat) := [(∃ c, s.chainAt addr = some c, 0x02), (d.chain = 0 ∨ 8 < d.chain, 0x03),
        (d.fieldBad = true, 0x04), (d.formatOk = false, 0x05),
        (s.variant = .d4m ∧ (0xB ∈ d.fmts ∨ d.sched = true), 0x06),
        (d.chain = 4 ∧ ((d.func < 0x40 ∧ builtinExists d.func = false) ∨ d.func = 0x10 ∨ d.func = 0x11), 0x07),
        ((d.hasStat = true ∧ s.ctx.limit.toNat < d.ctxFirst + d.rows) ∨
          (d.hasStat = false ∧ (d.ctxFirst ≠ 0 ∨ d.gen ≠ 0)), 0x08),
        (∃ c ∈ s.chains, c.d.overlaps d = true, 0x09), (d.addressBad = true, 0x0A), (d.lengthBad = true, 0x0B),
        ((d.mergesTiles = true ∧ d.wsSlots < s.wsLeast d) ∨ (d.mergesTiles = false ∧ d.wsSlots ≠ 0), 0x0C),
        (d.scope ≠ 0 ∧ (¬ foldsChains ∨ s.scopeConfigured d.scope = false), 0x0D), (64 ≤ s.chains.length, 0x0E),
        (s.gen3 = true ∧ d.notGen3 = true, 0x0F)]
      (∀ i, i < 14 → (checks.getD i (False, 0)).1 → (∀ j, j < i → ¬ (checks.getD j (False, 0)).1) →
        s.submissionCode addr d = (checks.getD i (False, 0)).2) ∧
      ((∀ j, j < 14 → ¬ (checks.getD j (False, 0)).1) → s.submissionCode addr d = 0))

/-- DL_ARV_RING[3] (R254, R315): the ring words and the written word form the header, with SOURCE 0b10 in every case. A TYPE
other than DOORBELL, STEP and IMG_FRAG is recorded as VALUE; with no free place of the class RING_FULL is set and QUEUE
recorded; otherwise the message joins the P3 queue. PORT_MESSAGE_ACCEPTED (R342): a message for which its class has no place is
dropped whole with CREDIT_OVER; any other joins its queue. While a recall runs a stream that has answered, or has used up the
credits it held, has no place (R266). A tree message of reserved KIND is dropped with 0x42 (R262). -/
def Obligations.Ingress : Prop :=
  ∀ s : State,
    (∀ (rq : Requester) (v : Word), s.performs rq .arv →
      let w := fun (i : Nat) => s.chn.ring.getD i 0
      let h : Header := ((v ++ w 2 ++ w 1 ++ w 0) &&& ~~~(BitVec.ofNat 128 (3 * 2 ^ 26))) ||| BitVec.ofNat 128 (2 * 2 ^ 26)
      let cls := p3HeaderClass h
      let answers := fun (t : State) => exec (.dlArvRing rq v) s = .next ((t.settle).answerWrite (accessOf rq .arv 0x04C))
      let rings := hType h = 1 ∨ hType h = 2 ∨ hType h = 3
      (¬ rings → answers (s.regFault .arv .value rq 0x04C)) ∧
      (rings → classPlaces (.p3 h) ≤ s.placesUsed cls 0 → answers
        ((({ s with chn := { s.chn with ringFull := true } } : State).regFault .arv .queue rq 0x04C).pageEvent .arv 2)) ∧
      (rings → s.placesUsed cls 0 < classPlaces (.p3 h) → answers
        { s with port := { s.port with p3 := s.port.p3 ++ [(true, .p3 h)] } })) ∧
    (∀ (m : PortMsg) (port cls stream : Nat), s.inReset = false → s.port.inited = true → s.port.recallSt.running = false →
      msgClass m = some (port, cls, stream) →
      (classPlaces m ≤ s.placesUsed cls stream → exec (.portMessageAccepted m) s = .next (s.logEvent 0x07 .port
        (BitVec.ofNat 32 port) (BitVec.ofNat 32 cls) (if port = 1 then 0 else BitVec.ofNat 32 stream) 0)) ∧
      (s.placesUsed cls stream < classPlaces m →
        let u : PortUnit := match m with
          | .p3 _ | .tree .remote _ => { s.port with p3 := s.port.p3 ++ [(false, m)] }
          | .tree .p4 t => { s.port with p4 := s.port.p4 ++ [t] }
          | .lane g r => { s.port with p1 := s.port.p1 ++ [(g, laneBeats r)] }
        exec (.portMessageAccepted m) s = .next (({ s with port := u } : State).messageWakes))) ∧
    (∀ (m : PortMsg) (port cls stream : Nat), s.inReset = false → s.port.inited = true → s.port.recallSt.running = true →
      msgClass m = some (port, cls, stream) →
      let r := s.port.recallSt
      let left := (lookupKey (cls, stream) r.left).getD 0
      (((cls, stream) ∉ r.waiting ∨ left = 0) → exec (.portMessageAccepted m) s = .next (s.logEvent 0x07 .port
        (BitVec.ofNat 32 port) (BitVec.ofNat 32 cls) (if port = 1 then 0 else BitVec.ofNat 32 stream) 0)) ∧
      ((cls, stream) ∈ r.waiting → left ≠ 0 → exec (.portMessageAccepted m) s = .next
        ((({ s with port := { s.port with recallSt := { r with left := setKey (cls, stream) (left - 1) r.left } } } : State).enqueue
          m).messageWakes))) ∧
    (∀ (via : TreeVia) (m : TreeMsg), s.inReset = false → (s.port.inited = true ∨ s.port.recallSt.done = true) →
      msgClass (.tree via m) = none → exec (.portMessageAccepted (.tree via m)) s =
        .next (s.logEvent 0x42 .tree (TreeMsgF.word0 m) 0 0 0)) ∧
    (∀ m : PortMsg, (s.inReset = true ∨ (s.port.inited = false ∧ s.port.recallSt.done = false)) →
      exec (.portMessageAccepted m) s = .next s)

/-- A tree message stands at the head of its port's queue, and messages are taken. -/
def treeFront (s : State) (via : TreeVia) (m : TreeMsg) : Prop :=
  s.takes = true ∧ (match via with
    | .p4 => s.port.p4.head? = some m
    | .remote => (s.port.p3.head?).map (·.2) = some (.tree .remote m))

/-- The state with the head of the port's queue taken. -/
def treePopped (s : State) (via : TreeVia) : State :=
  match via with
  | .p4 => { s with port := { s.port with p4 := s.port.p4.drop 1 } }
  | .remote => { s with port := { s.port with p3 := s.port.p3.drop 1 } }

/-- Cross-shard checks. DL_TREE_CHK_CMD is recorded and starts nothing while FW_BUSY, for a scope that is not configured, for
an id started in the window (STATE), and for an id below 0x10 or a SCOPE of 0 or 3 (COMMAND); otherwise the check starts with the
value of DL_TREE_CHK_VAL (R182, R317). TREE_CHECK: an operand is kept until every one is here, also before the check starts
here; a second one from the same child, and one of a concluded check, is dropped as a duplicate; one of another step than the
one that the id's check runs in, or of a step below the current one, is stale; the credit of a dropped one returns. -/
def Obligations.TreeChecks : Prop :=
  ∀ s : State,
    (∀ (rq : Requester) (v : Word), s.performs rq .tree →
      let id := (v.extractLsb' 0 8).toNat
      let scope := (v.extractLsb' 8 2).toNat
      let state := s.tree.fwBusy = true ∨ ((scope = 1 ∨ scope = 2) ∧ s.scopeConfigured scope = false) ∨
        (∃ c ∈ s.tree.checks, c.id = id ∧ c.step = s.step ∧ c.own.isSome = true)
      let command := id < 0x10 ∨ scope = 0 ∨ scope = 3
      let answers := fun (t : State) => exec (.dlTreeChkCmd rq v) s = .next ((t.settle).answerWrite (accessOf rq .tree 0x050))
      (state → answers (s.regFault .tree .state rq 0x050)) ∧
      (¬ state → command → answers (s.regFault .tree .command rq 0x050)) ∧
      (¬ state → ¬ command → answers
        (({ s with tree := { s.tree with fwBusy := true } } : State).startCheck id scope s.tree.chkVal).1)) ∧
    (∀ (via : TreeVia) (m : TreeMsg) (c : CheckSt), treeFront s via m → TreeMsgF.child m ≠ 0 →
      s.checkOf (TreeMsgF.checkId m) (TreeMsgF.step m) = some c →
      let k := (TreeMsgF.tree m, TreeMsgF.level m, TreeMsgF.child m)
      let mn : DWord := BitVec.ofNat 64 (fieldAt m.payload 0 8)
      let mx : DWord := BitVec.ofNat 64 (fieldAt m.payload 8 8)
      let t := treePopped s via
      ((c.concluded = true ∨ ∃ o ∈ c.ops, o.1 = k) → exec (.treeCheck via m) s = .next
        ((t.count 18 1).returnCredit (if TreeMsgF.tree m then 5 else 8) 0 1).settle) ∧
      (c.concluded = false → (∀ o ∈ c.ops, o.1 ≠ k) → c.own = none → exec (.treeCheck via m) s = .next
        (t.setCheck { c with ops := c.ops ++ [(k, (mn, mx))], heads := c.heads ++ [(k, TreeMsgF.word0 m)] }).settle)) ∧
    (∀ (via : TreeVia) (m : TreeMsg), treeFront s via m → TreeMsgF.child m ≠ 0 →
      s.checkOf (TreeMsgF.checkId m) (TreeMsgF.step m) = none →
      let runs := fun (c : CheckSt) => c.id = TreeMsgF.checkId m ∧ c.own.isSome = true ∧ c.concluded = false
      let k := (TreeMsgF.tree m, TreeMsgF.level m, TreeMsgF.child m)
      let mn : DWord := BitVec.ofNat 64 (fieldAt m.payload 0 8)
      let mx : DWord := BitVec.ofNat 64 (fieldAt m.payload 8 8)
      let t := treePopped s via
      let stale := fun (own : Word) => exec (.treeCheck via m) s = .next
        ((t.treeStale m own).returnCredit (if TreeMsgF.tree m then 5 else 8) 0 1).settle
      (∀ c, s.tree.checks.find? (fun c => decide (runs c)) = some c → stale c.step) ∧
      ((∀ c ∈ s.tree.checks, ¬ runs c) → stepBelow (TreeMsgF.step m) s.step = true → stale s.step) ∧
      ((∀ c ∈ s.tree.checks, ¬ runs c) → stepBelow (TreeMsgF.step m) s.step = false → exec (.treeCheck via m) s = .next
        (t.setCheck { id := TreeMsgF.checkId m, step := TreeMsgF.step m, scope := (m.payload.getD 16 0).toNat
                      ops := [(k, (mn, mx))], heads := [(k, TreeMsgF.word0 m)] }).settle)) ∧
    (∀ (c : CheckSt) (v : DWord), c.own = some v → c.sent = false →
      (∀ k ∈ s.operands c.scope, ∃ o ∈ c.ops, o.1 = k) →
      let back := c.ops.foldl (fun (s : State) o => s.returnCredit (if o.1.1 then 5 else 8) 0 1) s
      ∃ mn mx : DWord, (∀ p ∈ (v, v) :: c.ops.map (·.2), mn.toNat ≤ p.1.toNat ∧ p.2.toNat ≤ mx.toNat) ∧
        mn ∈ v :: c.ops.map (·.2.1) ∧ mx ∈ v :: c.ops.map (·.2.2) ∧
        s.tryCheck c = if s.scopeRoot c.scope then back.concludeCheck c mn mx
          else ((back.setCheck { c with sent := true }).sendUp c.scope 2
            (fun tree level child dst => back.checkMsg c mn mx tree level child dst)).takeDown { c with sent := true })


/-! ## Power (R266, R270, R275 to R278, R283 to R286) -/

/-- Writes of DL_PWR_REQ with each TARGET (R275 to R277, Table 13.4), from each state: the target is written and PG_SEQ counts
its change. For DORMANT the first check is made at once; where it passes the write-backs begin. A request that names the state
the block is in or is heading for, and one for DORMANT while it wakes, changes nothing else. One for RESTING turns an entry to
DORMANT that came from READY and has not begun its recall. The reserved TARGET 0b01 is refused with RESULT 2. IDLE_REST
requests RESTING when no work is ready or issuing. A command register written in RESTING (R277, R309, R312): a command is held
with its word and its argument registers, a switch is pending at once, and either starts a wake to READY; one written once the
recall has begun is recorded as STATE (R276). -/
def Obligations.PowerRequests : Prop :=
  (∀ (s : State) (rq : Requester) (v : Word), s.serves rq .pwr →
    let aim := fun (t : BitVec 2) => ({ s with pwr := { s.pwr with target := t } } : State)
    let asked := fun (t : BitVec 2) => ({ s with pwr := { s.pwr with target := t, result := 0 } } : State)
    let refused := (({ aim 0 with pwr := { (aim 0).pwr with result := 1 } } : State).pageEvent .pwr 2).logEvent 0x10 .pwr 0 0 0 0
    let answers := fun (c : Instr) (t : BitVec 2) (u : State) =>
      exec c s = .next ((if t = s.pwr.target then u else u.bumpSeq .pwr).answerWrite (accessOf rq .pwr 0x044))
    let down := fun (s : State) (e : Entering) => ({ s with pwr := { s.pwr with entering := e } } : State).setPwr .entering
    let dormant := answers (.pwrReqDormant rq v) 0
    let resting := answers (.pwrReqResting rq v) 2
    let ready := answers (.pwrReqReady rq v) 3
    (s.pwr.st = .ready →
      (s.occupied = true → dormant refused) ∧
      (s.occupied = false → dormant (down (asked 0) (.toDormant false false)).writeBacks) ∧
      resting (down (asked 2) .toResting) ∧ ready (asked 3)) ∧
    (s.pwr.st = .resting →
      (s.pwr.rising = true → dormant (aim 0)) ∧
      (s.pwr.rising = false → s.occupied = true → dormant refused) ∧
      (s.pwr.rising = false → s.occupied = false → dormant (down (asked 0) (.toDormant true false)).writeBacks) ∧
      resting (asked 2) ∧ ready { asked 3 with pwr := { (asked 3).pwr with rising := true } }) ∧
    (s.pwr.st = .waking → dormant (aim 0) ∧ resting (asked 2) ∧
      ready { asked 3 with pwr := { (asked 3).pwr with wakeReady := true } }) ∧
    (s.pwr.st = .dormant → dormant (aim 0) ∧
      resting ({ asked 2 with pwr := { (asked 2).pwr with
        wakeHeld := true, wakeReady := s.pwr.wakeHeld && s.pwr.wakeReady } } : State).startHeldWake ∧
      ready ({ asked 3 with pwr := { (asked 3).pwr with wakeHeld := true, wakeReady := true } } : State).startHeldWake) ∧
    (s.pwr.st = .entering →
      let back := fun (s : State) (p : PwrState) => ({ s with pwr := { s.pwr with entering := .none } } : State).setPwr p
      (s.pwr.entering = .toResting → resting (asked 2) ∧ ready (back (asked 3) .ready) ∧
        (s.occupied = true → dormant refused) ∧
        (s.occupied = false → dormant (down (asked 0) (.toDormant false false)).writeBacks)) ∧
      (s.pwr.entering = .toDormant false false → dormant (aim 0) ∧ 
        resting { asked 2 with pwr := { (asked 2).pwr with entering := .toResting } } ∧ ready (back (asked 3) .ready)) ∧
      (s.pwr.entering = .toDormant true false → dormant (aim 0) ∧ resting (back (asked 2) .resting) ∧
        ready (let u := back (asked 3) .resting; { u with pwr := { u.pwr with rising := true } })) ∧
      (∀ f, s.pwr.entering = .toDormant f true → dormant (aim 0) ∧
        resting { asked 2 with pwr := { (asked 2).pwr with lateWake := some (s.pwr.lateWake == some true) } } ∧
        ready { asked 3 with pwr := { (asked 3).pwr with lateWake := some true } })) ∧
    (v.extractLsb' 0 2 = 1 → exec (.registerWrite rq (regAt .pwr 0x044) v) s =
      let u : State := { s with pwr := { s.pwr with target := 1, result := 2 } }
      .next ((if s.pwr.target = 1 then u else u.bumpSeq .pwr).answerWrite (accessOf rq .pwr 0x044))) ∧
    (s.isReady = true → s.pwr.idleRest ≠ 0 → s.itemReady = false → s.chn.flights = [] →
      exec .idleRest s = .next (down { s with pwr := { s.pwr with result := 0 } } .toResting))) ∧
  (∀ (s : State) (rq : Requester) (v : Word) (p : Page) (off : BitVec 12), s.serves rq p →
    (p, off) ∈ [(Page.tbl, 0x044), (.ctx, 0x048), (.ten, 0x044), (.img, 0x040), (.chn, 0x040), (.chn, 0x044), (.arv, 0x04C),
      (.cnt, 0x040), (.sch, 0x048), (.tree, 0x050)] →
    let answers := fun (p : Page) (off : BitVec 12) (t : State) =>
      exec (.registerWrite rq (regAt p off) v) s = .next (t.answerWrite (accessOf rq p off.toNat))
    let wakes := fun (t : State) => ({ t with pwr := { t.pwr with rising := true } } : State)
    let hold := ({ rq := rq, page := p, off := off.toNat, v := v, args := s.cmdArgs } : HeldCmd)
    (s.pwr.st = .resting → answers p off (wakes { s with pwr := { s.pwr with held := s.pwr.held ++ [hold] } })) ∧
    (s.pwr.st = .resting → v.getLsbD 31 = true → s.serves rq .tbl → answers .tbl 0x040
      (wakes { s with tbl := { s.tbl with switchPending := true } })) ∧
    (∀ f, s.pwr.st = .entering → s.pwr.entering = .toDormant f true →
      answers p off (s.regFault p .state rq off.toNat) ∧
      (v.getLsbD 31 = true → s.serves rq .tbl → answers .tbl 0x040 (s.regFault .tbl .state rq 0x040))))

/-- The way down (R266, R270, R275, R276): RESTING is entered once no work, command, P0 transaction or message is left and E
has fallen to the Resting level, 9 units of 1/16 A (log entry 61), as far as it is fixed; the second check of an entry to
DORMANT is made after the write-backs, those of entries changed since among them, and starts the recall, or abandons the
entry; the recall asks every class and stream; a RECALL_ACK ends the recall of its class and stream, on P1 of its lane group,
on the path its class has (R265), and a reserved credit word is dropped with TREE_BAD, or REST_BAD over P5; DORMANT is
entered once every class is recalled, nothing is under way and no message waits to go, and a late wake starts from there. -/
def Obligations.PowerEntries : Prop :=
  (∀ s : State, s.pwr.st = .entering → s.inReset = false →
    (s.pwr.entering = .toResting → s.itemReady = false → s.chn.flights = [] → s.commandBusy = false → s.p0.reads = [] →
      s.p0.writes = [] → s.port.p3 = [] → s.port.p1 = [] → s.port.p4 = [] → (∀ e ∈ s.env.plan, e ≤ 9 * 65536) →
      exec .enterResting s = .next
        (({ s with pwr := { s.pwr with entering := .none, holding := false } } : State).setPwr .resting)) ∧
    (s.pwr.entering = .toResting → (s.p0.reads ≠ [] ∨ s.p0.writes ≠ [] ∨ s.commandBusy = true ∨ ∃ e ∈ s.env.plan, 9 * 65536 < e) →
      exec .enterResting s = .next s) ∧
    (∀ f, s.pwr.entering = .toDormant f false → s.p0.writes = [] →
      let dirty := (∃ l ∈ s.num.lines, l.dirty = true) ∨ ∃ l ∈ s.ctx.lines, l.dirty = true
      (dirty → exec .dormantSecondCheck s = .next s.writeBacks) ∧
      (¬ dirty → s.occupied = true → exec .dormantSecondCheck s = .next s.refuseDormant.abandonEntry) ∧
      (¬ dirty → s.occupied = false →
        let classes := creditClasses.map (fun c => (c.1, c.2.1))
        let held := creditClasses.map (fun c => ((c.1, c.2.1), c.2.2 - s.placesUsed c.1 c.2.1))
        let asking : Recall := { waiting := classes, running := true, left := held }
        exec .dormantSecondCheck s = .next { s with
          pwr := { s.pwr with entering := .toDormant f true }
          port := { s.port with recallSt := asking }
          out := (classes.map (fun c => creditOut 3 c.1 c.2 0)).reverse ++ s.out })) ∧
    (∀ f, s.pwr.entering = .toDormant f true → s.port.recallSt.running = true → s.port.recallSt.waiting = [] → s.port.p3 = [] →
      s.port.p1 = [] → s.port.p4 = [] → s.p0.reads = [] → s.p0.writes = [] → s.chn.flights = [] → s.chn.lanes = [] →
      s.port.treeOut = [] → (∀ e ∈ s.env.plan, e ≤ 9 * 65536) →
      let t := ({ s.loseDormant with pwr := { s.loseDormant.pwr with entering := .none, lateWake := none } } : State).setPwr .dormant
      exec .dormantEntry s = .next (match s.pwr.lateWake with | some ready => t.wake ready | none => t))) ∧
  (∀ (s : State) (via : CreditPath) (w : Word),
    let cls := (w.extractLsb' 24 4).toNat
    let op := (w.extractLsb' 28 4).toNat
    let stream := (w.extractLsb' 16 8).toNat
    let ends := fun (k : Nat × Nat) => exec (.recallAck via w) s = .next { s with port := { s.port with
      recallSt := { s.port.recallSt with waiting := s.port.recallSt.waiting.erase k } } }
    ((op = 0 ∨ 4 < op ∨ 8 < cls) → exec (.recallAck via w) s =
      .next (if via = .rest then s.logEvent 0x05 .port w 0 0 0 else s.logEvent 0x42 .tree w 0 0 0)) ∧
    (op = 4 → cls ≤ 8 →
      (∀ g, via = .lane g → cls = 0 → ends (0, g.val)) ∧ (via = .arrive → 1 ≤ cls → cls ≤ 5 → ends (cls, stream)) ∧
      (via = .tree → 6 ≤ cls → ends (cls, stream))))

/-- The way up (R270, R277, R278, R335): a wake from DORMANT begins when the host chip reports VDD_DL in range, with the
calibration set loaded; WAKING ends in RESTING where that is the target, and otherwise goes on to READY; in READY, CREDIT_INIT is sent
after DORMANT, and the commands that were held run in their order, each on the argument registers of its write. A wake that waits does not begin before (R335,
R278). -/
def Obligations.PowerExits : Prop :=
  (∀ s : State, s.inReset = false →
     (∀ ok : Bool, (s.pwr.st ≠ .dormant ∨ ok = false ∨ s.pwr.wakeHeld = false ∨ s.cal.loaded = false) →
       exec (.vddOk ok) s = .next { s with pwr := { s.pwr with vddOk := ok } }) ∧
     (s.pwr.st = .dormant → s.pwr.wakeHeld = true → s.cal.loaded = true → exec (.vddOk true) s = .next
       (({ s with pwr := { s.pwr with vddOk := true, wakeHeld := false } } : State).setPwr .waking)) ∧
     (s.pwr.st = .waking → s.pwr.vddOk = true → s.pwr.wakeReady = true → exec .wakingDone s =
       .next { s with pwr := { s.pwr with rising := true, wakeReady := false } }) ∧
     (s.pwr.st = .waking → s.pwr.vddOk = true → s.pwr.wakeReady = false → exec .wakingDone s =
       .next (({ s with pwr := { s.pwr with rising := false } } : State).setPwr .resting)) ∧
     (s.pwr.st = .resting ∨ s.pwr.st = .waking → s.pwr.rising = true →
       let up := ({ s with pwr := { s.pwr with rising := false, held := [] } } : State).setPwr .ready
       let t := if s.port.inited then up.settle else up.creditInit.settle
       exec .restingToReady s = .next
         (s.pwr.held.foldl (fun (s : State) c =>
           (((s.withArgs c.args).command c.rq c.page c.off c.v).settle).withArgs s.cmdArgs) t))) ∧
  (∀ s : State,
     (s.cal.loaded = false ∨ s.pwr.vddOk = false ∨ s.pwr.wakeHeld = false → s.startHeldWake = s) ∧
     (s.pwr.st = .dormant → s.inReset = false → s.pwr.wakeHeld = true → s.cal.loaded = true → s.pwr.vddOk = true →
       s.startHeldWake = ({ s with pwr := { s.pwr with wakeHeld := false } } : State).setPwr .waking) ∧
     (s.pwr.st = .dormant → s.inReset = false → s.cal.loaded = false → ∀ ready : Bool,
       (s.wake ready).pwr.st = .dormant ∧ (s.wake ready).pwr.wakeHeld = true ∧
       (s.wake true).pwr.wakeReady = true ∧ (s.wake false).pwr.wakeReady = (s.pwr.wakeHeld && s.pwr.wakeReady)))

/-- Droop and current (R283 to R286): a sample below a threshold enters its band, where it is deeper, and band 3 logs
PWR_DROOP; a release leaves the deepest band that VDD_DL has not cleared by 10 mV; E of this fc and of 256 fc ahead, in 1/16 A, go out in FORECAST frames,
sent in a free slot on a change past DEADBAND or as the sixteenth slot in READY; a grant expires unless its DURATION is 0; the hold ends. -/
def Obligations.SupplyAndGrants : Prop :=
  ∀ s : State,
    (∀ mV : Nat, s.fclkRuns = true →
      let deep := fun (p : Nat → Bool) => if p 3 then 4 else if p 2 then 3 else if p 1 then 2 else if p 0 then 1 else 0
      let b := deep (fun k => decide (mV < (s.cal.guard.getD k 0).toNat))
      let kept := deep (fun k => decide (k < s.pwr.guardBand) && decide (mV < (s.cal.guard.getD k 0).toNat + 10))
      let t : State := { s with pwr := { s.pwr with guardBand := b } }
      (b ≤ s.pwr.guardBand → exec (.guardBandEntry mV) s = .next s) ∧
      (s.pwr.guardBand < b → b < 4 → exec (.guardBandEntry mV) s = .next t) ∧
      (s.pwr.guardBand < b → b = 4 → exec (.guardBandEntry mV) s = .next ((t.logEvent 0x11 .pwr (BitVec.ofNat 32 mV)
        (BitVec.ofNat 32 (s.cal.guard.getD 3 0).toNat) 0 0).pageEvent .pwr 3)) ∧
      exec (.guardBandRelease mV) s = .next { s with pwr := { s.pwr with guardBand := kept } }) ∧
    (let t := fun (g : Option Grant) => ({ s with pwr := { s.pwr with grant := g } } : State).pageEvent .pwr 4
     (∀ f : BitVec 80, s.inReset = false → frameGood f = true → frameType f = 6 →
       let w := frameData f
       let id := w.extractLsb' 24 8
       let rate := (w.extractLsb' 16 8).toNat
       (id = 0 → s.pwr.grant = none → exec (.grant f) s = .next s) ∧
       (id = 0 → s.pwr.grant.isSome = true → exec (.grant f) s = .next (t none)) ∧
       (id ≠ 0 → exec (.grant f) s = .next (t (some { id := id, duration := (w.extractLsb' 0 16).toNat
                                                      rate := if rate = 0 then 1 else if 160 < rate then 160 else rate })))) ∧
     (∀ g : Grant, s.pwr.grant = some g → g.duration ≠ 0 → exec .grantExpiry s = .next (t none)) ∧
     (∀ g : Grant, s.pwr.grant = some g → g.duration = 0 → exec .grantExpiry s = .next s)) ∧
    (s.fclkRuns = true →
      let n := s.env.plan.headD 0 / 65536
      let a := s.env.plan.getLastD 0 / 65536
      let diff := if a < s.pwr.lastSent.toNat then s.pwr.lastSent.toNat - a else a - s.pwr.lastSent.toNat
      let due := s.pwr.deadband.toNat ≤ diff ∨ (s.pwr.st = .ready ∧ 16 ≤ s.pwr.slots + 1)
      let trend := if s.pwr.holding then 3 else if n < a then 1 else if a < n then 2 else 0
      let data := s.pwr.grantId * 2 ^ 24 + trend * 2 ^ 22 + a * 2 ^ 12 + s.pwr.rateInForce * 2 ^ 4
      let counted := ({ s with pwr := { s.pwr with slots := s.pwr.slots + 1 } } : State)
      (¬ due → exec (.forecast false false) s = .next counted) ∧
      (∀ r : Bool, exec (.forecast true r) s = .next counted ∧ exec (.forecast r true) s = .next counted) ∧
      (due → exec (.forecast false false) s = .next (({ s with pwr := { s.pwr with lastSent := BitVec.ofNat 10 a, slots := 0 } } : State).send
        (.rest (frameOf 7 0 0 0 data))))) ∧
    exec .ballastHoldEnd s = .next { s with pwr := { s.pwr with holding := false } }

/-! ## Frames and credits (R265 to R268, R277) -/

/-- REST frames (R267, R268, R277): one with a wrong CRC, or of a TYPE that the host does not send, is dropped, counted
and logged; a request of an outstanding SEQ is ignored, a fifth is dropped; another is performed, at the address it
names, or waits behind an earlier access of the host that has no answer yet; WAKE names RESTING or READY. Accesses of one core
are performed in the order issued: while one of its reads waits, a later one waits behind it (R261). Credit words for the block's own messages (R265): a reserved OP or CLASS is
dropped with TREE_BAD; a return adds to what is held, an initial count replaces it, never above the count of Table
12.8; a recall takes it back and is answered with it; the counts are kept apart by who gives them (log entry 19). The messages that waited for credits go, or wait on. -/
def Obligations.FramesAndCredits : Prop :=
  (∀ (s : State) (f : BitVec 80),
     let every := fun (t : State) => exec (.restRd f) s = .next t ∧ exec (.restWr f) s = .next t ∧
       exec (.wake f) s = .next t ∧ exec (.grant f) s = .next t
     let ty := (f.extractLsb' 76 4).toNat
     let dropped : State := ({ s with port := { s.port with
       restBad := BitVec.ofNat 32 (Nat.min (s.port.restBad.toNat + 1) 0xFFFFFFFF) } } : State).logEvent 0x05 .port
         (f.extractLsb' 48 32) 0 0 0
     let out := (s.port.waits.filter (fun w => w.rq == .rest)).map WaitRead.access ++
       (s.port.behind.filter (fun b => b.a.rq == .rest)).map (·.a)
     let retry := ∃ w ∈ out, w.seq = (f.extractLsb' 72 4).toNat
     let waits := fun (b : BusReq) => ({ s with port := { s.port with behind := s.port.behind ++ [b] } } : State)
     let a : Access := {
       rq := .rest, seq := (f.extractLsb' 72 4).toNat, page := (f.extractLsb' 54 18).toNat / 1024
       off := (f.extractLsb' 54 18).toNat % 1024 * 4 }
     (f.extractLsb' 0 8 ≠ frameCrc (f.extractLsb' 8 72) → every dropped) ∧
     (f.extractLsb' 0 8 = frameCrc (f.extractLsb' 8 72) →
       (ty ≠ 1 → ty ≠ 2 → ty ≠ 5 → ty ≠ 6 → every dropped) ∧
       ((ty = 1 ∨ ty = 2) → retry → every s) ∧
       ((ty = 1 ∨ ty = 2) → ¬ retry → 4 ≤ out.length → every dropped) ∧
       (ty = 1 → out = [] → every (s.busRead a).busGo) ∧
       (ty = 2 → out = [] → every (s.busWrite a (f.extractLsb' 8 32)).busGo) ∧
       (ty = 1 → ¬ retry → out ≠ [] → out.length < 4 → every (waits { a := a })) ∧
       (ty = 2 → ¬ retry → out ≠ [] → out.length < 4 → every (waits { a := a, v := some (f.extractLsb' 8 32) })) ∧
       (ty = 5 → s.inReset = false → f.extractLsb' 8 2 = 3 → every (s.wake true)) ∧
       (ty = 5 → s.inReset = false → f.extractLsb' 8 2 = 2 → every (s.wake false)))) ∧
  (∀ (s : State) (core : Fin 16) (a : RegAddr) (v : Word),
     let out := (s.port.waits.filter (fun w => w.rq == .core core)).map WaitRead.access ++
       (s.port.behind.filter (fun b => b.a.rq == .core core)).map (·.a)
     let b : BusReq := { a := { rq := .core core, page := a.page.toNat, off := a.off.toNat }, v := some v }
     (out = [] → exec (.registerWrite (.core core) a v) s = .next (s.busWrite b.a v).busGo) ∧
     (out ≠ [] → out.length < 8 → exec (.registerWrite (.core core) a v) s =
       .next { s with port := { s.port with behind := s.port.behind ++ [b] } })) ∧
  (∀ (s : State) (giver : Option (Fin 16)) (w : Word),
     let op := (w.extractLsb' 28 4).toNat
     let cls := (w.extractLsb' 24 4).toNat
     let n := (w.extractLsb' 8 8).toNat
     let stream := (w.extractLsb' 16 8).toNat
     let key := (cls, stream, match giver with | some i => i.val | none => 16)
     let held := (lookupKey key s.port.outCredits).getD 0
     let most := if cls = 3 ∨ cls = 6 then 3 else if cls = 4 ∨ cls = 7 then 4 else 8
     let put := fun (k : Nat) => ({ s with port := { s.port with
       outCredits := setKey key (if most < k then most else k) s.port.outCredits } } : State)
     ((op = 0 ∨ 4 < op ∨ 8 < cls) → exec (.outboundCreditWord { giver := giver, word := w }) s = .next (s.logEvent 0x42 .tree w 0 0 0)) ∧
     (3 ≤ cls → cls ≤ 8 →
       (op = 1 → exec (.outboundCreditWord { giver := giver, word := w }) s = .next (put (held + n)).pumpTree) ∧
       (op = 2 → exec (.outboundCreditWord { giver := giver, word := w }) s = .next (put n).pumpTree) ∧
       (op = 3 → exec (.outboundCreditWord { giver := giver, word := w }) s = .next ((put 0).send
         (.credit .tree (BitVec.ofNat 32 (4 * 2 ^ 28 + cls * 2 ^ 24 + stream * 2 ^ 16 + held * 2 ^ 8)))))))


/-! ## Resets (R183, R300) -/

/-- The machine as a block reset leaves it (R300, R93): every unit and every page header at its reset value, but for the
power state and VDD_DL, the LIFE page, of which LOCK and the command under way are lost, the CAL page, the RAM entries, of which
one that a load was writing is undefined (R94), and the accesses that wait behind a read. -/
def resetState (s : State) (cause : BitVec 2) : State :=
  let ram := fun (b : Bool) => match s.tbl.tornEntry with
    | some i => if b = !s.tbl.active then Store.erase (s.tbl.bank b).ram i else (s.tbl.bank b).ram
    | none => (s.tbl.bank b).ram
  { variant := s.variant, inst := s.inst, strap := s.strap, gen3 := s.strap, step := 0xFFFFFFFF, stepSeen := false
    inReset := true, resetCause := cause, fc := 0, powerOns := s.powerOns, choices := s.choices
    hdrs := [{}, {}, { s.hdr .life with lock := false }] ++ List.replicate 17 {}
    pairs := {}, pwr := { st := s.pwr.st, vddOk := s.pwr.vddOk }, env := {}, cal := s.cal
    life := { s.life with busy := none, args := [] }, port := { inited := false, behind := s.port.behind }
    tbl := { bank0 := { sealed := true, ram := ram false }, bank1 := { ram := ram true }, romDefects := s.tbl.romDefects }
    sen := {}, chn := {}, ctx := {}, tree := {}, num := {}, log := {}, sch := {}, img := {}, cnt := {}, dbg := {}
    p0 := { nextId := s.p0.nextId }, out := s.out, pending := s.pending }

/-- R300: a reset sets IN_RESET, records its cause, samples the strap and returns every unit to its reset value
(`resetState`); reads that waited are refused (Table 14.14; their order is the model's, log entry 63), and then the
accesses behind them. Both entries to a reset, DL_GLB_RESET written 0xA5 and the host chip's, do the same; another value is
recorded as VALUE. A power-on of the always-on domain also loses the RAM, the LIFE page and every header, the accesses that
wait and the loaded mark of the calibration set. At its end the block is READY with CREDIT_INIT sent, or DORMANT. The strap
takes effect at the next reset (R183). -/
def Obligations.Resets : Prop :=
  ∀ s : State,
    let refused := fun (t : State) => s.port.waits.foldl (fun (t : State) w => t.refuseRead w.access) t
    (exec .hostChipReset s = .next (refused (resetState s 1)).busGo) ∧
    (s.port.behind = [] → exec .hostChipReset s = .next (refused (resetState s 1))) ∧
    (∀ (rq : Requester) (v : Word), s.serves rq .glb →
      (v = 0xA5 → exec (.dlGlbReset rq v) s =
        .next ((refused (resetState s 2)).answerWrite (accessOf rq .glb 0x054))) ∧
      (v ≠ 0xA5 → exec (.dlGlbReset rq v) s =
        .next ((s.regFault .glb .value rq 0x054).answerWrite (accessOf rq .glb 0x054)))) ∧
    (let t := resetState s 0
     exec .alwaysOnPowerOn s = .next { t with
       powerOns := s.powerOns + 1, life := {}, cal := { s.cal with loaded := false }, hdrs := List.replicate 20 {}
       pwr := { st := .dormant, vddOk := s.pwr.vddOk }, port := { inited := false }
       tbl := { bank0 := { sealed := true }, romDefects := s.tbl.romDefects } }) ∧
    (s.inReset = true →
      let t : State := { s with inReset := false, fc := 0, pwr := { s.pwr with entering := .none } }
      (s.resetCause ≠ 0 → s.pwr.vddOk = true → exec .blockResetEnd s = .next (t.setPwr .ready).creditInit) ∧
      ((s.resetCause = 0 ∨ s.pwr.vddOk = false) → exec .blockResetEnd s = .next (t.setPwr .dormant).startHeldWake)) ∧
    (s.inReset = false → exec .blockResetEnd s = .next s) ∧
    (∀ (b : Bool) (i : Nat), (b = !s.tbl.active → some i ≠ s.tbl.tornEntry) → (resetState s 1).ramEntry b i = s.ramEntry b i) ∧
    (∀ level : Bool, exec (.gwdCompat3Change level) s = .next { s with strap := level })

/-! ## The event ring (R319, R323, R344) -/

/-- What an event that is logged leaves (R319, R323): outside P0's use it is held, to at most sixteen; with nothing before it a
masked one is not written, and one for which the ring has no room, is disabled or has no slots is lost; any other starts the write
of its record at the slot of DL_LOG_WR. EVENTS counts each. An acknowledged record moves DL_LOG_WR, and raises the page's WATER
event where the ring then holds DL_LOG_WATER records or more; one that failed is lost. The held records go first, once the
block is READY and the ring can take them, that is EN is 1 and the ring has slots; until then they stay. -/
def Obligations.EventRing : Prop :=
  ∀ (s : State),
    (∀ (code : Nat) (p : Page) (a0 a1 a2 a3 : Word) (tag : BitVec 16),
      let e : Event := { code := code, page := p, step := s.step, fc := s.fc, tag := tag, a0 := a0, a1 := a1, a2 := a2, a3 := a3 }
      let t := s.count 32 1
      let l := s.logEvent code p a0 a1 a2 a3 tag
      (s.p0Usable = false → s.log.held.length < 16 → l = { t with log := { s.log with held := s.log.held ++ [e] } }) ∧
      (s.p0Usable = false → 16 ≤ s.log.held.length → l = t.loseRecord) ∧
      (s.p0Usable = true → s.log.held = [] → s.log.pend = [] → s.log.writing = false →
        let room := s.log.en = true ∧ s.log.slots ≠ 0 ∧ (s.log.wr - s.log.rd).toNat ≠ s.log.slots
        (s.log.masked code = true → l = t) ∧
        (s.log.masked code = false → ¬ room → l = t.loseRecord) ∧
        (s.log.masked code = false → room → l = ({ t with log := { s.log with writing := true, lostBefore := false } } : State).issueWrite
          .logRec (cellsAt (s.log.base.toNat + 32 * (s.log.wr.toNat % s.log.slots)) (eventBytes s.inst s.log.lostBefore e))))) ∧
    (let lost := BitVec.ofNat 32 (Nat.min (s.log.lost.toNat + 1) 0xFFFFFFFF)
     s.loseRecord = ({ s with log := { s.log with lost := lost, lostBefore := true } } : State).pageEvent .log 2) ∧
    (s.log.pend = [] → s.log.held = [] →
      let t : State := { s with log := { s.log with wr := s.log.wr + 1, writing := false } }
      s.logAck false = (if s.log.water ≠ 0 ∧ s.log.water.toNat ≤ (s.log.wr + 1 - s.log.rd).toNat then t.pageEvent .log 1 else t) ∧
      s.logAck true = ({ s with log := { s.log with writing := false } } : State).loseRecord) ∧
    (s.inReset = false → exec .eventQueueFlush s = .next s.pumpLog) ∧
    ((s.pwr.st ≠ .ready ∨ s.log.en = false ∨ s.log.slots = 0) → s.pumpLog.log.held = s.log.held) ∧
    (∀ (e : Event) (r : List Event), s.pwr.st = .ready → s.log.en = true → s.log.slots ≠ 0 → s.log.writing = false →
      s.log.held = e :: r → s.log.masked e.code = false → (s.log.wr - s.log.rd).toNat ≠ s.log.slots →
      s.pumpLog = ({ s with log := { s.log with held := r, writing := true, lostBefore := false } } : State).issueWrite
        .logRec (cellsAt (s.log.base.toNat + 32 * (s.log.wr.toNat % s.log.slots)) (eventBytes s.inst s.log.lostBefore e)))


/-! ## Messages (R156, R176 to R181, R222, R243, R246, R249 to R255) -/

/-- A message taken on P3: the state with the head of the queue taken and its credit returned; DL_ARV_RING's own spends and
returns none, and nothing returns once a recall has begun. -/
def p3Taken (s : State) (h : Header) (rung : Bool) : State :=
  let t : State := { s with port := { s.port with p3 := s.port.p3.drop 1 } }
  if rung || s.port.recallSt.running then t else t.send (.credit .arrive (creditWord 1 (p3HeaderClass h) 0 1))

/-- A doorbell or a message of reserved TYPE that is dropped (R156, R252): the first is captured in DL_ARV_DROP. -/
def p3Dropped (s : State) (h : Header) (reason ord : Nat) : State :=
  { s with chn := { s.chn with drop := s.chn.drop.take (h.extractLsb' 96 32) reason (BitVec.ofNat 16 ord) } }

/-- A DOORBELL is taken (R155, R156, R340): for no chain, a tile the chain does not have, a second one of its kind and ordinal,
or another row-block it is dropped, counted and logged; for a chain that is being ended it is ignored; otherwise its tile is
there, and with rows that fold its generation check takes its place. The first of an ARMED chain admits it, or ends it with the
code of the check that fails. An admitted chain begins its items (R144, R147, R157): a first item for a tile whose doorbell is
judged, with its residual or gate tile's where it has one; once the row-block is complete, the completion item, and the second
items once every first one has ended and no write is out; each begins once. -/
def Obligations.Doorbells : Prop :=
  ∀ (s : State) (h : Header) (rung : Bool), s.takes = true → s.port.p3.head? = some (rung, .p3 h) →
    let u := p3Taken s h rung
    let ord := (h.extractLsb' 48 16).toNat
    let kind := h.getLsbD 25
    let goes := fun (t : State) => exec (.doorbell h) s = .next t.settle
    let dropped := fun (reason : Nat) (tag : BitVec 16) (v : State) => p3Dropped (((v.count 13 1).logEvent (8 + reason) .arv
      (h.extractLsb' 96 32) (BitVec.ofNat 32 (ord + b2n kind * 2 ^ 16)) (BitVec.ofNat 32 ((h.extractLsb' 20 4).toNat * 2 ^ 20
        + (h.extractLsb' 0 20).toNat)) 0 tag).pageEvent .arv 1) h reason ord
    (s.chainAt (h.extractLsb' 96 32) = none → goes (dropped 1 0 u)) ∧
    (∀ c : Chain, s.chainAt (h.extractLsb' 96 32) = some c →
      let noTile := c.d.ntiles ≤ ord ∨ (kind = true ∧ c.d.usesKind1 = false)
      let twice := (c.arrival kind ord).isSome = true
      let other := c.d.hasStat = true ∧ ((h.extractLsb' 0 20).toNat ≠ c.d.ctxFirst ∨ h.extractLsb' 20 4 ≠ c.d.gen)
      let marked := u.modChain c.uid (fun c => { c with dropped := true })
      (c.running = false → goes u) ∧
      (c.running = true → noTile → goes (dropped 2 c.d.tag marked)) ∧
      (c.running = true → ¬ noTile → twice → goes (dropped 3 c.d.tag marked)) ∧
      (c.running = true → ¬ noTile → ¬ twice → other → goes (dropped 4 c.d.tag marked)) ∧
      (c.running = true → ¬ noTile → ¬ twice → ¬ other → c.admitted = true →
        let checked := c.d.hasStat && !kind
        let a : Arrival := {
          kind := kind, ord := ord, addr := (h.extractLsb' 64 32).toNat, itid := h.extractLsb' 32 16
          rows := if checked then none else some (List.replicate c.d.rows true) }
        let v := (u.count 12 1).modChain c.uid (fun c => { c with arrivals := c.arrivals ++ [a] })
        (checked = true → goes ({ v with ctx := { v.ctx with waits := v.ctx.waits ++ [.check c.uid ord] } } : State).pumpCtx) ∧
        (checked = false → goes (v.spawn c.uid))) ∧
      (∀ c1 : Chain, c.running = true → ¬ noTile → ¬ twice → ¬ other → c.admitted = false →
        (u.admitChain c).chainOf c.uid = some c1 →
        (c1.running = true → goes ((u.admitChain c).acceptBell c1 h)) ∧ (c1.running = false → goes (u.admitChain c).issueWords)) ∧
      ((u.admissionCode c.d).1 ≠ 0 → u.admitChain c = (u.modChain c.uid (fun k => { k with
        st := .ending (u.admissionCode c.d).1, bank := s.activeBank, step := s.step, admitNo := s.tbl.admits + 1 })).logRefusal
          c.addr (u.admissionCode c.d).1 c.d.tag)) ∧
    (∀ c : Chain, s.chainOf c.uid = some c →
      (c.st = .admitted → s.spawn c.uid = ((s.spawnPass c.uid .first).spawnPass c.uid .completion).spawnPass c.uid .second) ∧
      (c.st ≠ .admitted → s.spawn c.uid = s) ∧
      (∀ t, t ∈ s.openOrds c .first ↔ ∃ a ∈ c.arrivals, a.ord = t ∧ a.kind = false ∧ a.rows ≠ none ∧
        ((c.d.resid = true ∨ c.d.gated = true) → ∃ b ∈ c.arrivals, b.kind = true ∧ b.ord = t)) ∧
      (∀ t, t ∈ s.openOrds c .second ↔ c.complete = true ∧ c.d.secondPass = true ∧ c.endedCount .first false = c.d.ntiles ∧
        c.writes = 0 ∧ t < c.d.ntiles) ∧
      (∀ t, t ∈ s.openOrds c .completion ↔ c.complete = true ∧ c.d.mergesTiles = true ∧ s.tileRoot c = true ∧ c.writes = 0 ∧
        t = 0) ∧
      (∀ (p : Pass) (t : Nat), c.d.outOf p = none → s.openOrds c p = [t] →
        ((p, false, t) ∈ c.begun → s.spawnPass c.uid p = s) ∧
        ((p, false, t) ∉ c.begun → s.spawnPass c.uid p = (s.modChain c.uid (fun c => { c with
          nextKey := c.nextKey + 1, begun := c.begun ++ [(p, false, t)]
          items := c.items ++ [{ key := c.nextKey, ord := t, pass := p, pre := false }] })).itemAdvance c.uid c.nextKey)))

/-- The other P3 messages. STEP (R241, R245, R251): in NORMAL a token of the step of DL_GLB_STEP is a duplicate, another opens its
window, with STEP_JUMP where it does not follow; in RESUMABLE the image's step begins the apply and another is refused with
RESTORE_SKEW; in AWAITING and FILLING a token is recorded. An image fragment joins the intake (R243). A fault notice aborts a fill
(R246). A TREE_TILE pairs with its message or waits for it (R253). A reserved TYPE is dropped (R252). -/
def Obligations.ControlMessages : Prop :=
  ∀ (s : State) (h : Header) (rung : Bool), s.takes = true → s.port.p3.head? = some (rung, .p3 h) →
    let u := p3Taken s h rung
    let w := h.extractLsb' 32 32
    let step := fun (t : State) => exec (.step h) s = .next t.settle
    let queued := fun (base : Word) =>
      let last := (s.img.tokens.getLast?).getD base
      { (if w = last then u else u.freezeAt w) with img := { s.img with tokens := s.img.tokens ++ [w] } }
    (s.img.st = .normal → s.rollingBack = false →
      (w = s.step → step (u.logEvent 0x01 .arv w 0 0 0)) ∧
      (w ≠ s.step →
        let v : State := { u.freezeAt w with step := w }
        let jumped := if s.img.expect = none ∧ s.stepSeen = true ∧ w ≠ s.step + 1 then v.logEvent 0x02 .arv s.step w 0 0 else v
        let r := ({ jumped.laterWindows.sentinelToken with stepSeen := true } : State).retainStep w
        let x := r.1.ageChecks.judgeAll.scheduleToken
        let y := match x.img.expect with
          | some e => let z : State := { x with img := { x.img with expect := none } }; if w = e then z else z.logEvent 0x5A .img e w 0 0
          | none => x
        step (r.2.foldl (fun (t : State) old => t.logEvent 0x58 .img old w 0 0) y))) ∧
    (s.img.st = .normal → s.rollingBack = true → step (queued s.rollbackStep)) ∧
    (s.img.st = .applying → step (queued s.img.fillStep)) ∧
    ((s.img.st = .awaiting ∨ s.img.st = .filling) → step ({ u with step := w, stepSeen := true } : State).laterWindows) ∧
    (s.img.st = .resumable →
      (w = s.img.fillStep → step (let v := u.freezeAt w; { v with img := { v.img with st := .applying, applyLeft := List.range 4096 } })) ∧
      (w ≠ s.img.fillStep →
        let v := (u.logEvent 0x5F .img s.img.fillStep w 0 0).pageEvent .img 3
        let a := ({ v with img := { v.img.discard with gen := v.img.gen + 1, st := .awaiting } } : State).stopReads (· == .imgCheck)
        step { a with step := w, stepSeen := true, img := { a.img with err := 0xC } })) ∧
    exec (.imgFrag h) s = .next ((({ u with img := { s.img with
      fragQ := s.img.fragQ ++ [{ addr := (h.extractLsb' 64 32).toNat }] } } : State).intake (s.img.fragQ.length + 1)).settle) ∧
    (let v := u.logEvent 0x03 .img ((h.extractLsb' 48 16).setWidth 32) ((h.extractLsb' 32 10).setWidth 32)
       (BitVec.ofNat 32 s.img.st.code) 0
     let x := ({ v with img := { v.img.discard with gen := v.img.gen + 1, st := .awaiting } } : State).stopReads (· == .imgCheck)
     ((s.img.st = .normal ∨ s.img.st = .applying) → exec (.fault h) s = .next v.settle) ∧
     ((s.img.st = .awaiting ∨ s.img.st = .filling ∨ s.img.st = .resumable) →
       exec (.fault h) s = .next (x.logEvent 0x60 .img (x.img.gen.setWidth 32) 1 0 0).settle)) ∧
    (let k : MsgKey := {
       down := false, tree := true, level := (h.extractLsb' 32 3).toNat, child := (h.extractLsb' 36 2).toNat
       step := h.extractLsb' 96 32, ctx := (h.extractLsb' 0 20).toNat, gen := h.extractLsb' 20 4 }
     let partner := fun (m : HeldMsg) => m.stage == 0 && m.remote && !m.tile && m.key == k
     (s.tree.held.find? partner = none → exec (.treeTile h) s = .next
       ({ u with tree := { s.tree with tiles := s.tree.tiles ++ [k] } } : State).settle) ∧
     (∀ m, s.tree.held.find? partner = some m → exec (.treeTile h) s = .next
       (({ u with tree := { s.tree with held := swapHeld m { m with tile := true } s.tree.held } } : State).judgeAll).settle)) ∧
    exec (.arvBadType h) s = .next
      (p3Dropped ((u.logEvent 0x08 .arv (h.extractLsb' 0 32) 0 0 0).pageEvent .arv 1) h 5 0).settle

/-- UP and DOWN messages (R176 to R178, R181, R253): a message that is taken enters the node buffer, with its TREE_TILE where that
came first. Table 8.4 by the chain it is for: none, and its step passed, stale; none yet, or one not admitted, held; admitted in
another step, stale; used before, a duplicate; otherwise used, and its generation check takes its place. TREE_NODE_MERGE merges
the operands that are here in the order of the tree, and sends the result up. -/
def Obligations.TreeMessages : Prop :=
  ∀ s : State,
    (∀ (via : TreeVia) (m : TreeMsg), treeFront s via m →
      let u := treePopped s via
      let h := heldOf via m
      let paired := h.remote && !h.down && s.tree.tiles.contains h.key
      let t : State := { u with tree := { s.tree with
        held := s.tree.held ++ [{ h with tile := paired }]
        tiles := if paired then s.tree.tiles.erase h.key else s.tree.tiles } }
      exec (.treeUp via m) s = .next t.judgeAll.settle ∧ exec (.treeDown via m) s = .next t.judgeAll.settle) ∧
    (∀ h : HeldMsg, h.stage = 0 →
      (s.blockChain h.ctx h.gen = none →
        (stepBelow h.step s.step = true → s.judgeHeld h = (s.treeStale h.msg s.step).releaseHeld h) ∧
        (stepBelow h.step s.step = false → s.judgeHeld h = s)) ∧
      (∀ c : Chain, s.blockChain h.ctx h.gen = some c →
        let lacksTile := c.d.mergesTiles = true ∧ h.remote = true ∧ h.down = false ∧ h.tile = false
        ((lacksTile ∨ c.admitted = false) → s.judgeHeld h = s) ∧
        (¬ lacksTile → c.admitted = true → c.step ≠ h.step → s.judgeHeld h = (s.treeStale h.msg c.step).releaseHeld h) ∧
        (¬ lacksTile → c.admitted = true → c.step = h.step → h.key ∈ s.tree.used → s.judgeHeld h = (s.count 18 1).releaseHeld h) ∧
        (¬ lacksTile → c.admitted = true → c.step = h.step → h.key ∉ s.tree.used → s.judgeHeld h =
          ({ s with
            tree := { s.tree with held := swapHeld h { h with stage := 1 } s.tree.held, used := s.tree.used ++ [h.key] }
            ctx := { s.ctx with waits := s.ctx.waits ++ [.tree h.key] } } : State).pumpCtx))) ∧
    (∀ (slot : Fin 64) (c : Chain), s.fclkRuns = true → s.chainIn slot.val = some c → s.chainOf c.uid = some c →
      c.running = true → c.leaf = true → c.final = false → c.d.treeScoped = true →
      let left := (s.operands c.d.scope).drop c.nodePos
      (left ≠ [] → s.nextOperands c left = none → exec (.treeNodeMerge slot) s = .next s.settle) ∧
      (∀ ms, left ≠ [] → s.nextOperands c left = some ms → (c.d.mergesTiles = false ∨ c.foldData.isSome = true) →
        exec (.treeNodeMerge slot) s = .next ((s.nodeMerge c ms).nodeGo 39 c.uid).settle) ∧
      (left = [] → s.scopeRoot c.d.scope = false → c.sentUp = false → c.writes = 0 → s.sendsBefore c = false →
        exec (.treeNodeMerge slot) s = .next ((s.modChain c.uid (fun c => { c with sentUp := true })).sendUp c.d.scope 0
          (fun tree level child dst => s.blockMsg c false c.nodeRecs tree level child dst)).settle))

/-- Lane requests (R222, R224, R258, R336, R341): one of reserved TYPE, FMT or GRADE returns the canonical NaN in every lane, with
LANE_BAD; one for a function that is not defined, or whose bank is quarantined or faulted, likewise with its event; any other
waits with its active lanes. A schedule fetch waits for its group's window, is answered, or is stale; on Derlith-4M it
returns NaN. -/
def Obligations.LaneRequests : Prop :=
  ∀ (s : State) (g : Fin 8) (r : LaneReq), s.takes = true →
    let h := r.hdr
    let rest := fun (q : LaneReq) => ({ s with port := { s.port with p1 := s.port.p1.erase (g, q) } } : State)
    let pushed := fun (q : LaneReq) (l : LaneWork) => (({ rest q with chn := { s.chn with
      nextLane := s.chn.nextLane + 1, lanes := s.chn.lanes ++ [l] } } : State).count 3 1).spend 14 1
    let no := s.chn.nextLane
    let bank := s.activeBank
    let base : LaneWork := { no := no, group := g, req := r, bank := bank }
    let nans := fun (t : State) => ((t.count 7 128).modLane no (fun l => { l with returned := some (laneNaNs (lFmt h)) })).lanesGo
    let grp : Word := BitVec.ofNat 32 g.val
    let goes := fun (t : State) => exec (.laneRequestEval g r) s = .next t.settle
    let bad := lType h ≠ 0 ∨ 2 < lFmt h ∨ (s.gen3 = false ∧ lGrade h = 3)
    let how := if lFunc h = 0x10 ∨ lFunc h = 0x11 then none else s.resolve bank (lFunc h) (s.laneGrade h)
    (lType h ≠ 1 → s.port.p1.find? (fun p => p.1 == g) = some (g, r) →
      (bad → goes (nans ((pushed r base).logEvent 0x04 .port grp (h.extractLsb' 0 32) 0 0))) ∧
      (¬ bad → how = none → goes (nans ((pushed r base).logEvent 0x24 .tbl grp (BitVec.ofNat 32 (lFunc h))
        (BitVec.ofNat 32 (lGrade h)) 0))) ∧
      (∀ f : Resolved, ¬ bad → how = some f →
        let k := s.tbl.bank bank
        let unfit := (k.quarantine || k.fault) = true ∧ s.usesRam f = true
        let xs := ((List.range 128).filter (fun k => r.mask.getLsbD k)).map (fun k => (k, s.laneOperand r k))
        let t := ((pushed r base).count 6 (xs.filter (fun p => nonFin32 p.2)).length).modLane no (fun l => { l with
          how := some f, ws := (s.tablesOf f).eraseDups, todo := xs.map (fun p => (p.1, s.laneInput r p.2)) })
        (unfit → goes (nans ((pushed r base).logEvent 0x23 .tbl grp (BitVec.ofNat 32 (lFunc h)) (BitVec.ofNat 32 (b2n bank)) 0))) ∧
        (¬ unfit → xs ≠ [] → goes (t.wantTables (s.tablesOf f).eraseDups)) ∧
        (¬ unfit → xs = [] → goes ((t.wantTables (s.tablesOf f).eraseDups).laneFinish no).lanesGo))) ∧
    (lType h = 1 →
      let q : LaneReq := { hdr := h, mask := 0, ops := 0 }
      let l : LaneWork := {
        no := no, group := g, req := q, bank := bank, fetch := some ((h.extractLsb' 32 6).toNat, h.extractLsb' 64 32) }
      s.port.p1.find? (fun p => p.1 == g) = some (g, q) →
      (s.variant = .d4 → exec (.laneRequestFetch g h) s = .next (pushed q l).lanesGo.settle) ∧
      (s.variant = .d4m → exec (.laneRequestFetch g h) s = .next
        ((((pushed q l).logEvent 0x56 .sch grp (BitVec.ofNat 32 (h.extractLsb' 32 6).toNat) 0 0).modLane no
          (fun l => { l with returned := some [nan32] })).lanesGo).settle)) ∧
    (∀ (k : Nat) (step : Word), let q := s.group k
      let stale := s.groupOn k = false ∨ stepAbove q.gstep step = true
      (stale → s.fetchAnswer k step = some (nan32, true)) ∧
      (¬ stale → q.gstep = step → q.given = true → s.fetchAnswer k step = some (q.eta, false)) ∧
      (¬ stale → (q.gstep ≠ step ∨ q.given = false) → s.fetchAnswer k step = none)) ∧
    (∀ l ∈ s.chn.lanes, ∀ (k : Nat) (step : Word), l.fetch = some (k, step) → l.returned = none →
      (s.fetchAnswer k step = none → s.fetchGo l = s) ∧
      (∀ w, s.fetchAnswer k step = some (w, false) → s.fetchGo l = s.modLane l.no (fun l => { l with returned := some [w] })) ∧
      (∀ w, s.fetchAnswer k step = some (w, true) → s.fetchGo l = (s.logEvent 0x55 .sch (BitVec.ofNat 32 l.group.val)
        (BitVec.ofNat 32 k) step 0).modLane l.no (fun l => { l with returned := some [w] })))

/-- The scratchpad's answers (R255, R256): a piece of a read is kept until every piece is here, and the unit that asked then has
its data; an error ends the read with the failing address captured, where none is, and what its other pieces bring is not used; a
write that is acknowledged or fails ends likewise; an answer that nothing asked for, or of another length, is none. A piece that
covers bytes of a write still under way is held, and issued once no such write is left. A write goes out from its 64-byte aligned
address in beats of at most 512 bytes, each of its bytes at its place, and no other byte enabled. P2 accesses that waited go on. -/
def Obligations.ScratchpadAnswers : Prop :=
  ∀ (s : State) (id : Nat),
    (∀ (j : ReadJob) (a n : Nat), s.p0.reads.find? (fun j => j.out.any (fun o => o.1 == id)) = some j →
      j.out.find? (fun o => o.1 == id) = some (id, a, n) → (s.p0.held.any (fun h => h.1 == id)) = false →
      let rest := j.out.filter (fun q => q.1 != id)
      let goes := fun (d : Option (List Byte)) (t : State) => exec (.spadReadData id d) s = .next t.busGo
      let u := (s.putJob id (ReadJob.kill s.p0.held { j with out := rest })).captureSpad a
      (j.dead = false → goes none (u.readFails j a).settle) ∧
      (j.dead = true → goes none u.settle) ∧
      ∀ bs : List Byte,
        (bs.length ≠ n → goes (some bs) s) ∧
        (bs.length = n → j.dead = true → goes (some bs) (s.putJob id (ReadJob.kill [] { j with out := rest })).settle) ∧
        (bs.length = n → j.dead = false → rest = [] →
          goes (some bs) ((s.putJob id none).readData j.tag (j.got ++ [(a, bs)])).settle) ∧
        (bs.length = n → j.dead = false → rest ≠ [] →
          goes (some bs) (s.putJob id (some { j with out := rest, got := j.got ++ [(a, bs)] })))) ∧
    (∀ (held : List (Nat × Nat × Nat)) (j : ReadJob),
      let out := j.out.filter (fun o => !held.any (fun h => h.1 == o.1))
      (out = [] → ReadJob.kill held j = none) ∧
      (out ≠ [] → ReadJob.kill held j = some { j with out := out, got := [], dead := true })) ∧
    (s.p0.reads.find? (fun j => j.out.any (fun o => o.1 == id)) = none → ∀ d, exec (.spadReadData id d) s = .next s.busGo) ∧
    (∀ w : WriteJob, s.p0.writes.find? (fun w => w.id == id) = some w →
      let t := ({ s with p0 := { s.p0 with writes := s.p0.writes.filter (fun q => q.id != id) } } : State).sendHeld
      exec (.spadWriteAck id false) s = .next (t.writeDone w.tag).settle ∧
      exec (.spadWriteAck id true) s = .next ((t.captureSpad w.addr).writeFails w).settle) ∧
    (s.p0.writes.find? (fun w => w.id == id) = none → ∀ err, exec (.spadWriteAck id err) s = .next s) ∧
    (s.p0.held.any (fun h => h.1 == id) = true → ∀ d, exec (.spadReadData id d) s = .next s.busGo) ∧
    (∀ a n : Nat,
      ((∃ w ∈ s.p0.writes, ∃ b ∈ w.bytes, a ≤ b ∧ b < a + n) →
        (s.sendPiece id a n).out = s.out ∧ (s.sendPiece id a n).p0.held = s.p0.held ++ [(id, a, n)]) ∧
      ((∀ w ∈ s.p0.writes, ∀ b ∈ w.bytes, ¬(a ≤ b ∧ b < a + n)) →
        s.sendPiece id a n = (s.send (.p0Read id a n)).spend 5 ((n + 511) / 512))) ∧
    (∀ h ∈ s.sendHeld.p0.held, s.p0.covered h.2.1 h.2.2 = true) ∧
    (∀ (tag : WriteTag) (c : Nat × Byte) (r : List (Nat × Byte)),
      let t := s.issueWrite tag (c :: r)
      ∃ (lo : Nat) (beats : List (List (Option Byte))),
        t.out = s.out ++ [.p0Write s.p0.nextId lo beats] ∧
        t.p0.writes = s.p0.writes ++ [{ id := s.p0.nextId, addr := c.1, tag := tag, bytes := c.1 :: r.map (·.1) }] ∧
        lo % 64 = 0 ∧ (∀ b ∈ beats, b.length ≤ 512) ∧ (∀ q ∈ c :: r, lo ≤ q.1) ∧
        (∀ i j : Nat, j < 512 → ((beats.getD i []).getD j none) = lookupKey (lo + 512 * i + j) (c :: r))) ∧
    (∀ a : Nat, (s.captureSpad a).port.spadErr = match s.port.spadErr with | some x => some x | none => some (BitVec.ofNat 31 a))

/-! ## Work (R67, R68, R88, R105, R158, R172, R201, R326 to R330) -/

/-- The exponent E and the 24-bit significand of the magnitude of a finite nonzero FP32 value; a subnormal is normalised exactly
(R50, R54). -/
def binadeOf (w : Word) : Int × Nat :=
  let e := (w.extractLsb' 23 8).toNat
  let f := (w.extractLsb' 0 23).toNat
  if e = 0 then ((Nat.log2 f : Int) - 149, f * 2 ^ (23 - Nat.log2 f)) else ((e : Int) - 127, 2 ^ 23 + f)

/-- P before the seam clamp (R58 to R62) of the entry `e`, in its half `h`, at T; at T = 0 and T = 2^24 it is P0 and P1 of R63. -/
def polyAt (g : Grade) (d : Desc) (e : Entry) (h T : Nat) : Int :=
  let field := fun (lo n : Nat) => (e.extractLsb' lo n).toInt
  match g with
  | .Q => field 0 28 * 2 ^ 14
      + (field 28 20 * 2 ^ 21 / 2 ^ d.sh1 + field 48 14 * (T : Int) * 2 ^ 3 / 2 ^ d.sh2) * (T : Int) / 2 ^ 24
  | .L => field 0 28 * 2 ^ 14 + field 28 20 * ((T / 2 ^ 8 : Nat) : Int) * 2 ^ 5 / 2 ^ d.sh1
  | .N => (if h = 0 then field 0 16 else field 30 16) * 2 ^ 26
      + (if h = 0 then field 16 14 else field 46 14) * ((T / 2 ^ 14 : Nat) : Int) * 2 ^ 17 / 2 ^ d.sh1

/-- P of stage 5: clamped to the segment's endpoint values where MONO declares a direction (R63). -/
def polyClamped (g : Grade) (d : Desc) (e : Entry) (h T : Nat) : Int :=
  let p := polyAt g d e h T
  let p0 := polyAt g d e h 0
  let p1 := polyAt g d e h (2 ^ 24)
  if e.extractLsb' 76 2 = 1 ∨ e.extractLsb' 76 2 = 2 then min (max p (min p0 p1)) (max p0 p1) else p

/-- What an evaluation answers in segment `s` at T, where Table 3.3 makes its result of G by `fin` (R57, R64, R88): an entry that
is uncorrectable gives NaN. -/
def segmentValue (look : Look) (t : TblRef) (d : Desc) (g : Grade) (o : EvalOut) (s T : Nat) (fin : Val → Val) : Prop :=
  let i := if g = .N then s / 2 else s
  let h := if g = .N then s % 2 else 0
  o.looks = [(t, i)] ∧ o.tail = none ∧ o.settled = false ∧
  (look t i = none → o.v = .nan ∧ o.clamps = 0) ∧
  (∀ e : Entry, look t i = some e →
    o.v = fin ((Val.ofInt (polyClamped g d e h T)).mul (Val.pow2 (((e.extractLsb' 62 8).toNat : Int) - 167))) ∧
    o.clamps = if polyClamped g d e h T = polyAt g d e h T then 0 else 1)

/-- What a table evaluation gives (R49 to R64, R90, R337, R338): the special-input codes and NaN; a BINADE argument by its binade, in
a tail or a segment; the UNIFORM argument of EXP2, EXPE and the TURN front ends; and Table 3.3's result for every other front end,
of what DIRECT gives at the argument it forms. -/
def tableValues : Prop :=
  ∀ (look : Look) (t : TblRef) (d : Desc) (g : Grade) (w : Word),
    let o := evalTable look t d g (.x w)
    let nan := w.extractLsb' 23 8 = 0xFF ∧ w.extractLsb' 0 23 ≠ 0
    let inf := w.extractLsb' 23 8 = 0xFF ∧ w.extractLsb' 0 23 = 0
    let zero := w.extractLsb' 0 31 = 0
    let neg := w.msb = true
    let refused := nan ∨ (d.specNeg = true ∧ neg ∧ ¬ zero ∧ ¬ inf)
    let code := if zero then (if neg then d.specNZ else d.specPZ) else if inf then (if neg then d.specNI else d.specPI) else 0
    let em := binadeOf w
    let at0 := fun (a : Val) => (finishTable look t { d with front := 0 } g (.scalar a {})).v
    let uniform := fun (o : EvalOut) (F : Nat) (fin : Val → Val) =>
      segmentValue look t d g o (F / 2 ^ (32 - d.k)) (F / 2 ^ (8 - d.k) % 2 ^ 24) fin
    (List.range 8).map specVal = [none, some (.fin false 0 1), some (.fin true 0 1), some (.fin false 1 1), some (.fin true 1 1),
      some (.inf false), some (.inf true), some .nan] ∧
    o.bits = rne32 o.v ∧
    (refused → o.v = .nan ∧ o.looks = [] ∧ o.settled = true) ∧
    (∀ x, ¬ refused → specVal code = some x → o.v = x ∧ o.looks = [] ∧ o.settled = true) ∧
    (¬ refused → specVal code = none →
      (d.front = 0 →
        let tail := fun (lin : Bool) (c : Word) (which : Nat) =>
          o.v = (if lin then (f32 w).mul (f32 c) else f32 c) ∧ o.tail = some (t, which) ∧ o.looks = [] ∧ o.clamps = 0
        let m := em.2 - 2 ^ 23
        let s := (em.1 - d.emin).toNat * 2 ^ d.k + m / 2 ^ (23 - d.k)
        ((zero ∨ (¬ inf ∧ em.1 < d.emin)) → tail d.loLin d.loC 0) ∧
        (¬ zero → (inf ∨ (d.emin ≤ em.1 ∧ d.emin + d.nbin ≤ em.1)) →
          (¬ neg → tail d.hipLin d.hipC 1) ∧ (neg → tail d.hinLin d.hinC 2)) ∧
        (¬ zero → ¬ inf → d.emin ≤ em.1 → em.1 < d.emin + d.nbin →
          (d.signed = false → neg → tail d.loLin d.loC 0) ∧
          (¬(d.signed = false ∧ neg) → segmentValue look t d g o (if d.signed = true ∧ neg then s + d.nbin * 2 ^ d.k else s)
            ((m % 2 ^ (23 - d.k)) * 2 ^ (d.k + 1)) id))) ∧
      (d.front = 1 → o.v = signOfX w.msb (at0 (f32 w).abs)) ∧
      (∀ (s : Bool) (n dd : Nat), f32 w = .fin s n dd → d.front = 2 ∨ d.front = 3 →
        let zn : Int := Val.signed s n * (if d.front = 2 then 1 else 0x171547652B82F)
        let zd : Int := dd * (if d.front = 2 then 1 else 2 ^ 48)
        let k := zn / zd
        (128 * zd ≤ zn → o.v = .inf false ∧ o.looks = []) ∧
        (zn ≤ -150 * zd → o.v = .fin false 0 1 ∧ o.looks = []) ∧
        (-150 * zd < zn → zn < 128 * zd →
          uniform o ((zn - k * zd) * 2 ^ 32 / zd).toNat (fun G => G.mul (Val.pow2 k)))) ∧
      (¬ zero → ¬ inf → d.front = 6 → o.v = signOfX w.msb ((at0 (sigVal em.2 0)).mul (Val.pow2 (-em.1)))) ∧
      (¬ zero → ¬ inf → ¬ neg →
        let r := if 3 * 2 ^ 22 ≤ em.2 then (Val.ofInt (em.1 + 1)).add (at0 ((sigVal em.2 (-1)).sub Val.one))
          else (Val.ofInt em.1).add (at0 ((sigVal em.2 0).sub Val.one))
        (d.front = 4 → o.v = r) ∧ (d.front = 5 → o.v = r.mul (.fin false 0xB17217F7D1CF (2 ^ 48))) ∧
        (d.front = 7 → o.v = (at0 (sigVal em.2 (em.1 % 2))).mul (Val.pow2 (-(em.1 / 2)))) ∧
        (d.front = 8 → o.v = (at0 (sigVal em.2 (em.1 % 2))).mul (Val.pow2 (em.1 / 2))))) ∧
    (∀ F : Nat, F < 2 ^ 32 → d.front = 9 ∨ d.front = 0xA →
      let o := evalTable look t d g (.turn F)
      let a := if d.front = 9 then F else (F + 2 ^ 30) % 2 ^ 32
      let q := a / 2 ^ 30
      let u := if q % 2 = 1 then 2 ^ 30 - a % 2 ^ 30 else a % 2 ^ 30
      (u = 2 ^ 30 → o.v = .fin (decide (2 ≤ q)) 1 1 ∧ o.looks = []) ∧
      (u ≠ 2 ^ 30 → uniform o (4 * u) (fun G => if G.isZero then Val.zero else if 2 ≤ q then G.neg else G)))

/-- What a built-in gives (R75, R79): Table 4.3 at the zeros, the infinities, NaN and, where it says, negative inputs; the
composites of Grades Q and L on the native tables, each of whose operations but the last is an FP32-path operation. -/
def builtinValues : Prop :=
  ∀ (look : Look) (g : Grade) (x : Word),
    let at4 := fun (ids : List Nat) (pz nz pi ni : Word) => ∀ id ∈ ids,
      [0, 0x80000000, 0x7F800000, 0xFF800000].map (fun w => (evalBuiltin look id g (.x w)).bits) = [pz, nz, pi, ni]
    let one : Word := 0x3F800000
    let finite := x.extractLsb' 23 8 ≠ 0xFF ∧ x.extractLsb' 0 31 ≠ 0
    let table := fun (f : RomFn) (t : Word) =>
      (evalTable look (.native (romRow f .Q)) ((romTable (romRow f .Q)).desc 0) .Q (.x t)).v
    let exp := fun (y : Word) => (evalBuiltin look 1 .Q (.x y)).bits
    let sigma := fun (a : Word) => table (if (f32 a).sign then .sigk else .sigh) (exp (fneg (fabs a)))
    let v := fun (id : Nat) => (evalBuiltin look id g (.x x)).v
    at4 [0, 1] one one 0x7F800000 0 ∧ at4 [2, 3] 0xFF800000 0xFF800000 0x7F800000 nan32 ∧
    at4 [4] 0x7F800000 0xFF800000 0 0x80000000 ∧ at4 [5] 0x7F800000 0xFF800000 0 nan32 ∧
    at4 [6] 0 0x80000000 0x7F800000 nan32 ∧ at4 [8] 0x3F000000 0x3F000000 one 0 ∧
    at4 [9, 0xA] 0 0x80000000 one 0xBF800000 ∧ at4 [0xB] 0x3F317218 0x3F317218 0x7F800000 0 ∧
    at4 [0xC, 0xD, 0xE] 0 0x80000000 0x7F800000 0x80000000 ∧
    (∀ id < 0xF, x.extractLsb' 23 8 = 0xFF → x.extractLsb' 0 23 ≠ 0 → v id = .nan) ∧
    (∀ id ∈ [2, 3, 5, 6], finite → x.msb = true → v id = .nan) ∧
    (finite → g ≠ .N →
      v 8 = sigma x ∧
      v 0xC = (f32 x).mul (sigma x) ∧
      v 0xB = ((f32 x).max Val.zero).add (table .l1p (exp (fneg (fabs x)))) ∧
      v 0xD = (f32 x).mul (sigma (fmul x (ffma (fmul x x) 0x3D922279 0x3FCC422A))) ∧
      (x.msb = false → 0x41800000 ≤ x → v 0xE = f32 x) ∧
      (0xC1800000 ≤ x → v 0xE = .fin true 0 1) ∧
      ((x.msb = false ∧ x < 0x41800000 ∨ x.msb = true ∧ x < 0xC1800000) →
        let p := fmul x x
        let d := ffma x x (fneg p)
        let t := exp (rne32 ((f32 (fneg p)).mul (f32 0x3F000000)))
        let y := fmul t (fsub one (rne32 ((f32 d).mul (f32 0x3F000000))))
        let wv := f32 (rne32 ((f32 y).mul (table .mill (fabs x))))
        v 0xE = if x.msb then (f32 x).mul wv else (f32 x).mul (Val.one.sub wv)))

/-- One fc of issue (R68, R157, R280, R306): under HALT no evaluation issues; with one ready evaluation and nothing else, it issues
in its pinna where E covers its slots, takes them and is shown. EVALUATION_RESULT (R67, R88): the result leaves, counts its clamps,
is sampled and goes on; one with a bad sorus entry waits for its refetch, which reads the rhizome's entry again, counts it, and logs
what the checks found. RESIDENCY_FILL_DONE (R105): the table that was filled is resident, in the lowest free blocks, as the work that
wanted it last was admitted; items whose tables are all here are ready from now on. What an evaluation gives (R49 to R64, R79, R90) is
stated by `tableValues` and `builtinValues` above. -/
def Obligations.Evaluations : Prop :=
  tableValues ∧ builtinValues ∧
  (∀ (s : State) (p : Nat) (i : EvIn) (b : Bool) (d id : Nat) (g : Grade),
    let table := evalTable (s.lookIn p) (.user b d) ((s.tbl.bank b).desc d) g i
    let native := evalBuiltin (s.lookIn p) id g i
    (s.evaluate p (.table b d id g) i).bits = rne32 table.v ∧ (s.evaluate p (.table b d id g) i).looks = table.looks ∧
    (s.evaluate p (.native id g) i).bits = rne32 native.v ∧ (s.evaluate p (.native id g) i).looks = native.looks) ∧
  ∀ s : State, s.fclkRuns = true →
    (∀ ballast : Nat, s.dbg.en = true → s.dbg.halt = true →
      ∃ t : State, exec (.workItemIssue ballast) s = .next t.settle ∧ t.chn = { s.chn with stamp := s.chn.stamp + 1 } ∧
        t.port = s.port ∧ t.p0 = s.p0) ∧
    (∀ (stamp slot : Nat) (c : Chain) (i : Item) (q : EvalReq), s.halting = false → s.chn.lanes = [] → s.pwr.guardBand = 0 →
      s.admitsNew = true → s.readyItems = [(stamp, slot, c.uid, i.key)] → s.chainOf c.uid = some c → c.item i.key = some i →
      i.todo = [q] → q.paid = 0 → q.pinna < s.pinnaCount → s.storeAllows c i = true →
      let k := s.slotCharge c i.ord q
      1 ≤ k.2 → k.2 ≤ 8 * k.1.perEvaluator → (s.cal.coef.getD (k.1.code + 1) 0).toNat * k.2 ≤ s.envRoom →
      let t : State := { s with chn := { s.chn with laneHead := none } }
      let u := (((t.showPinna q.pinna k.1.code false).modItem c.uid i.key (fun i => { i with
        todo := [], inflight := i.inflight + 1 })).countSlots q.pinna k.1 k.2).fly (some (c.uid, i.key)) 0 c.bank true q
      exec (.workItemIssue 0) s = .next ({ u with chn := { u.chn with stamp := u.chn.stamp + 1 } } : State).settle) ∧
    (∀ (id : Nat) (f : Flight), s.chn.flights.find? (fun f => f.id == id) = some f →
      let o := s.evaluate f.pinna f.req.how f.req.input
      let clean := s.badLooks f.pinna o = ([], [])
      let t := ({ s with chn := { s.chn with flights := s.chn.flights.filter (fun q => q.id != id) } } : State).count 4 o.clamps
      let u := match f.sampled with
        | some b => t.addSample f.pinna f.req.how f.bank f.req.input o b (s.flightTag f)
        | none => t
      ((clean ∨ f.refetched = true) → exec (.evaluationResult id) s = .next ((u.deliver f o.bits).holdBallast).settle) ∧
      (¬ clean → f.refetched = false → exec (.evaluationResult id) s = .next s.settle) ∧
      ((clean ∨ f.refetched = true) → exec (.sorusRefetch id) s = .next s.settle) ∧
      (∀ (e : TblRef × Nat), s.badLooks f.pinna o = ([e], []) → f.refetched = false →
        let v := s.refetch (s.flightTag f) (keyOf e.1) f.pinna e.2 (s.entryPlace e.1 e.2) (s.rhizomeEntry e.1 e.2)
          (s.sorusEntry f.pinna e.1 e.2)
        exec (.sorusRefetch id) s = .next ({ v with chn := { v.chn with
          flights := v.chn.flights.map (fun q => if q.id = id then { q with refetched := true } else q) } } : State).settle)) ∧
    (∀ (tag : BitVec 16) (k : TableKey) (p i : Nat) (plc : Nat × Nat) (e copy : Entry),
      let t := s.refetch tag k p i plc e copy
      let u := s.count 19 1
      let log := fun (u : State) (code space : Nat) (e : Entry) =>
        u.logEvent code .tbl (BitVec.ofNat 32 space) (BitVec.ofNat 32 plc.2) (eccArg e) 0 tag
      let mended := fun (u : State) => match eccOf copy with
        | .corr _ => log u 0x22 3 copy
        | _ => u
      (eccOf e = .clean → t = mended (u.setCopy k p i (some e))) ∧
      (∀ e', eccOf e = .corr e' → t = log ((u.setCopy k p i (some e')).countEcc plc.1) 0x22 plc.1 e) ∧
      (eccOf e = .uncorr → t = mended ((log (u.setFault plc.1) 0x21 plc.1 e).pageEvent .tbl 4))) ∧
    (∀ k : TableKey, s.tbl.filling = some k →
      let blocks := ((List.range 64).filter (fun b => !s.tbl.resident.any (fun r => r.blocks.contains b))).take (s.keyBlocks k)
      let last := (lookupKey k s.tbl.wanted).getD s.tbl.admits
      let t : State := { s with tbl := { s.tbl with
        filling := none, resident := s.tbl.resident ++ [{ key := k, blocks := blocks, last := last }]
        wanted := dropKey k s.tbl.wanted } }
      let now := fun (c : Chain) => if s.wsResident c.ws = false ∧ t.wsResident c.ws = true then
          { c with items := c.items.map (fun i => if i.ready && !i.done then { i with stamp := s.fc + s.chn.stamp } else i) }
        else c
      let u : State := { t with chn := { t.chn with slots := s.chn.slots.map (Option.map now) } }
      exec .residencyFillDone s = .next (((u.count 20 (s.keyEntries k)).spend 11 (s.keyEntries k)).startFill).settle)

/-- PARTIAL_CAPSULE_FOLD (R113, R126, R172): the next ordinal, once its capsules are formed, its contexts hold the generation and
are in the cache; each context then holds the fold of its record with the row's partial capsule, in that order, and every other
context of the tile its record. ROW_BLOCK_COMPLETE (R158): with every ordinal folded and the final records here, the rows that had a
contribution set the flags of the completion word, CHN_LEN_MISMATCH is logged where a row's COUNT is not the declared length, the
statistic's own work is done, and the block is complete. A chain is finished once its items of each pass have ended and its
row-block is complete. The widening check (R207, R208): an output under a registered id, in a format on rungs 0 to 3, whose
saturations or underflows pass the limit of its kind raises LEVEL to the rung above, is logged, and is the last one shown. -/
def Obligations.RowBlocks : Prop :=
  ∀ (s : State) (slot : Fin 64) (c : Chain), s.fclkRuns = true → s.chainIn slot.val = some c → c.st = .admitted →
    (∀ pr : PartRow, c.parts.find? (fun q => q.ord == c.folded) = some pr →
      let rows := c.foldRows pr
      let need := s.needLines ((rows.map (fun p => c.ctxOf p.1 / 128)).eraseDups)
      let able := ∀ p ∈ rows, s.ctxTakes (c.ctxOf p.1) c.d.gen = true
      (¬ able → exec (.partialCapsuleFold slot) s = .next s.settle) ∧
      (able → need.2 = false → exec (.partialCapsuleFold slot) s = .next need.1.settle) ∧
      (able → need.2 = true → (c.d.mergesTiles = false ∨ c.foldData.isSome = true) →
        exec (.partialCapsuleFold slot) s = .next (need.1.foldNow c pr rows).settle)) ∧
    (c.parts.find? (fun q => q.ord == c.folded) = none → exec (.partialCapsuleFold slot) s = .next s.settle) ∧
    (∀ (r j : Nat) (p : Part) (l : CtxLine), s.ctxLine (c.ctxOf r / 128) = some l → l.recs.length = 128 →
      (s.foldRow c r p).ctxRec (c.ctxOf r) = foldPart s.gen3 c.d.plain (s.mergeExp (s.rowPinna r)) (s.ctxRec (c.ctxOf r)) p ∧
      (j ≠ c.ctxOf r → (s.foldRow c r p).ctxRec j = s.ctxRec j)) ∧
    (c.final = true → c.complete = false →
      let rows := (List.range c.d.rows).filter (fun r => c.live.getD r false)
      let t := (rows.foldl (fun (s : State) r => s.rowDone c r) s).statDone c rows
      exec (.rowBlockComplete slot) s = .next
        (((t.modChain c.uid (fun c => { c with complete := true })).spawn c.uid).finishChains).settle) ∧
    ((c.final = false ∨ c.complete = true) → exec (.rowBlockComplete slot) s = .next s.settle) ∧
    (∀ r : Nat,
      let q := c.rowRec r
      let t := s.modChain c.uid (fun c => { c with
        anyBoundLost := c.anyBoundLost || q.boundLost, anyNonfinite := c.anyNonfinite || q.nonfinite
        anyEmpty := c.anyEmpty || q.empty })
      let differs := c.d.declLen ≠ 0 ∧ c.d.declLen ≤ 16777215 ∧ q.boundLost = false ∧ q.count ≠ c.d.declLen
      (¬ differs → s.rowDone c r = t) ∧
      (differs → s.rowDone c r = (((t.modChain c.uid (fun c => { c with lenMismatch := true })).logEvent 0x31 .chn
        (BitVec.ofNat 32 (c.ctxOf r)) (BitVec.ofNat 32 q.count) (BitVec.ofNat 32 c.d.declLen) 0 c.d.tag).pageEvent .chn 3))) ∧
    (s.chainFinished c = true ↔ c.endedCount .first false = c.d.ntiles ∧ (c.d.hasStat = true → c.complete = true ∧
      (c.d.secondPass = true → c.endedCount .second false = c.d.ntiles) ∧
      (c.d.mergesTiles = true → s.tileRoot c = true → c.endedCount .completion false = 1))) ∧
    (s.chains = [c] →
      (s.chainFinished c = true → s.finishChains = (s.modChain c.uid (fun c => { c with finished := true })).issueWords) ∧
      (s.chainFinished c = false → s.finishChains = s.issueWords)) ∧
    (∀ (n : OutCount) (ls lu : Nat), triggers n ls lu = true ↔
      (ls ≠ 0 ∧ n.elems < n.sat * 2 ^ ls) ∨ (lu ≠ 0 ∧ n.elems < n.ufl * 2 ^ lu)) ∧
    (∀ w : Word, [1, 2, 3, 4, 5].map (widenLimit w) = [(w.extractLsb' 0 5).toNat, (w.extractLsb' 5 5).toNat,
      (w.extractLsb' 10 5).toNat, (w.extractLsb' 15 5).toNat, (w.extractLsb' 20 5).toNat]) ∧
    (∀ (o : Nat × Nat × Nat) (l : RegLine) (r : Nat), s.gen3 = false → c.d.outIds = [o] → s.regLine o.2.1 = some l →
      rungOf o.2.2 = some r →
      let n := if o.1 = 1 then c.count1 else c.count2
      let k := l.e.kind.toNat
      let hit := 1 ≤ k ∧ k ≤ 5 ∧ r ≤ 3 ∧ triggers n (widenLimit c.limSat k) (widenLimit c.limUfl k) = true
      let t := (s.recordEntry o.2.1 c.step l.e).setEntry o.2.1 { l.e with level := BitVec.ofNat 3 (max l.e.level.toNat (r + 1)) }
      let u : State := { t with num := if s.num.lastValid then { t.num with lastOvf := true }
        else { t.num with lastValid := true, lastOvf := false, lastFmt := BitVec.ofNat 4 o.2.2, lastTid := BitVec.ofNat 16 o.2.1 } }
      (¬ hit → s.widen c = s) ∧
      (hit → s.widen c = (u.logEvent 0x48 .num (BitVec.ofNat 32 (o.2.1 * 2 ^ 16 + o.2.2)) (BitVec.ofNat 32 n.sat)
        (BitVec.ofNat 32 n.ufl) 0 c.d.tag).pageEvent .num 1))

/-- The scrubber (R326): in READY each read of an entry that it covers is clean, or is corrected and, in a RAM, written back, or sets
FAULT of its bank or ROM_FAULT. The sentinel (R328, R329): the sample at the head is judged; one that passes changes nothing
more; a violation of a RAM table counts against its bank, and quarantines it at the threshold where QUAR_EN was set. Its self-test
(R330): a wrong answer ends quarantine, until QUAR_EN is set again. TENSOR_WINDOW_CLOSE (R195, R201, R211): a window in which nothing
was written goes; otherwise the entry takes AMAX into its history (not UNREG's, and not in Gen-3 mode), LAST takes the window's counts,
and the dormancy alarm is judged (R206). A write adds its counts to CUR, saturating, and its magnitude to AMAX (R199, R205). -/
def Obligations.SelfChecks : Prop :=
  ∀ s : State, s.fclkRuns = true →
    (s.pwr.st ≠ .ready → exec .scrubRead s = .next s.settle) ∧
    (s.pwr.st = .ready →
     let pl := s.scrubAt s.tbl.scrubPos
     let m := (s.scrubRam false).length + (s.scrubRam true).length + romTop + 0x3000
     let e := if pl.1 = 2 then s.romAt pl.2 else s.ramEntry (decide (pl.1 = 1)) pl.2
     let check := if pl.1 = 2 then s.romEcc pl.2 else eccOf e
     let t := ({ s with tbl := { s.tbl with scrubPos := (s.tbl.scrubPos + 1) % m } } : State).count 30 1
     let log := fun (u : State) (code : Nat) => u.logEvent code .tbl (BitVec.ofNat 32 pl.1) (BitVec.ofNat 32 pl.2) (eccArg e) 1
     (check = .clean → exec .scrubRead s = .next t.settle) ∧
     (∀ e', pl.1 ≠ 2 → check = .corr e' → exec .scrubRead s = .next
       (log ((((t.count 31 1).countEcc pl.1).writeRam (decide (pl.1 = 1)) pl.2 e').countWrite (decide (pl.1 = 1))) 0x22).settle) ∧
     (∀ e', pl.1 = 2 → check = .corr e' → exec .scrubRead s = .next (log ((t.count 31 1).countEcc 2) 0x22).settle) ∧
     (check = .uncorr → exec .scrubRead s = .next ((log (t.setFault pl.1) 0x21).pageEvent .tbl 4).settle) ∧
     (t.setFault 2).tbl.romFault = true ∧ (∀ b : Bool, ((t.setFault (if b then 1 else 0)).tbl.bank b).fault = true)) ∧
    (∀ q : Sample, q.settled = true → s.samplePasses q = (s, true)) ∧
    (∀ q : Sample, q.settled = false → q.how.composite = false → (q.entry ≠ none ∨ q.tail ≠ none) →
      s.samplePasses q = (s, !(f32 q.out).nonFinite && (((f32 q.out).sub q.ref).abs).le
        ((Val.fin false (8 * q.cert + (s.cal.thr.getD 0 0).toNat) 64).mul (s.certUnit q)))) ∧
    (∀ q : Sample,
      (s.sampleRam q = none → s.countViolation q = s) ∧
      (∀ b : Bool, s.sampleRam q = some b →
        let n := (if b then s.sen.viol1 else s.sen.viol0) + 1
        let t : State := { s with sen := if b then { s.sen with viol1 := n } else { s.sen with viol0 := n } }
        let acts := max 1 (s.cal.thr.getD 1 0).toNat ≤ n ∧ q.quarEn = true ∧ s.sen.barred = false ∧ (s.tbl.bank b).quarantine = false
        let u : State := { t with tbl := t.tbl.setBank b { t.tbl.bank b with quarantine := true } }
        (¬ acts → s.countViolation q = t) ∧
        (acts → s.countViolation q = (((u.pageEvent .sen 2).pageEvent .tbl 5).logEvent 0x69 .sen (BitVec.ofNat 32 (if b then 1 else 0))
          (BitVec.ofNat 32 n) 0 0)))) ∧
    (∀ (q : Sample) (r : List Sample), s.sen.queue = q :: r →
      let due := s.sen.testDue || (decide (s.senThr 3 ≠ 0) && decide ((s.sen.judged + 1) % 2 ^ (s.senThr 3 % 32) = 0))
      let t := ({ s with sen := { s.sen with queue := r, judged := s.sen.judged + 1, testDue := due } } : State).count 27 1
      let v := t.samplePasses q
      exec .sentinelJudge s = .next (if v.2 then v.1 else v.1.violation q).settle) ∧
    (s.sen.testDue = true →
      let k := s.sen.vector
      let got := Config.selfTestResult s.sen.tests k
      let want := Config.selfTestAnswer k
      let t : State := { s with sen := { s.sen with testDue := false, vector := (k + 1) % 64, tests := s.sen.tests + 1 } }
      (got = want → exec .senSelftest s = .next t.settle) ∧
      (got ≠ want → let u := t.logEvent 0x6A .sen (BitVec.ofNat 32 k) got want 0
        exec .senSelftest s = .next ({ u with
          sen := { u.sen with quarEn := false, barred := true } } : State).settle)) ∧
    (∀ (tid : BitVec 16) (w : TenWindow), s.recallBegun = false →
      s.num.windows.find? (fun w => w.tid == tid.toNat && w.closable && !s.earlierPending tid.toNat w.step) = some w →
      let kept := fun (t : State) => match w.t with | some x => t.keepT tid.toNat w.step x | none => t
      let goes := fun (t : State) => exec (.tensorWindowClose tid) s = .next t.settle
      (w.wrote = false → goes (kept (s.dropWindow tid.toNat w.step))) ∧
      (w.wrote = true → s.regLine tid.toNat = none → goes (s.needEntry tid.toNat).1) ∧
      (∀ l : RegLine, w.wrote = true → s.regLine tid.toNat = some l →
        let touched := (s.needEntry tid.toNat).1
        let push := w.registered = true ∧ s.gen3 = false
        let e1 := if push then { l.e with
          hist := l.e.amax :: l.e.hist.take 15, hcount := BitVec.ofNat 5 (min (l.e.hcount.toNat + 1) 16) } else l.e
        let e2 := { e1 with last := e1.cur, lstep := e1.wstep, cur := List.replicate 5 0, amax := 0, isOpen := false }
        let t := (kept (((touched.keepTs tid.toNat w.step l.e).recordEntry tid.toNat w.step l.e).dropWindow tid.toNat
          w.step)).dormancy tid.toNat e2
        (∀ q, t.regLine tid.toNat = some q → ¬(push ∧ q.e.cold = true ∧ 16 ≤ q.e.hcount.toNat) → goes t) ∧
        (∀ q, t.regLine tid.toNat = some q → push → q.e.cold = true → 16 ≤ q.e.hcount.toNat →
          goes ((t.setEntry tid.toNat { q.e with cold := false }).logEvent 0x4C .ten (BitVec.ofNat 32 tid.toNat) q.e.lstep 0 0)))) ∧
    (∀ (tid : Nat) (e : RegEntry),
      let elems := (e.last.getD 0 0).toNat
      let zeros := (e.last.getD 1 0).toNat
      let run := if zeros = elems then min (e.dormRun.toNat + 1) 65535 else 0
      let e1 := { e with dormRun := BitVec.ofNat 16 run }
      let k := e.kind.toNat
      let alarm := e.dormant = false ∧ max 1 s.num.dormN.toNat ≤ run ∧ 1 ≤ k ∧ k ≤ 5 ∧ s.num.kmask.getLsbD (k - 1) = true
      let wakes := e.dormant = true ∧ zeros < elems
      let log := fun (u : State) (code : Nat) (x : Word) => u.logEvent code .ten (BitVec.ofNat 32 tid) e.lstep x 0
      (elems = 0 → s.dormancy tid e = s.setEntry tid e) ∧
      (elems ≠ 0 → alarm → s.dormancy tid e =
        (log (s.setEntry tid { e1 with dormant := true }) 0x4E (BitVec.ofNat 32 run)).pageEvent .ten 2) ∧
      (elems ≠ 0 → wakes → s.dormancy tid e = log (s.setEntry tid { e1 with dormant := false }) 0x4F 0) ∧
      (elems ≠ 0 → ¬ alarm → ¬ wakes → s.dormancy tid e = s.setEntry tid e1)) ∧
    (∀ (tid fmt : Nat) (step amax : Word) (h : List Nat) (wrote : Bool) (tag : BitVec 16) (l : RegLine),
      s.regLine tid = some l → ∃ q, (s.countWritten tid fmt step h amax wrote tag).regLine tid = some q ∧
        q.e.amax = fmax l.e.amax amax ∧
        ∀ i < 5, (q.e.cur.getD i 0).toNat = min ((l.e.cur.getD i 0).toNat + h.getD i 0) (2 ^ 32 - 1))


/-! ## Numbers (R24 to R28, R30, R36, R43, R110 to R114) -/

/-- The encodings of Table 2.2 (R21). -/
def encodings : List Fmt := [.fp32, .bf16, .fp16, .e4m3, .e5m2, .e3m2, .e2m3, .e2m1, .d3]

/-- R25, R43, R26, R36, for every encoding and every positive rational n / d. The truncated code a and its successor
bracket the value; rounding to nearest takes the nearer of the two, a tie the one whose fraction LSB is 0 (in Gen-3 mode
the larger, R186); stochastic rounding takes the successor for exactly the draws below its threshold. A code above the
largest finite one overflows by Table 2.4, any other is the result with the sign; a value below the smallest normal is flushed
to a signed zero where R36 says so. -/
def Obligations.Rounding : Prop :=
  ∀ f ∈ encodings, ∀ (n d : Nat), 0 < n → 0 < d →
    let a := f.magCode .down n d
    let A := f.magVal a
    let B := f.magVal (a + 1)
    let mid := d * (A.1 * B.2 + B.1 * A.2)
    let twice := 2 * n * A.2 * B.2
    (A.1 * d ≤ n * A.2 ∧ n * B.2 < B.1 * d) ∧
    f.finalMag .rne n d = (if twice < mid then a else if mid < twice then a + 1 else a + a % 2) ∧
    f.finalMag .rna n d = (if twice < mid then a else a + 1) ∧
    (∀ u : Nat, u < 2 ^ 32 → f.finalMag (.sr u) n d =
      if (u + 1) * d * (B.1 * A.2 - A.1 * B.2) ≤ 2 ^ 32 * (n * A.2 - A.1 * d) * B.2 then a + 1 else a) ∧
    (∀ s : Bool, let m := f.finalMag .rne n d
      (m ≤ f.maxCode → f.round .rne false (.fin s n d) = { code := f.signed s m, unf := decide (m = 0) }) ∧
      (f.maxCode < m → f.round .rne false (.fin s n d) =
        if f = .fp32 ∨ f = .bf16 ∨ f = .fp16 then { code := f.signed s (f.maxCode + 1), nonfin := true }
        else { code := f.signed s f.maxCode, sat := true }) ∧
      (∀ md : Final, f.exceeds n d = false → n * (f.magVal (2 ^ f.fbits)).2 < (f.magVal (2 ^ f.fbits)).1 * d →
        f.round md true (.fin s n d) = { code := f.signed s 0, unf := true }))

/-- R22, R24, R35, R43: every finite code of an encoding, the subnormals and both zeros among them, decodes to a value that
rounds back to that code under every final rounding, without an event: a value exact in the target is itself. -/
def Obligations.ExactCodesReturn : Prop :=
  ∀ f ∈ encodings, ∀ (c : Nat) (md : Final), c < 2 * f.signBit → c % f.signBit ≤ f.maxCode →
    f.round md false (f.decode c) = { code := c } ∧ f.roundElem md (f.decode c) = { code := c }

/-- KS-6 as R46 writes it, with the literal constants of Table 2.11: one round for each (ROT_A, ROT_B, CA, CB). -/
def ks6Spec (c0 c1 c2 c3 : Word) (seed : DWord) : Word :=
  let k0 : Word := seed.extractLsb' 0 32
  let k1 : Word := seed.extractLsb' 32 32
  let table : List (Nat × Nat × Word × Word) := [
    (13, 19, 0x8F1BBCDD, 0x6A3D9E45), (7, 5, 0x1E3779BA, 0xD47B3C8A), (23, 26, 0xAD533697, 0x3EB8DACF),
    (17, 9, 0x3C6EF374, 0xA8F67914), (11, 15, 0xCB8AB051, 0x13341759), (29, 3, 0x5AA66D2E, 0x7D71B59E)]
  let x := table.foldl (fun (x : Word × Word × Word × Word) t =>
    let x0 := x.1 + x.2.1
    let x3 := (x.2.2.2 ^^^ x0).rotateLeft t.1
    let x2 := x.2.2.1 + x3
    let x1 := (x.2.1 ^^^ x2).rotateLeft t.2.1
    (x0 + k1 + t.2.2.1, x1, x2 + k0 + t.2.2.2, x3)) (c0 ^^^ k0, c1 ^^^ k1, c2 ^^^ k0 ^^^ k1 ^^^ 0x5A6C31E7, c3)
  x.1 ^^^ x.2.2.2

/-- An MX or D3 block of finite values (R29, R34): the shared exponent is that of the largest magnitude less emax, held to -127 to
127 (for a zero block -127), and each element is its quotient rounded once, clamped. -/
def blockMX : Prop :=
  ∀ (f : Fmt) (emax : Int) (md : Nat → Final) (xs : List Val), (∀ x ∈ xs, ∃ s n d, x = .fin s n d ∧ 0 < d) →
    let o := encodeMX f emax md xs
    let is := fun (X : Int) => o.scale = (X + 127).toNat ∧
      let rs := xs.zipIdx.map (fun xj => f.roundElem (md xj.2) (xj.1.mul (Val.pow2 (-X))))
      o.codes = rs.map (·.code) ∧
      o.outs = rs.map (fun r => { zero := decide (r.code % f.signBit = 0), unf := r.unf, sat := false, nonfin := false })
    ((∀ x ∈ xs, x.abs.lt (Val.pow2 (-126 + emax)) = true) → is (-127)) ∧
    ((∃ x ∈ xs, (Val.pow2 (127 + emax)).le x.abs = true) → is 127) ∧
    (∀ X : Int, -127 ≤ X → X ≤ 127 → (∃ x ∈ xs, (Val.pow2 (X + emax)).le x.abs = true) →
      (∀ x ∈ xs, x.abs.lt (Val.pow2 (X + 1 + emax)) = true) → is X)

/-- A D4K block of finite values under T (R32): the outlier is the lowest position of the largest magnitude; the block scale is the
least E4M3 value that no other magnitude passes six times of, or 448; the other elements are quotients by scale and T. -/
def blockD4K : Prop :=
  ∀ (md : Nat → Final) (xs : List Val) (p tn td : Nat), 0 < tn → 0 < td → p < xs.length →
    (∀ x ∈ xs, ∃ s n d, x = .fin s n d ∧ 0 < d) →
    let T := Val.fin false tn td
    let o := encodeD4K T md xs
    let x := fun (j : Nat) => xs.getD j Val.zero
    let six := fun (c : Nat) => (Fmt.e4m3.decode c).mul ((Val.ofNat 6).mul T)
    (∀ j < xs.length, (x j).abs.le (x p).abs = true) → (∀ j < p, (x j).abs.lt (x p).abs = true) →
    let others := fun (P : Val → Prop) => ∀ j < xs.length, j ≠ p → P (x j).abs
    o.pos = p ∧ o.outlier = (Fmt.e4m3.round (md p) false ((x p).div T)).code ∧
    (∀ c : Nat, c ≤ 0x7E → others (fun a => a.le (six c) = true) →
      (c = 0 ∨ ¬ others (fun a => a.le (six (c - 1)) = true)) → o.scale = c ∧ o.scaleSat = 0) ∧
    (¬ others (fun a => a.le (six 0x7E) = true) → o.scale = 0x7E ∧ o.scaleSat = 1) ∧
    o.codes.length = xs.length ∧ o.codes.getD p 0 = 0 ∧
    (∀ j < xs.length, j ≠ p → o.codes.getD j 0 = if o.scale = 0 then (if (x j).sign then 8 else 0)
      else (Fmt.e2m1.roundElem (md j) ((x j).div ((Fmt.e4m3.decode o.scale).mul T))).code)

/-- R28 and R110, the layouts: an element of a row record's element string reads back as the code that was packed, at every
element width; a capsule record reads back from its 16 bytes. R30 to R34: a block with a NaN or an infinity is poisoned and counts
each such value; other MX, D3 and D4K blocks are encoded as `blockMX` and `blockD4K` say, and decode by their scale bytes, the
tensor scale, and the outlier of D4K, a poisoned one as NaN. R44 and R46: KS-6, and the counter of an element's draw. Table 9.7 (R205):
what a write counts in ELEMS, ZEROS, UFL, SAT and NONFIN. -/
def Obligations.RecordLayouts : Prop :=
  (∀ (w : Nat) (codes : List Nat), w ∈ [3, 4, 6, 8, 16, 32] → codes.length = 128 → (∀ c ∈ codes, c < 2 ^ w) →
    let bytes := leBytes (w * 16) (packCodes w codes)
    bytes.length = 16 * w ∧ ∀ j, j < 128 → elemCode w bytes j = codes.getD j 0) ∧
  (∀ r : Rec, r.count ≤ countMax → r.bytes.length = 16 ∧ Rec.ofBytes r.bytes = r) ∧
  (∀ (f : Fmt) (emax : Int) (md : Nat → Final) (xs : List Val), (∃ x ∈ xs, x.nonFinite = true) →
    encodeMX f emax md xs = { codes := xs.map (fun _ => 0), scale := 0xFF, outs := xs.map (fun x => { nonfin := x.nonFinite }) }) ∧
  (∀ (T : Val) (md : Nat → Final) (xs : List Val), (∃ x ∈ xs, x.nonFinite = true) →
    encodeD4K T md xs = { codes := xs.map (fun _ => 0), scale := 0x7F, outlier := 0x7F, pos := 0,
                          outs := xs.map (fun x => { nonfin := x.nonFinite }) }) ∧
  blockMX ∧ blockD4K ∧
  [5, 6, 7, 8, 9, 0xA, 0xB].map elemFmt = [(.e4m3, 8), (.e5m2, 15), (.e2m3, 2), (.e3m2, 4), (.e2m1, 2), (.e2m1, 2), (.d3, 0)] ∧
  [5, 6, 7, 8, 9, 0xA, 0xB].map blockSize = [32, 32, 32, 32, 32, 16, 16] ∧
  (∀ (c : Nat) (T : Val) (bytes : List Byte) (j : Nat), c ∈ [5, 6, 7, 8, 9, 0xB] → j < 128 →
    let x := (bytes.getD (stringBytes c + j / blockSize c) 0).toNat
    (x = 0xFF → decodeElem c T bytes j = nan32) ∧
    (x ≠ 0xFF → decodeElem c T bytes j = rne32 (((elemFmt c).1.decode (elemCode (elemWidth c) bytes j)).mul
      (Val.pow2 ((x : Int) - 127))))) ∧
  (∀ (T : Val) (bytes : List Byte) (j : Nat), j < 128 →
    let s := (bytes.getD (64 + j / 16) 0).toNat
    let o := (bytes.getD (72 + j / 16) 0).toNat
    let p := (bytes.getD (80 + j / 32) 0).toNat / 16 ^ (j / 16 % 2) % 16
    let poisoned := s = 0x7F ∨ s = 0xFF ∨ o = 0x7F ∨ o = 0xFF ∨ 128 ≤ s
    (poisoned → decodeElem 0xA T bytes j = nan32) ∧
    (¬ poisoned → j % 16 = p → decodeElem 0xA T bytes j = rne32 ((Fmt.e4m3.decode o).mul T)) ∧
    (¬ poisoned → j % 16 ≠ p → decodeElem 0xA T bytes j =
      rne32 (((Fmt.e2m1.decode (elemCode 4 bytes j)).mul (Fmt.e4m3.decode s)).mul T))) ∧
  (∀ (c0 c1 c2 c3 : Word) (seed : DWord), ks6 c0 c1 c2 c3 seed = ks6Spec c0 c1 c2 c3 seed) ∧
  (∀ (seed : DWord) (step : Word) (tid : BitVec 16) (i : BitVec 48),
    ks6Draw seed step tid i.toNat = (ks6Spec 0 (i.extractLsb' 0 32) (tid ++ i.extractLsb' 32 16) step seed).toNat) ∧
  (∀ (outs : List ElemOut) (n : Nat), healthOf outs n = [outs.length, outs.countP (fun o => o.zero && !o.nonfin),
    outs.countP (·.unf), outs.countP (·.sat) + n, outs.countP (·.nonfin)])

/-- R112 to R114, R121. A combination adds COUNT up to its limit, BOUND_LOST marks a sum past it and stays, EMPTY is both
sides', NONFINITE and SATURATED stay; an empty record leaves the other side's maximum and pair. The maximum is one of its
operands, the NaN where one is NaN, takes no account of their order, and puts -0 below +0. R170, R171: of two records that hold
something, a maximum that is not finite gives the NaN pair, and NaN in a merged tile; otherwise each side is scaled by the
exponential of its distance from the maximum, the pairs are added, and a tile's elements are added exactly and rounded once. R38,
R118: the primitives on pairs, and a row's partial sum, which takes its chunks of 32 (wide) or 16 (fast) positions in order. -/
def Obligations.RecordsCombine : Prop :=
  (∀ (gen3 plain : Bool) (ex : ExpFn) (a : Rec) (p : Part),
    let r := foldPart gen3 plain ex a p
    r.count = Nat.min (a.count + p.rc.count) countMax ∧ r.gen = a.gen ∧ r.empty = (a.empty && p.rc.empty) ∧
    r.boundLost = (a.boundLost || p.rc.boundLost || decide (countMax < a.count + p.rc.count)) ∧
    (a.nonfinite = true ∨ p.rc.nonfinite = true → r.nonfinite = true) ∧
    (a.saturated = true ∨ p.rc.saturated = true → r.saturated = true)) ∧
  (∀ (gen3 : Bool) (ex : ExpFn) (a b : Rec),
    (a.empty = true → (mergeMax gen3 ex a b).max = b.max ∧ (mergeMax gen3 ex a b).pair = b.pair) ∧
    (a.empty = false → b.empty = true → (mergeMax gen3 ex a b).max = a.max ∧ (mergeMax gen3 ex a b).pair = a.pair)) ∧
  (∀ (ex : ExpFn) (a b : Rec) (oa ob : Word), a.empty = false → b.empty = false →
    let m := fmax a.max b.max
    let ra := ex (fsub a.max m)
    let rb := ex (fsub b.max m)
    let r := mergeMax false ex a b
    r.max = m ∧
    (nonFin32 m = true → r.pair = (nan32, 0) ∧ r.nonfinite = true ∧ mergeElem (mergeHow ex a b) oa ob = nan32) ∧
    (nonFin32 m = false → r.pair = pairAdd (scalePair ra a.pair) (scalePair rb b.pair) ∧
      mergeElem (mergeHow ex a b) oa ob = rne32 (((f32 ra).mul (f32 oa)).add ((f32 rb).mul (f32 ob))))) ∧
  (∀ (ex : ExpFn) (a b : Rec) (oa ob : Word), nonFin32 oa = false → nonFin32 ob = false →
    (a.empty = true → mergeElem (mergeHow ex a b) oa ob = ob) ∧
    (a.empty = false → b.empty = true → mergeElem (mergeHow ex a b) oa ob = oa)) ∧
  (∀ (r h l : Word),
    let p := fmul r h
    (r = 0x3F800000 → scalePair r (h, l) = (h, l)) ∧
    (r ≠ 0x3F800000 → nonFin32 p = true → scalePair r (h, l) = (p, 0)) ∧
    (r ≠ 0x3F800000 → nonFin32 p = false → scalePair r (h, l) =
      let t := ffma r l (ffma r h (fneg p))
      let s := fadd p t
      (s, fsub t (fsub s p)))) ∧
  (∀ (h1 l1 h2 l2 : Word),
    let two := fun (a b : Word) => let s := fadd a b; let bb := fsub s a; (s, fadd (fsub a (fsub s bb)) (fsub b bb))
    let se := two h1 h2
    let hl := two se.1 (fadd (fadd l1 l2) se.2)
    ((nonFin32 h1 = true ∨ nonFin32 h2 = true) → pairAdd (h1, l1) (h2, l2) = (fadd h1 h2, 0)) ∧
    (nonFin32 h1 = false → nonFin32 h2 = false → nonFin32 se.1 = false →
      pairAdd (h1, l1) (h2, l2) = if nonFin32 hl.1 then (hl.1, 0) else hl)) ∧
  (∀ (fast : Bool) (n : Nat) (xs ys : List Word),
    let k := if fast then 16 else 32
    let total := chunkTotal fast ys
    rowPartial fast [] = ((0, 0), false) ∧ chunkTotal false ys = ys.foldl fadd 0 ∧
    (xs.length = n * k → 1 ≤ ys.length → ys.length ≤ k →
      let a := rowPartial fast xs
      let p := pairAdd a.1 (total, 0)
      let inf := fun (w : Word) => w = 0x7F800000 ∨ w = 0xFF800000
      (rowPartial fast (xs ++ ys)).1 = p ∧
      ((rowPartial fast (xs ++ ys)).2 = true ↔ a.2 = true ∨ (inf p.1 ∧ nonFin32 a.1.1 = false ∧ nonFin32 total = false) ∨
        (inf total ∧ ∀ t ∈ ys, nonFin32 t = false)))) ∧
  (∀ a b : Word, fmax a b = fmax b a ∧
    ((f32 a).isNaN = true → fmax a b = nan32) ∧
    ((f32 a).isNaN = false → (f32 b).isNaN = false → Val.lt (f32 b) (f32 a) = true → fmax a b = a) ∧
    ((f32 a).isNaN = false → fmax a a = a)) ∧
  fmax 0x80000000 0x00000000 = 0x00000000
end

