-- ==== Sys2Proof/Laws/Bus.lean ====
section
/-! SUPPORT. What a register access comes to: refused, or performed on its page. -/
namespace Sys2Proof.Machine

@[simp] theorem pageOf_number (p : Page) : pageOf p.number = some p := by cases p <;> rfl

theorem State.fclkRuns_iff (s : State) :
    s.fclkRuns = true ↔ s.inReset = false ∧ (s.pwr.st = .ready ∨ s.pwr.st = .entering) := by
  unfold State.fclkRuns
  cases s.inReset <;> cases s.pwr.st <;> simp

/-- While FCLK runs no access is refused (R11, R299). -/
theorem State.refuses_of_runs {s : State} (h : s.fclkRuns = true) (rq : Requester) (n : Nat) : s.refuses rq n = false := by
  obtain ⟨hr, hs⟩ := s.fclkRuns_iff.mp h
  unfold State.refuses
  rcases hs with hs | hs <;> simp [hr, hs]

theorem State.performs.serves {s : State} {rq : Requester} {p : Page} (h : s.performs rq p) : s.serves rq p :=
  ⟨h.1, State.refuses_of_runs h.2.1 rq _, h.2.2.2⟩

/-- With no earlier access that waits, an access is performed as it comes. -/
theorem State.portAccess_clear {s : State} {b : BusReq} (h : s.clearFor b.a.rq) : s.portAccess b = s.perform b := by
  have ht : s.busTaken b.a.rq = [] := by
    have h1 : ∀ w ∈ s.port.waits, (w.rq == b.a.rq) = false := by
      have := h.1
      simp only [State.readHeld, List.any_eq_false, Bool.not_eq_true] at this
      exact this
    unfold State.busTaken
    rw [h.2, List.filter_eq_nil_iff.2 (fun w hw => by simp [h1 w hw])]
    rfl
  unfold State.portAccess
  rw [ht]
  simp [h.2]

/-- A performed write of a register. -/
theorem State.busWrite_serves {s : State} {rq : Requester} {p : Page} (h : s.serves rq p) {off : Nat} (ho : off % 4 = 0)
    (v : Word) : s.busWrite (accessOf rq p off) v = (s.writeReg rq p off v).answerWrite (accessOf rq p off) := by
  unfold State.busWrite State.access
  simp only [accessOf, h.2.1, pageOf_number, h.2.2, ho]
  simp

/-- A performed read of a register that is answered at once. -/
theorem State.busRead_serves {s : State} {rq : Requester} {p : Page} (h : s.serves rq p) {off : Nat} (ho : off % 4 = 0)
    (hw : s.readWaits p off = false) :
    s.busRead (accessOf rq p off) = (s.readReg rq p off).1.answerRead (accessOf rq p off) (s.readReg rq p off).2 := by
  unfold State.busRead
  simp only [accessOf, h.2.1, pageOf_number, h.2.2, hw, ho]
  simp

/-- A command that is a write of one register. -/
theorem State.writes_serves {s : State} {rq : Requester} {p : Page} (h : s.serves rq p) {off : Nat} (ho : off % 4 = 0)
    (v : Word) : s.writes rq p off v = .next ((s.writeReg rq p off v).answerWrite (accessOf rq p off)) := by
  unfold State.writes
  rw [State.portAccess_clear h.1]
  exact congrArg _ (State.busWrite_serves h ho v)

/-- A command that is a read of one register. -/
theorem State.reads_serves {s : State} {rq : Requester} {p : Page} (h : s.serves rq p) {off : Nat} (ho : off % 4 = 0)
    (hw : s.readWaits p off = false) :
    s.reads rq p off = .next ((s.readReg rq p off).1.answerRead (accessOf rq p off) (s.readReg rq p off).2) := by
  unfold State.reads
  rw [State.portAccess_clear h.1]
  exact congrArg _ (State.busRead_serves h ho hw)

/-- A read of a half of a pair. -/
theorem State.readReg_pair {s : State} {p : Page} {off : Nat} {pid : PairId} {hi : Bool} (hp : s.pagePresent p = true)
    (h : pairAt p off = some (pid, hi)) (rq : Requester) : s.readReg rq p off = s.readPair rq pid hi := by
  unfold State.readReg
  simp [hp, h]

@[simp] theorem Page.number_toNat (p : Page) : (BitVec.ofNat 8 p.number).toNat = p.number := by cases p <;> rfl

/-- REGISTER_WRITE of a 4-byte register. -/
theorem exec_registerWrite (s : State) (rq : Requester) (p : Page) (off : BitVec 12) (v : Word) :
    exec (.registerWrite rq (regAt p off) v) s = .next (s.portAccess { a := accessOf rq p off.toNat, v := some v }) := by
  simp only [exec, execRegisterWrite, regAt, Page.number_toNat]
  rfl

/-- A command register that acts as it is written (R277). -/
theorem State.busWrite_command {s : State} {rq : Requester} {p : Page} (h : s.performs rq p) {off : Nat} (ho : off % 4 = 0)
    (h40 : ¬ off < 0x040) {v : Word} (hc : isCommand p off v = true) :
    s.busWrite (accessOf rq p off) v = ((s.command rq p off v).settle).answerWrite (accessOf rq p off) := by
  rw [State.busWrite_serves h.serves ho]
  have hs : s.pwr.st ≠ .resting := by
    obtain ⟨_, hs⟩ := s.fclkRuns_iff.mp h.2.1
    rcases hs with hs | hs <;> rw [hs] <;> decide
  unfold State.writeReg State.commandWrite
  simp [h40, hc, h.2.2.1, hs]

/-- A command that is a write of a command register that acts. -/
theorem State.writes_command {s : State} {rq : Requester} {p : Page} (h : s.performs rq p) {off : Nat} (ho : off % 4 = 0)
    (h40 : ¬ off < 0x040) {v : Word} (hc : isCommand p off v = true) :
    s.writes rq p off v = .next (((s.command rq p off v).settle).answerWrite (accessOf rq p off)) := by
  unfold State.writes
  rw [State.portAccess_clear h.1]
  exact congrArg _ (State.busWrite_command h ho h40 hc)

/-- A happening inside the fast domain while FCLK runs. -/
theorem State.clocked_runs {s : State} (h : s.fclkRuns = true) (act : State → State) : s.clocked act = .next (act s).settle := by
  unfold State.clocked
  simp [h]

end Sys2Proof.Machine
end

