-- ==== Sys2Proof/Laws/Store.lean ====
section
/-! SUPPORT. Laws of the stores: every operation keeps the canonical form; a read after a write gives what was written, and
a write leaves every other address alone. -/
namespace Sys2Proof.Machine

variable {α : Type}

theorem Store.rising_iff (s : Store α) : Store.rising s = true ↔ s.Pairwise (fun a b => a.1 < b.1) := by
  induction s with
  | nil => simp [Store.rising]
  | cons p r ih =>
    cases r with
    | nil => simp [Store.rising]
    | cons q r =>
      obtain ⟨k, a⟩ := p
      obtain ⟨k', a'⟩ := q
      simp only [Store.rising, Bool.and_eq_true, decide_eq_true_eq, ih, List.pairwise_cons]
      constructor
      · rintro ⟨h, h1, h2⟩
        refine ⟨?_, h1, h2⟩
        intro x hx
        rcases List.mem_cons.1 hx with rfl | hx
        · exact h
        · exact Nat.lt_trans h (h1 x hx)
      · rintro ⟨h, h1, h2⟩
        exact ⟨h (k', a') (by simp), h1, h2⟩

theorem Store.mem_insert {s : Store α} {k : Nat} {a : α} {p : Nat × α} (h : p ∈ Store.insert s k a) :
    p = (k, a) ∨ p ∈ s := by
  induction s with
  | nil => exact Or.inl (by simpa [Store.insert] using h)
  | cons q r ih =>
    obtain ⟨k', a'⟩ := q
    simp only [Store.insert] at h
    split at h
    · rcases List.mem_cons.1 h with h | h
      · exact Or.inl h
      · exact Or.inr h
    · split at h
      · rcases List.mem_cons.1 h with h | h
        · exact Or.inl h
        · exact Or.inr (List.mem_cons_of_mem _ h)
      · rcases List.mem_cons.1 h with h | h
        · exact Or.inr (by simp [h])
        · rcases ih h with h | h
          · exact Or.inl h
          · exact Or.inr (List.mem_cons_of_mem _ h)

theorem Store.insert_rising {s : Store α} (k : Nat) (a : α) (h : Store.rising s = true) :
    Store.rising (Store.insert s k a) = true := by
  rw [Store.rising_iff] at h ⊢
  induction s with
  | nil => simp [Store.insert]
  | cons q r ih =>
    obtain ⟨k', a'⟩ := q
    simp only [List.pairwise_cons] at h
    simp only [Store.insert]
    split
    · rename_i hk
      refine List.pairwise_cons.2 ⟨?_, List.pairwise_cons.2 h⟩
      intro x hx
      rcases List.mem_cons.1 hx with rfl | hx
      · exact hk
      · exact Nat.lt_trans hk (h.1 x hx)
    · split
      · rename_i hk
        subst hk
        exact List.pairwise_cons.2 h
      · rename_i h1 h2
        refine List.pairwise_cons.2 ⟨?_, ih h.2⟩
        intro x hx
        rcases Store.mem_insert hx with rfl | hx
        · show k' < k
          omega
        · exact h.1 x hx

theorem Store.erase_rising {s : Store α} (k : Nat) (h : Store.rising s = true) : Store.rising (Store.erase s k) = true := by
  rw [Store.rising_iff] at h ⊢
  exact h.sublist List.filter_sublist

theorem Store.mem_erase {s : Store α} {k : Nat} {p : Nat × α} (h : p ∈ Store.erase s k) : p ∈ s :=
  (List.mem_filter.1 h).1

theorem Store.put_wf [DecidableEq α] {d : Nat → Option α} {s : Store α} (k : Nat) (a : α) (h : Store.wf d s = true) :
    Store.wf d (Store.put d s k a) = true := by
  simp only [Store.wf, Bool.and_eq_true, List.all_eq_true, decide_eq_true_eq] at h ⊢
  unfold Store.put
  split
  · exact ⟨Store.erase_rising k h.1, fun p hp => h.2 p (Store.mem_erase hp)⟩
  · rename_i hd
    refine ⟨Store.insert_rising k a h.1, fun p hp => ?_⟩
    rcases Store.mem_insert hp with rfl | hp
    · exact hd
    · exact h.2 p hp

theorem Store.insert_wf [DecidableEq α] {s : Store α} (k : Nat) (a : α) (h : Store.wf (fun _ => none) s = true) :
    Store.wf (fun _ => none) (Store.insert s k a) = true := by
  have := Store.put_wf (d := fun _ => none) k a h
  simpa [Store.put] using this

theorem Store.erase_wf [DecidableEq α] {d : Nat → Option α} {s : Store α} (k : Nat) (h : Store.wf d s = true) :
    Store.wf d (Store.erase s k) = true := by
  simp only [Store.wf, Bool.and_eq_true, List.all_eq_true, decide_eq_true_eq] at h ⊢
  exact ⟨Store.erase_rising k h.1, fun p hp => h.2 p (Store.mem_erase hp)⟩

theorem Store.get?_insert_self (s : Store α) (k : Nat) (a : α) : Store.get? (Store.insert s k a) k = some a := by
  induction s with
  | nil => simp [Store.insert, Store.get?]
  | cons q r ih =>
    obtain ⟨k', a'⟩ := q
    simp only [Store.insert]
    split
    · simp [Store.get?]
    · split
      · simp [Store.get?]
      · rename_i h
        simp [Store.get?, h, ih]

theorem Store.get?_insert_other (s : Store α) {k j : Nat} (a : α) (h : j ≠ k) :
    Store.get? (Store.insert s k a) j = Store.get? s j := by
  induction s with
  | nil => simp [Store.insert, Store.get?, Ne.symm h]
  | cons q r ih =>
    obtain ⟨k', a'⟩ := q
    simp only [Store.insert]
    split
    · simp [Store.get?, Ne.symm h]
    · split
      · rename_i h2
        subst h2
        simp [Store.get?, Ne.symm h]
      · simp [Store.get?, ih]

theorem Store.get?_erase_self (s : Store α) (k : Nat) : Store.get? (Store.erase s k) k = none := by
  induction s with
  | nil => rfl
  | cons q r ih =>
    obtain ⟨k', a'⟩ := q
    by_cases h : k' = k
    · subst h
      simpa [Store.erase] using ih
    · have e : Store.erase ((k', a') :: r) k = (k', a') :: Store.erase r k := by simp [Store.erase, h]
      rw [e]
      simp [Store.get?, h, ih]

theorem Store.get?_erase_other (s : Store α) {k j : Nat} (h : j ≠ k) :
    Store.get? (Store.erase s k) j = Store.get? s j := by
  induction s with
  | nil => rfl
  | cons q r ih =>
    obtain ⟨k', a'⟩ := q
    by_cases h2 : k' = k
    · subst h2
      have e : Store.erase ((k', a') :: r) k' = Store.erase r k' := by simp [Store.erase]
      rw [e, ih]
      simp [Store.get?, Ne.symm h]
    · have e : Store.erase ((k', a') :: r) k = (k', a') :: Store.erase r k := by simp [Store.erase, h2]
      rw [e]
      simp [Store.get?, ih]

/-- A read after a write gives the value written. -/
theorem Store.get_put_self [DecidableEq α] (d : Nat → α) (s : Store α) (k : Nat) (a : α) :
    Store.get d (Store.put (fun i => some (d i)) s k a) k = a := by
  unfold Store.put
  split
  · rename_i h
    simp only [Option.some.injEq] at h
    simp [Store.get, Store.get?_erase_self, h]
  · simp [Store.get, Store.get?_insert_self]

/-- A write leaves every other address alone. -/
theorem Store.get_put_other [DecidableEq α] (d : Nat → α) (e : Nat → Option α) (s : Store α) {k j : Nat} (a : α) (h : j ≠ k) :
    Store.get d (Store.put e s k a) j = Store.get d s j := by
  unfold Store.put
  split
  · simp [Store.get, Store.get?_erase_other _ h]
  · simp [Store.get, Store.get?_insert_other _ _ h]

end Sys2Proof.Machine
end

