-- ==== Sys2Proof/Laws/InvBase.lean ====
section
/-! SUPPORT. What the proofs that an operation keeps the invariant share: folds, updates that do not concern it, and the
facts about each of its parts. -/
namespace Sys2Proof.Machine

theorem foldl_inv {α : Type} {f : State → α → State} (hf : ∀ s a, s.Inv → (f s a).Inv) (l : List α) {s : State}
    (h : s.Inv) : (l.foldl f s).Inv := by
  induction l generalizing s with
  | nil => exact h
  | cons a l ih => exact ih (hf s a h)

theorem foldl_inv1 {α β : Type} {f : State × β → α → State × β} (hf : ∀ p a, p.1.Inv → (f p a).1.Inv) (l : List α)
    {p : State × β} (h : p.1.Inv) : (l.foldl f p).1.Inv := by
  induction l generalizing p with
  | nil => exact h
  | cons a l ih => exact ih (hf p a h)

theorem foldl_inv1' {α β : Type} {f : State × β → α → State × β} {l : List α} {p : State × β} {t : State} {b : β}
    (e : l.foldl f p = (t, b)) (hf : ∀ p a, p.1.Inv → (f p a).1.Inv) (h : p.1.Inv) : t.Inv := by
  have h1 := foldl_inv1 hf l h
  rw [e] at h1
  exact h1

/-- An update of what the invariant does not concern. -/
theorem inv_mk {x : State} {variant' inst' strap' gen3' step' stepSeen' inReset' resetCause' fc' hdrs' pairs' pwr' env' life'
    cal' port' tbl' sen' chn' ctx' tree' num' log' sch' img' cnt' dbg' p0' powerOns' choices' out' pending'}
    (_ : pending' = x.pending) (hx : x.Inv) (h1 : inReset' = x.inReset) (h2 : hdrs' = x.hdrs)
    (h3 : cnt'.live = x.cnt.live) (h4 : cnt'.shadow = x.cnt.shadow) (h5 : log'.held = x.log.held)
    (h6 : chn'.slots = x.chn.slots) (h7 : chn'.pinnae = x.chn.pinnae) (h8 : sch'.groups = x.sch.groups)
    (h9 : pwr'.st = x.pwr.st) (h10 : pwr'.entering = x.pwr.entering) (h11 : pwr'.fclk = x.pwr.fclk)
    (h12 : p0'.nextId = x.p0.nextId) (h13 : p0'.reads = x.p0.reads) (h14 : p0'.writes = x.p0.writes)
    (h15 : tbl'.bank0 = x.tbl.bank0) (h16 : tbl'.bank1 = x.tbl.bank1) :
    (State.mk variant' inst' strap' gen3' step' stepSeen' inReset' resetCause' fc' hdrs' pairs' pwr' env' life' cal' port' tbl'
      sen' chn' ctx' tree' num' log' sch' img' cnt' dbg' p0' powerOns' choices' out' pending').Inv := by
  show Sound _ _ _ _ _ _ _ _ _ _ _ _ _ _ _ _
  rw [h1, h2, h3, h4, h5, h6, h7, h8, h9, h10, h11, h12, h13, h14, h15, h16]
  exact hx

theorem State.Inv.state_eq {s t : State} (h : s.Inv) (e : s = t) : t.Inv := e ▸ h

/-! ## The parts -/

theorem countsOk_add {c : List (Nat × Nat)} (h : countsOk c = true) (n k : Nat) :
    countsOk (Store.put (fun _ => some 0) c n (satAdd 64 (Store.get (fun _ => 0) c n) k)) = true := by
  simp only [countsOk, Bool.and_eq_true, List.all_eq_true, decide_eq_true_eq] at h ⊢
  refine ⟨Store.put_wf n _ h.1, fun p hp => ?_⟩
  unfold Store.put at hp
  split at hp
  · exact h.2 p (Store.mem_erase hp)
  · rcases Store.mem_insert hp with rfl | hp
    · simp only [satAdd]
      omega
    · exact h.2 p hp

theorem legal_of_mem {s : State} (h : s.Inv) (p : Page) : (s.hdr p).err.legal = true := by
  unfold State.hdr
  rw [List.getD_eq_getElem?_getD]
  cases e : s.hdrs[p.bit]? with
  | none => rfl
  | some x => exact List.all_eq_true.1 h.headers.2 x (List.mem_of_getElem? e)

theorem setHdr_keeps {s : State} (p : Page) (x : PageHdr) (hl : x.err.legal = true) (h : s.Inv) : (s.setHdr p x).Inv := by
  refine ⟨⟨by simpa [State.setHdr] using h.headers.1, ?_⟩, h.counters, h.queue, h.sizes, h.mode, h.clock, h.ids, h.banks⟩
  have h2 := h.headers.2
  rw [List.all_eq_true] at h2 ⊢
  intro y hy
  rcases List.mem_or_eq_of_mem_set hy with hy | rfl
  · exact h2 y hy
  · exact hl

theorem modifyAt_length {α : Type} (l : List α) (i : Nat) (f : α → α) : (modifyAt l i f).length = l.length := by
  unfold modifyAt
  split <;> simp

theorem idsOk_iff (n : Nat) (rs : List ReadJob) (ws : List WriteJob) :
    idsOk n rs ws = true ↔ (∀ j ∈ rs, ∀ o ∈ j.out, o.1 < n) ∧ (∀ w ∈ ws, w.id < n) := by
  simp [idsOk]

theorem bank_wf_iff (k : Bank) : k.wf = true ↔ Store.wf (fun _ => none) k.ram = true
    ∧ Store.wf (fun _ => some descDefault) k.descs = true ∧ Store.wf (fun i => some (mapDefault i)) k.map = true
    ∧ Store.wf (fun _ => some crzDefault) k.crz = true := by
  simp [Bank.wf, and_assoc]

theorem setBank_banks {t : TblUnit} (b : Bool) {k : Bank} (h : t.bank0.wf = true ∧ t.bank1.wf = true) (hk : k.wf = true) :
    (t.setBank b k).bank0.wf = true ∧ (t.setBank b k).bank1.wf = true := by
  unfold TblUnit.setBank
  cases b
  · exact ⟨hk, h.2⟩
  · exact ⟨h.1, hk⟩

theorem bank_of {t : TblUnit} (b : Bool) (h : t.bank0.wf = true ∧ t.bank1.wf = true) : (t.bank b).wf = true := by
  unfold TblUnit.bank
  cases b
  · exact h.1
  · exact h.2

/-- An update of the table unit with sound banks. -/
theorem tbl_inv {s : State} {t : TblUnit} (h : s.Inv) (hb : t.bank0.wf = true ∧ t.bank1.wf = true) :
    ({ s with tbl := t } : State).Inv :=
  ⟨h.headers, h.counters, h.queue, h.sizes, h.mode, h.clock, h.ids, hb⟩

/-- Replacing a bank by a sound one. -/
theorem setBank_inv {s : State} (b : Bool) {k : Bank} {t : TblUnit} (h : s.Inv)
    (ht : t.bank0.wf = true ∧ t.bank1.wf = true) (hk : k.wf = true) : ({ s with tbl := t.setBank b k } : State).Inv :=
  tbl_inv h (setBank_banks b ht hk)

/-- An update of the slots and pinnae that keeps their numbers. -/
theorem chn_inv {s : State} {c : ChnUnit} (h : s.Inv) (h1 : c.slots.length = 64) (h2 : c.pinnae.length = 40) :
    ({ s with chn := c } : State).Inv :=
  ⟨h.headers, h.counters, h.queue, ⟨h1, h2, h.sizes.2.2⟩, h.mode, h.clock, h.ids, h.banks⟩

/-- An update of the parameter groups that keeps their number. -/
theorem sch_inv {s : State} {u : SchUnit} (h : s.Inv) (h1 : u.groups.length = 64) : ({ s with sch := u } : State).Inv :=
  ⟨h.headers, h.counters, h.queue, ⟨h.sizes.1, h.sizes.2.1, h1⟩, h.mode, h.clock, h.ids, h.banks⟩

/-- An update of the power unit with a legal mode and clock. -/
theorem pwr_inv {s : State} {u : PwrUnit} (h : s.Inv) (h1 : modeOk s.inReset u.st u.entering = true)
    (h2 : 1200 ≤ u.fclk.toNat ∧ u.fclk.toNat ≤ 2600) : ({ s with pwr := u } : State).Inv :=
  ⟨h.headers, h.counters, h.queue, h.sizes, h1, h2, h.ids, h.banks⟩

/-- An update of the P0 unit whose identifiers have all been given out. -/
theorem p0_inv {s : State} {u : P0Unit} (h : s.Inv) (h1 : idsOk u.nextId u.reads u.writes = true) :
    ({ s with p0 := u } : State).Inv :=
  ⟨h.headers, h.counters, h.queue, h.sizes, h.mode, h.clock, h1, h.banks⟩

/-! Units that the invariant does not concern. -/

theorem img_inv {s : State} {u : ImgUnit} (h : s.Inv) : ({ s with img := u } : State).Inv := h
theorem num_inv {s : State} {u : NumUnit} (h : s.Inv) : ({ s with num := u } : State).Inv := h
theorem ctx_inv {s : State} {u : CtxUnit} (h : s.Inv) : ({ s with ctx := u } : State).Inv := h
theorem tree_inv {s : State} {u : TreeUnit} (h : s.Inv) : ({ s with tree := u } : State).Inv := h
theorem port_inv {s : State} {u : PortUnit} (h : s.Inv) : ({ s with port := u } : State).Inv := h
theorem sen_inv {s : State} {u : SenUnit} (h : s.Inv) : ({ s with sen := u } : State).Inv := h
theorem life_inv {s : State} {u : LifeUnit} (h : s.Inv) : ({ s with life := u } : State).Inv := h

end Sys2Proof.Machine
end

