-- ==== Sys2Proof/Laws/Inv1.lean ====
section
/-! SUPPORT. Every operation of the units keeps the invariant, part 1 of 6: the operations in the order in which they
use one another. -/
namespace Sys2Proof.Machine

set_option linter.unusedTactic false
set_option linter.unreachableTactic false
set_option linter.unusedVariables false

theorem State.count_inv {s : State} (x1 : Nat) (x2 : Nat) (h : s.Inv) : (s.count x1 x2).Inv := by
  unfold State.count
  split
  · exact ⟨h.headers, ⟨countsOk_add h.counters.1 _ _, h.counters.2⟩, h.queue, h.sizes, h.mode, h.clock, h.ids, h.banks⟩
  · exact h

theorem State.laneRound_inv {s : State} (x1 : Header) (x2 : Word) (h : s.Inv) : (s.laneRound x1 x2).1.Inv := by
  unfold State.laneRound
  repeat' (first
    | with_reducible apply State.count_inv
    | assumption)

theorem State.modLane_inv {s : State} (x1 : Nat) (x2 : LaneWork → LaneWork) (h : s.Inv) : (s.modLane x1 x2).Inv :=
  h

theorem State.laneFinish_inv {s : State} (x1 : Nat) (h : s.Inv) : (s.laneFinish x1).Inv := by
  unfold State.laneFinish
  generalize List.range 128 = ks
  split
  · exact h
  · split
    · exact h
    · refine State.modLane_inv _ _ (foldl_inv1 (fun p a hp => ?_) _ h)
      split
      · exact State.laneRound_inv _ _ hp
      · exact hp

theorem State.laneRefused_inv {s : State} (x1 : Nat) (x2 : Nat) (h : s.Inv) : (s.laneRefused x1 x2).Inv := by
  unfold State.laneRefused
  repeat' (first
    | with_reducible apply State.count_inv
    | with_reducible apply State.modLane_inv
    | assumption)

theorem State.setHdr_inv {s : State} (x1 : Page) (x2 : PageHdr) (hl : x2.err.legal = true) (h : s.Inv) : (s.setHdr x1
    x2).Inv := setHdr_keeps x1 x2 hl h

theorem State.pageEvent_inv {s : State} (x1 : Page) (x2 : Nat) (h : s.Inv) : (s.pageEvent x1 x2).Inv := by
  unfold State.pageEvent
  exact State.setHdr_inv _ _ (legal_of_mem h x1) h

theorem State.loseRecord_inv {s : State} (h : s.Inv) : s.loseRecord.Inv := by
  unfold State.loseRecord
  repeat' (first
    | with_reducible apply State.pageEvent_inv
    | assumption)

theorem State.send_inv {s : State} (x1 : OutMsg) (h : s.Inv) : (s.send x1).Inv := h

theorem State.spend_inv {s : State} (x1 : Nat) (x2 : Nat) (h : s.Inv) : (s.spend x1 x2).Inv := h

theorem State.issueWrite_inv {s : State} (x1 : WriteTag) (x2 : List (Prod Nat Byte)) (h : s.Inv) : (s.issueWrite x1
    x2).Inv := by
  unfold State.issueWrite
  refine State.spend_inv _ _ (State.send_inv _ (p0_inv h ?_))
  have hi := (idsOk_iff _ _ _).1 h.ids
  refine (idsOk_iff _ _ _).2 ⟨fun j hj o ho => Nat.lt_succ_of_lt (hi.1 j hj o ho), fun w hw => ?_⟩
  rcases List.mem_append.1 hw with hw | hw
  · exact Nat.lt_succ_of_lt (hi.2 w hw)
  · simp only [List.mem_singleton] at hw
    subst hw
    exact Nat.lt_succ_self _

theorem LogUnit.next_held {l l' : LogUnit} {ready : Bool} {e : Event} (h : l.next ready = some (e, l')) :
    l'.held.length ≤ l.held.length := by
  unfold LogUnit.next at h
  split at h
  · rename_i e r hh
    cases h
    split at hh
    · simp only [hh, List.length_cons]
      omega
    · cases hh
  · split at h <;> cases h
    exact Nat.le_refl _

theorem State.pumpLogGo_inv (x0 : Nat) {s : State} (h : s.Inv) : (State.pumpLogGo x0 s).Inv := by
  induction x0 generalizing s with
  | zero => exact h
  | succ n ih =>
    rw [State.pumpLogGo]
    split
    · exact h
    · split
      · exact h
      · rename_i e l hn
        have hl : ({ s with log := l } : State).Inv := ⟨h.headers, h.counters,
          Nat.le_trans (LogUnit.next_held hn) h.queue, h.sizes, h.mode, h.clock, h.ids, h.banks⟩
        dsimp only
        split
        · exact ih hl
        · split
          · exact ih (State.loseRecord_inv hl)
          · exact State.issueWrite_inv _ _ hl

theorem State.pumpLog_inv {s : State} (h : s.Inv) : s.pumpLog.Inv := by
  unfold State.pumpLog
  repeat' (first
    | with_reducible apply State.pumpLogGo_inv
    | assumption)

theorem State.logEvent_inv {s : State} (x1 : Nat) (x2 : Page) (x3 : Word) (x4 : Word) (x5 : Word) (x6 : Word) (x7 :
    optParam (BitVec 16) 0) (h : s.Inv) : (s.logEvent x1 x2 x3 x4 x5 x6 x7).Inv := by
  unfold State.logEvent
  have hc := State.count_inv 32 1 h
  generalize s.count 32 1 = s1 at hc
  dsimp only
  split
  · exact State.pumpLog_inv hc
  · split
    · rename_i hl
      refine ⟨hc.headers, hc.counters, ?_, hc.sizes, hc.mode, hc.clock, hc.ids, hc.banks⟩
      simp only [List.length_append, List.length_singleton]
      omega
    · exact State.loseRecord_inv hc

theorem State.fetchGo_inv {s : State} (x1 : LaneWork) (h : s.Inv) : (s.fetchGo x1).Inv := by
  unfold State.fetchGo
  repeat' (first
    | split
    | with_reducible apply State.logEvent_inv
    | with_reducible apply State.modLane_inv
    | assumption)

theorem State.returnCredit_inv {s : State} (x1 : Nat) (x2 : Nat) (x3 : Nat) (h : s.Inv) : (s.returnCredit x1 x2
    x3).Inv := by
  unfold State.returnCredit
  repeat' (first
    | split
    | assumption)

theorem State.laneReturns_inv (x0 : Nat) {s : State} (h : s.Inv) : (State.laneReturns x0 s).Inv := by
  induction x0 generalizing s with
  | zero => exact h
  | succ n ih =>
    rw [State.laneReturns]
    split
    · exact h
    · exact ih (State.returnCredit_inv _ _ _ (State.send_inv _ h))

theorem State.lanesGo_inv {s : State} (h : s.Inv) : s.lanesGo.Inv := by
  unfold State.lanesGo
  repeat' (first
    | with_reducible apply State.fetchGo_inv
    | with_reducible apply State.laneReturns_inv
    | (with_reducible apply foldl_inv)
    | assumption)

theorem State.pushLane_inv {s : State} (x1 : LaneWork) (h : s.Inv) : (s.pushLane x1).Inv := by
  unfold State.pushLane
  repeat' (first
    | with_reducible apply State.count_inv
    | with_reducible apply State.spend_inv
    | assumption)

theorem State.evictFor_inv (x0 : Nat) (x1 : Nat) {s : State} (h : s.Inv) : (State.evictFor x0 x1 s).Inv := by
  induction x0 generalizing s with
  | zero => exact h
  | succ n ih =>
    rw [State.evictFor]
    split
    · exact h
    · split
      · exact h
      · exact ih h

theorem State.startFill_inv {s : State} (h : s.Inv) : s.startFill.Inv := by
  unfold State.startFill
  try dsimp only
  repeat' (first
    | with_reducible assumption
    | split
    | with_reducible apply State.evictFor_inv
    | (refine inv_mk rfl ?_ rfl rfl rfl rfl rfl rfl rfl rfl rfl rfl rfl rfl rfl rfl rfl rfl))

theorem State.wantTables_inv {s : State} (x1 : List TableKey) (h : s.Inv) : (s.wantTables x1).Inv := by
  unfold State.wantTables
  repeat' (first
    | with_reducible apply State.startFill_inv
    | assumption)

theorem State.admitEval_inv {s : State} (x1 : Fin 8) (x2 : LaneReq) (h : s.Inv) : (s.admitEval x1 x2).Inv := by
  unfold State.admitEval
  try dsimp only
  repeat' (first
    | with_reducible assumption
    | split
    | with_reducible apply State.count_inv
    | with_reducible apply State.laneFinish_inv
    | with_reducible apply State.lanesGo_inv
    | with_reducible apply State.logEvent_inv
    | with_reducible apply State.pushLane_inv
    | with_reducible apply State.wantTables_inv
    | (refine inv_mk rfl ?_ rfl rfl rfl rfl rfl rfl rfl rfl rfl rfl rfl rfl rfl rfl rfl rfl))

theorem State.recordFault_inv {s : State} (x1 : Page) (x2 : Cause) (x3 : Requester) (x4 : BitVec 18) (h : s.Inv) :
    (s.recordFault x1 x2 x3 x4).Inv := by
  unfold State.recordFault
  refine State.setHdr_inv _ _ ?_ h
  have hl := legal_of_mem h x1
  simp only [ErrInfo.legal] at hl ⊢
  cases x2 <;> split <;> simp_all [Cause.code]

theorem State.regFault_inv {s : State} (x1 : Page) (x2 : Cause) (x3 : Requester) (x4 : Nat) (h : s.Inv) : (s.regFault
    x1 x2 x3 x4).Inv := by
  unfold State.regFault
  repeat' (first
    | with_reducible apply State.recordFault_inv
    | assumption)

theorem State.noteCommand_inv {s : State} (x1 : Requester) (x2 : Page) (x3 : Nat) (x4 : Option Cause) (h : s.Inv) :
    (s.noteCommand x1 x2 x3 x4).Inv := by
  unfold State.noteCommand
  repeat' (first
    | split
    | with_reducible apply State.regFault_inv
    | assumption)

theorem State.leaveFirst_inv {s : State} (x1 : Nat) (h : s.Inv) : (s.leaveFirst x1).Inv := h

theorem State.pumpTreeGo_inv (x0 : Nat) {s : State} (x2 : List (Prod (Prod Nat (Prod Nat Nat)) OutMsg)) (h : s.Inv) :
    (State.pumpTreeGo x0 s x2).Inv := by
  induction x0 generalizing s x2 with
  | zero => exact h
  | succ n ih =>
    cases x2 with
    | nil => exact h
    | cons m r =>
      rw [State.pumpTreeGo]
      split
      · exact ih _ (State.send_inv _ h)
      · have hi := ih r h
        generalize s.pumpTreeGo n r = t at hi
        exact hi

theorem State.pumpTree_inv {s : State} (h : s.Inv) : s.pumpTree.Inv := by
  unfold State.pumpTree
  repeat' (first
    | with_reducible apply State.pumpTreeGo_inv
    | assumption)

theorem State.sendTree_inv {s : State} (x1 : Nat) (x2 : Nat) (x3 : Option Nat) (x4 : Option Nat) (x5 : TreeMsg) (h :
    s.Inv) : (s.sendTree x1 x2 x3 x4 x5).Inv := by
  unfold State.sendTree
  repeat' (first
    | with_reducible apply State.pumpTree_inv
    | assumption)

theorem State.sendUp_inv {s : State} (x1 : Nat) (x2 : Nat) (x3 : Bool → Nat → Nat → Nat → TreeMsg) (h : s.Inv) :
    (s.sendUp x1 x2 x3).Inv := by
  unfold State.sendUp
  repeat' (first
    | split
    | with_reducible apply State.sendTree_inv
    | assumption)

theorem State.setGrant_inv {s : State} (x1 : Option Grant) (h : s.Inv) : (s.setGrant x1).Inv := by
  unfold State.setGrant
  repeat' (first
    | with_reducible apply State.pageEvent_inv
    | assumption)

theorem State.grantWord_inv {s : State} (x1 : Word) (h : s.Inv) : (s.grantWord x1).Inv := by
  unfold State.grantWord
  repeat' (first
    | split
    | extract_lets
    | with_reducible apply State.setGrant_inv
    | assumption)

theorem State.applyGo_inv {s : State} (h : s.Inv) : s.applyGo.Inv := by
  unfold State.applyGo
  repeat' (first
    | split
    | with_reducible apply State.issueWrite_inv
    | assumption)

theorem State.dropLines_inv {s : State} (x1 : CtxCmd) (h : s.Inv) : (s.dropLines x1).Inv := h

theorem State.sendPiece_inv {s : State} (x1 : Nat) (x2 : Nat) (x3 : Nat) (h : s.Inv) : (s.sendPiece x1 x2 x3).Inv := by
  unfold State.sendPiece
  repeat' (first
    | split
    | assumption)

theorem State.sendReads_inv {s : State} (x1 : List (Prod Nat Nat)) (h : s.Inv) : (s.sendReads x1).1.Inv := by
  induction x1 generalizing s with
  | nil => exact h
  | cons p r ih =>
    obtain ⟨a, n⟩ := p
    rw [State.sendReads]
    refine ih (State.sendPiece_inv _ _ _ (p0_inv h ?_))
    have hi := (idsOk_iff _ _ _).1 h.ids
    exact (idsOk_iff _ _ _).2 ⟨fun j hj o ho => Nat.lt_succ_of_lt (hi.1 j hj o ho), fun w hw => Nat.lt_succ_of_lt (hi.2 w hw)⟩

theorem State.issueRead_inv {s : State} (x1 : ReadTag) (x2 : List (Prod Nat Nat)) (h : s.Inv) : (s.issueRead x1
    x2).Inv := by
  unfold State.issueRead
  have hs := State.sendReads_inv (p0Cover x2) h
  have hids : ∀ (l : List (Nat × Nat)) (t : State), (∀ o ∈ (t.sendReads l).2, o.1 < (t.sendReads l).1.p0.nextId)
      ∧ t.p0.nextId ≤ (t.sendReads l).1.p0.nextId := by
    intro l
    induction l with
    | nil => intro t; exact ⟨by simp [State.sendReads], Nat.le_refl _⟩
    | cons p r ih =>
      intro t
      obtain ⟨a, n⟩ := p
      simp only [State.sendReads]
      have hi := ih (({ t with p0 := { t.p0 with nextId := t.p0.nextId + 1 } } : State).sendPiece t.p0.nextId a n)
      have hn : (({ t with p0 := { t.p0 with nextId := t.p0.nextId + 1 } } : State).sendPiece t.p0.nextId a n).p0.nextId
          = t.p0.nextId + 1 := by unfold State.sendPiece; split <;> rfl
      have hle : t.p0.nextId + 1 ≤ _ := hn ▸ hi.2
      refine ⟨fun o ho => ?_, Nat.le_of_succ_le hle⟩
      rcases List.mem_cons.1 ho with rfl | ho
      · exact hle
      · exact hi.1 o ho
  have hx := (hids (p0Cover x2) s).1
  generalize s.sendReads (p0Cover x2) = r at hs hx
  obtain ⟨t, out⟩ := r
  dsimp only at hs hx ⊢
  refine p0_inv hs ?_
  have hi := (idsOk_iff _ _ _).1 hs.ids
  refine (idsOk_iff _ _ _).2 ⟨fun j hj o ho => ?_, hi.2⟩
  rcases List.mem_append.1 hj with hj | hj
  · exact hi.1 j hj o ho
  · simp only [List.mem_singleton] at hj
    subst hj
    exact hx o ho

theorem State.modLine_inv {s : State} (x1 : Nat) (x2 : CtxLine → CtxLine) (h : s.Inv) : (s.modLine x1 x2).Inv := h

theorem State.setCtxCmd_inv {s : State} (x1 : CtxCmd) (h : s.Inv) : (s.setCtxCmd x1).Inv := h

theorem State.closeCtx_inv {s : State} (x1 : Nat) (h : s.Inv) : (s.closeCtx x1).Inv := h

theorem State.setCtxRec_inv {s : State} (x1 : Nat) (x2 : Rec) (h : s.Inv) : (s.setCtxRec x1 x2).Inv := h

theorem State.setCtxState_inv {s : State} (x1 : Nat) (x2 : CtxState) (h : s.Inv) : (s.setCtxState x1 x2).Inv := h

theorem State.openCtx_inv {s : State} (x1 : Nat) (x2 : BitVec 4) (h : s.Inv) : (s.openCtx x1 x2).Inv := by
  unfold State.openCtx
  repeat' (first
    | split
    | assumption)

theorem State.tileDrained_inv {s : State} (x1 : CtxCmd) (x2 : Nat) (h : s.Inv) : (s.tileDrained x1 x2).Inv := by
  unfold State.tileDrained
  refine foldl_inv (fun t a ht => ?_) _ ?_
  · repeat' (first | exact ht | exact State.openCtx_inv _ _ ht | exact State.closeCtx_inv _ ht | split)
  · have h1 : (if x1.op = 1 then (x1.inTile x2).foldl (fun (s : State) i => s.modLine x2 (fun l =>
      { l with recs := l.recs.set (i % 128) (Rec.emptyOf x1.gen) })) s else s).Inv := by
      split
      · exact foldl_inv (fun t a ht => State.modLine_inv _ _ ht) _ h
      · exact h
    exact h1

theorem State.ctxAdvance_inv (x0 : Nat) {s : State} (h : s.Inv) : (State.ctxAdvance x0 s).Inv := by
  induction x0 generalizing s with
  | zero => exact h
  | succ n ih =>
    rw [State.ctxAdvance]
    repeat' (first
      | with_reducible exact h
      | with_reducible exact ih (State.setCtxCmd_inv _ (State.tileDrained_inv _ _ h))
      | with_reducible exact ih (State.setCtxCmd_inv _ h)
      | with_reducible exact State.dropLines_inv _ (State.setCtxCmd_inv _ h)
      | with_reducible exact State.issueRead_inv _ _ (State.setCtxCmd_inv _ h)
      | with_reducible exact State.issueWrite_inv _ _ (State.setCtxCmd_inv _ (State.modLine_inv _ _ h))
      | split)

theorem State.ctxGo_inv {s : State} (h : s.Inv) : s.ctxGo.Inv := by
  unfold State.ctxGo
  repeat' (first
    | split
    | with_reducible apply State.ctxAdvance_inv
    | assumption)

theorem State.modChain_inv {s : State} (x1 : Nat) (x2 : Chain → Chain) (h : s.Inv) : (s.modChain x1 x2).Inv :=
  chn_inv h (by simpa using h.sizes.1) h.sizes.2.1

theorem State.issueWord_inv {s : State} (x1 : Chain) (h : s.Inv) : (s.issueWord x1).Inv := by
  unfold State.issueWord
  repeat' (first
    | with_reducible apply State.issueWrite_inv
    | with_reducible apply State.modChain_inv
    | assumption)

theorem State.issueWords_inv {s : State} (h : s.Inv) : s.issueWords.Inv := by
  unfold State.issueWords
  repeat' (first
    | split
    | with_reducible apply State.issueWord_inv
    | (with_reducible apply foldl_inv)
    | (intro _)
    | assumption)

theorem State.finishChains_inv {s : State} (h : s.Inv) : s.finishChains.Inv := by
  unfold State.finishChains
  repeat' (first
    | split
    | with_reducible apply State.issueWords_inv
    | with_reducible apply State.modChain_inv
    | (with_reducible apply foldl_inv)
    | (intro _)
    | assumption)

theorem State.setImgCmd_inv {s : State} (x1 : ImgCmd) (h : s.Inv) : (s.setImgCmd x1).Inv := h

theorem State.exportRead_inv {s : State} (x1 : ImgCmd) (x2 : Nat) (h : s.Inv) : (s.exportRead x1 x2).Inv := by
  unfold State.exportRead
  repeat' (first
    | split
    | extract_lets
    | with_reducible apply State.issueRead_inv
    | assumption)

theorem State.exportSize_inv {s : State} (x1 : ImgCmd) (h : s.Inv) : (s.exportSize x1).Inv := by
  unfold State.exportSize
  repeat' (first
    | split
    | extract_lets
    | assumption)

theorem State.exportWrite_inv {s : State} (x1 : ImgCmd) (x2 : Nat) (h : s.Inv) : (s.exportWrite x1 x2).Inv := by
  unfold State.exportWrite
  repeat' (first
    | with_reducible apply State.issueWrite_inv
    | assumption)

theorem State.exportGo_inv {s : State} (x1 : ImgCmd) (h : s.Inv) : (s.exportGo x1).Inv := by
  unfold State.exportGo
  repeat' (first
    | split
    | with_reducible apply State.exportRead_inv
    | with_reducible apply State.exportSize_inv
    | with_reducible apply State.exportWrite_inv
    | assumption)

theorem State.dropSkewCheck_inv {s : State} (x1 : Word) (h : s.Inv) : (s.dropSkewCheck x1).Inv := h

theorem State.rollbackEnd_inv {s : State} (x1 : Word) (h : s.Inv) : (s.rollbackEnd x1).Inv := by
  unfold State.rollbackEnd
  dsimp only
  split
  · refine ⟨h.headers, h.counters, h.queue, ⟨h.sizes.1, h.sizes.2.1, ?_⟩, h.mode, h.clock, h.ids, h.banks⟩
    simpa [SchUnit.restore] using h.sizes.2.2
  · exact h

theorem State.rollbackGo_inv {s : State} (x1 : ImgCmd) (h : s.Inv) : (s.rollbackGo x1).Inv := by
  unfold State.rollbackGo
  have hf := foldl_inv (f := fun (s : State) (l : RegLine) =>
        let s2 := s.issueWrite (.regBack l.tid) (cellsAt (s.regAddr l.tid) l.e.bytes)
        ({ s2 with num := { s2.num with evicting := s2.num.evicting ++ [l.tid] } } : State))
    (fun t a ht => by
      have hw := State.issueWrite_inv (.regBack a.tid) (cellsAt (t.regAddr a.tid) a.e.bytes) ht
      dsimp only
      generalize t.issueWrite (.regBack a.tid) (cellsAt (t.regAddr a.tid) a.e.bytes) = u at hw
      exact hw) (s.num.lines.filter (·.dirty)) h
  split
  · split
    · exact h
    · dsimp only at hf ⊢
      generalize List.foldl _ s (s.num.lines.filter (·.dirty)) = s1 at hf ⊢
      exact State.setImgCmd_inv _ hf
  · split
    · exact h
    · split
      · exact State.setImgCmd_inv _ (State.rollbackEnd_inv _ h)
      · exact State.issueRead_inv _ _ h

theorem State.imgGo_inv {s : State} (h : s.Inv) : s.imgGo.Inv := by
  unfold State.imgGo
  repeat' (first
    | split
    | with_reducible apply State.exportGo_inv
    | with_reducible apply State.rollbackGo_inv
    | assumption)

theorem State.fragGo_inv {s : State} (h : s.Inv) : s.fragGo.Inv := by
  unfold State.fragGo
  repeat' (first
    | split
    | with_reducible apply State.issueRead_inv
    | assumption)

theorem State.popFrag_inv {s : State} (h : s.Inv) : s.popFrag.Inv := h

theorem State.dropFrag_inv {s : State} (x1 : FragIn) (x2 : FragCount) (h : s.Inv) : (s.dropFrag x1 x2).Inv := by
  unfold State.dropFrag
  repeat' (first
    | split
    | with_reducible apply State.logEvent_inv
    | assumption)

theorem State.fragUnreadable_inv {s : State} (h : s.Inv) : s.fragUnreadable.Inv := by
  unfold State.fragUnreadable
  repeat' (first
    | split
    | with_reducible apply State.dropFrag_inv
    | assumption)

theorem State.intake_inv (x0 : Nat) {s : State} (h : s.Inv) : (State.intake x0 s).Inv := by
  induction x0 generalizing s with
  | zero => exact h
  | succ n ih =>
    rw [State.intake]
    split
    · split
      · exact ih (State.fragUnreadable_inv h)
      · exact State.fragGo_inv h
    · exact h

theorem kill_out {held : List (Nat × Nat × Nat)} {j k : ReadJob} (e : j.kill held = some k) : ∀ o ∈ k.out, o ∈ j.out := by
  unfold ReadJob.kill at e
  dsimp only at e
  split at e
  · cases e
  · cases e
    exact fun o ho => (List.mem_filter.1 ho).1

theorem State.stopReads_inv {s : State} (x1 : ReadTag → Bool) (h : s.Inv) : (s.stopReads x1).Inv := by
  unfold State.stopReads
  have hi := (idsOk_iff _ _ _).1 h.ids
  refine p0_inv h ((idsOk_iff _ _ _).2 ⟨fun q hq o ho => ?_, hi.2⟩)
  obtain ⟨q0, hq0, e⟩ := List.mem_filterMap.1 hq
  split at e
  · exact hi.1 q0 hq0 o (kill_out e o ho)
  · cases e
    exact hi.1 q hq0 o ho

theorem State.endChain_inv {s : State} (x1 : Nat) (x2 : Nat) (h : s.Inv) : (s.endChain x1 x2).Inv := by
  unfold State.endChain
  repeat' (first
    | with_reducible apply State.modChain_inv
    | with_reducible apply State.stopReads_inv
    | assumption)

theorem State.logSpadErr_inv {s : State} (x1 : Nat) (x2 : Page) (x3 : optParam (BitVec 16) 0) (h : s.Inv) :
    (s.logSpadErr x1 x2 x3).Inv := by
  unfold State.logSpadErr
  repeat' (first
    | with_reducible apply State.logEvent_inv
    | assumption)

theorem State.failChain_inv {s : State} (x1 : Nat) (x2 : Nat) (h : s.Inv) : (s.failChain x1 x2).Inv := by
  unfold State.failChain
  repeat' (first
    | split
    | with_reducible apply State.endChain_inv
    | with_reducible apply State.logSpadErr_inv
    | assumption)

theorem State.keepT_inv {s : State} (x1 : Nat) (x2 : Word) (x3 : Word) (h : s.Inv) : (s.keepT x1 x2 x3).Inv := h

theorem State.modWindow_inv {s : State} (x1 : Nat) (x2 : Word) (x3 : TenWindow → TenWindow) (h : s.Inv) : (s.modWindow
    x1 x2 x3).Inv := h

theorem State.needEntry_inv {s : State} (x1 : Nat) (h : s.Inv) : (s.needEntry x1).1.Inv := by
  unfold State.needEntry
  repeat' (first
    | split
    | with_reducible apply State.count_inv
    | with_reducible apply State.issueRead_inv
    | assumption)

theorem State.needEntry_inv' {s : State} {x1 : Nat} (h : s.Inv) {p : _} {t : State} (e : (s.needEntry x1) = (t, p)) : t.Inv := by
  have h2 := State.needEntry_inv x1 h
  rw [e] at h2
  exact h2

theorem State.freeStep_inv {s : State} (x1 : Word) (h : s.Inv) : (s.freeStep x1).Inv := h

theorem State.releaseStep_inv {s : State} (x1 : Word) (h : s.Inv) : (s.releaseStep x1).Inv := by
  unfold State.releaseStep
  repeat' (first
    | with_reducible apply State.logEvent_inv
    | assumption)

theorem State.makeRoom_inv (x0 : Nat) {s : State} (h : s.Inv) : (State.makeRoom x0 s).Inv := by
  induction x0 generalizing s with
  | zero => exact h
  | succ n ih =>
    rw [State.makeRoom]
    split
    · exact h
    · split
      · exact ih (State.releaseStep_inv _ h)
      · have hf := State.freeStep_inv s.step h
        generalize s.freeStep s.step = t at hf
        exact State.pageEvent_inv _ _ (State.logEvent_inv _ _ _ _ _ _ _ hf)

theorem State.recordEntry_inv {s : State} (x1 : Nat) (x2 : Word) (x3 : RegEntry) (h : s.Inv) : (s.recordEntry x1 x2
    x3).Inv := by
  unfold State.recordEntry
  try dsimp only
  repeat' (first
    | with_reducible assumption
    | split
    | with_reducible apply State.issueWrite_inv
    | with_reducible apply State.makeRoom_inv
    | (refine inv_mk rfl ?_ rfl rfl rfl rfl rfl rfl rfl rfl rfl rfl rfl rfl rfl rfl rfl rfl))

theorem State.setEntry_inv {s : State} (x1 : Nat) (x2 : RegEntry) (h : s.Inv) : (s.setEntry x1 x2).Inv := h

theorem State.decodeScale_inv {s : State} (x1 : Word) (x2 : Nat) (x3 : Nat) (h : s.Inv) : (s.decodeScale x1 x2
    x3).1.Inv := by
  unfold State.decodeScale
  try dsimp only
  repeat' (first
    | with_reducible assumption
    | split
    | with_reducible apply State.needEntry_inv
    | with_reducible apply State.recordEntry_inv
    | (refine inv_mk rfl ?_ rfl rfl rfl rfl rfl rfl rfl rfl rfl rfl rfl rfl rfl rfl rfl rfl))

theorem State.itemScales_inv {s : State} (x1 : Chain) (x2 : Item) (h : s.Inv) : (s.itemScales x1 x2).1.Inv := by
  unfold State.itemScales
  try dsimp only
  repeat' (first
    | with_reducible assumption
    | split
    | with_reducible apply State.decodeScale_inv)

theorem State.modItem_inv {s : State} (x1 : Nat) (x2 : Nat) (x3 : Item → Item) (h : s.Inv) : (s.modItem x1 x2 x3).Inv
    := by
  unfold State.modItem
  repeat' (first
    | with_reducible apply State.modChain_inv
    | assumption)

theorem State.itemAdvance_inv {s : State} (x1 : Nat) (x2 : Nat) (h : s.Inv) : (s.itemAdvance x1 x2).Inv := by
  unfold State.itemAdvance
  try dsimp only
  repeat' (first
    | with_reducible assumption
    | split
    | with_reducible apply State.failChain_inv
    | with_reducible apply State.issueRead_inv
    | with_reducible apply State.itemScales_inv
    | with_reducible apply State.modChain_inv
    | with_reducible apply State.modItem_inv
    | (refine inv_mk rfl ?_ rfl rfl rfl rfl rfl rfl rfl rfl rfl rfl rfl rfl rfl rfl rfl rfl))

theorem State.beginPre_inv {s : State} (x1 : Nat) (x2 : Word) (x3 : Nat) (h : s.Inv) : (s.beginPre x1 x2 x3).Inv := by
  unfold State.beginPre
  repeat' (first
    | split
    | with_reducible apply State.logEvent_inv
    | assumption)

theorem State.preNeeded_inv {s : State} (x1 : Nat) (x2 : Word) (x3 : Nat) (x4 : Nat) (h : s.Inv) : (s.preNeeded x1 x2
    x3 x4).1.Inv := by
  unfold State.preNeeded
  repeat' (first
    | split
    | exact State.needEntry_inv' (by assumption) (by assumption)
    | assumption)

theorem State.preNeeded_inv' {s : State} {x1 : Nat} {x2 : Word} {x3 : Nat} {x4 : Nat} (h : s.Inv) {p : _} {t : State} (e : (s.preNeeded x1 x2 x3 x4) = (t, p)) : t.Inv := by
  have h2 := State.preNeeded_inv x1 x2 x3 x4 h
  rw [e] at h2
  exact h2

end Sys2Proof.Machine
end

