-- ==== Sys2Proof/Laws/Inv2.lean ====
section
/-! SUPPORT. Every operation of the units keeps the invariant, part 2 of 6: the operations in the order in which they
use one another. -/
namespace Sys2Proof.Machine

set_option linter.unusedTactic false
set_option linter.unreachableTactic false
set_option linter.unusedVariables false

theorem State.prePhase_inv {s : State} (x1 : Chain) (x2 : Pass) (h : s.Inv) : (s.prePhase x1 x2).1.Inv := by
  unfold State.prePhase
  repeat' (first
    | split
    | with_reducible apply State.beginPre_inv
    | exact State.preNeeded_inv' (by assumption) (by assumption)
    | assumption)

theorem State.prePhase_inv' {s : State} {x1 : Chain} {x2 : Pass} (h : s.Inv) {p : _} {t : State} (e : (s.prePhase x1 x2) = (t, p)) : t.Inv := by
  have h2 := State.prePhase_inv x1 x2 h
  rw [e] at h2
  exact h2

theorem State.spawnPass_inv {s : State} (x1 : Nat) (x2 : Pass) (h : s.Inv) : (s.spawnPass x1 x2).Inv := by
  unfold State.spawnPass
  repeat' (first
    | split
    | with_reducible apply State.itemAdvance_inv
    | with_reducible apply State.modChain_inv
    | exact State.prePhase_inv' (by assumption) (by assumption)
    | (with_reducible apply foldl_inv)
    | (intro _)
    | assumption)

theorem State.spawn_inv {s : State} (x1 : Nat) (h : s.Inv) : (s.spawn x1).Inv := by
  unfold State.spawn
  repeat' (first
    | split
    | with_reducible apply State.spawnPass_inv
    | assumption)

theorem State.firstWrite_inv {s : State} (x1 : Nat) (x2 : Word) (h : s.Inv) : (s.firstWrite x1 x2).Inv := by
  unfold State.firstWrite
  repeat' (first
    | split
    | with_reducible apply State.modWindow_inv
    | with_reducible apply State.recordEntry_inv
    | with_reducible apply State.setEntry_inv
    | assumption)

theorem State.countWritten_inv {s : State} (x1 : Nat) (x2 : Nat) (x3 : Word) (x4 : List Nat) (x5 : Word) (x6 : Bool)
    (x7 : BitVec 16) (h : s.Inv) : (s.countWritten x1 x2 x3 x4 x5 x6 x7).Inv := by
  unfold State.countWritten
  repeat' (first
    | split
    | extract_lets
    | with_reducible apply State.count_inv
    | with_reducible apply State.firstWrite_inv
    | with_reducible apply State.logEvent_inv
    | with_reducible apply State.modWindow_inv
    | with_reducible apply State.pageEvent_inv
    | with_reducible apply State.setEntry_inv
    | assumption)

theorem State.emit_inv {s : State} (x1 : Chain) (x2 : Prod Nat (Prod Nat Nat)) (x3 : Nat) (x4 : Nat) (x5 : Word) (x6 :
    List Bool) (x7 : List OutRow) (h : s.Inv) : (s.emit x1 x2 x3 x4 x5 x6 x7).Inv := by
  unfold State.emit
  repeat' (first
    | split
    | extract_lets
    | with_reducible apply State.countWritten_inv
    | with_reducible apply State.issueWrite_inv
    | with_reducible apply State.modChain_inv
    | assumption)

theorem State.endItem_inv {s : State} (x1 : Nat) (x2 : Item) (h : s.Inv) : (s.endItem x1 x2).Inv := by
  unfold State.endItem
  repeat' (first
    | with_reducible apply State.modChain_inv
    | assumption)

theorem State.keepTs_inv {s : State} (x1 : Nat) (x2 : Word) (x3 : RegEntry) (h : s.Inv) : (s.keepTs x1 x2 x3).Inv := by
  unfold State.keepTs
  repeat' (first
    | split
    | (with_reducible apply foldl_inv)
    | (intro _)
    | assumption)

theorem State.openWindow_inv {s : State} (x1 : Nat) (x2 : Word) (x3 : RegEntry) (x4 : Word) (x5 : Nat) (h : s.Inv) :
    (s.openWindow x1 x2 x3 x4 x5).Inv := by
  unfold State.openWindow
  repeat' (first
    | with_reducible apply State.issueWrite_inv
    | with_reducible apply State.keepTs_inv
    | with_reducible apply State.recordEntry_inv
    | with_reducible apply State.setEntry_inv
    | assumption)

theorem State.outScale_inv {s : State} (x1 : Nat) (x2 : Word) (x3 : Nat) (x4 : Nat) (x5 : Option Word) (h : s.Inv) :
    (s.outScale x1 x2 x3 x4 x5).1.Inv := by
  unfold State.outScale
  try dsimp only
  repeat' (first
    | with_reducible assumption
    | split
    | with_reducible apply State.needEntry_inv
    | with_reducible apply State.openWindow_inv)

theorem State.outScale_inv' {s : State} {x1 : Nat} {x2 : Word} {x3 : Nat} {x4 : Nat} {x5 : Option Word} (h : s.Inv) {p : _} {t : State} (e : (s.outScale x1 x2 x3 x4 x5) = (t, p)) : t.Inv := by
  have h2 := State.outScale_inv x1 x2 x3 x4 x5 h
  rw [e] at h2
  exact h2

theorem State.writeItem_inv {s : State} (x1 : Nat) (x2 : Nat) (h : s.Inv) : (s.writeItem x1 x2).Inv := by
  unfold State.writeItem
  repeat' (first
    | split
    | extract_lets
    | with_reducible apply State.emit_inv
    | with_reducible apply State.endItem_inv
    | exact State.outScale_inv' (by assumption) (by assumption)
    | assumption)

theorem State.itemsGo_inv {s : State} (h : s.Inv) : s.itemsGo.Inv := by
  unfold State.itemsGo
  repeat' (first
    | split
    | with_reducible apply State.itemAdvance_inv
    | with_reducible apply State.spawn_inv
    | with_reducible apply State.writeItem_inv
    | (with_reducible apply foldl_inv)
    | (intro _)
    | assumption)

theorem State.judgesGo_inv {s : State} (h : s.Inv) : s.judgesGo.Inv := by
  unfold State.judgesGo
  repeat' (first
    | with_reducible apply State.needEntry_inv
    | (with_reducible apply foldl_inv)
    | (intro _)
    | assumption)

theorem State.ctxEnter_inv {s : State} (x1 : Nat) (x2 : BitVec 4) (h : s.Inv) : (s.ctxEnter x1 x2).Inv := by
  unfold State.ctxEnter
  repeat' (first
    | split
    | with_reducible apply State.openCtx_inv
    | assumption)

theorem State.logStale_inv {s : State} (x1 : BitVec 16) (x2 : BitVec 4) (x3 : Nat) (x4 : Nat) (x5 : Nat) (x6 : BitVec
    4) (h : s.Inv) : (s.logStale x1 x2 x3 x4 x5 x6).Inv := by
  unfold State.logStale
  repeat' (first
    | with_reducible apply State.count_inv
    | with_reducible apply State.logEvent_inv
    | with_reducible apply State.pageEvent_inv
    | assumption)

theorem State.checkRows_inv {s : State} (x1 : BitVec 16) (x2 : BitVec 4) (x3 : Nat) (x4 : Nat) (h : s.Inv) :
    (s.checkRows x1 x2 x3 x4).1.Inv := by
  unfold State.checkRows
  repeat' (first
    | split
    | extract_lets
    | with_reducible apply State.ctxEnter_inv
    | with_reducible apply State.logStale_inv
    | (with_reducible apply foldl_inv)
    | (intro _)
    | assumption)

theorem State.ctxBegin_inv {s : State} (x1 : Word) (x2 : Nat) (h : s.Inv) : (s.ctxBegin x1 x2).Inv := h

theorem State.setMsgRows_inv {s : State} (x1 : Chain) (x2 : MsgKey) (x3 : List Bool) (h : s.Inv) : (s.setMsgRows x1 x2
    x3).Inv := by
  unfold State.setMsgRows
  repeat' (first
    | with_reducible assumption
    | with_reducible apply State.modChain_inv
    | (refine inv_mk rfl ?_ rfl rfl rfl rfl rfl rfl rfl rfl rfl rfl rfl rfl rfl rfl rfl rfl))

theorem State.setRows_inv {s : State} (x1 : Nat) (x2 : Nat) (x3 : List Bool) (h : s.Inv) : (s.setRows x1 x2 x3).Inv := by
  unfold State.setRows
  repeat' (first
    | with_reducible apply State.modChain_inv
    | assumption)

theorem State.startPeeks_inv {s : State} (x1 : List Nat) (h : s.Inv) : (s.startPeeks x1).Inv := by
  unfold State.startPeeks
  repeat' (first
    | split
    | with_reducible apply State.issueRead_inv
    | (with_reducible apply foldl_inv)
    | (intro _)
    | assumption)

theorem State.pumpCtxGo_inv (x0 : Nat) {s : State} (h : s.Inv) : (State.pumpCtxGo x0 s).Inv := by
  induction x0 generalizing s with
  | zero => exact h
  | succ n ih =>
    rw [State.pumpCtxGo]
    split
    · exact h
    · split
      · exact ih (State.ctxGo_inv (State.ctxBegin_inv _ _ h))
      · split
        · exact ih h
        · split
          · exact ih h
          · split
            · dsimp only
              exact ih (State.spawn_inv _ (State.setRows_inv _ _ _ (ctx_inv (State.checkRows_inv _ _ _ _ (ctx_inv h)))))
            · exact State.startPeeks_inv _ h
      · split
        · exact ih h
        · split
          · exact ih h
          · split
            · dsimp only
              exact ih (State.setMsgRows_inv _ _ _ (ctx_inv (State.checkRows_inv _ _ _ _ (ctx_inv h))))
            · exact State.startPeeks_inv _ h

theorem State.pumpCtx_inv {s : State} (h : s.Inv) : s.pumpCtx.Inv := by
  unfold State.pumpCtx
  repeat' (first
    | with_reducible apply State.pumpCtxGo_inv
    | assumption)

theorem State.reportState_inv {s : State} (h : s.Inv) : s.reportState.Inv := by
  unfold State.reportState
  repeat' (first
    | with_reducible apply State.pageEvent_inv
    | with_reducible apply State.send_inv
    | assumption)

theorem State.setPwr_inv {s : State} (x1 : PwrState) (h : ({ s with pwr := { s.pwr with st := x1 } } : State).Inv) :
    (s.setPwr x1).Inv := by
  unfold State.setPwr
  split
  · rename_i he
    subst he
    exact h
  · exact State.send_inv _ (State.pageEvent_inv _ _ h)

theorem State.startHeldWake_inv {s : State} (h : s.Inv) : s.startHeldWake.Inv := by
  unfold State.startHeldWake
  split
  · rename_i hc
    simp only [Bool.and_eq_true, beq_iff_eq] at hc
    have hm := h.mode
    rw [hc.1.1.1.2] at hm
    exact State.setPwr_inv _ ⟨h.headers, h.counters, h.queue, h.sizes, hm, h.clock, h.ids, h.banks⟩
  · exact h

theorem State.startQueries_inv {s : State} (h : s.Inv) : s.startQueries.Inv := by
  unfold State.startQueries
  repeat' (first
    | with_reducible apply State.startPeeks_inv
    | (with_reducible apply foldl_inv)
    | (intro _)
    | assumption)

theorem State.treeStale_inv {s : State} (x1 : TreeMsg) (x2 : Word) (h : s.Inv) : (s.treeStale x1 x2).Inv := by
  unfold State.treeStale
  repeat' (first
    | with_reducible apply State.count_inv
    | with_reducible apply State.logEvent_inv
    | with_reducible apply State.pageEvent_inv
    | assumption)

theorem State.dropCheck_inv {s : State} (x1 : CheckSt) (x2 : Word) (h : s.Inv) : (s.dropCheck x1 x2).Inv := by
  unfold State.dropCheck
  repeat' (first
    | split
    | with_reducible apply State.returnCredit_inv
    | with_reducible apply State.treeStale_inv
    | (with_reducible apply foldl_inv)
    | (intro _)
    | assumption)

theorem State.ageChecks_inv {s : State} (h : s.Inv) : s.ageChecks.Inv := by
  unfold State.ageChecks
  repeat' (first
    | with_reducible apply State.dropCheck_inv
    | (with_reducible apply foldl_inv)
    | (intro _)
    | assumption)

theorem State.releaseHeld_inv {s : State} (x1 : HeldMsg) (h : s.Inv) : (s.releaseHeld x1).Inv := by
  unfold State.releaseHeld
  repeat' (first
    | with_reducible apply State.returnCredit_inv
    | assumption)

theorem State.judgeHeld_inv {s : State} (x1 : HeldMsg) (h : s.Inv) : (s.judgeHeld x1).Inv := by
  unfold State.judgeHeld
  repeat' (first
    | split
    | with_reducible apply State.count_inv
    | with_reducible apply State.pumpCtx_inv
    | with_reducible apply State.releaseHeld_inv
    | with_reducible apply State.treeStale_inv
    | assumption)

theorem State.judgeAll_inv {s : State} (h : s.Inv) : s.judgeAll.Inv := by
  unfold State.judgeAll
  extract_lets s1 lives s2
  have h1 : s1.Inv := foldl_inv (fun t a ht => State.judgeHeld_inv _ ht) _ h
  have h2 : s2.Inv := foldl_inv (fun t a ht => State.releaseHeld_inv _ ht) _ h1
  exact h2

theorem State.laterWindows_inv {s : State} (h : s.Inv) : s.laterWindows.Inv := h

theorem State.logJump_inv {s : State} (x1 : Word) (x2 : Word) (h : s.Inv) : (s.logJump x1 x2).Inv := by
  unfold State.logJump
  repeat' (first
    | split
    | with_reducible apply State.logEvent_inv
    | assumption)

theorem State.logReleased_inv {s : State} (x1 : List Word) (h : s.Inv) : (s.logReleased x1).Inv := by
  unfold State.logReleased
  repeat' (first
    | with_reducible apply State.logEvent_inv
    | (with_reducible apply foldl_inv)
    | (intro _)
    | assumption)

theorem State.logReplay_inv {s : State} (x1 : Word) (h : s.Inv) : (s.logReplay x1).Inv := by
  unfold State.logReplay
  repeat' (first
    | split
    | with_reducible apply State.logEvent_inv
    | assumption)

theorem State.retainStep_inv {s : State} (x1 : Word) (h : s.Inv) : (s.retainStep x1).1.Inv := by
  unfold State.retainStep
  dsimp only
  have h2 : ∀ l, ((List.foldl (fun (s : State) w => s.freeStep w) ({ s with img := { s.img with stopped := false } } : State)
      l).freeStep x1).Inv := fun l => State.freeStep_inv _ (foldl_inv (fun t a ht => State.freeStep_inv a ht) l h)
  split
  · exact h2 _
  · exact img_inv (h2 _)

theorem State.logConfig_inv {s : State} (x1 : Nat) (h : s.Inv) : (s.logConfig x1).Inv := by
  unfold State.logConfig
  repeat' (first
    | split
    | with_reducible apply State.logEvent_inv
    | with_reducible apply State.pageEvent_inv
    | assumption)

theorem State.scheduleToken_inv {s : State} (h : s.Inv) : s.scheduleToken.Inv := by
  unfold State.scheduleToken
  split
  · refine foldl_inv (fun t k ht => State.logConfig_inv _ ht) _ (sch_inv h ?_)
    simpa using h.sizes.2.2
  · exact h

theorem State.sentinelToken_inv {s : State} (h : s.Inv) : s.sentinelToken.Inv := h

theorem State.openWindowOf_inv {s : State} (x1 : Word) (h : s.Inv) : (s.openWindowOf x1).Inv := by
  unfold State.openWindowOf
  repeat' (first
    | with_reducible assumption
    | with_reducible apply State.ageChecks_inv
    | with_reducible apply State.judgeAll_inv
    | with_reducible apply State.logJump_inv
    | with_reducible apply State.logReleased_inv
    | with_reducible apply State.logReplay_inv
    | with_reducible apply State.retainStep_inv
    | with_reducible apply State.scheduleToken_inv
    | (refine inv_mk rfl ?_ rfl rfl rfl rfl rfl rfl rfl rfl rfl rfl rfl rfl rfl rfl rfl rfl))

theorem State.normalToken_inv {s : State} (x1 : Word) (h : s.Inv) : (s.normalToken x1).Inv := by
  unfold State.normalToken
  repeat' (first
    | split
    | with_reducible apply State.logEvent_inv
    | with_reducible apply State.openWindowOf_inv
    | assumption)

theorem State.takeTokens_inv {s : State} (h : s.Inv) : s.takeTokens.Inv := by
  unfold State.takeTokens
  repeat' (first
    | split
    | with_reducible apply State.normalToken_inv
    | (with_reducible apply foldl_inv)
    | assumption)

theorem State.setTenCmd_inv {s : State} (x1 : TenCmd) (h : s.Inv) : (s.setTenCmd x1).Inv := h

theorem State.tenInUse_inv {s : State} (x1 : TenCmd) (h : s.Inv) : (s.tenInUse x1).Inv := by
  unfold State.tenInUse
  repeat' (first
    | split
    | with_reducible apply State.regFault_inv
    | assumption)

theorem tenEntry_cases {s : State} {c : TenCmd} {tid : Nat} (h : s.Inv) :
    (∀ t, s.tenEntry c tid = .done t → t.Inv) ∧ (∀ t, s.tenEntry c tid = .waitEntry t → t.Inv) := by
  unfold State.tenEntry
  split
  · exact ⟨fun t e => (by cases e), fun t e => (by cases e)⟩
  · split
    · split
      · split
        · exact ⟨fun t e => (by cases e), fun t e => (by cases e; exact h)⟩
        · exact ⟨fun t e => (by cases e; exact h), fun t e => (by cases e)⟩
      · dsimp only
        split
        · exact ⟨fun t e => (by cases e; exact num_inv (State.issueWrite_inv _ _ (num_inv h))), fun t e => (by cases e)⟩
        · exact ⟨fun t e => (by cases e; exact num_inv h), fun t e => (by cases e)⟩
    · split
      · exact ⟨fun t e => (by cases e), fun t e => (by cases e)⟩
      · have he := State.needEntry_inv tid h
        generalize s.needEntry tid = r at he ⊢
        obtain ⟨s1, e⟩ := r
        dsimp only at he ⊢
        split
        · exact ⟨fun t e => (by cases e), fun t e => (by cases e; exact he)⟩
        · refine ⟨fun t e => ?_, fun t e => ?_⟩
          · split at e
            · cases e
              exact State.setEntry_inv _ _ (num_inv (State.recordEntry_inv _ _ _ he))
            · cases e
              exact State.setEntry_inv _ _ (State.recordEntry_inv _ _ _ he)
            · cases e
              exact State.setEntry_inv _ _ (State.recordEntry_inv _ _ _ he)
          · split at e <;> cases e

theorem tenEntry_done {s t : State} {c : TenCmd} {tid : Nat} (h : s.Inv) (e : s.tenEntry c tid = .done t) : t.Inv :=
  (tenEntry_cases h).1 t e

theorem tenEntry_wait {s t : State} {c : TenCmd} {tid : Nat} (h : s.Inv) (e : s.tenEntry c tid = .waitEntry t) : t.Inv :=
  (tenEntry_cases h).2 t e

theorem State.tenAdvance_inv (x0 : Nat) {s : State} (h : s.Inv) : (State.tenAdvance x0 s).Inv := by
  induction x0 generalizing s with
  | zero => exact h
  | succ n ih =>
    rw [State.tenAdvance]
    split
    · exact h
    · split
      · exact h
      · split
        · exact h
        · dsimp only
          split
          · rename_i he
            exact ih (State.setTenCmd_inv _ (tenEntry_done h he))
          · exact ih (State.setTenCmd_inv _ (State.tenInUse_inv _ h))
          · exact ih (State.setTenCmd_inv _ h)
          · rename_i he
            exact tenEntry_wait h he

theorem State.tenWaiting_inv {s : State} (h : s.Inv) : s.tenWaiting.Inv := by
  unfold State.tenWaiting
  split
  · exact h
  · refine foldl_inv (fun t a ht => ?_) _ h
    have hd : ∀ (u : State) (f : Nat → Nat), u.Inv → (match u.num.cmd with
        | some c => u.setTenCmd { c with waiting := c.waiting.filter (· != a), code := f c.code }
        | none => u).Inv := by
      intro u f hu
      split
      · exact State.setTenCmd_inv _ hu
      · exact hu
    dsimp only
    split
    · rename_i he
      exact hd _ id (tenEntry_done ht he)
    · exact hd _ (fun _ => 3) (State.tenInUse_inv _ ht)
    · exact ht
    · rename_i he
      exact tenEntry_wait ht he

theorem State.tenGo_inv {s : State} (h : s.Inv) : s.tenGo.Inv := by
  unfold State.tenGo
  repeat' (first
    | split
    | extract_lets
    | with_reducible apply State.setTenCmd_inv
    | with_reducible apply State.tenAdvance_inv
    | with_reducible apply State.tenWaiting_inv
    | assumption)

theorem State.touchLine_inv {s : State} (x1 : Nat) (h : s.Inv) : (s.touchLine x1).Inv := h

theorem State.needLines_inv {s : State} (x1 : List Nat) (h : s.Inv) : (s.needLines x1).1.Inv := by
  unfold State.needLines
  repeat' (first
    | split
    | with_reducible apply State.count_inv
    | with_reducible apply State.issueRead_inv
    | (with_reducible apply foldl_inv)
    | (intro _)
    | assumption)

theorem State.needLines_inv' {s : State} {x1 : List Nat} (h : s.Inv) {p : _} {t : State} (e : (s.needLines x1) = (t, p)) : t.Inv := by
  have h2 := State.needLines_inv x1 h
  rw [e] at h2
  exact h2

theorem State.finalReady_inv {s : State} (x1 : Chain) (x2 : List Nat) (h : s.Inv) : (s.finalReady x1 x2).1.Inv := by
  unfold State.finalReady
  repeat' (first
    | split
    | with_reducible apply State.needLines_inv
    | assumption)

theorem State.finalReady_inv' {s : State} {x1 : Chain} {x2 : List Nat} (h : s.Inv) {p : _} {t : State} (e : (s.finalReady x1 x2) = (t, p)) : t.Inv := by
  have h2 := State.finalReady_inv x1 x2 h
  rw [e] at h2
  exact h2

theorem State.sendDown_inv {s : State} (x1 : Nat) (x2 : Nat) (x3 : Bool → Nat → Nat → Nat → TreeMsg) (h : s.Inv) :
    (s.sendDown x1 x2 x3).Inv := by
  unfold State.sendDown
  repeat' (first
    | with_reducible apply State.sendTree_inv
    | (with_reducible apply foldl_inv)
    | (intro _)
    | assumption)

theorem State.finalRecords_inv {s : State} (x1 : Chain) (x2 : List Rec) (x3 : Nat → Bool) (h : s.Inv) :
    (s.finalRecords x1 x2 x3).Inv := by
  unfold State.finalRecords
  repeat' (first
    | split
    | with_reducible apply State.ctxGo_inv
    | with_reducible apply State.modChain_inv
    | with_reducible apply State.sendDown_inv
    | (with_reducible apply foldl_inv)
    | (intro _)
    | assumption)

theorem State.takeFinals_inv {s : State} (h : s.Inv) : s.takeFinals.Inv := by
  unfold State.takeFinals
  repeat' (first
    | split
    | extract_lets
    | exact State.finalReady_inv' (by assumption) (by assumption)
    | with_reducible apply State.finalRecords_inv
    | with_reducible apply State.releaseHeld_inv
    | (with_reducible apply foldl_inv)
    | (intro _)
    | assumption)

theorem State.treeGo_inv {s : State} (h : s.Inv) : s.treeGo.Inv := by
  unfold State.treeGo
  repeat' (first
    | split
    | with_reducible apply State.judgeAll_inv
    | with_reducible apply State.takeFinals_inv
    | assumption)

theorem State.settle_inv {s : State} (h : s.Inv) : s.settle.Inv := by
  unfold State.settle
  repeat' (first
    | split
    | with_reducible apply State.applyGo_inv
    | with_reducible apply State.ctxGo_inv
    | with_reducible apply State.finishChains_inv
    | with_reducible apply State.imgGo_inv
    | with_reducible apply State.intake_inv
    | with_reducible apply State.itemsGo_inv
    | with_reducible apply State.judgesGo_inv
    | with_reducible apply State.lanesGo_inv
    | with_reducible apply State.pumpCtx_inv
    | with_reducible apply State.pumpLog_inv
    | with_reducible apply State.startFill_inv
    | with_reducible apply State.startHeldWake_inv
    | with_reducible apply State.startQueries_inv
    | with_reducible apply State.takeTokens_inv
    | with_reducible apply State.tenGo_inv
    | with_reducible apply State.treeGo_inv
    | assumption)

theorem State.showPinna_inv {s : State} (x1 : Nat) (x2 : Nat) (x3 : Bool) (h : s.Inv) : (s.showPinna x1 x2 x3).Inv :=
  chn_inv h h.sizes.1 ((modifyAt_length _ _ _).trans h.sizes.2.1)

theorem State.countEcc_inv {s : State} (x1 : Nat) (h : s.Inv) : (s.countEcc x1).Inv := h

theorem State.fragCopyDone_inv {s : State} (h : s.Inv) : s.fragCopyDone.Inv := by
  unfold State.fragCopyDone
  repeat' (first
    | with_reducible assumption
    | split
    | with_reducible apply State.intake_inv
    | (refine inv_mk rfl ?_ rfl rfl rfl rfl rfl rfl rfl rfl rfl rfl rfl rfl rfl rfl rfl rfl))

theorem State.logAck_inv {s : State} (x1 : Bool) (h : s.Inv) : (s.logAck x1).Inv := by
  unfold State.logAck
  try dsimp only
  repeat' (first
    | with_reducible assumption
    | split
    | with_reducible apply State.loseRecord_inv
    | with_reducible apply State.pageEvent_inv
    | with_reducible apply State.pumpLog_inv
    | assumption)

theorem State.setFrag_inv {s : State} (x1 : FragIn) (h : s.Inv) : (s.setFrag x1).Inv := h

theorem State.modGroup_inv {s : State} (x1 : Nat) (x2 : SchGroup → SchGroup) (h : s.Inv) : (s.modGroup x1 x2).Inv :=
  sch_inv h ((modifyAt_length _ _ _).trans h.sizes.2.2)

theorem State.afterRelease_inv {s : State} (x1 : Nat) (x2 : Nat) (h : s.Inv) : (s.afterRelease x1 x2).Inv := by
  unfold State.afterRelease
  repeat' (first
    | split
    | with_reducible apply State.logConfig_inv
    | with_reducible apply State.modGroup_inv
    | assumption)

theorem State.etaReady_inv {s : State} (x1 : Nat) (x2 : Word) (h : s.Inv) : (s.etaReady x1 x2).Inv := by
  unfold State.etaReady
  repeat' (first
    | split
    | extract_lets
    | with_reducible apply State.afterRelease_inv
    | with_reducible apply State.modGroup_inv
    | assumption)

theorem State.applyPhi_inv {s : State} (x1 : Nat) (x2 : Word) (x3 : Word) (h : s.Inv) : (s.applyPhi x1 x2 x3).Inv := by
  unfold State.applyPhi
  repeat' (first
    | split
    | extract_lets
    | with_reducible apply State.etaReady_inv
    | with_reducible apply State.logEvent_inv
    | with_reducible apply State.modGroup_inv
    | with_reducible apply State.pageEvent_inv
    | assumption)

theorem State.enterCheck_inv {s : State} (x1 : List Nat) (h : s.Inv) : (s.enterCheck x1).Inv := by
  unfold State.enterCheck
  repeat' (first
    | with_reducible apply State.modGroup_inv
    | (with_reducible apply foldl_inv)
    | (intro _)
    | assumption)

theorem State.releaseChecked_inv {s : State} (x1 : Word) (h : s.Inv) : (s.releaseChecked x1).Inv :=
  sch_inv h (by simpa using h.sizes.2.2)

theorem State.skewResult_inv {s : State} (x1 : Word) (x2 : DWord) (x3 : DWord) (h : s.Inv) : (s.skewResult x1 x2
    x3).Inv := by
  unfold State.skewResult
  have h1 : (if x1 = s.step then { s with sch := { s.sch with checking := false, checked := true } } else s : State).Inv := by
    split
    · exact h
    · exact h
  dsimp only
  generalize (if x1 = s.step then { s with sch := { s.sch with checking := false, checked := true } } else s : State) = s1 at h1
  split
  · exact State.releaseChecked_inv _ h1
  · exact State.pageEvent_inv _ _ (State.pageEvent_inv _ _ (State.logEvent_inv _ _ _ _ _ _ _
      ⟨h1.headers, h1.counters, h1.queue, ⟨h1.sizes.1, h1.sizes.2.1, by simpa using h1.sizes.2.2⟩, h1.mode, h1.clock, h1.ids, h1.banks⟩))

theorem State.setCheck_inv {s : State} (x1 : CheckSt) (h : s.Inv) : (s.setCheck x1).Inv := h

theorem State.firmwareCheck_inv {s : State} (x1 : CheckSt) (x2 : DWord) (x3 : DWord) (h : s.Inv) : (s.firmwareCheck x1
    x2 x3).Inv := by
  unfold State.firmwareCheck
  repeat' (first
    | with_reducible assumption
    | split
    | with_reducible apply State.logEvent_inv
    | with_reducible apply State.pageEvent_inv
    | (refine inv_mk rfl ?_ rfl rfl rfl rfl rfl rfl rfl rfl rfl rfl rfl rfl rfl rfl rfl rfl))

end Sys2Proof.Machine
end

