-- ==== Sys2Proof/Laws/Inv3.lean ====
section
/-! SUPPORT. Every operation of the units keeps the invariant, part 3 of 6: the operations in the order in which they
use one another. -/
namespace Sys2Proof.Machine

set_option linter.unusedTactic false
set_option linter.unreachableTactic false
set_option linter.unusedVariables false

theorem State.concludeCheck_inv {s : State} (x1 : CheckSt) (x2 : DWord) (x3 : DWord) (h : s.Inv) : (s.concludeCheck x1
    x2 x3).1.Inv := by
  unfold State.concludeCheck
  repeat' (first
    | split
    | with_reducible apply State.firmwareCheck_inv
    | with_reducible apply State.sendDown_inv
    | assumption)

theorem State.takeDown_inv {s : State} (x1 : CheckSt) (h : s.Inv) : (s.takeDown x1).1.Inv := by
  unfold State.takeDown
  repeat' (first
    | split
    | with_reducible apply State.concludeCheck_inv
    | with_reducible apply State.returnCredit_inv
    | assumption)

theorem State.tryCheck_inv {s : State} (x1 : CheckSt) (h : s.Inv) : (s.tryCheck x1).1.Inv := by
  unfold State.tryCheck
  repeat' (first
    | split
    | extract_lets
    | with_reducible apply State.concludeCheck_inv
    | with_reducible apply State.returnCredit_inv
    | with_reducible apply State.sendUp_inv
    | with_reducible apply State.setCheck_inv
    | with_reducible apply State.takeDown_inv
    | (with_reducible apply foldl_inv)
    | (intro _)
    | assumption)

theorem State.startCheck_inv {s : State} (x1 : Nat) (x2 : Nat) (x3 : DWord) (h : s.Inv) : (s.startCheck x1 x2
    x3).1.Inv := by
  unfold State.startCheck
  repeat' (first
    | split
    | extract_lets
    | with_reducible apply State.dropCheck_inv
    | with_reducible apply State.setCheck_inv
    | with_reducible apply State.tryCheck_inv
    | (with_reducible apply foldl_inv)
    | (intro _)
    | assumption)

theorem State.maybeCheck_inv {s : State} (h : s.Inv) : s.maybeCheck.Inv := by
  unfold State.maybeCheck
  try dsimp only
  repeat' (first
    | with_reducible assumption
    | split
    | with_reducible apply State.enterCheck_inv
    | with_reducible apply State.releaseChecked_inv
    | with_reducible apply State.skewResult_inv
    | with_reducible apply State.startCheck_inv
    | (refine inv_mk rfl ?_ rfl rfl rfl rfl rfl rfl rfl rfl rfl rfl rfl rfl rfl rfl rfl rfl))

theorem State.deliverPhi_inv {s : State} (x1 : Nat) (x2 : Word) (x3 : Word) (h : s.Inv) : (s.deliverPhi x1 x2 x3).Inv
    := by
  unfold State.deliverPhi
  repeat' (first
    | split
    | extract_lets
    | with_reducible apply State.applyPhi_inv
    | with_reducible apply State.logEvent_inv
    | with_reducible apply State.maybeCheck_inv
    | with_reducible apply State.modGroup_inv
    | with_reducible apply State.pageEvent_inv
    | (with_reducible apply foldl_inv)
    | (intro _)
    | assumption)

theorem State.freeSlot_inv {s : State} (x1 : Nat) (h : s.Inv) : (s.freeSlot x1).Inv :=
  chn_inv h (by simpa using h.sizes.1) h.sizes.2.1

theorem State.leaveWindows_inv {s : State} (x1 : Nat) (h : s.Inv) : (s.leaveWindows x1).Inv := h

theorem State.widen_inv {s : State} (x1 : Chain) (h : s.Inv) : (s.widen x1).Inv := by
  unfold State.widen
  refine foldl_inv (fun t a ht => ?_) _ h
  dsimp only
  refine State.pageEvent_inv _ _ (State.logEvent_inv _ _ _ _ _ _ _ ?_)
  have h1 : (match t.regLine a.1 with
      | some l => (t.recordEntry a.1 x1.step l.e).setEntry a.1 { l.e with level := BitVec.ofNat 3 (Nat.max l.e.level.toNat (a.2.2.1 + 1)) }
      | none => t).Inv := by
    split
    · exact State.setEntry_inv _ _ (State.recordEntry_inv _ _ _ ht)
    · exact ht
  repeat' (first | exact num_inv (State.setEntry_inv _ _ (State.recordEntry_inv _ _ _ ht)) | exact num_inv ht | split)

theorem State.wordWritten_inv {s : State} (x1 : Nat) (x2 : Bool) (h : s.Inv) : (s.wordWritten x1 x2).Inv := by
  unfold State.wordWritten
  repeat' (first
    | split
    | with_reducible apply State.count_inv
    | with_reducible apply State.deliverPhi_inv
    | with_reducible apply State.freeSlot_inv
    | with_reducible apply State.leaveFirst_inv
    | with_reducible apply State.leaveWindows_inv
    | with_reducible apply State.logSpadErr_inv
    | with_reducible apply State.widen_inv
    | assumption)

theorem State.writeDone_inv {s : State} (x1 : WriteTag) (h : s.Inv) : (s.writeDone x1).Inv := by
  unfold State.writeDone
  repeat' (first
    | split
    | with_reducible apply State.logAck_inv
    | with_reducible apply State.modChain_inv
    | with_reducible apply State.setCtxCmd_inv
    | with_reducible apply State.tileDrained_inv
    | with_reducible apply State.wordWritten_inv
    | assumption)

theorem State.enqueue_inv {s : State} (x1 : PortMsg) (h : s.Inv) : (s.enqueue x1).Inv := by
  unfold State.enqueue
  repeat' (first
    | split
    | assumption)

theorem State.chainWrite_inv {s : State} (x1 : Nat) (x2 : List (Prod Nat Byte)) (h : s.Inv) : (s.chainWrite x1 x2).Inv
    := by
  unfold State.chainWrite
  repeat' (first
    | split
    | with_reducible apply State.issueWrite_inv
    | with_reducible apply State.modChain_inv
    | assumption)

theorem State.itemStats_inv {s : State} (x1 : Chain) (x2 : Item) (h : s.Inv) : (s.itemStats x1 x2).Inv := by
  unfold State.itemStats
  repeat' (first
    | split
    | with_reducible apply State.chainWrite_inv
    | with_reducible apply State.modChain_inv
    | assumption)

theorem State.creditInit_inv {s : State} (h : s.Inv) : s.creditInit.Inv := h

theorem State.becomeReady_inv {s : State} (hr : modeOk s.inReset .ready s.pwr.entering = true) (h : s.Inv) :
    s.becomeReady.Inv := by
  unfold State.becomeReady
  have h1 : ((({ s with pwr := { s.pwr with rising := false } } : State)).setPwr .ready).Inv :=
    State.setPwr_inv _ ⟨h.headers, h.counters, h.queue, h.sizes, hr, h.clock, h.ids, h.banks⟩
  dsimp only
  refine State.settle_inv ?_
  split
  · exact h1
  · exact State.creditInit_inv h1

theorem State.cancel_inv {s : State} (x1 : Requester) (x2 : Word) (h : s.Inv) : (s.cancel x1 x2).Inv := by
  unfold State.cancel
  repeat' (first
    | split
    | with_reducible apply State.endChain_inv
    | with_reducible apply State.issueWords_inv
    | with_reducible apply State.regFault_inv
    | assumption)

theorem State.checkWrite_inv {s : State} (x1 : Requester) (x2 : Word) (h : s.Inv) : (s.checkWrite x1 x2).Inv := by
  unfold State.checkWrite
  repeat' (first
    | split
    | with_reducible apply State.regFault_inv
    | with_reducible apply State.startCheck_inv
    | assumption)

theorem State.ctxReport_inv {s : State} (x1 : Word) (x2 : Nat) (x3 : Nat) (h : s.Inv) : (s.ctxReport x1 x2 x3).Inv := by
  unfold State.ctxReport
  repeat' (first
    | with_reducible apply State.logEvent_inv
    | with_reducible apply State.pageEvent_inv
    | assumption)

theorem State.ctxCommand_inv {s : State} (x1 : Word) (h : s.Inv) : (s.ctxCommand x1).Inv := by
  unfold State.ctxCommand
  repeat' (first
    | split
    | with_reducible apply State.ctxReport_inv
    | with_reducible apply State.pumpCtx_inv
    | assumption)

theorem State.freeze_inv {s : State} (x1 : Requester) (x2 : Nat) (h : s.Inv) : (s.freeze x1 x2).Inv := by
  unfold State.freeze
  repeat' (first
    | split
    | with_reducible apply State.regFault_inv
    | assumption)

theorem State.imgAwait_inv {s : State} (x1 : ImgState) (h : s.Inv) : (s.imgAwait x1).Inv := by
  unfold State.imgAwait
  repeat' (first
    | with_reducible apply State.stopReads_inv
    | assumption)

theorem State.imgAbort_inv {s : State} (x1 : ImgState) (x2 : Word) (h : s.Inv) : (s.imgAbort x1 x2).Inv := by
  unfold State.imgAbort
  repeat' (first
    | with_reducible apply State.imgAwait_inv
    | with_reducible apply State.logEvent_inv
    | assumption)

theorem State.imgEnds_inv {s : State} (x1 : Nat) (x2 : Nat) (h : s.Inv) : (s.imgEnds x1 x2).Inv := h

theorem State.imgChecked_inv {s : State} (h : s.Inv) : s.imgChecked.Inv := by
  unfold State.imgChecked
  repeat' (first
    | split
    | extract_lets
    | assumption)

theorem State.imgExport_inv {s : State} (h : s.Inv) : s.imgExport.Inv := by
  unfold State.imgExport
  repeat' (first
    | split
    | extract_lets
    | assumption)

theorem State.imgPrepare_inv {s : State} (h : s.Inv) : s.imgPrepare.Inv := by
  unfold State.imgPrepare
  repeat' (first
    | split
    | with_reducible apply State.imgAwait_inv
    | with_reducible apply State.imgEnds_inv
    | assumption)

theorem State.imgReport_inv {s : State} (x1 : Nat) (x2 : Nat) (h : s.Inv) : (s.imgReport x1 x2).Inv := by
  unfold State.imgReport
  repeat' (first
    | with_reducible apply State.logEvent_inv
    | with_reducible apply State.pageEvent_inv
    | assumption)

theorem State.imgRollback_inv {s : State} (h : s.Inv) : s.imgRollback.Inv := by
  unfold State.imgRollback
  repeat' (first
    | split
    | extract_lets
    | assumption)

theorem State.imgCommand_inv {s : State} (x1 : Nat) (h : s.Inv) : (s.imgCommand x1).Inv := by
  unfold State.imgCommand
  repeat' (first
    | split
    | with_reducible apply State.imgAbort_inv
    | with_reducible apply State.imgChecked_inv
    | with_reducible apply State.imgEnds_inv
    | with_reducible apply State.imgExport_inv
    | with_reducible apply State.imgPrepare_inv
    | with_reducible apply State.imgReport_inv
    | with_reducible apply State.imgRollback_inv
    | assumption)

theorem State.ring_inv {s : State} (x1 : Requester) (x2 : Word) (h : s.Inv) : (s.ring x1 x2).Inv := by
  unfold State.ring
  repeat' (first
    | split
    | extract_lets
    | with_reducible apply State.pageEvent_inv
    | with_reducible apply State.regFault_inv
    | assumption)

theorem State.releaseGroup_inv {s : State} (x1 : Bool) (x2 : Nat) (h : s.Inv) : (s.releaseGroup x1 x2).1.Inv := by
  unfold State.releaseGroup
  repeat' (first
    | split
    | extract_lets
    | with_reducible apply State.afterRelease_inv
    | with_reducible apply State.modGroup_inv
    | assumption)

theorem State.schCommand_inv {s : State} (x1 : Bool) (x2 : Bool) (x3 : Nat) (h : s.Inv) : (s.schCommand x1 x2
    x3).1.Inv := by
  unfold State.schCommand
  repeat' (first
    | with_reducible apply State.maybeCheck_inv
    | with_reducible apply State.releaseGroup_inv
    | (with_reducible apply foldl_inv1)
    | (intro _)
    | assumption)

theorem State.schWrite_inv {s : State} (x1 : Requester) (x2 : Word) (h : s.Inv) : (s.schWrite x1 x2).Inv := by
  unfold State.schWrite
  repeat' (first
    | split
    | extract_lets
    | with_reducible apply State.regFault_inv
    | with_reducible apply State.schCommand_inv
    | assumption)

theorem State.submitGo_inv {s : State} (h : s.Inv) : s.submitGo.Inv := by
  unfold State.submitGo
  repeat' (first
    | split
    | with_reducible apply State.issueRead_inv
    | assumption)

theorem State.submit_inv {s : State} (x1 : Requester) (x2 : Word) (h : s.Inv) : (s.submit x1 x2).Inv := by
  unfold State.submit
  repeat' (first
    | split
    | with_reducible apply State.pageEvent_inv
    | with_reducible apply State.regFault_inv
    | with_reducible apply State.submitGo_inv
    | assumption)

theorem State.submitWrite_inv {s : State} (x1 : Requester) (x2 : Word) (h : s.Inv) : (s.submitWrite x1 x2).Inv := by
  unfold State.submitWrite
  repeat' (first
    | split
    | with_reducible apply State.regFault_inv
    | with_reducible apply State.submit_inv
    | assumption)

theorem State.switchWrite_inv {s : State} (h : s.Inv) : s.switchWrite.Inv := h

theorem State.loadNext_inv {s : State} (h : s.Inv) : s.loadNext.Inv := by
  unfold State.loadNext
  repeat' (first
    | split
    | with_reducible apply State.issueRead_inv
    | assumption)

theorem State.tblCode_inv {s : State} (x1 : Nat) (x2 : Nat) (x3 : Nat) (h : s.Inv) : (s.tblCode x1 x2 x3).Inv := h

theorem State.tblReport_inv {s : State} (x1 : Nat) (x2 : Nat) (x3 : Nat) (x4 : Nat) (h : s.Inv) : (s.tblReport x1 x2
    x3 x4).Inv := by
  unfold State.tblReport
  repeat' (first
    | with_reducible apply State.logEvent_inv
    | with_reducible apply State.pageEvent_inv
    | assumption)

theorem State.tblCommand_inv {s : State} (x1 : Nat) (h : s.Inv) : (s.tblCommand x1).Inv := by
  unfold State.tblCommand
  have hb := fun b => bank_of (t := s.tbl) b h.banks
  have hw := fun b => (bank_wf_iff _).1 (hb b)
  have hs := fun b k hk => setBank_banks (t := s.tbl) b (k := k) h.banks hk
  split
  · exact State.tblReport_inv _ _ _ _ h
  · dsimp only
    split
    · exact tbl_inv h (hs _ _ (hb _))
    · split
      · split
        · exact State.tblReport_inv _ _ _ _ h
        · split
          · exact State.tblReport_inv _ _ _ _ h
          · exact tbl_inv (State.wantTables_inv _ h) (State.wantTables_inv _ h).banks
      · split
        · exact State.tblReport_inv _ _ _ _ h
        · split
          · exact State.tblReport_inv _ _ _ _ h
          · split
            · exact State.tblReport_inv _ _ _ _ h
            · split
              · exact State.tblReport_inv _ _ _ _ h
              · exact State.loadNext_inv (tbl_inv h (hs _ _ (hb _)))

theorem State.tblWrite_inv {s : State} (x1 : Requester) (x2 : Word) (h : s.Inv) : (s.tblWrite x1 x2).Inv := by
  unfold State.tblWrite
  repeat' (first
    | split
    | extract_lets
    | with_reducible apply State.regFault_inv
    | with_reducible apply State.tblCommand_inv
    | assumption)

theorem State.tenReport_inv {s : State} (x1 : Word) (x2 : Nat) (x3 : Nat) (h : s.Inv) : (s.tenReport x1 x2 x3).Inv := by
  unfold State.tenReport
  repeat' (first
    | with_reducible apply State.logEvent_inv
    | with_reducible apply State.pageEvent_inv
    | assumption)

theorem State.tenCommand_inv {s : State} (x1 : Requester) (x2 : Word) (h : s.Inv) : (s.tenCommand x1 x2).Inv := by
  unfold State.tenCommand
  repeat' (first
    | split
    | extract_lets
    | with_reducible apply State.tenGo_inv
    | with_reducible apply State.tenReport_inv
    | assumption)

theorem State.command_inv {s : State} (x1 : Requester) (x2 : Page) (x3 : Nat) (x4 : Word) (h : s.Inv) : (s.command x1
    x2 x3 x4).Inv := by
  unfold State.command
  repeat' (first
    | split
    | with_reducible apply State.cancel_inv
    | with_reducible apply State.checkWrite_inv
    | with_reducible apply State.ctxCommand_inv
    | with_reducible apply State.freeze_inv
    | with_reducible apply State.imgCommand_inv
    | with_reducible apply State.noteCommand_inv
    | with_reducible apply State.ring_inv
    | with_reducible apply State.schWrite_inv
    | with_reducible apply State.submitWrite_inv
    | with_reducible apply State.tblWrite_inv
    | with_reducible apply State.tenCommand_inv
    | assumption)

theorem State.withArgs_inv {s : State} (x1 : CmdArgs) (h : s.Inv) : (s.withArgs x1).Inv := h

theorem State.runHeld_inv {s : State} (x1 : HeldCmd) (h : s.Inv) : (s.runHeld x1).Inv := by
  unfold State.runHeld
  repeat' (first
    | with_reducible apply State.command_inv
    | with_reducible apply State.settle_inv
    | with_reducible apply State.withArgs_inv
    | assumption)

theorem State.nowReady_inv {s : State} (h : s.Inv) : s.nowReady.Inv := by
  unfold State.nowReady
  split
  · rename_i hc
    refine foldl_inv (fun t c ht => State.runHeld_inv _ ht) _ (State.becomeReady_inv ?_ h)
    have hm := h.mode
    rcases hc.1 with e | e <;> rw [e] at hm <;> exact hm
  · exact h

theorem State.badCredit_inv {s : State} (x1 : CreditPath) (x2 : Word) (h : s.Inv) : (s.badCredit x1 x2).Inv := by
  unfold State.badCredit
  repeat' (first
    | split
    | with_reducible apply State.logEvent_inv
    | assumption)

theorem State.creditIn_inv {s : State} (x1 : Option (Fin 16)) (x2 : Word) (h : s.Inv) : (s.creditIn x1 x2).Inv := by
  unfold State.creditIn
  repeat' (first
    | split
    | extract_lets
    | with_reducible apply State.badCredit_inv
    | with_reducible apply State.pumpTree_inv
    | assumption)

theorem State.pairTile_inv {s : State} (x1 : MsgKey) (h : s.Inv) : (s.pairTile x1).Inv := by
  unfold State.pairTile
  repeat' (first
    | split
    | with_reducible apply State.judgeAll_inv
    | assumption)

theorem State.captureDrop_inv {s : State} (x1 : Header) (x2 : Nat) (x3 : Nat) (h : s.Inv) : (s.captureDrop x1 x2
    x3).Inv := h

theorem State.takeBad_inv {s : State} (x1 : Header) (h : s.Inv) : (s.takeBad x1).Inv := by
  unfold State.takeBad
  repeat' (first
    | with_reducible apply State.captureDrop_inv
    | with_reducible apply State.logEvent_inv
    | with_reducible apply State.pageEvent_inv
    | assumption)

theorem State.applyFail_inv {s : State} (h : s.Inv) : s.applyFail.Inv := by
  unfold State.applyFail
  repeat' (first
    | with_reducible assumption
    | with_reducible apply State.imgAwait_inv
    | (refine inv_mk rfl ?_ rfl rfl rfl rfl rfl rfl rfl rfl rfl rfl rfl rfl rfl rfl rfl rfl))

theorem State.pwrResult_inv {s : State} (x1 : BitVec 4) (h : s.Inv) : (s.pwrResult x1).Inv := h

theorem State.abandonEntry_inv {s : State} (h : s.Inv) : s.abandonEntry.Inv := by
  unfold State.abandonEntry
  split
  · exact State.setPwr_inv _ ⟨h.headers, h.counters, h.queue, h.sizes, by simp [modeOk], h.clock, h.ids, h.banks⟩
  · refine State.setPwr_inv _ ⟨h.headers, h.counters, h.queue, h.sizes, ?_, h.clock, h.ids, h.banks⟩
    show modeOk _ (if _ then _ else _) _ = true
    split <;> simp [modeOk]
  · exact h

theorem State.wake_inv {s : State} (x1 : Bool) (h : s.Inv) : (s.wake x1).Inv := by
  unfold State.wake
  repeat' (first
    | with_reducible assumption
    | split
    | with_reducible apply State.abandonEntry_inv
    | with_reducible apply State.startHeldWake_inv
    | (refine inv_mk rfl ?_ rfl rfl rfl rfl rfl rfl rfl rfl rfl rfl rfl rfl rfl rfl rfl rfl))

theorem State.requestResting_inv {s : State} (h : s.Inv) : s.requestResting.Inv := by
  unfold State.requestResting
  split
  · exact State.setPwr_inv _ ⟨h.headers, h.counters, h.queue, h.sizes, by simp [modeOk], h.clock, h.ids, h.banks⟩
  · rename_i hst
    split
    · have hm := h.mode
      rw [hst] at hm
      refine ⟨h.headers, h.counters, h.queue, h.sizes, ?_, h.clock, h.ids, h.banks⟩
      show modeOk _ s.pwr.st _ = true
      rw [hst]
      simp [modeOk]
    · exact State.wake_inv _ (State.pwrResult_inv _ h)
  · exact State.wake_inv _ (State.pwrResult_inv _ h)

theorem State.logEcc_inv {s : State} (x1 : Bool) (x2 : Nat) (x3 : Nat) (x4 : Entry) (x5 : Bool) (x6 : optParam (BitVec
    16) 0) (h : s.Inv) : (s.logEcc x1 x2 x3 x4 x5 x6).Inv := by
  unfold State.logEcc
  repeat' (first
    | split
    | with_reducible apply State.logEvent_inv
    | with_reducible apply State.pageEvent_inv
    | assumption)

theorem State.setCopy_inv {s : State} (x1 : TableKey) (x2 : Nat) (x3 : Nat) (x4 : Option Entry) (h : s.Inv) :
    (s.setCopy x1 x2 x3 x4).Inv := h

theorem State.setFault_inv {s : State} (x1 : Nat) (h : s.Inv) : (s.setFault x1).Inv := by
  unfold State.setFault
  have hb := bank_of (decide (x1 = 1)) h.banks
  split
  · exact tbl_inv h h.banks
  · exact setBank_inv _ h h.banks hb

theorem State.refetch_inv {s : State} (x1 : BitVec 16) (x2 : TableKey) (x3 : Nat) (x4 : Nat) (x5 : Prod Nat Nat) (x6 :
    Entry) (x7 : Entry) (h : s.Inv) : (s.refetch x1 x2 x3 x4 x5 x6 x7).Inv := by
  unfold State.refetch
  repeat' (first
    | split
    | with_reducible apply State.count_inv
    | with_reducible apply State.countEcc_inv
    | with_reducible apply State.logEcc_inv
    | with_reducible apply State.setCopy_inv
    | with_reducible apply State.setFault_inv
    | assumption)

theorem State.grantFrame_inv {s : State} (x1 : BitVec 80) (h : s.Inv) : (s.grantFrame x1).Inv := by
  unfold State.grantFrame
  repeat' (first
    | split
    | with_reducible apply State.grantWord_inv
    | assumption)

theorem State.restDrop_inv {s : State} (x1 : BitVec 80) (h : s.Inv) : (s.restDrop x1).Inv := by
  unfold State.restDrop
  repeat' (first
    | with_reducible apply State.logEvent_inv
    | assumption)

theorem State.answerRead_inv {s : State} (x1 : Access) (x2 : Word) (x3 : optParam Nat 0) (h : s.Inv) : (s.answerRead
    x1 x2 x3).Inv := by
  unfold State.answerRead
  repeat' (first
    | split
    | assumption)

theorem State.choose_inv {s : State} (h : s.Inv) : (State.choose s).2.Inv := h

theorem State.clearRead_inv {s : State} (x1 : Page) (x2 : Nat) (h : s.Inv) : (s.clearRead x1 x2).Inv := by
  unfold State.clearRead
  split
  · exact State.setHdr_inv _ _ rfl h
  · repeat' (first | split | assumption)

theorem State.clearPair_inv {s : State} (x1 : PairId) (h : s.Inv) : (s.clearPair x1).Inv := by
  unfold State.clearPair
  repeat' (first
    | with_reducible assumption
    | split
    | assumption)

theorem State.pairHi_inv {s : State} (x1 : Requester) (x2 : PairId) (x3 : DWord) (h : s.Inv) : (s.pairHi x1 x2
    x3).1.Inv := by
  unfold State.pairHi
  repeat' (first
    | split
    | assumption)

theorem State.pairLo_inv {s : State} (x1 : Requester) (x2 : PairId) (x3 : DWord) (h : s.Inv) : (s.pairLo x1 x2
    x3).1.Inv := h

theorem State.readPair_inv {s : State} (x1 : Requester) (x2 : PairId) (x3 : Bool) (h : s.Inv) : (s.readPair x1 x2
    x3).1.Inv := by
  unfold State.readPair
  repeat' (first
    | split
    | with_reducible apply State.clearPair_inv
    | with_reducible apply State.pairHi_inv
    | assumption)

theorem State.readReg_inv {s : State} (x1 : Requester) (x2 : Page) (x3 : Nat) (h : s.Inv) : (s.readReg x1 x2 x3).1.Inv
    := by
  unfold State.readReg
  repeat' (first
    | split
    | with_reducible apply State.clearRead_inv
    | with_reducible apply State.readPair_inv
    | assumption)

theorem State.refuseAccess_inv {s : State} (x1 : Access) (h : s.Inv) : (s.refuseAccess x1).Inv := by
  unfold State.refuseAccess
  repeat' (first
    | split
    | with_reducible apply State.recordFault_inv
    | with_reducible apply State.wake_inv
    | assumption)

theorem State.refuseRead_inv {s : State} (x1 : Access) (h : s.Inv) : (s.refuseRead x1).Inv := by
  unfold State.refuseRead
  repeat' (first
    | with_reducible apply State.answerRead_inv
    | with_reducible apply State.refuseAccess_inv
    | assumption)

theorem State.waitRead_inv {s : State} (x1 : Access) (x2 : Bool) (x3 : Nat) (h : s.Inv) : (s.waitRead x1 x2 x3).Inv :=
  h

theorem State.busRead_inv {s : State} (x1 : Access) (h : s.Inv) : (s.busRead x1).Inv := by
  unfold State.busRead
  repeat' (first
    | split
    | extract_lets
    | with_reducible apply State.answerRead_inv
    | with_reducible apply State.readReg_inv
    | with_reducible apply State.recordFault_inv
    | with_reducible apply State.refuseRead_inv
    | with_reducible apply State.startQueries_inv
    | assumption)

theorem State.answerWrite_inv {s : State} (x1 : Access) (x2 : optParam Nat 0) (h : s.Inv) : (s.answerWrite x1 x2).Inv
    := by
  unfold State.answerWrite
  repeat' (first
    | split
    | assumption)

theorem State.refuseWrite_inv {s : State} (x1 : Access) (h : s.Inv) : (s.refuseWrite x1).Inv := by
  unfold State.refuseWrite
  repeat' (first
    | with_reducible apply State.answerWrite_inv
    | with_reducible apply State.refuseAccess_inv
    | assumption)

theorem State.access_inv {s : State} (x1 : Access) (x2 : State → Page → State) (h : s.Inv) (H2 : ∀ (t : State) a0,
    t.Inv → (x2 t a0).Inv) : (s.access x1 x2).Inv := by
  unfold State.access
  split
  · exact State.refuseWrite_inv _ h
  · refine State.answerWrite_inv _ _ ?_
    repeat' (first | exact h | exact State.recordFault_inv _ _ _ _ h | exact H2 _ _ h | split)

theorem State.commandWrite_inv {s : State} (x1 : Requester) (x2 : Page) (x3 : Nat) (x4 : Word) (h : s.Inv) :
    (s.commandWrite x1 x2 x3 x4).Inv := by
  unfold State.commandWrite
  repeat' (first
    | split
    | with_reducible apply State.command_inv
    | with_reducible apply State.regFault_inv
    | with_reducible apply State.settle_inv
    | with_reducible apply State.wake_inv
    | assumption)

theorem State.bumpSeq_inv {s : State} (x1 : Page) (h : s.Inv) : (s.bumpSeq x1).Inv := by
  unfold State.bumpSeq
  exact State.setHdr_inv _ _ (legal_of_mem h x1) h

theorem State.rw_inv {s : State} (x1 : Page) (x2 : Nat) (x3 : State) (h : s.Inv) (h1 : x3.Inv) : (s.rw x1 x2 x3).Inv
    := by
  unfold State.rw
  repeat' (first
    | split
    | with_reducible apply State.bumpSeq_inv
    | assumption)

theorem State.writeArv_inv {s : State} (x1 : Nat) (x2 : Word) (h : s.Inv) : (s.writeArv x1 x2).Inv := by
  unfold State.writeArv
  repeat' (first
    | split
    | with_reducible apply State.rw_inv
    | assumption)

theorem State.writeCal_inv {s : State} (x1 : Requester) (x2 : Nat) (x3 : Word) (h : s.Inv) : (s.writeCal x1 x2 x3).Inv
    := by
  unfold State.writeCal
  repeat' (first
    | with_reducible assumption
    | split
    | with_reducible apply State.regFault_inv
    | with_reducible apply State.rw_inv
    | with_reducible apply State.send_inv
    | assumption)

end Sys2Proof.Machine
end

