-- ==== Sys2Proof/Laws/Inv4.lean ====
section
/-! SUPPORT. Every operation of the units keeps the invariant, part 4 of 6: the operations in the order in which they
use one another. -/
namespace Sys2Proof.Machine

set_option linter.unusedTactic false
set_option linter.unreachableTactic false
set_option linter.unusedVariables false

theorem State.writeChn_inv {s : State} (x1 : Nat) (x2 : Word) (h : s.Inv) : (s.writeChn x1 x2).Inv := by
  unfold State.writeChn
  repeat' (first
    | split
    | assumption)

theorem State.writeCnt_inv {s : State} (x1 : Nat) (x2 : Word) (h : s.Inv) : (s.writeCnt x1 x2).Inv := by
  unfold State.writeCnt
  repeat' (first
    | split
    | with_reducible apply State.rw_inv
    | assumption)

theorem State.writeCrz_inv {s : State} (x1 : Nat) (x2 : Word) (h : s.Inv) : (s.writeCrz x1 x2).Inv := by
  unfold State.writeCrz
  repeat' (first
    | split
    | with_reducible apply State.rw_inv
    | assumption)

theorem State.writeCtxRegion_inv {s : State} (x1 : Requester) (x2 : Bool) (x3 : Word) (h : s.Inv) : (s.writeCtxRegion
    x1 x2 x3).Inv := by
  unfold State.writeCtxRegion
  repeat' (first
    | split
    | extract_lets
    | with_reducible apply State.regFault_inv
    | with_reducible apply State.rw_inv
    | assumption)

theorem State.writeCtx_inv {s : State} (x1 : Requester) (x2 : Nat) (x3 : Word) (h : s.Inv) : (s.writeCtx x1 x2 x3).Inv
    := by
  unfold State.writeCtx
  repeat' (first
    | split
    | with_reducible apply State.rw_inv
    | with_reducible apply State.writeCtxRegion_inv
    | assumption)

theorem State.writeRam_inv {s : State} (x1 : Bool) (x2 : Nat) (x3 : Entry) (h : s.Inv) : (s.writeRam x1 x2 x3).Inv := by
  unfold State.writeRam
  dsimp only
  have hb := (bank_wf_iff _).1 (bank_of (t := s.tbl) x1 h.banks)
  exact setBank_inv _ h h.banks ((bank_wf_iff _).2 ⟨Store.insert_wf _ _ hb.1, hb.2⟩)

theorem State.flipBit_inv {s : State} (x1 : Requester) (x2 : Nat) (h : s.Inv) : (s.flipBit x1 x2).Inv := by
  unfold State.flipBit
  try dsimp only
  repeat' (first
    | with_reducible assumption
    | split
    | with_reducible apply State.regFault_inv
    | with_reducible apply State.writeRam_inv
    | assumption)

theorem State.inject_inv {s : State} (x1 : Requester) (x2 : Word) (h : s.Inv) : (s.inject x1 x2).Inv := by
  unfold State.inject
  repeat' (first
    | split
    | with_reducible apply State.flipBit_inv
    | with_reducible apply State.regFault_inv
    | assumption)

theorem State.writeDbg_inv {s : State} (x1 : Requester) (x2 : Nat) (x3 : Word) (h : s.Inv) : (s.writeDbg x1 x2 x3).Inv
    := by
  unfold State.writeDbg
  repeat' (first
    | split
    | with_reducible apply State.inject_inv
    | with_reducible apply State.regFault_inv
    | with_reducible apply State.rw_inv
    | assumption)

theorem State.writeEval_inv {s : State} (x1 : Nat) (x2 : Word) (h : s.Inv) : (s.writeEval x1 x2).Inv := by
  unfold State.writeEval
  split
  · exact State.rw_inv _ _ _ h (chn_inv h h.sizes.1 (by simpa using h.sizes.2.1))
  · exact h

theorem State.resetUnits_inv {s : State} (x1 : BitVec 2) (h : s.Inv) : (s.resetUnits x1).Inv := by
  unfold State.resetUnits
  have hw := fun b => (bank_wf_iff _).1 (bank_of (t := s.tbl) b h.banks)
  refine ⟨⟨?_, ?_⟩, ⟨rfl, rfl⟩, Nat.zero_le _, ⟨rfl, rfl, rfl⟩, rfl,
    ⟨show 1200 ≤ (0x960 : BitVec 12).toNat by decide, show (0x960 : BitVec 12).toNat ≤ 2600 by decide⟩, rfl, ?_⟩
  · simp [State.hdrsReset]
  · simp only [State.hdrsReset, List.all_eq_true]
    intro y hy
    rcases List.mem_or_eq_of_mem_set hy with hy | rfl
    · rw [List.eq_of_mem_replicate hy]
      rfl
    · exact legal_of_mem h .life
  · have hk : ∀ (k : Bank) (b : Bool), Store.wf (fun _ => none) k.ram = true → (k.keepRam b).wf = true :=
      fun k b hk => (bank_wf_iff _).2 ⟨hk, rfl, rfl, rfl⟩
    have h0 := ((bank_wf_iff _).1 h.banks.1).1
    have h1 := ((bank_wf_iff _).1 h.banks.2).1
    dsimp only [State.tblReset]
    refine ⟨hk _ _ ?_, hk _ _ ?_⟩
    · repeat' (first | exact h0 | exact Store.erase_wf _ h0 | split)
    · repeat' (first | exact h1 | exact Store.erase_wf _ h1 | split)

theorem State.startReset_inv {s : State} (x1 : BitVec 2) (h : s.Inv) : (s.startReset x1).Inv := by
  unfold State.startReset
  repeat' (first
    | with_reducible apply State.refuseRead_inv
    | with_reducible apply State.resetUnits_inv
    | (with_reducible apply foldl_inv)
    | (intro _)
    | assumption)

theorem State.writeGlb_inv {s : State} (x1 : Requester) (x2 : Nat) (x3 : Word) (h : s.Inv) : (s.writeGlb x1 x2 x3).Inv
    := by
  unfold State.writeGlb
  repeat' (first
    | split
    | with_reducible apply State.regFault_inv
    | with_reducible apply State.startReset_inv
    | assumption)

theorem State.writeHeader_inv {s : State} (x1 : Page) (x2 : Nat) (x3 : Word) (h : s.Inv) : (s.writeHeader x1 x2
    x3).Inv := by
  unfold State.writeHeader
  dsimp only
  have hl := legal_of_mem h x1
  split
  · exact State.setHdr_inv _ _ hl h
  · exact State.setHdr_inv _ _ hl h
  · exact State.setHdr_inv _ _ hl h
  · exact h

theorem State.writeImgLog_inv {s : State} (x1 : Requester) (x2 : Bool) (x3 : Word) (h : s.Inv) : (s.writeImgLog x1 x2
    x3).Inv := by
  unfold State.writeImgLog
  extract_lets off s1 s2
  split
  · exact State.regFault_inv _ _ _ _ h
  · split
    · exact State.regFault_inv _ _ _ _ h
    · have h1 : s1.Inv := foldl_inv (fun t a ht => by
        split
        · exact State.releaseStep_inv _ ht
        · exact State.freeStep_inv _ ht) _ h
      clear_value s1
      refine State.rw_inv _ _ _ h ?_
      split
      · exact h1
      · exact h1

theorem State.writeStage_inv {s : State} (x1 : Requester) (x2 : Bool) (x3 : Word) (h : s.Inv) : (s.writeStage x1 x2
    x3).Inv := by
  unfold State.writeStage
  repeat' (first
    | split
    | with_reducible apply State.regFault_inv
    | with_reducible apply State.rw_inv
    | assumption)

theorem State.writeImg_inv {s : State} (x1 : Requester) (x2 : Nat) (x3 : Word) (h : s.Inv) : (s.writeImg x1 x2 x3).Inv
    := by
  unfold State.writeImg
  repeat' (first
    | split
    | with_reducible apply State.rw_inv
    | with_reducible apply State.writeImgLog_inv
    | with_reducible apply State.writeStage_inv
    | assumption)

theorem State.holdLo_inv {s : State} (x1 : Requester) (x2 : PairId) (x3 : Word) (h : s.Inv) : (s.holdLo x1 x2 x3).Inv
    := h

theorem State.lifeCommand_inv {s : State} (x1 : Requester) (x2 : Nat) (h : s.Inv) : (s.lifeCommand x1 x2).Inv := by
  unfold State.lifeCommand
  repeat' (first
    | split
    | with_reducible apply State.regFault_inv
    | assumption)

theorem State.joinHi_inv {s : State} (x1 : Requester) (x2 : PairId) (x3 : DWord) (x4 : Word) (h : s.Inv) : (s.joinHi
    x1 x2 x3 x4).1.Inv := h

theorem State.rwPair_inv {s : State} (x1 : Requester) (x2 : Page) (x3 : PairId) (x4 : Word) (x5 : State → DWord →
    State) (h : s.Inv) (H5 : ∀ (t : State) a0, t.Inv → (x5 t a0).Inv) : (s.rwPair x1 x2 x3 x4 x5).Inv := by
  unfold State.rwPair
  dsimp only
  have hj := H5 _ (s.joinHi x1 x3 (s.pairValue x3) x4).2 (State.joinHi_inv x1 x3 (s.pairValue x3) x4 h)
  split
  · exact hj
  · exact State.bumpSeq_inv _ hj

theorem State.setAnchor_inv {s : State} (x1 : DWord) (h : s.Inv) : (s.setAnchor x1).Inv := h

theorem State.writeLife_inv {s : State} (x1 : Requester) (x2 : Nat) (x3 : Word) (h : s.Inv) : (s.writeLife x1 x2
    x3).Inv := by
  unfold State.writeLife
  repeat' (first
    | split
    | extract_lets
    | with_reducible apply State.lifeCommand_inv
    | with_reducible apply State.regFault_inv
    | with_reducible apply State.rw_inv
    | with_reducible apply State.rwPair_inv
    | (intro _)
    | assumption)

theorem State.writeLogCtrl_inv {s : State} (x1 : Word) (h : s.Inv) : (s.writeLogCtrl x1).Inv := by
  unfold State.writeLogCtrl
  repeat' (first
    | with_reducible apply State.pumpLog_inv
    | with_reducible apply State.rw_inv
    | assumption)

theorem State.writeLogRd_inv {s : State} (x1 : Requester) (x2 : Word) (h : s.Inv) : (s.writeLogRd x1 x2).Inv := by
  unfold State.writeLogRd
  repeat' (first
    | split
    | with_reducible apply State.regFault_inv
    | with_reducible apply State.rw_inv
    | assumption)

theorem State.writeLogRing_inv {s : State} (x1 : Requester) (x2 : Bool) (x3 : Word) (h : s.Inv) : (s.writeLogRing x1
    x2 x3).Inv := by
  unfold State.writeLogRing
  repeat' (first
    | split
    | with_reducible apply State.regFault_inv
    | with_reducible apply State.rw_inv
    | assumption)

theorem State.writeLog_inv {s : State} (x1 : Requester) (x2 : Nat) (x3 : Word) (h : s.Inv) : (s.writeLog x1 x2 x3).Inv
    := by
  unfold State.writeLog
  repeat' (first
    | split
    | with_reducible apply State.rw_inv
    | with_reducible apply State.writeLogCtrl_inv
    | with_reducible apply State.writeLogRd_inv
    | with_reducible apply State.writeLogRing_inv
    | assumption)

theorem State.writeNum_inv {s : State} (x1 : Requester) (x2 : Nat) (x3 : Word) (h : s.Inv) : (s.writeNum x1 x2 x3).Inv
    := by
  unfold State.writeNum
  repeat' (first
    | split
    | with_reducible apply State.rw_inv
    | with_reducible apply State.rwPair_inv
    | (intro _)
    | assumption)

theorem State.writePort_inv {s : State} (x1 : Nat) (x2 : Word) (h : s.Inv) : (s.writePort x1 x2).Inv := by
  unfold State.writePort
  repeat' (first
    | split
    | with_reducible apply State.rw_inv
    | assumption)

theorem State.refuseDormant_inv {s : State} (h : s.Inv) : s.refuseDormant.Inv := by
  unfold State.refuseDormant
  repeat' (first
    | with_reducible apply State.logEvent_inv
    | with_reducible apply State.pageEvent_inv
    | assumption)

theorem State.writeBacks_inv {s : State} (h : s.Inv) : s.writeBacks.Inv := by
  unfold State.writeBacks
  dsimp only
  refine foldl_inv (fun t a ht => ?_) _ (foldl_inv (fun t a ht => ?_) _ h)
  · split
    · exact State.modLine_inv _ _ ht
    · have hw := State.issueWrite_inv (.ctxEvict a.tile) (t.tileCells a.tile a.recs (fun _ => none)) (State.modLine_inv a.tile (fun q => { q with dirty := false }) ht)
      generalize (t.modLine a.tile (fun q => { q with dirty := false })).issueWrite (.ctxEvict a.tile) (t.tileCells a.tile a.recs (fun _ => none)) = u at hw ⊢
      exact hw
  · have hw := State.issueWrite_inv (.regBack a.tid) (cellsAt (t.regAddr a.tid) a.e.bytes) ht
    generalize t.issueWrite (.regBack a.tid) (cellsAt (t.regAddr a.tid) a.e.bytes) = u at hw ⊢
    exact hw

theorem State.requestDormant_inv {s : State} (h : s.Inv) : s.requestDormant.Inv := by
  unfold State.requestDormant
  dsimp only
  repeat' (first
    | exact h
    | exact State.refuseDormant_inv h
    | exact State.writeBacks_inv (State.setPwr_inv _ ⟨h.headers, h.counters, h.queue, h.sizes, by simp [modeOk], h.clock, h.ids, h.banks⟩)
    | split)

theorem State.requestReady_inv {s : State} (h : s.Inv) : s.requestReady.Inv := by
  unfold State.requestReady
  repeat' (first
    | with_reducible apply State.wake_inv
    | assumption)

theorem State.pwrRequest_inv {s : State} (x1 : BitVec 2) (h : s.Inv) : (s.pwrRequest x1).Inv := by
  unfold State.pwrRequest
  repeat' (first
    | split
    | with_reducible apply State.requestDormant_inv
    | with_reducible apply State.requestReady_inv
    | with_reducible apply State.requestResting_inv
    | assumption)

theorem State.writePwr_inv {s : State} (x1 : Requester) (x2 : Nat) (x3 : Word) (h : s.Inv) : (s.writePwr x1 x2 x3).Inv
    := by
  unfold State.writePwr
  split
  · dsimp only
    split
    · exact State.pwrRequest_inv _ h
    · exact State.bumpSeq_inv _ (State.pwrRequest_inv _ h)
  · exact State.rw_inv _ _ _ h h
  · exact State.rw_inv _ _ _ h h
  · dsimp only
    split
    · rename_i hf
      refine State.rw_inv _ _ _ h (pwr_inv h h.mode ?_)
      show 1200 ≤ (BitVec.ofNat 12 (bitsOf x3 11 0)).toNat ∧ (BitVec.ofNat 12 (bitsOf x3 11 0)).toNat ≤ 2600
      rw [BitVec.toNat_ofNat, Nat.mod_eq_of_lt (by omega)]
      exact hf
    · exact State.regFault_inv _ _ _ _ h
  · exact h

theorem State.writeSch_inv {s : State} (x1 : Requester) (x2 : Nat) (x3 : Word) (h : s.Inv) : (s.writeSch x1 x2 x3).Inv
    := by
  unfold State.writeSch
  repeat' (first
    | split
    | with_reducible apply State.modGroup_inv
    | with_reducible apply State.rw_inv
    | with_reducible apply State.rwPair_inv
    | (intro _)
    | assumption)

theorem State.writeSen_inv {s : State} (x1 : Nat) (x2 : Word) (h : s.Inv) : (s.writeSen x1 x2).Inv := by
  unfold State.writeSen
  repeat' (first
    | split
    | with_reducible apply State.rw_inv
    | assumption)

theorem State.writeTbl_inv {s : State} (x1 : Nat) (x2 : Word) (h : s.Inv) : (s.writeTbl x1 x2).Inv := by
  unfold State.writeTbl
  repeat' (first
    | split
    | with_reducible apply State.rw_inv
    | assumption)

theorem State.writeTenBase_inv {s : State} (x1 : Requester) (x2 : Word) (h : s.Inv) : (s.writeTenBase x1 x2).Inv := by
  unfold State.writeTenBase
  repeat' (first
    | split
    | with_reducible apply State.regFault_inv
    | with_reducible apply State.rw_inv
    | assumption)

theorem State.writeTen_inv {s : State} (x1 : Requester) (x2 : Nat) (x3 : Word) (h : s.Inv) : (s.writeTen x1 x2 x3).Inv
    := by
  unfold State.writeTen
  repeat' (first
    | split
    | with_reducible apply State.rw_inv
    | with_reducible apply State.writeTenBase_inv
    | assumption)

theorem State.writeTreeCfg_inv {s : State} (x1 : Requester) (x2 : Bool) (x3 : Word) (h : s.Inv) : (s.writeTreeCfg x1
    x2 x3).Inv := by
  unfold State.writeTreeCfg
  repeat' (first
    | split
    | with_reducible apply State.regFault_inv
    | with_reducible apply State.rw_inv
    | assumption)

theorem State.writeTree_inv {s : State} (x1 : Requester) (x2 : Nat) (x3 : Word) (h : s.Inv) : (s.writeTree x1 x2
    x3).Inv := by
  unfold State.writeTree
  repeat' (first
    | split
    | with_reducible apply State.rwPair_inv
    | with_reducible apply State.writeTreeCfg_inv
    | (intro _)
    | assumption)

theorem State.writeReg_inv {s : State} (x1 : Requester) (x2 : Page) (x3 : Nat) (x4 : Word) (h : s.Inv) : (s.writeReg
    x1 x2 x3 x4).Inv := by
  unfold State.writeReg
  repeat' (first
    | split
    | with_reducible apply State.commandWrite_inv
    | with_reducible apply State.writeArv_inv
    | with_reducible apply State.writeCal_inv
    | with_reducible apply State.writeChn_inv
    | with_reducible apply State.writeCnt_inv
    | with_reducible apply State.writeCrz_inv
    | with_reducible apply State.writeCtx_inv
    | with_reducible apply State.writeDbg_inv
    | with_reducible apply State.writeEval_inv
    | with_reducible apply State.writeGlb_inv
    | with_reducible apply State.writeHeader_inv
    | with_reducible apply State.writeImg_inv
    | with_reducible apply State.writeLife_inv
    | with_reducible apply State.writeLog_inv
    | with_reducible apply State.writeNum_inv
    | with_reducible apply State.writePort_inv
    | with_reducible apply State.writePwr_inv
    | with_reducible apply State.writeSch_inv
    | with_reducible apply State.writeSen_inv
    | with_reducible apply State.writeTbl_inv
    | with_reducible apply State.writeTen_inv
    | with_reducible apply State.writeTree_inv
    | assumption)

theorem State.busWrite_inv {s : State} (x1 : Access) (x2 : Word) (h : s.Inv) : (s.busWrite x1 x2).Inv := by
  unfold State.busWrite
  repeat' (first
    | with_reducible apply State.access_inv
    | with_reducible apply State.writeReg_inv
    | (intro _)
    | assumption)

theorem State.perform_inv {s : State} (x1 : BusReq) (h : s.Inv) : (s.perform x1).Inv := by
  unfold State.perform
  repeat' (first
    | split
    | with_reducible apply State.busRead_inv
    | with_reducible apply State.busWrite_inv
    | assumption)

theorem State.drainBus_inv (x0 : Nat) {s : State} (h : s.Inv) : (State.drainBus x0 s).Inv := by
  induction x0 generalizing s with
  | zero => exact h
  | succ n ih =>
    rw [State.drainBus]
    split
    · exact h
    · exact ih (State.perform_inv _ (port_inv h))

theorem State.busGo_inv {s : State} (h : s.Inv) : s.busGo.Inv := by
  unfold State.busGo
  repeat' (first
    | with_reducible apply State.drainBus_inv
    | assumption)

theorem State.portAccess_inv {s : State} (x1 : BusReq) (h : s.Inv) : (s.portAccess x1).Inv := by
  unfold State.portAccess
  repeat' (first
    | split
    | with_reducible apply State.busGo_inv
    | with_reducible apply State.perform_inv
    | assumption)

theorem State.restRequest_inv {s : State} (x1 : BitVec 80) (x2 : Option Word) (h : s.Inv) : (s.restRequest x1 x2).Inv
    := by
  unfold State.restRequest
  dsimp only
  repeat' (first | exact h | exact State.restDrop_inv _ h | exact State.portAccess_inv _ h | split)

theorem State.wakeFrame_inv {s : State} (x1 : BitVec 80) (h : s.Inv) : (s.wakeFrame x1).Inv := by
  unfold State.wakeFrame
  repeat' (first
    | split
    | with_reducible apply State.wake_inv
    | assumption)

theorem State.restFrame_inv {s : State} (x1 : BitVec 80) (h : s.Inv) : (s.restFrame x1).Inv := by
  unfold State.restFrame
  repeat' (first
    | split
    | with_reducible apply State.busRead_inv
    | with_reducible apply State.busWrite_inv
    | with_reducible apply State.grantFrame_inv
    | with_reducible apply State.restDrop_inv
    | with_reducible apply State.restRequest_inv
    | with_reducible apply State.wakeFrame_inv
    | (intro _)
    | assumption)

theorem State.imgFail_inv {s : State} (h : s.Inv) : s.imgFail.Inv := by
  unfold State.imgFail
  repeat' (first
    | split
    | assumption)

theorem State.purgeLog_inv {s : State} (h : s.Inv) : s.purgeLog.Inv := h

theorem State.nodeDone_inv {s : State} (x1 : Chain) (h : s.Inv) : (s.nodeDone x1).Inv := by
  unfold State.nodeDone
  repeat' (first
    | split
    | extract_lets
    | exact State.finalReady_inv' (by assumption) (by assumption)
    | with_reducible apply State.finalRecords_inv
    | with_reducible apply State.modChain_inv
    | with_reducible apply State.sendUp_inv
    | assumption)

theorem State.logRefusal_inv {s : State} (x1 : Word) (x2 : Nat) (x3 : BitVec 16) (h : s.Inv) : (s.logRefusal x1 x2
    x3).Inv := by
  unfold State.logRefusal
  repeat' (first
    | with_reducible assumption
    | with_reducible apply State.count_inv
    | with_reducible apply State.logEvent_inv
    | with_reducible apply State.pageEvent_inv
    | (refine inv_mk rfl ?_ rfl rfl rfl rfl rfl rfl rfl rfl rfl rfl rfl rfl rfl rfl rfl rfl))

theorem State.logOverlap_inv {s : State} (x1 : Nat) (x2 : Word) (x3 : Word) (x4 : BitVec 16) (h : s.Inv) :
    (s.logOverlap x1 x2 x3 x4).Inv := by
  unfold State.logOverlap
  repeat' (first
    | with_reducible assumption
    | with_reducible apply State.logEvent_inv
    | with_reducible apply State.pageEvent_inv
    | (refine inv_mk rfl ?_ rfl rfl rfl rfl rfl rfl rfl rfl rfl rfl rfl rfl rfl rfl rfl rfl))

theorem State.rollbackData_inv {s : State} (x1 : List (Prod Nat (List Byte))) (h : s.Inv) : (s.rollbackData x1).Inv := by
  unfold State.rollbackData
  repeat' (first
    | split
    | with_reducible apply State.issueWrite_inv
    | assumption)

theorem State.addSample_inv {s : State} (x1 : Nat) (x2 : Resolved) (x3 : Bool) (x4 : EvIn) (x5 : Outcome) (x6 : Bool)
    (x7 : BitVec 16) (h : s.Inv) : (s.addSample x1 x2 x3 x4 x5 x6 x7).Inv := by
  unfold State.addSample
  try dsimp only
  repeat' (first
    | with_reducible assumption
    | split
    | assumption)

theorem State.considerSample_inv {s : State} (x1 : Nat) (h : s.Inv) : (s.considerSample x1).1.Inv := by
  unfold State.considerSample
  repeat' (first
    | split
    | extract_lets
    | with_reducible apply State.count_inv
    | assumption)

theorem State.considerSample_inv' {s : State} {x1 : Nat} (h : s.Inv) {p : _} {t : State} (e : (s.considerSample x1) = (t, p)) : t.Inv := by
  have h2 := State.considerSample_inv x1 h
  rw [e] at h2
  exact h2

theorem State.countSlots_inv {s : State} (x1 : Nat) (x2 : Grade) (x3 : Nat) (h : s.Inv) : (s.countSlots x1 x2 x3).Inv
    := by
  unfold State.countSlots
  repeat' (first
    | with_reducible assumption
    | split
    | with_reducible apply State.count_inv
    | (refine inv_mk rfl ?_ rfl rfl rfl rfl rfl rfl rfl rfl rfl rfl rfl rfl rfl rfl rfl rfl))

theorem State.refetchAll_inv {s : State} (x1 : BitVec 16) (x2 : Nat) (x3 : Prod (List (Prod TblRef Nat)) (List Nat))
    (h : s.Inv) : (s.refetchAll x1 x2 x3).Inv := by
  unfold State.refetchAll
  repeat' (first
    | with_reducible apply State.refetch_inv
    | (with_reducible apply foldl_inv)
    | (intro _)
    | assumption)

theorem State.ownUse_inv {s : State} (x1 : Bool) (x2 : BitVec 16) (x3 : Nat) (x4 : Nat) (x5 : Word) (h : s.Inv) :
    (s.ownUse x1 x2 x3 x4 x5).Inv := by
  unfold State.ownUse
  repeat' (first
    | split
    | extract_lets
    | with_reducible apply State.addSample_inv
    | exact State.considerSample_inv' (by assumption) (by assumption)
    | with_reducible apply State.count_inv
    | with_reducible apply State.countSlots_inv
    | with_reducible apply State.refetchAll_inv)

theorem State.gnormDone_inv {s : State} (x1 : Chain) (x2 : List Nat) (h : s.Inv) : (s.gnormDone x1 x2).Inv := by
  unfold State.gnormDone
  repeat' (first
    | with_reducible assumption
    | split
    | with_reducible apply State.chainWrite_inv
    | with_reducible apply State.logEvent_inv
    | with_reducible apply State.modChain_inv
    | with_reducible apply State.ownUse_inv)

theorem State.dropBell_inv {s : State} (x1 : Header) (x2 : Nat) (x3 : Option Chain) (h : s.Inv) : (s.dropBell x1 x2
    x3).Inv := by
  unfold State.dropBell
  repeat' (first
    | split
    | with_reducible apply State.captureDrop_inv
    | with_reducible apply State.count_inv
    | with_reducible apply State.logEvent_inv
    | with_reducible apply State.modChain_inv
    | with_reducible apply State.pageEvent_inv
    | assumption)

theorem State.switchAccept_inv {s : State} (h : s.Inv) : s.switchAccept.Inv := by
  unfold State.switchAccept
  repeat' (first
    | split
    | extract_lets
    | with_reducible apply State.pageEvent_inv
    | assumption)

theorem State.arm_inv {s : State} (x1 : Word) (x2 : ChainDesc) (h : s.Inv) : (s.arm x1 x2).Inv := by
  unfold State.arm
  split
  · exact chn_inv h (by simpa using h.sizes.1) h.sizes.2.1
  · exact h

theorem State.finishItem_inv {s : State} (x1 : Nat) (x2 : Nat) (h : s.Inv) : (s.finishItem x1 x2).Inv := by
  unfold State.finishItem
  repeat' (first
    | split
    | extract_lets
    | with_reducible apply State.count_inv
    | with_reducible apply State.endItem_inv
    | with_reducible apply State.itemStats_inv
    | with_reducible apply State.modItem_inv
    | with_reducible apply State.spawn_inv
    | with_reducible apply State.writeItem_inv
    | assumption)

theorem State.noteOnce_inv {s : State} (x1 : Bool) (x2 : Nat) (x3 : BitVec 4) (x4 : BitVec 16) (h : s.Inv) :
    (s.noteOnce x1 x2 x3 x4).Inv := by
  unfold State.noteOnce
  repeat' (first
    | split
    | with_reducible apply State.logEvent_inv
    | with_reducible apply State.pageEvent_inv
    | assumption)

theorem State.faultNotice_inv {s : State} (x1 : Nat) (x2 : Nat) (h : s.Inv) : (s.faultNotice x1 x2).Inv := by
  unfold State.faultNotice
  repeat' (first
    | split
    | with_reducible apply State.imgAbort_inv
    | with_reducible apply State.logEvent_inv
    | assumption)

theorem State.evictLine_inv {s : State} (h : s.Inv) : s.evictLine.Inv := by
  unfold State.evictLine
  try dsimp only
  repeat' (first
    | with_reducible assumption
    | split
    | with_reducible apply State.issueWrite_inv
    | (refine inv_mk rfl ?_ rfl rfl rfl rfl rfl rfl rfl rfl rfl rfl rfl rfl rfl rfl rfl rfl))

theorem State.exportData_inv {s : State} (x1 : Nat) (x2 : List (Prod Nat (List Byte))) (h : s.Inv) : (s.exportData x1
    x2).Inv := by
  unfold State.exportData
  repeat' (first
    | split
    | extract_lets
    | assumption)

theorem State.countWrite_inv {s : State} (x1 : Bool) (h : s.Inv) : (s.countWrite x1).Inv := h

theorem State.answerShadow_inv {s : State} (x1 : Access) (x2 : Nat) (h : s.Inv) : (s.answerShadow x1 x2).Inv := by
  unfold State.answerShadow
  repeat' (first
    | with_reducible apply State.answerRead_inv
    | assumption)

theorem State.ctxCmdDone_inv {s : State} (h : s.Inv) : s.ctxCmdDone.Inv := by
  unfold State.ctxCmdDone
  repeat' (first
    | split
    | with_reducible apply State.ctxReport_inv
    | assumption)

theorem State.admitFetch_inv {s : State} (x1 : Fin 8) (x2 : Header) (h : s.Inv) : (s.admitFetch x1 x2).Inv := by
  unfold State.admitFetch
  repeat' (first
    | split
    | with_reducible apply State.lanesGo_inv
    | with_reducible apply State.logEvent_inv
    | with_reducible apply State.modLane_inv
    | with_reducible apply State.pushLane_inv
    | assumption)

end Sys2Proof.Machine
end

