-- ==== Sys2Proof/Laws/Inv5.lean ====
section
/-! SUPPORT. Every operation of the units keeps the invariant, part 5 of 6: the operations in the order in which they
use one another. -/
namespace Sys2Proof.Machine

set_option linter.unusedTactic false
set_option linter.unreachableTactic false
set_option linter.unusedVariables false

theorem State.admitLane_inv {s : State} (x1 : Fin 8) (x2 : LaneReq) (h : s.Inv) : (s.admitLane x1 x2).Inv := by
  unfold State.admitLane
  repeat' (first
    | split
    | with_reducible apply State.admitEval_inv
    | with_reducible apply State.admitFetch_inv
    | assumption)

theorem State.rmsFactor_inv {s : State} (x1 : Chain) (x2 : Nat) (h : s.Inv) : (s.rmsFactor x1 x2).1.Inv := by
  unfold State.rmsFactor
  repeat' (first
    | split
    | extract_lets
    | with_reducible apply State.count_inv
    | with_reducible apply State.noteOnce_inv
    | with_reducible apply State.ownUse_inv
    | assumption)

theorem State.rmsDone_inv {s : State} (x1 : Chain) (x2 : List Nat) (h : s.Inv) : (s.rmsDone x1 x2).Inv := by
  unfold State.rmsDone
  repeat' (first
    | split
    | with_reducible apply State.modChain_inv
    | with_reducible apply State.rmsFactor_inv
    | (with_reducible apply foldl_inv1)
    | (intro _)
    | assumption)

theorem State.rowLse_inv {s : State} (x1 : Chain) (x2 : Nat) (h : s.Inv) : (s.rowLse x1 x2).1.Inv := by
  unfold State.rowLse
  repeat' (first
    | split
    | extract_lets
    | with_reducible apply State.ownUse_inv
    | assumption)

theorem State.xentRows_inv {s : State} (x1 : Chain) (x2 : List Nat) (h : s.Inv) : (s.xentRows x1 x2).1.Inv := by
  unfold State.xentRows
  generalize List.range x1.d.rows = ks
  refine foldl_inv1 (fun p a hp => ?_) _ h
  dsimp only
  split
  · exact hp
  · have h1 := State.rowLse_inv x1 a hp
    generalize p.1.rowLse x1 a = q at h1
    obtain ⟨s1, l⟩ := q
    dsimp only at h1 ⊢
    repeat' (first
      | exact h1
      | with_reducible exact State.logEvent_inv _ _ _ _ _ _ _ h1
      | with_reducible apply State.count_inv
      | split)

theorem State.xentDone_inv {s : State} (x1 : Chain) (x2 : List Nat) (h : s.Inv) : (s.xentDone x1 x2).Inv := by
  unfold State.xentDone
  repeat' (first
    | with_reducible apply State.chainWrite_inv
    | with_reducible apply State.modChain_inv
    | with_reducible apply State.xentRows_inv
    | assumption)

theorem State.statDone_inv {s : State} (x1 : Chain) (x2 : List Nat) (h : s.Inv) : (s.statDone x1 x2).Inv := by
  unfold State.statDone
  repeat' (first
    | split
    | with_reducible apply State.chainWrite_inv
    | with_reducible apply State.gnormDone_inv
    | with_reducible apply State.rmsDone_inv
    | with_reducible apply State.xentDone_inv
    | assumption)

theorem State.idleExpires_inv {s : State} (h : s.Inv) : s.idleExpires.Inv := by
  unfold State.idleExpires
  repeat' (first
    | split
    | with_reducible apply State.requestResting_inv
    | assumption)

theorem State.creditOver_inv {s : State} (x1 : Nat) (x2 : Nat) (x3 : Nat) (h : s.Inv) : (s.creditOver x1 x2 x3).Inv := by
  unfold State.creditOver
  repeat' (first
    | with_reducible apply State.logEvent_inv
    | assumption)

theorem State.messageWakes_inv {s : State} (h : s.Inv) : s.messageWakes.Inv := by
  unfold State.messageWakes
  repeat' (first
    | split
    | with_reducible apply State.abandonEntry_inv
    | with_reducible apply State.wake_inv
    | assumption)

theorem State.ingress_inv {s : State} (x1 : PortMsg) (h : s.Inv) : (s.ingress x1).1.Inv := by
  unfold State.ingress
  try dsimp only
  repeat' (first
    | with_reducible assumption
    | split
    | with_reducible apply State.creditOver_inv
    | with_reducible apply State.logEvent_inv
    | with_reducible apply State.messageWakes_inv
    | (refine inv_mk rfl ?_ rfl rfl rfl rfl rfl rfl rfl rfl rfl rfl rfl rfl rfl rfl rfl rfl))

theorem State.takeP4_inv {s : State} (x1 : TreeMsg) (x2 : State → State) (h : s.Inv) (H2 : ∀ (t : State) , t.Inv → (x2
    t ).Inv) : (s.takeP4 x1 x2).Inv := by
  unfold State.takeP4
  dsimp only
  have hi := State.ingress_inv (PortMsg.tree .p4 x1) h
  repeat' (first | exact h | exact hi | exact H2 _ h | exact H2 _ hi | split)

theorem State.takeHeld_inv {s : State} (x1 : TreeVia) (x2 : TreeMsg) (h : s.Inv) : (s.takeHeld x1 x2).Inv := by
  unfold State.takeHeld
  repeat' (first
    | with_reducible apply State.judgeAll_inv
    | assumption)

theorem State.fly_inv {s : State} (x1 : Option (Prod Nat Nat)) (x2 : Nat) (x3 : Bool) (x4 : Bool) (x5 : EvalReq) (h :
    s.Inv) : (s.fly x1 x2 x3 x4 x5).Inv := by
  unfold State.fly
  try dsimp only
  repeat' (first
    | with_reducible assumption
    | split
    | with_reducible apply State.considerSample_inv
    | (refine inv_mk rfl ?_ rfl rfl rfl rfl rfl rfl rfl rfl rfl rfl rfl rfl rfl rfl rfl rfl))

theorem State.chooseLane_inv {s : State} (h : s.Inv) : s.chooseLane.Inv := by
  unfold State.chooseLane
  try dsimp only
  repeat' (first
    | with_reducible assumption
    | split
    | assumption)

theorem State.takeSlice_inv {s : State} (x1 : Nat) (h : s.Inv) : (s.takeSlice x1).Inv := by
  unfold State.takeSlice
  repeat' (first
    | split
    | extract_lets
    | with_reducible apply State.chooseLane_inv
    | assumption)

theorem State.waitsForEnv_inv {s : State} (x1 : Bool) (h : s.Inv) : (s.waitsForEnv x1).Inv := h

theorem State.fillLane_inv {s : State} (x1 : Nat) (x2 : Nat) (h : s.Inv) : (s.fillLane x1 x2).1.Inv := by
  unfold State.fillLane
  repeat' (first
    | split
    | extract_lets
    | with_reducible apply State.countSlots_inv
    | with_reducible apply State.fly_inv
    | with_reducible apply State.modLane_inv
    | with_reducible apply State.showPinna_inv
    | with_reducible apply State.takeSlice_inv
    | with_reducible apply State.waitsForEnv_inv
    | (with_reducible apply foldl_inv)
    | (intro _)
    | assumption)

theorem State.tenCmdDone_inv {s : State} (h : s.Inv) : s.tenCmdDone.Inv := by
  unfold State.tenCmdDone
  repeat' (first
    | split
    | with_reducible apply State.tenReport_inv
    | assumption)

theorem State.boundLost_inv {s : State} (x1 : Nat) (x2 : BitVec 16) (h : s.Inv) : (s.boundLost x1 x2).Inv := by
  unfold State.boundLost
  repeat' (first
    | split
    | with_reducible apply State.noteOnce_inv
    | assumption)

theorem State.mergeUse_inv {s : State} (x1 : Chain) (x2 : Nat) (x3 : Rec) (x4 : Rec) (h : s.Inv) : (s.mergeUse x1 x2
    x3 x4).Inv := by
  unfold State.mergeUse
  repeat' (first
    | split
    | with_reducible apply State.ownUse_inv
    | (with_reducible apply foldl_inv)
    | (intro _)
    | assumption)

theorem State.foldRow_inv {s : State} (x1 : Chain) (x2 : Nat) (x3 : Part) (h : s.Inv) : (s.foldRow x1 x2 x3).Inv := by
  unfold State.foldRow
  repeat' (first
    | split
    | extract_lets
    | with_reducible apply State.boundLost_inv
    | with_reducible apply State.mergeUse_inv
    | assumption)

theorem State.leafFormed_inv {s : State} (x1 : Nat) (h : s.Inv) : (s.leafFormed x1).Inv := by
  unfold State.leafFormed
  repeat' (first
    | split
    | with_reducible apply State.modChain_inv
    | assumption)

theorem State.foldNow_inv {s : State} (x1 : Chain) (x2 : PartRow) (x3 : List (Prod Nat Part)) (h : s.Inv) : (s.foldNow
    x1 x2 x3).Inv := by
  unfold State.foldNow
  repeat' (first
    | split
    | with_reducible apply State.chainWrite_inv
    | with_reducible apply State.count_inv
    | with_reducible apply State.ctxGo_inv
    | with_reducible apply State.foldRow_inv
    | with_reducible apply State.leafFormed_inv
    | with_reducible apply State.modChain_inv
    | (with_reducible apply foldl_inv)
    | (intro _)
    | assumption)

theorem State.fold_inv {s : State} (x1 : Nat) (h : s.Inv) : (s.fold x1).Inv := by
  unfold State.fold
  repeat' (first
    | split
    | extract_lets
    | with_reducible apply State.failChain_inv
    | with_reducible apply State.foldNow_inv
    | with_reducible apply State.issueRead_inv
    | exact State.needLines_inv' (by assumption) (by assumption)
    | assumption)

theorem State.recordToken_inv {s : State} (x1 : Word) (h : s.Inv) : (s.recordToken x1).Inv := h

theorem State.fillDone_inv {s : State} (h : s.Inv) : s.fillDone.Inv := by
  unfold State.fillDone
  split
  · exact h
  · refine State.startFill_inv (State.spend_inv _ _ (State.count_inv _ _ ?_))
    exact chn_inv (tbl_inv h h.banks) (by simpa using h.sizes.1) h.sizes.2.1

theorem State.takeCheck_inv {s : State} (x1 : TreeMsg) (h : s.Inv) : (s.takeCheck x1).1.Inv := by
  unfold State.takeCheck
  repeat' (first
    | split
    | extract_lets
    | with_reducible apply State.count_inv
    | with_reducible apply State.returnCredit_inv
    | with_reducible apply State.takeDown_inv
    | with_reducible apply State.treeStale_inv
    | with_reducible apply State.tryCheck_inv
    | assumption)

theorem State.rowDone_inv {s : State} (x1 : Chain) (x2 : Nat) (h : s.Inv) : (s.rowDone x1 x2).Inv := by
  unfold State.rowDone
  repeat' (first
    | split
    | extract_lets
    | with_reducible apply State.logEvent_inv
    | with_reducible apply State.modChain_inv
    | with_reducible apply State.pageEvent_inv
    | assumption)

theorem State.rowBlock_inv {s : State} (x1 : Nat) (h : s.Inv) : (s.rowBlock x1).Inv := by
  unfold State.rowBlock
  repeat' (first
    | split
    | with_reducible apply State.finishChains_inv
    | with_reducible apply State.modChain_inv
    | with_reducible apply State.rowDone_inv
    | with_reducible apply State.spawn_inv
    | with_reducible apply State.statDone_inv
    | (with_reducible apply foldl_inv)
    | (intro _)
    | assumption)

theorem State.vddReport_inv {s : State} (x1 : Bool) (h : s.Inv) : (s.vddReport x1).Inv := by
  unfold State.vddReport
  repeat' (first
    | with_reducible apply State.startHeldWake_inv
    | assumption)

theorem State.dropWindow_inv {s : State} (x1 : Nat) (x2 : Word) (h : s.Inv) : (s.dropWindow x1 x2).Inv := h

theorem State.fragJudge_inv {s : State} (x1 : FragIn) (x2 : List Byte) (h : s.Inv) : (s.fragJudge x1 x2).Inv := by
  unfold State.fragJudge
  repeat' (first
    | split
    | extract_lets
    | with_reducible apply State.dropFrag_inv
    | with_reducible apply State.issueWrite_inv
    | assumption)

theorem State.fragHeader_inv {s : State} (x1 : List Byte) (h : s.Inv) : (s.fragHeader x1).Inv := by
  unfold State.fragHeader
  repeat' (first
    | split
    | extract_lets
    | with_reducible apply State.dropFrag_inv
    | with_reducible apply State.fragJudge_inv
    | with_reducible apply State.issueRead_inv
    | assumption)

theorem State.wakingDone_inv {s : State} (h : s.Inv) : s.wakingDone.Inv := by
  unfold State.wakingDone
  split
  · rename_i hc
    simp only [Bool.and_eq_true, beq_iff_eq] at hc
    have hm := h.mode
    split
    · exact ⟨h.headers, h.counters, h.queue, h.sizes, hm, h.clock, h.ids, h.banks⟩
    · rw [hc.1.1] at hm
      exact State.setPwr_inv _ ⟨h.headers, h.counters, h.queue, h.sizes, hm, h.clock, h.ids, h.banks⟩
  · exact h

theorem State.revertMsgs_inv {s : State} (x1 : List (Prod Nat (BitVec 4))) (h : s.Inv) : (s.revertMsgs x1).Inv := by
  unfold State.revertMsgs
  refine foldl_inv (fun t a ht => ?_) _ h
  dsimp only
  split
  · refine State.logStale_inv _ _ _ _ _ _ (tree_inv ?_)
    split
    · exact State.modChain_inv _ _ ht
    · exact ht
  · exact ht

theorem State.evictEntry_inv {s : State} (h : s.Inv) : s.evictEntry.Inv := by
  unfold State.evictEntry
  repeat' (first
    | with_reducible assumption
    | split
    | with_reducible apply State.issueWrite_inv
    | (refine inv_mk rfl ?_ rfl rfl rfl rfl rfl rfl rfl rfl rfl rfl rfl rfl rfl rfl rfl rfl))

theorem State.insertEntry_inv {s : State} (x1 : Nat) (x2 : RegEntry) (h : s.Inv) : (s.insertEntry x1 x2).Inv := by
  unfold State.insertEntry
  repeat' (first
    | with_reducible assumption
    | split
    | with_reducible apply State.evictEntry_inv
    | (refine inv_mk rfl ?_ rfl rfl rfl rfl rfl rfl rfl rfl rfl rfl rfl rfl rfl rfl rfl rfl))

theorem State.itemData_inv {s : State} (x1 : Nat) (x2 : Nat) (x3 : List (Prod Nat (List Byte))) (h : s.Inv) :
    (s.itemData x1 x2 x3).Inv := by
  unfold State.itemData
  repeat' (first
    | with_reducible apply State.itemAdvance_inv
    | with_reducible apply State.modItem_inv
    | assumption)

theorem State.itemResult_inv {s : State} (x1 : Nat) (x2 : Nat) (x3 : EvalReq) (x4 : Word) (h : s.Inv) : (s.itemResult
    x1 x2 x3 x4).Inv := by
  unfold State.itemResult
  repeat' (first
    | split
    | extract_lets
    | with_reducible apply State.finishItem_inv
    | with_reducible apply State.modItem_inv
    | assumption)

theorem State.deliver_inv {s : State} (x1 : Flight) (x2 : Word) (h : s.Inv) : (s.deliver x1 x2).Inv := by
  unfold State.deliver
  repeat' (first
    | split
    | with_reducible apply State.itemResult_inv
    | with_reducible apply State.laneFinish_inv
    | with_reducible apply State.lanesGo_inv
    | assumption)

theorem State.holdBallast_inv {s : State} (h : s.Inv) : s.holdBallast.Inv := by
  unfold State.holdBallast
  repeat' (first
    | split
    | assumption)

theorem State.evalResult_inv {s : State} (x1 : Nat) (h : s.Inv) : (s.evalResult x1).Inv := by
  unfold State.evalResult
  repeat' (first
    | split
    | extract_lets
    | with_reducible apply State.addSample_inv
    | with_reducible apply State.count_inv
    | with_reducible apply State.deliver_inv
    | with_reducible apply State.holdBallast_inv
    | assumption)

theorem State.serveShadow_inv {s : State} (h : s.Inv) : s.serveShadow.Inv := by
  unfold State.serveShadow
  repeat' (first
    | with_reducible apply State.answerShadow_inv
    | (with_reducible apply foldl_inv)
    | (intro _)
    | assumption)

theorem State.frozen_inv {s : State} (h : s.Inv) : s.frozen.Inv := by
  unfold State.frozen
  repeat' (first
    | split
    | with_reducible apply State.logEvent_inv
    | with_reducible apply State.pageEvent_inv
    | with_reducible apply State.serveShadow_inv
    | assumption)

theorem State.acceptBell_inv {s : State} (x1 : Chain) (x2 : Header) (h : s.Inv) : (s.acceptBell x1 x2).Inv := by
  unfold State.acceptBell
  try dsimp only
  repeat' (first
    | with_reducible assumption
    | split
    | with_reducible apply State.count_inv
    | with_reducible apply State.modChain_inv
    | with_reducible apply State.pumpCtx_inv
    | with_reducible apply State.spawn_inv
    | (refine inv_mk rfl ?_ rfl rfl rfl rfl rfl rfl rfl rfl rfl rfl rfl rfl rfl rfl rfl rfl))

theorem State.revertRows_inv {s : State} (x1 : List (Prod Nat (BitVec 4))) (h : s.Inv) : (s.revertRows x1).Inv := by
  unfold State.revertRows
  refine foldl_inv (fun t c ht => foldl_inv (fun u a hu => ?_) _ ht) _ h
  dsimp only
  split
  · split
    · exact hu
    · exact State.logStale_inv _ _ _ _ _ _ (State.modChain_inv _ _ hu)
  · exact hu

theorem State.ctxFail_inv {s : State} (x1 : Nat) (h : s.Inv) : (s.ctxFail x1).Inv := by
  unfold State.ctxFail
  repeat' (first
    | split
    | with_reducible apply State.revertMsgs_inv
    | with_reducible apply State.revertRows_inv
    | assumption)

theorem State.unitErr_inv {s : State} (x1 : Nat) (x2 : Page) (h : s.Inv) : (s.unitErr x1 x2).Inv := by
  unfold State.unitErr
  repeat' (first
    | with_reducible apply State.logSpadErr_inv
    | assumption)

theorem State.failChains_inv {s : State} (x1 : Nat) (x2 : Page) (x3 : List Chain) (h : s.Inv) : (s.failChains x1 x2
    x3).Inv := by
  unfold State.failChains
  repeat' (first
    | split
    | with_reducible apply State.failChain_inv
    | with_reducible apply State.unitErr_inv
    | (with_reducible apply foldl_inv)
    | (intro _)
    | assumption)

theorem State.fragCopyFail_inv {s : State} (h : s.Inv) : s.fragCopyFail.Inv := by
  unfold State.fragCopyFail
  repeat' (first
    | split
    | assumption)

theorem State.tenFail_inv {s : State} (h : s.Inv) : s.tenFail.Inv := by
  unfold State.tenFail
  repeat' (first
    | split
    | (intro _)
    | assumption)

theorem State.writeFails_inv {s : State} (x1 : WriteJob) (h : s.Inv) : (s.writeFails x1).Inv := by
  unfold State.writeFails
  repeat' (first
    | with_reducible assumption
    | split
    | with_reducible apply State.applyFail_inv
    | with_reducible apply State.ctxFail_inv
    | with_reducible apply State.failChain_inv
    | with_reducible apply State.failChains_inv
    | with_reducible apply State.logAck_inv
    | with_reducible apply State.logSpadErr_inv
    | with_reducible apply State.modChain_inv
    | with_reducible apply State.unitErr_inv
    | with_reducible apply State.wordWritten_inv
    | (refine inv_mk rfl ?_ rfl rfl rfl rfl rfl rfl rfl rfl rfl rfl rfl rfl rfl rfl rfl rfl))

theorem State.samplePasses_inv {s : State} (x1 : Sample) (h : s.Inv) : (s.samplePasses x1).1.Inv := by
  unfold State.samplePasses
  repeat' (first
    | split
    | extract_lets
    | assumption)

theorem State.countViolation_inv {s : State} (x1 : Sample) (h : s.Inv) : (s.countViolation x1).Inv := by
  unfold State.countViolation
  have hb := fun b => bank_of (t := s.tbl) b h.banks
  dsimp only
  repeat' (first
    | exact h
    | exact State.logEvent_inv _ _ _ _ _ _ _ (State.pageEvent_inv _ _ (State.pageEvent_inv _ _ (setBank_inv _ (sen_inv h) h.banks (hb _))))
    | split)

theorem State.violation_inv {s : State} (x1 : Sample) (h : s.Inv) : (s.violation x1).Inv := by
  unfold State.violation
  repeat' (first
    | with_reducible apply State.count_inv
    | with_reducible apply State.countViolation_inv
    | with_reducible apply State.logEvent_inv
    | with_reducible apply State.pageEvent_inv
    | assumption)

theorem State.judgeSample_inv {s : State} (h : s.Inv) : s.judgeSample.Inv := by
  unfold State.judgeSample
  try dsimp only
  repeat' (first
    | with_reducible assumption
    | split
    | with_reducible apply State.count_inv
    | with_reducible apply State.samplePasses_inv
    | with_reducible apply State.violation_inv
    | assumption)

theorem State.activeChange_inv {s : State} (h : s.Inv) : s.activeChange.Inv := by
  unfold State.activeChange
  repeat' (first
    | split
    | with_reducible apply State.reportState_inv
    | assumption)

theorem State.loseDormant_inv {s : State} (h : s.Inv) : s.loseDormant.Inv := h

theorem State.enterDormant_inv {s : State} (h : s.Inv) : s.enterDormant.Inv := by
  unfold State.enterDormant
  split
  · have hl := State.loseDormant_inv h
    have h2 : ((({ s.loseDormant with pwr := { s.loseDormant.pwr with entering := .none, lateWake := none } } : State).setPwr .dormant)).Inv :=
      State.setPwr_inv _ ⟨hl.headers, hl.counters, hl.queue, hl.sizes, by simp [modeOk], hl.clock, hl.ids, hl.banks⟩
    dsimp only
    split
    · exact State.wake_inv _ h2
    · exact h2
  · exact h

theorem State.insertLine_inv {s : State} (x1 : Nat) (x2 : List Rec) (h : s.Inv) : (s.insertLine x1 x2).Inv := by
  unfold State.insertLine
  repeat' (first
    | with_reducible assumption
    | split
    | with_reducible apply State.evictLine_inv
    | (refine inv_mk rfl ?_ rfl rfl rfl rfl rfl rfl rfl rfl rfl rfl rfl rfl rfl rfl rfl rfl))

theorem State.adoptTile_inv {s : State} (x1 : CtxCmd) (x2 : Nat) (x3 : List Rec) (h : s.Inv) : (s.adoptTile x1 x2
    x3).Inv := by
  unfold State.adoptTile
  dsimp only
  refine State.setCtxCmd_inv _ (foldl_inv (fun t a ht => State.setCtxRec_inv _ _ (State.setCtxState_inv _ _ ht)) _ ?_)
  split
  · exact h
  · exact State.insertLine_inv _ _ h

theorem State.answerQueries_inv {s : State} (x1 : Nat) (x2 : State → Nat → State × BitVec 4) (h : s.Inv) (H2 : ∀ (t :
    State) (i : Nat), t.Inv → (x2 t i).1.Inv) : (s.answerQueries x1 x2).Inv := by
  unfold State.answerQueries
  dsimp only
  refine foldl_inv (fun t a ht => ?_) _ ?_
  · exact State.answerRead_inv _ _ _ (H2 _ _ ht)
  · exact h

theorem State.checkData_inv {s : State} (x1 : List (Prod Nat (List Byte))) (h : s.Inv) : (s.checkData x1).Inv := by
  unfold State.checkData
  repeat' (first
    | split
    | extract_lets
    | with_reducible apply State.issueRead_inv
    | assumption)

theorem State.descriptorData_inv {s : State} (x1 : Option (List Byte)) (h : s.Inv) : (s.descriptorData x1).Inv := by
  unfold State.descriptorData
  repeat' (first
    | split
    | assumption)

theorem State.fragPayload_inv {s : State} (x1 : List (Prod Nat (List Byte))) (h : s.Inv) : (s.fragPayload x1).Inv := by
  unfold State.fragPayload
  repeat' (first
    | split
    | with_reducible apply State.fragJudge_inv
    | assumption)

theorem State.judgeCold_inv {s : State} (x1 : Nat) (x2 : Bool) (h : s.Inv) : (s.judgeCold x1 x2).Inv := by
  unfold State.judgeCold
  repeat' (first
    | split
    | with_reducible apply State.logOverlap_inv
    | (with_reducible apply foldl_inv)
    | (intro _)
    | assumption)

theorem State.storeItem_inv {s : State} (x1 : Nat) (x2 : Nat) (x3 : List Byte) (h : s.Inv) : (s.storeItem x1 x2
    x3).Inv := by
  unfold State.storeItem
  dsimp only
  have hb := (bank_wf_iff _).1 (bank_of (t := s.tbl) s.shadowBank h.banks)
  split
  · exact State.countWrite_inv _ (setBank_inv _ h h.banks ((bank_wf_iff _).2 ⟨Store.insert_wf _ _ hb.1, hb.2⟩))
  · exact setBank_inv _ h h.banks ((bank_wf_iff _).2 ⟨hb.1, Store.put_wf _ _ hb.2.1, hb.2.2⟩)
  · exact setBank_inv _ h h.banks ((bank_wf_iff _).2 ⟨hb.1, hb.2.1, Store.put_wf _ _ hb.2.2.1, hb.2.2.2⟩)
  · exact setBank_inv _ h h.banks ((bank_wf_iff _).2 ⟨hb.1, hb.2.1, hb.2.2.1, Store.put_wf _ _ hb.2.2.2⟩)

theorem State.storeItems_inv {s : State} (x1 : Nat) (x2 : Nat) (x3 : Nat) (x4 : Nat) (x5 : List Byte) (h : s.Inv) :
    (s.storeItems x1 x2 x3 x4 x5).Inv := by
  induction x3 generalizing s x4 x5 with
  | zero => exact h
  | succ n ih =>
    rw [State.storeItems]
    exact ih _ _ (State.storeItem_inv _ _ _ h)

theorem State.loadData_inv {s : State} (x1 : List (Prod Nat (List Byte))) (x2 : Bool) (h : s.Inv) : (s.loadData x1
    x2).Inv := by
  unfold State.loadData
  repeat' (first
    | with_reducible assumption
    | split
    | with_reducible apply State.loadNext_inv
    | with_reducible apply State.storeItems_inv
    | (refine inv_mk rfl ?_ rfl rfl rfl rfl rfl rfl rfl rfl rfl rfl rfl rfl rfl rfl rfl rfl))

theorem State.readData_inv {s : State} (x1 : ReadTag) (x2 : List (Prod Nat (List Byte))) (h : s.Inv) : (s.readData x1
    x2).Inv := by
  unfold State.readData
  repeat' (first
    | split
    | with_reducible apply State.adoptTile_inv
    | with_reducible apply State.answerQueries_inv
    | with_reducible apply State.checkData_inv
    | with_reducible apply State.descriptorData_inv
    | with_reducible apply State.exportData_inv
    | with_reducible apply State.fragHeader_inv
    | with_reducible apply State.fragPayload_inv
    | with_reducible apply State.insertEntry_inv
    | with_reducible apply State.insertLine_inv
    | with_reducible apply State.itemData_inv
    | with_reducible apply State.judgeCold_inv
    | with_reducible apply State.loadData_inv
    | with_reducible apply State.modChain_inv
    | with_reducible apply State.pumpCtx_inv
    | with_reducible apply State.rollbackData_inv
    | with_reducible apply State.setCtxCmd_inv
    | (intro _)
    | assumption)

theorem State.withFetchWord_inv {s : State} (x1 : Nat) (x2 : Nat) (h : s.Inv) : (s.withFetchWord x1 x2).Inv := h

theorem State.scrub_inv {s : State} (h : s.Inv) : s.scrub.Inv := by
  unfold State.scrub
  repeat' (first
    | split
    | extract_lets
    | with_reducible apply State.count_inv
    | with_reducible apply State.countEcc_inv
    | with_reducible apply State.countWrite_inv
    | with_reducible apply State.logEcc_inv
    | with_reducible apply State.setFault_inv
    | with_reducible apply State.writeRam_inv
    | assumption)

theorem State.popP3_inv {s : State} (h : s.Inv) : s.popP3.Inv := h

theorem State.countBallast_inv {s : State} (x1 : Nat) (x2 : Nat) (h : s.Inv) : (s.countBallast x1 x2).Inv := by
  unfold State.countBallast
  repeat' (first
    | with_reducible assumption
    | with_reducible apply State.count_inv
    | (refine inv_mk rfl ?_ rfl rfl rfl rfl rfl rfl rfl rfl rfl rfl rfl rfl rfl rfl rfl rfl))

theorem State.putJob_inv {s : State} (x1 : Nat) (x2 : Option ReadJob) (hq : ∀ r, x2 = some r → ∀ o ∈ r.out, o.1 <
    s.p0.nextId) (h : s.Inv) : (s.putJob x1 x2).Inv := by
  unfold State.putJob
  have hi := (idsOk_iff _ _ _).1 h.ids
  refine p0_inv h ((idsOk_iff _ _ _).2 ⟨fun r hr o ho => ?_, hi.2⟩)
  obtain ⟨r0, hr0, e⟩ := List.mem_filterMap.1 hr
  split at e
  · exact hq r e o ho
  · cases e
    exact hi.1 r hr0 o ho

theorem State.sendHeld_inv {s : State} (h : s.Inv) : s.sendHeld.Inv := by
  unfold State.sendHeld
  repeat' (first
    | with_reducible apply State.sendPiece_inv
    | (with_reducible apply foldl_inv)
    | (intro _)
    | assumption)

end Sys2Proof.Machine
end

