-- ==== Sys2Proof/Laws/Inv6.lean ====
section
/-! SUPPORT. Every operation of the units keeps the invariant, part 6 of 6: the operations in the order in which they
use one another. -/
namespace Sys2Proof.Machine

set_option linter.unusedTactic false
set_option linter.unreachableTactic false
set_option linter.unusedVariables false

theorem State.judgeSubmission_inv {s : State} (x1 : Word) (x2 : Option (List Byte)) (h : s.Inv) : (s.judgeSubmission
    x1 x2).Inv := by
  unfold State.judgeSubmission
  repeat' (first
    | split
    | extract_lets
    | with_reducible apply State.arm_inv
    | with_reducible apply State.issueWrite_inv
    | with_reducible apply State.logRefusal_inv
    | assumption)

theorem refuseRead_inReset {s : State} (a : Access) (h : s.inReset = true) : (s.refuseRead a).inReset = true := by
  unfold State.refuseRead State.refuseAccess State.answerRead
  simp only [h]
  cases a.rq <;> simp [State.send, State.recordFault, State.setHdr]

theorem startReset_inReset (s : State) (cause : BitVec 2) : (s.startReset cause).inReset = true := by
  unfold State.startReset
  have hf : ∀ (l : List WaitRead) (t : State), t.inReset = true →
      (l.foldl (fun (s : State) w => s.refuseRead w.access) t).inReset = true := by
    intro l
    induction l with
    | nil => exact fun t h => h
    | cons w l ih => exact fun t h => ih _ (refuseRead_inReset _ h)
  exact hf _ _ rfl

theorem State.powerOn_inv {s : State} (h : s.Inv) : s.powerOn.Inv := by
  unfold State.powerOn
  dsimp only
  have h1 : ({ s with
    powerOns := s.powerOns + 1, life := {}, cal := { s.cal with loaded := false }, hdrs := List.replicate 20 {}
    tbl := { s.tbl with bank0 := { s.tbl.bank0 with ram := [] }, bank1 := { s.tbl.bank1 with ram := [] }, cmd := none }
    port := { s.port with waits := [], behind := [] } } : State).Inv := by
    have h0 := (bank_wf_iff _).1 h.banks.1
    have h1 := (bank_wf_iff _).1 h.banks.2
    exact ⟨⟨rfl, rfl⟩, h.counters, h.queue, h.sizes, h.mode, h.clock, h.ids, (bank_wf_iff _).2 ⟨rfl, h0.2⟩, (bank_wf_iff _).2 ⟨rfl, h1.2⟩⟩
  have h2 := State.startReset_inv 0 h1
  have hr : ∀ t : State, (t.startReset 0).inReset = true := fun t => startReset_inReset t 0
  have hr1 := hr ({ s with
    powerOns := s.powerOns + 1, life := {}, cal := { s.cal with loaded := false }, hdrs := List.replicate 20 {}
    tbl := { s.tbl with bank0 := { s.tbl.bank0 with ram := [] }, bank1 := { s.tbl.bank1 with ram := [] }, cmd := none }
    port := { s.port with waits := [], behind := [] } } : State)
  refine ⟨h2.headers, h2.counters, h2.queue, h2.sizes, ?_, h2.clock, h2.ids, h2.banks⟩
  show modeOk (State.inReset _) _ _ = true
  rw [hr1]
  rfl

theorem State.freezeAt_inv {s : State} (x1 : Word) (h : s.Inv) : (s.freezeAt x1).Inv := by
  unfold State.freezeAt
  have hf : ∀ (st : CntState) (late : Bool), ({ s with cnt := { s.cnt with st := st, shadow := s.cnt.live, late := late, fstep := x1, freezeFc := s.fc } } : State).Inv :=
    fun _ _ => ⟨h.headers, ⟨h.counters.1, h.counters.1⟩, h.queue, h.sizes, h.mode, h.clock, h.ids, h.banks⟩
  dsimp only
  repeat' (first | exact hf _ _ | exact h | split)

theorem State.beginApply_inv {s : State} (h : s.Inv) : s.beginApply.Inv := by
  unfold State.beginApply
  repeat' (first
    | with_reducible assumption
    | with_reducible apply State.freezeAt_inv
    | (refine inv_mk rfl ?_ rfl rfl rfl rfl rfl rfl rfl rfl rfl rfl rfl rfl rfl rfl rfl rfl))

theorem State.freezeFrom_inv {s : State} (x1 : Word) (x2 : Word) (h : s.Inv) : (s.freezeFrom x1 x2).Inv := by
  unfold State.freezeFrom
  repeat' (first
    | split
    | with_reducible apply State.freezeAt_inv
    | assumption)

theorem State.queueToken_inv {s : State} (x1 : Word) (x2 : Word) (h : s.Inv) : (s.queueToken x1 x2).Inv := by
  unfold State.queueToken
  repeat' (first
    | with_reducible assumption
    | with_reducible apply State.freezeFrom_inv
    | (refine inv_mk rfl ?_ rfl rfl rfl rfl rfl rfl rfl rfl rfl rfl rfl rfl rfl rfl rfl rfl))

theorem State.restoreSkew_inv {s : State} (x1 : Word) (h : s.Inv) : (s.restoreSkew x1).Inv := by
  unfold State.restoreSkew
  repeat' (first
    | with_reducible assumption
    | with_reducible apply State.imgAwait_inv
    | with_reducible apply State.logEvent_inv
    | with_reducible apply State.pageEvent_inv
    | (refine inv_mk rfl ?_ rfl rfl rfl rfl rfl rfl rfl rfl rfl rfl rfl rfl rfl rfl rfl rfl))

theorem State.stepToken_inv {s : State} (x1 : Word) (h : s.Inv) : (s.stepToken x1).Inv := by
  unfold State.stepToken
  repeat' (first
    | split
    | with_reducible apply State.beginApply_inv
    | with_reducible apply State.freezeFrom_inv
    | with_reducible apply State.normalToken_inv
    | with_reducible apply State.queueToken_inv
    | with_reducible apply State.restoreSkew_inv
    | assumption)

theorem State.contend_inv {s : State} (x1 : Nat) (h : s.Inv) : (s.contend x1).1.Inv := by
  unfold State.contend
  exact State.count_inv _ _ (chn_inv h h.sizes.1 (by simpa using h.sizes.2.1))

theorem State.fillChain_inv {s : State} (x1 : Nat) (x2 : Nat) (x3 : List (Prod Nat (Prod Nat (Prod Nat Nat)))) (h :
    s.Inv) : (s.fillChain x1 x2 x3).1.Inv := by
  unfold State.fillChain
  repeat' (first
    | split
    | with_reducible apply State.countSlots_inv
    | with_reducible apply State.fly_inv
    | with_reducible apply State.modItem_inv
    | with_reducible apply State.showPinna_inv
    | (with_reducible apply foldl_inv)
    | (with_reducible apply foldl_inv1)
    | (intro _)
    | assumption)

theorem State.issuePinna_inv {s : State} (x1 : List (Prod Nat (Prod Nat (Prod Nat Nat)))) (x2 : Bool) (x3 : Nat) (x4 :
    Nat) (h : s.Inv) : (s.issuePinna x1 x2 x3 x4).1.Inv := by
  unfold State.issuePinna
  try dsimp only
  repeat' (first
    | with_reducible assumption
    | split
    | with_reducible apply State.contend_inv
    | with_reducible apply State.countBallast_inv
    | with_reducible apply State.fillChain_inv
    | with_reducible apply State.fillLane_inv
    | (refine inv_mk rfl ?_ rfl rfl rfl rfl rfl rfl rfl rfl rfl rfl rfl rfl rfl rfl rfl rfl))

theorem State.issue_inv {s : State} (x1 : Nat) (h : s.Inv) : (s.issue x1).Inv := by
  unfold State.issue
  split
  · exact h
  · extract_lets halt items s0
    have h0 : s0.Inv := by
      show State.Inv (if _ then _ else _)
      repeat' (first | exact h | exact State.chooseLane_inv h | exact chn_inv h h.sizes.1 h.sizes.2.1 | split)
    clear_value s0
    split
    rename_i heq
    have hf := foldl_inv1' heq (fun p a hp => State.issuePinna_inv _ _ _ _ hp) h0
    dsimp only
    have h2 := fun l => foldl_inv (α := Nat × Nat × Nat × Nat) (f := fun (s : State) (it : Nat × Nat × Nat × Nat) =>
        match (s.chainOf it.2.2.1).bind (fun c => (c.item it.2.2.2).map (fun i => (c, i))) with
        | some (c, i) =>
          if i.idle && i.results.isEmpty && s.storeAllows c i then s.finishItem it.2.2.1 it.2.2.2 else s
        | none => s)
      (fun (t : State) a ht => by
        split
        · split
          · exact State.finishItem_inv _ _ ht
          · exact ht
        · exact ht) l hf
    split
    · exact State.count_inv _ _ (chn_inv (h2 _) (h2 _).sizes.1 (h2 _).sizes.2.1)
    · exact chn_inv (h2 _) (h2 _).sizes.1 (h2 _).sizes.2.1

theorem State.captureSpad_inv {s : State} (x1 : Nat) (h : s.Inv) : (s.captureSpad x1).Inv := by
  unfold State.captureSpad
  repeat' (first
    | split
    | assumption)

theorem State.imageReject_inv {s : State} (x1 : Nat) (h : s.Inv) : (s.imageReject x1).Inv := by
  unfold State.imageReject
  repeat' (first
    | with_reducible assumption
    | with_reducible apply State.imgAwait_inv
    | with_reducible apply State.logEvent_inv
    | with_reducible apply State.pageEvent_inv
    | (refine inv_mk rfl ?_ rfl rfl rfl rfl rfl rfl rfl rfl rfl rfl rfl rfl rfl rfl rfl rfl))

theorem State.takeLane_inv {s : State} (x1 : Fin 8) (x2 : LaneReq) (h : s.Inv) : (s.takeLane x1 x2).Inv := by
  unfold State.takeLane
  try dsimp only
  repeat' (first
    | with_reducible assumption
    | split
    | with_reducible apply State.admitLane_inv
    | with_reducible apply State.ingress_inv
    | (refine inv_mk rfl ?_ rfl rfl rfl rfl rfl rfl rfl rfl rfl rfl rfl rfl rfl rfl rfl rfl))

theorem State.submissionStep_inv {s : State} (h : s.Inv) : s.submissionStep.Inv := by
  unfold State.submissionStep
  repeat' (first
    | split
    | with_reducible apply State.judgeSubmission_inv
    | with_reducible apply State.submitGo_inv
    | assumption)

theorem State.dormancy_inv {s : State} (x1 : Nat) (x2 : RegEntry) (h : s.Inv) : (s.dormancy x1 x2).Inv := by
  unfold State.dormancy
  repeat' (first
    | split
    | extract_lets
    | with_reducible apply State.logEvent_inv
    | with_reducible apply State.pageEvent_inv
    | assumption)

theorem State.mergeRows_inv {s : State} (x1 : Chain) (x2 : List Rec) (x3 : List Rec) (h : s.Inv) : (s.mergeRows x1 x2
    x3).1.Inv := by
  unfold State.mergeRows
  repeat' (first
    | split
    | with_reducible apply State.boundLost_inv
    | with_reducible apply State.mergeUse_inv
    | (with_reducible apply foldl_inv1)
    | (intro _)
    | assumption)

theorem State.mergeRows_inv' {s : State} {x1 : Chain} {x2 : List Rec} {x3 : List Rec} (h : s.Inv) {p : _} {t : State} (e : (s.mergeRows x1 x2 x3) = (t, p)) : t.Inv := by
  have h2 := State.mergeRows_inv x1 x2 x3 h
  rw [e] at h2
  exact h2

theorem State.nodeMerge_inv {s : State} (x1 : Chain) (x2 : List HeldMsg) (h : s.Inv) : (s.nodeMerge x1 x2).Inv := by
  unfold State.nodeMerge
  extract_lets n data recs tiles own
  clear_value recs tiles own
  have hm : ∀ {t : State} xs ys, t.Inv → (t.mergeRows x1 xs ys).1.Inv := fun xs ys ht => State.mergeRows_inv _ _ _ ht
  split
  rename_i s1 b tb heq
  have h1 : s1.Inv := by
    split at heq
    · have e := congrArg Prod.fst heq
      dsimp only at e
      exact e ▸ hm _ _ h
    · have e := congrArg Prod.fst heq
      dsimp only at e
      exact e ▸ h
    · have e := congrArg Prod.fst heq
      dsimp only at e
      exact e ▸ h
  split
  rename_i s2 out heq2
  have h2 : s2.Inv := State.mergeRows_inv' h1 heq2
  refine foldl_inv (fun t a ht => State.releaseHeld_inv _ ht) _ (State.modChain_inv _ _ ?_)
  split
  · exact State.chainWrite_inv _ _ h2
  · exact h2

theorem State.imgCmdDone_inv {s : State} (h : s.Inv) : s.imgCmdDone.Inv := by
  unfold State.imgCmdDone
  repeat' (first
    | split
    | with_reducible apply State.imgReport_inv
    | assumption)

theorem State.recallAnswer_inv {s : State} (x1 : CreditPath) (x2 : Word) (h : s.Inv) : (s.recallAnswer x1 x2).Inv := by
  unfold State.recallAnswer
  repeat' (first
    | split
    | extract_lets
    | with_reducible apply State.badCredit_inv
    | assumption)

theorem State.nodeGo_inv (x0 : Nat) {s : State} (x2 : Nat) (h : s.Inv) : (State.nodeGo x0 s x2).Inv := by
  induction x0 generalizing s with
  | zero => exact h
  | succ n ih =>
    rw [State.nodeGo]
    split
    · exact h
    · split
      · exact h
      · split
        · exact State.nodeDone_inv _ h
        · split
          · exact h
          · split
            · exact ih (State.nodeMerge_inv _ _ h)
            · split
              · exact h
              · dsimp only
                split
                · exact State.failChain_inv _ _ h
                · exact State.issueRead_inv _ _ h

theorem State.treeNode_inv {s : State} (x1 : Nat) (h : s.Inv) : (s.treeNode x1).Inv := by
  unfold State.treeNode
  repeat' (first
    | split
    | with_reducible apply State.nodeGo_inv
    | assumption)

theorem State.lifeEffect_inv {s : State} (x1 : Nat) (h : s.Inv) : (s.lifeEffect x1).1.Inv := by
  unfold State.lifeEffect
  repeat' (first
    | split
    | assumption)

theorem State.returnP3_inv {s : State} (x1 : Header) (x2 : Bool) (h : s.Inv) : (s.returnP3 x1 x2).Inv := by
  unfold State.returnP3
  repeat' (first
    | split
    | with_reducible apply State.returnCredit_inv
    | assumption)

theorem State.readFails_inv {s : State} (x1 : ReadJob) (x2 : Nat) (h : s.Inv) : (s.readFails x1 x2).Inv := by
  unfold State.readFails
  repeat' (first
    | split
    | extract_lets
    | with_reducible apply State.answerQueries_inv
    | with_reducible apply State.applyFail_inv
    | with_reducible apply State.ctxFail_inv
    | with_reducible apply State.descriptorData_inv
    | with_reducible apply State.failChain_inv
    | with_reducible apply State.failChains_inv
    | with_reducible apply State.fragUnreadable_inv
    | with_reducible apply State.imgFail_inv
    | with_reducible apply State.judgeCold_inv
    | with_reducible apply State.loadData_inv
    | with_reducible apply State.pumpCtx_inv
    | with_reducible apply State.tenFail_inv
    | with_reducible apply State.unitErr_inv
    | (intro _)
    | assumption)

theorem State.readAnswer_inv {s : State} (x1 : Nat) (x2 : Option (List Byte)) (h : s.Inv) : (s.readAnswer x1 x2).Inv
    := by
  unfold State.readAnswer
  have hi := (idsOk_iff _ _ _).1 h.ids
  split
  · exact h
  · rename_i j hj
    have hj := hi.1 j (List.mem_of_find?_eq_some hj)
    split
    · exact h
    · split
      · exact h
      · dsimp only
        have hr : ∀ o ∈ j.out.filter (fun q => q.1 != x1), o.1 < s.p0.nextId := fun o ho => hj o (List.mem_filter.1 ho).1
        have hk : ∀ l, ∀ r, ReadJob.kill l { j with out := j.out.filter (fun q => q.1 != x1) } = some r →
            ∀ o ∈ r.out, o.1 < s.p0.nextId := fun l r e o ho => hr o (kill_out e o ho)
        split
        · split
          · exact State.settle_inv (State.captureSpad_inv _ (State.putJob_inv _ _ (hk _) h))
          · exact State.settle_inv (State.readFails_inv _ _ (State.captureSpad_inv _ (State.putJob_inv _ _ (hk _) h)))
        · split
          · exact h
          · split
            · exact State.settle_inv (State.putJob_inv _ _ (hk _) h)
            · split
              · exact State.settle_inv (State.readData_inv _ _ (State.putJob_inv _ _ (fun r e => by cases e) h))
              · exact State.putJob_inv _ _ (fun r e o ho => by cases e; exact hr o ho) h

theorem State.tblCmdDone_inv {s : State} (h : s.Inv) : s.tblCmdDone.Inv := by
  unfold State.tblCmdDone
  have hb := fun b => bank_of (t := s.tbl) b h.banks
  split
  · split
    · dsimp only
      refine State.tblReport_inv _ _ _ _ ?_
      split
      · exact tbl_inv h (setBank_banks (t := { s.tbl with cmd := none }) _ h.banks (hb _))
      · exact h
    · exact h
  · exact h

theorem State.closeWindow_inv {s : State} (x1 : Nat) (h : s.Inv) : (s.closeWindow x1).Inv := by
  unfold State.closeWindow
  repeat' (first
    | split
    | extract_lets
    | with_reducible apply State.dormancy_inv
    | with_reducible apply State.dropWindow_inv
    | with_reducible apply State.keepT_inv
    | with_reducible apply State.keepTs_inv
    | with_reducible apply State.logEvent_inv
    | exact State.needEntry_inv' (by assumption) (by assumption)
    | with_reducible apply State.recordEntry_inv
    | with_reducible apply State.setEntry_inv
    | assumption)

theorem State.applyConfig_inv {s : State} (h : s.Inv) : s.applyConfig.Inv := by
  unfold State.applyConfig
  dsimp only
  refine ⟨h.headers, h.counters, h.queue, ⟨h.sizes.1, by simpa using h.sizes.2.1, ?_⟩, h.mode, h.clock, h.ids, h.banks⟩
  dsimp only
  split
  · simpa using h.sizes.2.2
  · exact h.sizes.2.2

theorem State.resume_inv {s : State} (h : s.Inv) : s.resume.Inv := by
  unfold State.resume
  repeat' (first
    | with_reducible assumption
    | split
    | with_reducible apply State.ageChecks_inv
    | with_reducible apply State.applyConfig_inv
    | with_reducible apply State.freezeAt_inv
    | with_reducible apply State.judgeAll_inv
    | with_reducible apply State.logEvent_inv
    | with_reducible apply State.pageEvent_inv
    | with_reducible apply State.scheduleToken_inv
    | with_reducible apply State.takeTokens_inv
    | (refine inv_mk rfl ?_ rfl rfl rfl rfl rfl rfl rfl rfl rfl rfl rfl rfl rfl rfl rfl rfl))

theorem State.envStep_inv {s : State} (h : s.Inv) : s.envStep.Inv := h

theorem State.fcPasses_inv {s : State} (h : s.Inv) : s.fcPasses.Inv := by
  unfold State.fcPasses
  repeat' (first
    | with_reducible assumption
    | split
    | with_reducible apply State.activeChange_inv
    | with_reducible apply State.count_inv
    | with_reducible apply State.serveShadow_inv
    | (refine inv_mk rfl ?_ rfl rfl rfl rfl rfl rfl rfl rfl rfl rfl rfl rfl rfl rfl rfl rfl))

theorem State.second_inv {s : State} (x1 : Option Nat) (x2 : Int) (h : s.Inv) : (s.second x1 x2).Inv := h

theorem State.selfTest_inv {s : State} (h : s.Inv) : s.selfTest.Inv := by
  unfold State.selfTest
  try dsimp only
  repeat' (first
    | with_reducible assumption
    | split
    | with_reducible apply State.logEvent_inv
    | (refine inv_mk rfl ?_ rfl rfl rfl rfl rfl rfl rfl rfl rfl rfl rfl rfl rfl rfl rfl rfl))

theorem State.guardEntry_inv {s : State} (x1 : Nat) (h : s.Inv) : (s.guardEntry x1).Inv := by
  unfold State.guardEntry
  repeat' (first
    | split
    | extract_lets
    | with_reducible apply State.logEvent_inv
    | with_reducible apply State.pageEvent_inv
    | assumption)

theorem State.imageChecks_inv {s : State} (h : s.Inv) : s.imageChecks.Inv := by
  unfold State.imageChecks
  repeat' (first
    | split
    | with_reducible apply State.imageReject_inv
    | with_reducible apply State.issueRead_inv
    | assumption)

theorem State.lifeDone_inv {s : State} (h : s.Inv) : s.lifeDone.Inv := by
  unfold State.lifeDone
  try dsimp only
  repeat' (first
    | with_reducible assumption
    | split
    | with_reducible apply State.lifeEffect_inv
    | with_reducible apply State.logEvent_inv
    | with_reducible apply State.pageEvent_inv
    | (refine inv_mk rfl ?_ rfl rfl rfl rfl rfl rfl rfl rfl rfl rfl rfl rfl rfl rfl rfl rfl))

theorem State.guardRelease_inv {s : State} (x1 : Nat) (h : s.Inv) : (s.guardRelease x1).Inv := by
  unfold State.guardRelease
  repeat' (first
    | split
    | assumption)

theorem State.openPending_inv {s : State} (x1 : Nat) (x2 : Word) (x3 : BitVec 16) (x4 : Word) (x5 : List Nat) (x6 :
    List Chain) (h : s.Inv) : (s.openPending x1 x2 x3 x4 x5 x6).Inv := by
  unfold State.openPending
  repeat' (first
    | split
    | extract_lets
    | with_reducible apply State.logOverlap_inv
    | with_reducible apply State.needEntry_inv
    | (with_reducible apply foldl_inv)
    | (intro _)
    | assumption)

theorem State.admitChain_inv {s : State} (x1 : Chain) (h : s.Inv) : (s.admitChain x1).Inv := by
  unfold State.admitChain
  repeat' (first
    | split
    | with_reducible apply State.logRefusal_inv
    | with_reducible apply State.modChain_inv
    | with_reducible apply State.openPending_inv
    | with_reducible apply State.wantTables_inv
    | assumption)

theorem State.endReset_inv {s : State} (h : s.Inv) : s.endReset.Inv := by
  unfold State.endReset
  split
  · have hc : ({ s with inReset := false, fc := 0, pwr := { s.pwr with entering := .none, st := .ready } } : State).Inv :=
      ⟨h.headers, h.counters, h.queue, h.sizes, by simp [modeOk], h.clock, h.ids, h.banks⟩
    have hd : ({ s with inReset := false, fc := 0, pwr := { s.pwr with entering := .none, st := .dormant } } : State).Inv :=
      ⟨h.headers, h.counters, h.queue, h.sizes, by simp [modeOk], h.clock, h.ids, h.banks⟩
    dsimp only
    split
    · exact State.creditInit_inv (State.setPwr_inv _ hc)
    · exact State.startHeldWake_inv (State.setPwr_inv _ hd)
  · exact h

theorem State.forecastSlot_inv {s : State} (x : Bool) (h : s.Inv) : (s.forecastSlot x).Inv := by
  unfold State.forecastSlot
  repeat' (first
    | split
    | extract_lets
    | assumption)

theorem State.grantExpires_inv {s : State} (h : s.Inv) : s.grantExpires.Inv := by
  unfold State.grantExpires
  repeat' (first
    | split
    | with_reducible apply State.setGrant_inv
    | assumption)

theorem State.writeAnswer_inv {s : State} (x1 : Nat) (x2 : Bool) (h : s.Inv) : (s.writeAnswer x1 x2).Inv := by
  unfold State.writeAnswer
  have hi := (idsOk_iff _ _ _).1 h.ids
  split
  · exact h
  · dsimp only
    have ho : ({ s with p0 := { s.p0 with writes := s.p0.writes.filter (fun q => q.id != x1) } } : State).Inv :=
      p0_inv h ((idsOk_iff _ _ _).2 ⟨hi.1, fun w hw => hi.2 w (List.mem_filter.1 hw).1⟩)
    have hs := State.sendHeld_inv ho
    split
    · exact State.settle_inv (State.writeFails_inv _ (State.captureSpad_inv _ hs))
    · exact State.settle_inv (State.writeDone_inv _ hs)

theorem State.holdEnds_inv {s : State} (h : s.Inv) : s.holdEnds.Inv := h

theorem State.sorusRefetch_inv {s : State} (x1 : Nat) (h : s.Inv) : (s.sorusRefetch x1).Inv := by
  unfold State.sorusRefetch
  split
  · exact h
  · dsimp only
    split
    · exact h
    · exact chn_inv (State.refetchAll_inv _ _ _ h) (State.refetchAll_inv _ _ _ h).sizes.1 (State.refetchAll_inv _ _ _ h).sizes.2.1

theorem State.strapLevel_inv {s : State} (x1 : Bool) (h : s.Inv) : (s.strapLevel x1).Inv := h

theorem State.loadCal_inv {s : State} (x1 : BitVec 9) (x2 : List (BitVec 10)) (x3 : List (BitVec 16)) (x4 : List
    (BitVec 16)) (h : s.Inv) : (s.loadCal x1 x2 x3 x4).Inv := by
  unfold State.loadCal
  repeat' (first
    | with_reducible apply State.startHeldWake_inv
    | assumption)

theorem State.exportBegin_inv {s : State} (h : s.Inv) : s.exportBegin.Inv := by
  unfold State.exportBegin
  repeat' (first
    | split
    | (with_reducible apply foldl_inv1)
    | assumption)

theorem State.fragBell_inv {s : State} (x1 : Nat) (h : s.Inv) : (s.fragBell x1).Inv := by
  unfold State.fragBell
  repeat' (first
    | with_reducible apply State.intake_inv
    | assumption)

theorem State.enterResting_inv {s : State} (h : s.Inv) : s.enterResting.Inv := by
  unfold State.enterResting
  split
  · exact State.setPwr_inv _ ⟨h.headers, h.counters, h.queue, h.sizes, by simp [modeOk], h.clock, h.ids, h.banks⟩
  · exact h

theorem State.takeP3_inv {s : State} (x1 : PortMsg) (x2 : State → Bool → State) (h : s.Inv) (H2 : ∀ (t : State) a0,
    t.Inv → (x2 t a0).Inv) : (s.takeP3 x1 x2).Inv := by
  unfold State.takeP3
  dsimp only
  have hi := State.ingress_inv x1 h
  repeat' (first | exact h | exact hi | exact H2 _ _ (State.popP3_inv h) | exact H2 _ _ (State.popP3_inv hi) | split)

theorem State.beginRecall_inv {s : State} (h : s.Inv) : s.beginRecall.Inv := h

theorem State.formEta_inv {s : State} (x1 : Nat) (h : s.Inv) : (s.formEta x1).Inv := by
  unfold State.formEta
  try dsimp only
  repeat' (first
    | with_reducible assumption
    | split
    | with_reducible apply State.applyPhi_inv
    | with_reducible apply State.etaReady_inv
    | with_reducible apply State.logEvent_inv
    | with_reducible apply State.maybeCheck_inv
    | with_reducible apply State.modGroup_inv
    | with_reducible apply State.pageEvent_inv)

theorem State.secondCheck_inv {s : State} (h : s.Inv) : s.secondCheck.Inv := by
  unfold State.secondCheck
  split
  · rename_i hst hen
    split
    · exact h
    · split
      · exact State.writeBacks_inv h
      · split
        · exact State.abandonEntry_inv (State.refuseDormant_inv h)
        · refine State.beginRecall_inv ⟨h.headers, h.counters, h.queue, h.sizes, ?_, h.clock, h.ids, h.banks⟩
          have hm := h.mode
          rw [hst] at hm
          show modeOk _ s.pwr.st _ = true
          rw [hst]
          simp [modeOk]
  · exact h

theorem State.takeBell_inv {s : State} (x1 : Header) (h : s.Inv) : (s.takeBell x1).Inv := by
  unfold State.takeBell
  try dsimp only
  repeat' (first
    | with_reducible assumption
    | split
    | with_reducible apply State.acceptBell_inv
    | with_reducible apply State.admitChain_inv
    | with_reducible apply State.dropBell_inv
    | with_reducible apply State.issueWords_inv)

end Sys2Proof.Machine
end

