-- ==== Sys2Proof/Laws/KeepBase.lean ====
section
/-! SUPPORT. What the proofs that an operation keeps the settings share: folds, and updates of what holds no setting. -/
namespace Sys2Proof.Machine

theorem foldl_keeps {c : Settings} {α : Type} {f : State → α → State} (hf : ∀ s a, s.Keeps c → (f s a).Keeps c) (l : List α)
    {s : State} (h : s.Keeps c) : (l.foldl f s).Keeps c := by
  induction l generalizing s with
  | nil => exact h
  | cons a l ih => exact ih (hf s a h)

theorem foldl_keeps1 {c : Settings} {α β : Type} {f : State × β → α → State × β} (hf : ∀ p a, p.1.Keeps c → (f p a).1.Keeps c)
    (l : List α) {p : State × β} (h : p.1.Keeps c) : (l.foldl f p).1.Keeps c := by
  induction l generalizing p with
  | nil => exact h
  | cons a l ih => exact ih (hf p a h)

theorem foldl_keeps1' {c : Settings} {α β : Type} {f : State × β → α → State × β} {l : List α} {p : State × β} {t : State}
    {b : β} (e : l.foldl f p = (t, b)) (hf : ∀ p a, p.1.Keeps c → (f p a).1.Keeps c) (h : p.1.Keeps c) : t.Keeps c := by
  have h1 := foldl_keeps1 hf l h
  rw [e] at h1
  exact h1

theorem State.Keeps.state_eq {c : Settings} {s t : State} (h : s.Keeps c) (e : s = t) : t.Keeps c := e ▸ h

/-- A header that keeps LOCK, PG_EVENT_EN and PG_SEQ. -/
theorem setHdr_settings {c : Settings} {s : State} (p : Page) (x : PageHdr)
    (hx : (x.lock, x.eventEn, x.seq) = ((s.hdr p).lock, (s.hdr p).eventEn, (s.hdr p).seq)) (h : s.Keeps c) :
    (s.setHdr p x).Keeps c := by
  have e : (s.hdrs.set p.bit x).map (fun h => (h.lock, h.eventEn, h.seq)) = s.hdrs.map (fun h => (h.lock, h.eventEn, h.seq)) := by
    apply List.ext_getElem?
    intro i
    simp only [List.getElem?_map, List.getElem?_set]
    split
    · rename_i hi
      subst hi
      split
      · rename_i hl
        simp only [List.getElem?_eq_getElem hl, Option.map_some, hx, State.hdr, List.getD_eq_getElem?_getD, Option.getD_some]
      · rename_i hl
        simp [List.getElem?_eq_none (Nat.le_of_not_lt hl)]
    · rfl
  have h2 : s.settings = c := h
  show (s.setHdr p x).settings = c
  rw [← h2]
  simp only [State.settings, State.setHdr, e]

/-- A group that keeps its registers. -/
theorem groups_settings {l l' : List SchGroup} (f : Nat → SchGroup → SchGroup) (hf : ∀ i g, (f i g).settings = g.settings)
    (hl : l' = l.zipIdx.map (fun p => f p.2 p.1)) : l'.map SchGroup.settings = l.map SchGroup.settings := by
  subst hl
  rw [List.map_map]
  have : (SchGroup.settings ∘ fun p : SchGroup × Nat => f p.2 p.1) = fun p => p.1.settings := by
    funext p
    exact hf _ _
  rw [this]
  rw [show (fun p : SchGroup × Nat => p.1.settings) = SchGroup.settings ∘ Prod.fst from rfl, ← List.map_map, List.zipIdx_map_fst]

/-- An update of the schedule engine that keeps its settings. -/
theorem sch_keeps {c : Settings} {s : State} {u : SchUnit} (h : s.Keeps c)
    (h1 : (u.gen, u.scope, u.forceEta, u.groups.map SchGroup.settings)
      = (s.sch.gen, s.sch.scope, s.sch.forceEta, s.sch.groups.map SchGroup.settings)) : ({ s with sch := u } : State).Keeps c := by
  have h2 : s.settings = c := h
  show ({ s with sch := u } : State).settings = c
  rw [← h2]
  simp only [State.settings, h1]

/-- An update of what holds no setting. -/
theorem keep_mk {c : Settings} {x : State} {variant' inst' strap' gen3' step' stepSeen' inReset' resetCause' fc' hdrs' pairs' pwr' env'
    life' cal' port' tbl' sen' chn' ctx' tree' num' log' sch' img' cnt' dbg' p0' powerOns' choices' out' pending'}
    (_ : pending' = x.pending) (hx : x.Keeps c)
    (e : (State.mk variant' inst' strap' gen3' step' stepSeen' inReset' resetCause' fc' hdrs' pairs' pwr' env' life' cal' port'
      tbl' sen' chn' ctx' tree' num' log' sch' img' cnt' dbg' p0' powerOns' choices' out' pending').settings = x.settings) :
    (State.mk variant' inst' strap' gen3' step' stepSeen' inReset' resetCause' fc' hdrs' pairs' pwr' env' life' cal' port' tbl'
      sen' chn' ctx' tree' num' log' sch' img' cnt' dbg' p0' powerOns' choices' out' pending').Keeps c :=
  e.trans hx

/-- Replacing a bank. -/
theorem setBank_keeps {c : Settings} {s : State} {t : TblUnit} (b : Bool) (k : Bank) (h : ({ s with tbl := t } : State).Keeps c) :
    ({ s with tbl := t.setBank b k } : State).Keeps c := by
  cases b <;> exact h

/-- An update of the numerics unit that keeps its settings. -/
theorem num_keeps {c : Settings} {s : State} {u : NumUnit} (h : s.Keeps c)
    (e : (u.widenSat, u.widenUfl, u.base, u.cmdCount, u.kmask, u.dormN)
      = (s.num.widenSat, s.num.widenUfl, s.num.base, s.num.cmdCount, s.num.kmask, s.num.dormN)) :
    ({ s with num := u } : State).Keeps c := by
  have h2 : s.settings = c := h
  show ({ s with num := u } : State).settings = c
  rw [← h2]
  simp only [State.settings, e]

/-- An update of the sentinel that keeps its settings. -/
theorem sen_keeps {c : Settings} {s : State} {u : SenUnit} (h : s.Keeps c) (e : (u.en, u.rate) = (s.sen.en, s.sen.rate)) :
    ({ s with sen := u } : State).Keeps c := by
  have h2 : s.settings = c := h
  show ({ s with sen := u } : State).settings = c
  rw [← h2]
  simp only [State.settings, e]

end Sys2Proof.Machine
end

