-- ==== Sys2Proof/Laws/Keep1.lean ====
section
/-! SUPPORT. Every operation of the units keeps the settings, part 1 of 6: the operations in the order in which they
use one another. -/
namespace Sys2Proof.Machine

set_option linter.unusedTactic false
set_option linter.unreachableTactic false
set_option linter.unusedVariables false

theorem State.count_keeps {c : Settings} {s : State} (x1 : Nat) (x2 : Nat) (h : s.Keeps c) : (s.count x1 x2).Keeps c
    := by
  unfold State.count
  repeat' (first
    | split
    | assumption)

theorem State.laneRound_keeps {c : Settings} {s : State} (x1 : Header) (x2 : Word) (h : s.Keeps c) : (s.laneRound x1
    x2).1.Keeps c := by
  unfold State.laneRound
  repeat' (first
    | with_reducible apply State.count_keeps
    | assumption)

theorem State.modLane_keeps {c : Settings} {s : State} (x1 : Nat) (x2 : LaneWork → LaneWork) (h : s.Keeps c) :
    (s.modLane x1 x2).Keeps c := h

theorem State.laneFinish_keeps {c : Settings} {s : State} (x1 : Nat) (h : s.Keeps c) : (s.laneFinish x1).Keeps c := by
  unfold State.laneFinish
  generalize List.range 128 = ks
  split
  · exact h
  · split
    · exact h
    · refine State.modLane_keeps _ _ (foldl_keeps1 (fun p a hp => ?_) _ h)
      split
      · exact State.laneRound_keeps _ _ hp
      · exact hp

theorem State.laneRefused_keeps {c : Settings} {s : State} (x1 : Nat) (x2 : Nat) (h : s.Keeps c) : (s.laneRefused x1
    x2).Keeps c := by
  unfold State.laneRefused
  repeat' (first
    | with_reducible apply State.count_keeps
    | with_reducible apply State.modLane_keeps
    | assumption)

theorem State.setHdr_keeps {c : Settings} {s : State} (x1 : Page) (x2 : PageHdr) (hl : (x2.lock, x2.eventEn, x2.seq) =
    ((s.hdr x1).lock, (s.hdr x1).eventEn, (s.hdr x1).seq)) (h : s.Keeps c) : (s.setHdr x1 x2).Keeps c :=
  setHdr_settings x1 x2 hl h

theorem State.pageEvent_keeps {c : Settings} {s : State} (x1 : Page) (x2 : Nat) (h : s.Keeps c) : (s.pageEvent x1
    x2).Keeps c := by
  unfold State.pageEvent
  repeat' (first
    | with_reducible assumption
    | dsimp only
    | with_reducible apply State.setHdr_keeps)

theorem State.loseRecord_keeps {c : Settings} {s : State} (h : s.Keeps c) : s.loseRecord.Keeps c := by
  unfold State.loseRecord
  repeat' (first
    | with_reducible apply State.pageEvent_keeps
    | assumption)

theorem State.send_keeps {c : Settings} {s : State} (x1 : OutMsg) (h : s.Keeps c) : (s.send x1).Keeps c := h

theorem State.spend_keeps {c : Settings} {s : State} (x1 : Nat) (x2 : Nat) (h : s.Keeps c) : (s.spend x1 x2).Keeps c
    := h

theorem State.issueWrite_keeps {c : Settings} {s : State} (x1 : WriteTag) (x2 : List (Prod Nat Byte)) (h : s.Keeps c)
    : (s.issueWrite x1 x2).Keeps c := h

theorem LogUnit.next_settings {l l' : LogUnit} {ready : Bool} {e : Event} (h : l.next ready = some (e, l')) :
    (l'.en, l'.base, l'.size, l'.rd, l'.water, l'.mask) = (l.en, l.base, l.size, l.rd, l.water, l.mask) := by
  unfold LogUnit.next at h
  split at h
  · cases h
    rfl
  · split at h <;> cases h
    rfl

theorem State.pumpLogGo_keeps {c : Settings} (x0 : Nat) {s : State} (h : s.Keeps c) : (State.pumpLogGo x0 s).Keeps c
    := by
  induction x0 generalizing s with
  | zero => exact h
  | succ n ih =>
    rw [State.pumpLogGo]
    split
    · exact h
    · split
      · exact h
      · rename_i e l hn
        have hl : ({ s with log := l } : State).Keeps c := by
          have h2 : s.settings = c := h
          refine (?_ : State.settings _ = _)
          rw [← h2]
          simp only [State.settings, LogUnit.next_settings hn]
        dsimp only
        split
        · exact ih hl
        · split
          · exact ih (State.loseRecord_keeps hl)
          · exact State.issueWrite_keeps _ _ hl

theorem State.pumpLog_keeps {c : Settings} {s : State} (h : s.Keeps c) : s.pumpLog.Keeps c := by
  unfold State.pumpLog
  repeat' (first
    | with_reducible apply State.pumpLogGo_keeps
    | assumption)

theorem State.logEvent_keeps {c : Settings} {s : State} (x1 : Nat) (x2 : Page) (x3 : Word) (x4 : Word) (x5 : Word) (x6
    : Word) (x7 : optParam (BitVec 16) 0) (h : s.Keeps c) : (s.logEvent x1 x2 x3 x4 x5 x6 x7).Keeps c := by
  unfold State.logEvent
  try dsimp only
  repeat' (first
    | with_reducible assumption
    | split
    | with_reducible apply State.count_keeps
    | with_reducible apply State.flushHeld_keeps
    | with_reducible apply State.loseRecord_keeps
    | with_reducible apply State.pumpLog_keeps
    | (refine keep_mk rfl ?_ rfl))

theorem State.fetchGo_keeps {c : Settings} {s : State} (x1 : LaneWork) (h : s.Keeps c) : (s.fetchGo x1).Keeps c := by
  unfold State.fetchGo
  repeat' (first
    | split
    | with_reducible apply State.logEvent_keeps
    | with_reducible apply State.modLane_keeps
    | assumption)

theorem State.returnCredit_keeps {c : Settings} {s : State} (x1 : Nat) (x2 : Nat) (x3 : Nat) (h : s.Keeps c) :
    (s.returnCredit x1 x2 x3).Keeps c := by
  unfold State.returnCredit
  repeat' (first
    | split
    | assumption)

theorem State.laneReturns_keeps {c : Settings} (x0 : Nat) {s : State} (h : s.Keeps c) : (State.laneReturns x0 s).Keeps
    c := by
  induction x0 generalizing s with
  | zero => exact h
  | succ n ih =>
    rw [State.laneReturns]
    split
    · exact h
    · exact ih (State.returnCredit_keeps _ _ _ (State.send_keeps _ h))

theorem State.lanesGo_keeps {c : Settings} {s : State} (h : s.Keeps c) : s.lanesGo.Keeps c := by
  unfold State.lanesGo
  repeat' (first
    | with_reducible apply State.fetchGo_keeps
    | with_reducible apply State.laneReturns_keeps
    | (with_reducible apply foldl_keeps)
    | assumption)

theorem State.pushLane_keeps {c : Settings} {s : State} (x1 : LaneWork) (h : s.Keeps c) : (s.pushLane x1).Keeps c := by
  unfold State.pushLane
  repeat' (first
    | with_reducible apply State.count_keeps
    | with_reducible apply State.spend_keeps
    | assumption)

theorem State.evictFor_keeps {c : Settings} (x0 : Nat) (x1 : Nat) {s : State} (h : s.Keeps c) : (State.evictFor x0 x1
    s).Keeps c := by
  induction x0 generalizing s with
  | zero => exact h
  | succ n ih =>
    rw [State.evictFor]
    split
    · exact h
    · split
      · exact h
      · exact ih h

theorem State.startFill_keeps {c : Settings} {s : State} (h : s.Keeps c) : s.startFill.Keeps c := by
  unfold State.startFill
  try dsimp only
  repeat' (first
    | with_reducible assumption
    | split
    | with_reducible apply State.evictFor_keeps
    | (refine keep_mk rfl ?_ rfl))

theorem State.wantTables_keeps {c : Settings} {s : State} (x1 : List TableKey) (h : s.Keeps c) : (s.wantTables
    x1).Keeps c := by
  unfold State.wantTables
  repeat' (first
    | with_reducible apply State.startFill_keeps
    | assumption)

theorem State.admitEval_keeps {c : Settings} {s : State} (x1 : Fin 8) (x2 : LaneReq) (h : s.Keeps c) : (s.admitEval x1
    x2).Keeps c := by
  unfold State.admitEval
  try dsimp only
  repeat' (first
    | with_reducible assumption
    | split
    | dsimp only
    | with_reducible apply State.count_keeps
    | with_reducible apply State.laneFinish_keeps
    | with_reducible apply State.laneRefused_keeps
    | with_reducible apply State.lanesGo_keeps
    | with_reducible apply State.logEvent_keeps
    | with_reducible apply State.modLane_keeps
    | with_reducible apply State.pushLane_keeps
    | with_reducible apply State.wantTables_keeps
    | (refine keep_mk rfl ?_ rfl)
    | (with_reducible apply foldl_keeps)
    | (with_reducible apply foldl_keeps1)
    | (intro _)
    | assumption)

theorem State.recordFault_keeps {c : Settings} {s : State} (x1 : Page) (x2 : Cause) (x3 : Requester) (x4 : BitVec 18)
    (h : s.Keeps c) : (s.recordFault x1 x2 x3 x4).Keeps c := by
  unfold State.recordFault
  try dsimp only
  repeat' (first
    | with_reducible assumption
    | split
    | dsimp only
    | with_reducible apply State.setHdr_keeps
    | (refine keep_mk rfl ?_ rfl)
    | (with_reducible apply foldl_keeps)
    | (with_reducible apply foldl_keeps1)
    | (intro _)
    | assumption)

theorem State.regFault_keeps {c : Settings} {s : State} (x1 : Page) (x2 : Cause) (x3 : Requester) (x4 : Nat) (h :
    s.Keeps c) : (s.regFault x1 x2 x3 x4).Keeps c := by
  unfold State.regFault
  repeat' (first
    | with_reducible assumption
    | split
    | extract_lets
    | with_reducible apply State.recordFault_keeps
    | (with_reducible apply foldl_keeps)
    | (with_reducible apply foldl_keeps1)
    | (intro _)
    | assumption)

theorem State.noteCommand_keeps {c : Settings} {s : State} (x1 : Requester) (x2 : Page) (x3 : Nat) (x4 : Option Cause)
    (h : s.Keeps c) : (s.noteCommand x1 x2 x3 x4).Keeps c := by
  unfold State.noteCommand
  repeat' (first
    | split
    | with_reducible apply State.regFault_keeps
    | assumption)

theorem State.leaveFirst_keeps {c : Settings} {s : State} (x1 : Nat) (h : s.Keeps c) : (s.leaveFirst x1).Keeps c :=
  h

theorem State.pumpTreeGo_keeps {c : Settings} (x0 : Nat) {s : State} (x2 : List (Prod (Prod Nat (Prod Nat Nat))
    OutMsg)) (h : s.Keeps c) : (State.pumpTreeGo x0 s x2).Keeps c := by
  induction x0 generalizing s x2 with
  | zero => exact h
  | succ n ih =>
    cases x2 with
    | nil => exact h
    | cons m r =>
      rw [State.pumpTreeGo]
      split
      · exact ih _ (State.send_keeps _ h)
      · have hi := ih r h
        generalize s.pumpTreeGo n r = t at hi
        exact hi

theorem State.pumpTree_keeps {c : Settings} {s : State} (h : s.Keeps c) : s.pumpTree.Keeps c := by
  unfold State.pumpTree
  repeat' (first
    | with_reducible assumption
    | split
    | extract_lets
    | with_reducible apply State.pumpTreeGo_keeps
    | (with_reducible apply foldl_keeps)
    | (with_reducible apply foldl_keeps1)
    | (intro _)
    | assumption)

theorem State.sendTree_keeps {c : Settings} {s : State} (x1 : Nat) (x2 : Nat) (x3 : Option Nat) (x4 : Option Nat) (x5
    : TreeMsg) (h : s.Keeps c) : (s.sendTree x1 x2 x3 x4 x5).Keeps c := by
  unfold State.sendTree
  repeat' (first
    | with_reducible assumption
    | split
    | extract_lets
    | with_reducible apply State.pumpTree_keeps
    | (with_reducible apply foldl_keeps)
    | (with_reducible apply foldl_keeps1)
    | (intro _)
    | assumption)

theorem State.sendUp_keeps {c : Settings} {s : State} (x1 : Nat) (x2 : Nat) (x3 : Bool → Nat → Nat → Nat → TreeMsg) (h
    : s.Keeps c) : (s.sendUp x1 x2 x3).Keeps c := by
  unfold State.sendUp
  repeat' (first
    | with_reducible assumption
    | split
    | extract_lets
    | with_reducible apply State.sendTree_keeps
    | (with_reducible apply foldl_keeps)
    | (with_reducible apply foldl_keeps1)
    | (intro _)
    | assumption)

theorem State.setGrant_keeps {c : Settings} {s : State} (x1 : Option Grant) (h : s.Keeps c) : (s.setGrant x1).Keeps c
    := by
  unfold State.setGrant
  repeat' (first
    | with_reducible assumption
    | split
    | extract_lets
    | with_reducible apply State.pageEvent_keeps
    | (with_reducible apply foldl_keeps)
    | (with_reducible apply foldl_keeps1)
    | (intro _)
    | assumption)

theorem State.applyGo_keeps {c : Settings} {s : State} (h : s.Keeps c) : s.applyGo.Keeps c := by
  unfold State.applyGo
  repeat' (first
    | with_reducible assumption
    | split
    | extract_lets
    | with_reducible apply State.issueWrite_keeps
    | (with_reducible apply foldl_keeps)
    | (with_reducible apply foldl_keeps1)
    | (intro _)
    | assumption)

theorem State.dropLines_keeps {c : Settings} {s : State} (x1 : CtxCmd) (h : s.Keeps c) : (s.dropLines x1).Keeps c :=
  h

theorem State.sendPiece_keeps {c : Settings} {s : State} (x1 : Nat) (x2 : Nat) (x3 : Nat) (h : s.Keeps c) :
    (s.sendPiece x1 x2 x3).Keeps c := by
  unfold State.sendPiece
  repeat' (first
    | split
    | assumption)

theorem State.sendReads_keeps {c : Settings} {s : State} (x1 : List (Prod Nat Nat)) (h : s.Keeps c) : (s.sendReads
    x1).1.Keeps c := by
  induction x1 generalizing s with
  | nil => exact h
  | cons p r ih =>
    obtain ⟨a, n⟩ := p
    rw [State.sendReads]
    exact ih (State.sendPiece_keeps _ _ _ h)

theorem State.sendReads_keeps' {c : Settings} {s : State} {x1 : List (Prod Nat Nat)} (h : s.Keeps c) {p : _} {t : State} (e : (s.sendReads x1) = (t, p)) : t.Keeps c := by
  have h2 := State.sendReads_keeps x1 h
  rw [e] at h2
  exact h2

theorem State.issueRead_keeps {c : Settings} {s : State} (x1 : ReadTag) (x2 : List (Prod Nat Nat)) (h : s.Keeps c) :
    (s.issueRead x1 x2).Keeps c := by
  unfold State.issueRead
  try dsimp only
  repeat' (first
    | with_reducible assumption
    | split
    | dsimp only
    | with_reducible apply State.sendReads_keeps
    | exact State.sendReads_keeps' (by assumption) (by assumption)
    | (refine keep_mk rfl ?_ rfl)
    | (with_reducible apply foldl_keeps)
    | (with_reducible apply foldl_keeps1)
    | (intro _)
    | assumption)

theorem State.modLine_keeps {c : Settings} {s : State} (x1 : Nat) (x2 : CtxLine → CtxLine) (h : s.Keeps c) :
    (s.modLine x1 x2).Keeps c := h

theorem State.setCtxCmd_keeps {c : Settings} {s : State} (x1 : CtxCmd) (h : s.Keeps c) : (s.setCtxCmd x1).Keeps c :=
  h

theorem State.closeCtx_keeps {c : Settings} {s : State} (x1 : Nat) (h : s.Keeps c) : (s.closeCtx x1).Keeps c := h

theorem State.setCtxRec_keeps {c : Settings} {s : State} (x1 : Nat) (x2 : Rec) (h : s.Keeps c) : (s.setCtxRec x1
    x2).Keeps c := h

theorem State.setCtxState_keeps {c : Settings} {s : State} (x1 : Nat) (x2 : CtxState) (h : s.Keeps c) : (s.setCtxState
    x1 x2).Keeps c := h

theorem State.openCtx_keeps {c : Settings} {s : State} (x1 : Nat) (x2 : BitVec 4) (h : s.Keeps c) : (s.openCtx x1
    x2).Keeps c := by
  unfold State.openCtx
  repeat' (first
    | with_reducible assumption
    | split
    | extract_lets
    | with_reducible apply State.setCtxRec_keeps
    | with_reducible apply State.setCtxState_keeps
    | (with_reducible apply foldl_keeps)
    | (with_reducible apply foldl_keeps1)
    | (intro _)
    | assumption)

theorem State.tileDrained_keeps {c : Settings} {s : State} (x1 : CtxCmd) (x2 : Nat) (h : s.Keeps c) : (s.tileDrained
    x1 x2).Keeps c := by
  unfold State.tileDrained
  refine foldl_keeps (fun t a ht => ?_) _ ?_
  · repeat' (first | exact ht | exact State.openCtx_keeps _ _ ht | exact State.closeCtx_keeps _ ht | split)
  · have h1 : (if x1.op = 1 then (x1.inTile x2).foldl (fun (s : State) i => s.modLine x2 (fun l =>
      { l with recs := l.recs.set (i % 128) (Rec.emptyOf x1.gen) })) s else s).Keeps c := by
      split
      · exact foldl_keeps (fun t a ht => State.modLine_keeps _ _ ht) _ h
      · exact h
    exact h1

theorem State.ctxAdvance_keeps {c : Settings} (x0 : Nat) {s : State} (h : s.Keeps c) : (State.ctxAdvance x0 s).Keeps c
    := by
  induction x0 generalizing s with
  | zero => exact h
  | succ n ih =>
    rw [State.ctxAdvance]
    repeat' (first
      | with_reducible exact h
      | with_reducible exact ih (State.setCtxCmd_keeps _ (State.tileDrained_keeps _ _ h))
      | with_reducible exact ih (State.setCtxCmd_keeps _ h)
      | with_reducible exact State.dropLines_keeps _ (State.setCtxCmd_keeps _ h)
      | with_reducible exact State.issueRead_keeps _ _ (State.setCtxCmd_keeps _ h)
      | with_reducible exact State.issueWrite_keeps _ _ (State.setCtxCmd_keeps _ (State.modLine_keeps _ _ h))
      | split)

theorem State.ctxGo_keeps {c : Settings} {s : State} (h : s.Keeps c) : s.ctxGo.Keeps c := by
  unfold State.ctxGo
  repeat' (first
    | with_reducible assumption
    | split
    | extract_lets
    | with_reducible apply State.ctxAdvance_keeps
    | (with_reducible apply foldl_keeps)
    | (with_reducible apply foldl_keeps1)
    | (intro _)
    | assumption)

theorem State.modChain_keeps {c : Settings} {s : State} (x1 : Nat) (x2 : Chain → Chain) (h : s.Keeps c) : (s.modChain
    x1 x2).Keeps c := h

theorem State.issueWord_keeps {c : Settings} {s : State} (x1 : Chain) (h : s.Keeps c) : (s.issueWord x1).Keeps c :=
  h

theorem State.issueWords_keeps {c : Settings} {s : State} (h : s.Keeps c) : s.issueWords.Keeps c := by
  unfold State.issueWords
  repeat' (first
    | with_reducible assumption
    | split
    | extract_lets
    | with_reducible apply State.issueWord_keeps
    | (with_reducible apply foldl_keeps)
    | (with_reducible apply foldl_keeps1)
    | (intro _)
    | assumption)

theorem State.finishChains_keeps {c : Settings} {s : State} (h : s.Keeps c) : s.finishChains.Keeps c := by
  unfold State.finishChains
  repeat' (first
    | with_reducible assumption
    | split
    | extract_lets
    | with_reducible apply State.issueWords_keeps
    | with_reducible apply State.modChain_keeps
    | (with_reducible apply foldl_keeps)
    | (with_reducible apply foldl_keeps1)
    | (intro _)
    | assumption)

theorem State.setImgCmd_keeps {c : Settings} {s : State} (x1 : ImgCmd) (h : s.Keeps c) : (s.setImgCmd x1).Keeps c :=
  h

theorem State.exportRead_keeps {c : Settings} {s : State} (x1 : ImgCmd) (x2 : Nat) (h : s.Keeps c) : (s.exportRead x1
    x2).Keeps c := by
  unfold State.exportRead
  repeat' (first
    | with_reducible assumption
    | split
    | extract_lets
    | with_reducible apply State.issueRead_keeps
    | with_reducible apply State.setImgCmd_keeps
    | (with_reducible apply foldl_keeps)
    | (with_reducible apply foldl_keeps1)
    | (intro _)
    | assumption)

theorem State.exportSize_keeps {c : Settings} {s : State} (x1 : ImgCmd) (h : s.Keeps c) : (s.exportSize x1).Keeps c := by
  unfold State.exportSize
  repeat' (first
    | with_reducible assumption
    | split
    | extract_lets
    | with_reducible apply State.setImgCmd_keeps
    | (with_reducible apply foldl_keeps)
    | (with_reducible apply foldl_keeps1)
    | (intro _)
    | assumption)

theorem State.exportWrite_keeps {c : Settings} {s : State} (x1 : ImgCmd) (x2 : Nat) (h : s.Keeps c) : (s.exportWrite
    x1 x2).Keeps c := h

theorem State.exportGo_keeps {c : Settings} {s : State} (x1 : ImgCmd) (h : s.Keeps c) : (s.exportGo x1).Keeps c := by
  unfold State.exportGo
  repeat' (first
    | with_reducible assumption
    | split
    | extract_lets
    | with_reducible apply State.exportRead_keeps
    | with_reducible apply State.exportSize_keeps
    | with_reducible apply State.exportWrite_keeps
    | with_reducible apply State.setImgCmd_keeps
    | (with_reducible apply foldl_keeps)
    | (with_reducible apply foldl_keeps1)
    | (intro _)
    | assumption)

theorem State.dropSkewCheck_keeps {c : Settings} {s : State} (x1 : Word) (h : s.Keeps c) : (s.dropSkewCheck x1).Keeps
    c := h

theorem State.rollbackEnd_keeps {c : Settings} {s : State} (x1 : Word) (h : s.Keeps c) : (s.rollbackEnd x1).Keeps c := by
  unfold State.rollbackEnd
  dsimp only
  split
  · refine (?_ : State.settings _ = _)
    rename_i cp _
    have h2 : s.settings = c := h
    have e : (s.sch.restore cp.groups).groups.map SchGroup.settings = s.sch.groups.map SchGroup.settings := by
      unfold SchUnit.restore
      apply List.ext_getElem?
      intro i
      simp only [List.getElem?_map, List.getElem?_zipIdx]
      cases s.sch.groups[i]? <;> rfl
    rw [← h2]
    simp only [State.settings, e]
    rfl
  · exact h

theorem State.rollbackGo_keeps {c : Settings} {s : State} (x1 : ImgCmd) (h : s.Keeps c) : (s.rollbackGo x1).Keeps c := by
  unfold State.rollbackGo
  have hf := foldl_keeps (f := fun (s : State) (l : RegLine) =>
        let s2 := s.issueWrite (.regBack l.tid) (cellsAt (s.regAddr l.tid) l.e.bytes)
        ({ s2 with num := { s2.num with evicting := s2.num.evicting ++ [l.tid] } } : State))
    (fun t a ht => by
      have hw := State.issueWrite_keeps (.regBack a.tid) (cellsAt (t.regAddr a.tid) a.e.bytes) ht
      dsimp only
      generalize t.issueWrite (.regBack a.tid) (cellsAt (t.regAddr a.tid) a.e.bytes) = u at hw
      exact hw) (s.num.lines.filter (·.dirty)) h
  split
  · split
    · exact h
    · dsimp only at hf ⊢
      generalize List.foldl _ s (s.num.lines.filter (·.dirty)) = s1 at hf ⊢
      exact State.setImgCmd_keeps _ hf
  · split
    · exact h
    · split
      · exact State.setImgCmd_keeps _ (State.rollbackEnd_keeps _ h)
      · exact State.issueRead_keeps _ _ h

theorem State.imgGo_keeps {c : Settings} {s : State} (h : s.Keeps c) : s.imgGo.Keeps c := by
  unfold State.imgGo
  repeat' (first
    | with_reducible assumption
    | split
    | extract_lets
    | with_reducible apply State.exportGo_keeps
    | with_reducible apply State.rollbackGo_keeps
    | (with_reducible apply foldl_keeps)
    | (with_reducible apply foldl_keeps1)
    | (intro _)
    | assumption)

theorem State.fragGo_keeps {c : Settings} {s : State} (h : s.Keeps c) : s.fragGo.Keeps c := by
  unfold State.fragGo
  repeat' (first
    | with_reducible assumption
    | split
    | extract_lets
    | with_reducible apply State.issueRead_keeps
    | (with_reducible apply foldl_keeps)
    | (with_reducible apply foldl_keeps1)
    | (intro _)
    | assumption)

theorem State.popFrag_keeps {c : Settings} {s : State} (h : s.Keeps c) : s.popFrag.Keeps c := h

theorem State.dropFrag_keeps {c : Settings} {s : State} (x1 : FragIn) (x2 : FragCount) (h : s.Keeps c) : (s.dropFrag
    x1 x2).Keeps c := by
  unfold State.dropFrag
  repeat' (first
    | with_reducible assumption
    | split
    | extract_lets
    | with_reducible apply State.logEvent_keeps
    | with_reducible apply State.popFrag_keeps
    | (with_reducible apply foldl_keeps)
    | (with_reducible apply foldl_keeps1)
    | (intro _)
    | assumption)

theorem State.fragUnreadable_keeps {c : Settings} {s : State} (h : s.Keeps c) : s.fragUnreadable.Keeps c := by
  unfold State.fragUnreadable
  repeat' (first
    | with_reducible assumption
    | split
    | extract_lets
    | with_reducible apply State.dropFrag_keeps
    | (with_reducible apply foldl_keeps)
    | (with_reducible apply foldl_keeps1)
    | (intro _)
    | assumption)

theorem State.intake_keeps {c : Settings} (x0 : Nat) {s : State} (h : s.Keeps c) : (State.intake x0 s).Keeps c := by
  induction x0 generalizing s with
  | zero => exact h
  | succ n ih =>
    rw [State.intake]
    split
    · split
      · exact ih (State.fragUnreadable_keeps h)
      · exact State.fragGo_keeps h
    · exact h

theorem State.stopReads_keeps {c : Settings} {s : State} (x1 : ReadTag → Bool) (h : s.Keeps c) : (s.stopReads
    x1).Keeps c := h

theorem State.endChain_keeps {c : Settings} {s : State} (x1 : Nat) (x2 : Nat) (h : s.Keeps c) : (s.endChain x1
    x2).Keeps c := h

theorem State.logSpadErr_keeps {c : Settings} {s : State} (x1 : Nat) (x2 : Page) (x3 : optParam (BitVec 16) 0) (h :
    s.Keeps c) : (s.logSpadErr x1 x2 x3).Keeps c := by
  unfold State.logSpadErr
  repeat' (first
    | with_reducible assumption
    | split
    | extract_lets
    | with_reducible apply State.logEvent_keeps
    | (with_reducible apply foldl_keeps)
    | (with_reducible apply foldl_keeps1)
    | (intro _)
    | assumption)

theorem State.failChain_keeps {c : Settings} {s : State} (x1 : Nat) (x2 : Nat) (h : s.Keeps c) : (s.failChain x1
    x2).Keeps c := by
  unfold State.failChain
  repeat' (first
    | with_reducible assumption
    | split
    | extract_lets
    | with_reducible apply State.endChain_keeps
    | with_reducible apply State.logSpadErr_keeps
    | (with_reducible apply foldl_keeps)
    | (with_reducible apply foldl_keeps1)
    | (intro _)
    | assumption)

theorem State.keepT_keeps {c : Settings} {s : State} (x1 : Nat) (x2 : Word) (x3 : Word) (h : s.Keeps c) : (s.keepT x1
    x2 x3).Keeps c := h

theorem State.modWindow_keeps {c : Settings} {s : State} (x1 : Nat) (x2 : Word) (x3 : TenWindow → TenWindow) (h :
    s.Keeps c) : (s.modWindow x1 x2 x3).Keeps c := h

theorem State.needEntry_keeps {c : Settings} {s : State} (x1 : Nat) (h : s.Keeps c) : (s.needEntry x1).1.Keeps c := by
  unfold State.needEntry
  repeat' (first
    | with_reducible assumption
    | split
    | extract_lets
    | with_reducible apply State.count_keeps
    | with_reducible apply State.issueRead_keeps
    | (with_reducible apply foldl_keeps)
    | (with_reducible apply foldl_keeps1)
    | (intro _)
    | assumption)

theorem State.needEntry_keeps' {c : Settings} {s : State} {x1 : Nat} (h : s.Keeps c) {p : _} {t : State} (e : (s.needEntry x1) = (t, p)) : t.Keeps c := by
  have h2 := State.needEntry_keeps x1 h
  rw [e] at h2
  exact h2

theorem State.freeStep_keeps {c : Settings} {s : State} (x1 : Word) (h : s.Keeps c) : (s.freeStep x1).Keeps c := h

theorem State.releaseStep_keeps {c : Settings} {s : State} (x1 : Word) (h : s.Keeps c) : (s.releaseStep x1).Keeps c := by
  unfold State.releaseStep
  repeat' (first
    | with_reducible assumption
    | split
    | extract_lets
    | with_reducible apply State.freeStep_keeps
    | with_reducible apply State.logEvent_keeps
    | (with_reducible apply foldl_keeps)
    | (with_reducible apply foldl_keeps1)
    | (intro _)
    | assumption)

theorem State.makeRoom_keeps {c : Settings} (x0 : Nat) {s : State} (h : s.Keeps c) : (State.makeRoom x0 s).Keeps c := by
  induction x0 generalizing s with
  | zero => exact h
  | succ n ih =>
    rw [State.makeRoom]
    split
    · exact h
    · split
      · exact ih (State.releaseStep_keeps _ h)
      · have hf := State.freeStep_keeps s.step h
        generalize s.freeStep s.step = t at hf
        exact State.pageEvent_keeps _ _ (State.logEvent_keeps _ _ _ _ _ _ _ hf)

theorem State.recordEntry_keeps {c : Settings} {s : State} (x1 : Nat) (x2 : Word) (x3 : RegEntry) (h : s.Keeps c) :
    (s.recordEntry x1 x2 x3).Keeps c := by
  unfold State.recordEntry
  try dsimp only
  repeat' (first
    | with_reducible assumption
    | split
    | dsimp only
    | with_reducible apply State.issueWrite_keeps
    | with_reducible apply State.makeRoom_keeps
    | (refine keep_mk rfl ?_ rfl)
    | (with_reducible apply foldl_keeps)
    | (with_reducible apply foldl_keeps1)
    | (intro _)
    | assumption)

theorem State.setEntry_keeps {c : Settings} {s : State} (x1 : Nat) (x2 : RegEntry) (h : s.Keeps c) : (s.setEntry x1
    x2).Keeps c := h

theorem State.decodeScale_keeps {c : Settings} {s : State} (x1 : Word) (x2 : Nat) (x3 : Nat) (h : s.Keeps c) :
    (s.decodeScale x1 x2 x3).1.Keeps c := by
  unfold State.decodeScale
  try dsimp only
  repeat' (first
    | with_reducible assumption
    | split
    | dsimp only
    | with_reducible apply State.modWindow_keeps
    | with_reducible apply State.needEntry_keeps
    | exact State.needEntry_keeps' (by assumption) (by assumption)
    | with_reducible apply State.recordEntry_keeps
    | with_reducible apply State.setEntry_keeps
    | (refine keep_mk rfl ?_ rfl)
    | (with_reducible apply foldl_keeps)
    | (with_reducible apply foldl_keeps1)
    | (intro _)
    | assumption)

theorem State.decodeScale_keeps' {c : Settings} {s : State} {x1 : Word} {x2 : Nat} {x3 : Nat} (h : s.Keeps c) {p : _} {t : State} (e : (s.decodeScale x1 x2 x3) = (t, p)) : t.Keeps c := by
  have h2 := State.decodeScale_keeps x1 x2 x3 h
  rw [e] at h2
  exact h2

theorem State.itemScales_keeps {c : Settings} {s : State} (x1 : Chain) (x2 : Item) (h : s.Keeps c) : (s.itemScales x1
    x2).1.Keeps c := by
  unfold State.itemScales
  try dsimp only
  repeat' (first
    | with_reducible assumption
    | split
    | dsimp only
    | with_reducible apply State.decodeScale_keeps
    | exact State.decodeScale_keeps' (by assumption) (by assumption)
    | (refine keep_mk rfl ?_ rfl)
    | (with_reducible apply foldl_keeps)
    | (with_reducible apply foldl_keeps1)
    | (intro _)
    | assumption)

theorem State.itemScales_keeps' {c : Settings} {s : State} {x1 : Chain} {x2 : Item} (h : s.Keeps c) {p : _} {t : State} (e : (s.itemScales x1 x2) = (t, p)) : t.Keeps c := by
  have h2 := State.itemScales_keeps x1 x2 h
  rw [e] at h2
  exact h2

theorem State.modItem_keeps {c : Settings} {s : State} (x1 : Nat) (x2 : Nat) (x3 : Item → Item) (h : s.Keeps c) :
    (s.modItem x1 x2 x3).Keeps c := h

end Sys2Proof.Machine
end

