-- ==== Sys2Proof/Laws/Keep2.lean ====
section
/-! SUPPORT. Every operation of the units keeps the settings, part 2 of 6: the operations in the order in which they
use one another. -/
namespace Sys2Proof.Machine

set_option linter.unusedTactic false
set_option linter.unreachableTactic false
set_option linter.unusedVariables false

theorem State.itemAdvance_keeps {c : Settings} {s : State} (x1 : Nat) (x2 : Nat) (h : s.Keeps c) : (s.itemAdvance x1
    x2).Keeps c := by
  unfold State.itemAdvance
  try dsimp only
  repeat' (first
    | with_reducible assumption
    | split
    | dsimp only
    | with_reducible apply State.failChain_keeps
    | with_reducible apply State.issueRead_keeps
    | with_reducible apply State.itemScales_keeps
    | exact State.itemScales_keeps' (by assumption) (by assumption)
    | with_reducible apply State.modChain_keeps
    | with_reducible apply State.modItem_keeps
    | (refine keep_mk rfl ?_ rfl)
    | (with_reducible apply foldl_keeps)
    | (with_reducible apply foldl_keeps1)
    | (intro _)
    | assumption)

theorem State.beginPre_keeps {c : Settings} {s : State} (x1 : Nat) (x2 : Word) (x3 : Nat) (h : s.Keeps c) :
    (s.beginPre x1 x2 x3).Keeps c := by
  unfold State.beginPre
  repeat' (first
    | with_reducible assumption
    | split
    | extract_lets
    | with_reducible apply State.logEvent_keeps
    | with_reducible apply State.modWindow_keeps
    | (with_reducible apply foldl_keeps)
    | (with_reducible apply foldl_keeps1)
    | (intro _)
    | assumption)

theorem State.preNeeded_keeps {c : Settings} {s : State} (x1 : Nat) (x2 : Word) (x3 : Nat) (x4 : Nat) (h : s.Keeps c)
    : (s.preNeeded x1 x2 x3 x4).1.Keeps c := by
  unfold State.preNeeded
  repeat' (first
    | with_reducible assumption
    | split
    | extract_lets
    | with_reducible apply State.needEntry_keeps
    | exact State.needEntry_keeps' (by assumption) (by assumption)
    | (with_reducible apply foldl_keeps)
    | (with_reducible apply foldl_keeps1)
    | (intro _)
    | assumption)

theorem State.preNeeded_keeps' {c : Settings} {s : State} {x1 : Nat} {x2 : Word} {x3 : Nat} {x4 : Nat} (h : s.Keeps c) {p : _} {t : State} (e : (s.preNeeded x1 x2 x3 x4) = (t, p)) : t.Keeps c := by
  have h2 := State.preNeeded_keeps x1 x2 x3 x4 h
  rw [e] at h2
  exact h2

theorem State.prePhase_keeps {c : Settings} {s : State} (x1 : Chain) (x2 : Pass) (h : s.Keeps c) : (s.prePhase x1
    x2).1.Keeps c := by
  unfold State.prePhase
  repeat' (first
    | with_reducible assumption
    | split
    | extract_lets
    | with_reducible apply State.beginPre_keeps
    | with_reducible apply State.preNeeded_keeps
    | exact State.preNeeded_keeps' (by assumption) (by assumption)
    | (with_reducible apply foldl_keeps)
    | (with_reducible apply foldl_keeps1)
    | (intro _)
    | assumption)

theorem State.prePhase_keeps' {c : Settings} {s : State} {x1 : Chain} {x2 : Pass} (h : s.Keeps c) {p : _} {t : State} (e : (s.prePhase x1 x2) = (t, p)) : t.Keeps c := by
  have h2 := State.prePhase_keeps x1 x2 h
  rw [e] at h2
  exact h2

theorem State.spawnPass_keeps {c : Settings} {s : State} (x1 : Nat) (x2 : Pass) (h : s.Keeps c) : (s.spawnPass x1
    x2).Keeps c := by
  unfold State.spawnPass
  repeat' (first
    | with_reducible assumption
    | split
    | extract_lets
    | with_reducible apply State.itemAdvance_keeps
    | with_reducible apply State.modChain_keeps
    | with_reducible apply State.prePhase_keeps
    | exact State.prePhase_keeps' (by assumption) (by assumption)
    | (with_reducible apply foldl_keeps)
    | (with_reducible apply foldl_keeps1)
    | (intro _)
    | assumption)

theorem State.spawn_keeps {c : Settings} {s : State} (x1 : Nat) (h : s.Keeps c) : (s.spawn x1).Keeps c := by
  unfold State.spawn
  repeat' (first
    | with_reducible assumption
    | split
    | extract_lets
    | with_reducible apply State.spawnPass_keeps
    | (with_reducible apply foldl_keeps)
    | (with_reducible apply foldl_keeps1)
    | (intro _)
    | assumption)

theorem State.firstWrite_keeps {c : Settings} {s : State} (x1 : Nat) (x2 : Word) (h : s.Keeps c) : (s.firstWrite x1
    x2).Keeps c := by
  unfold State.firstWrite
  repeat' (first
    | split
    | with_reducible apply State.modWindow_keeps
    | with_reducible apply State.recordEntry_keeps
    | with_reducible apply State.setEntry_keeps
    | assumption)

theorem State.countWritten_keeps {c : Settings} {s : State} (x1 : Nat) (x2 : Nat) (x3 : Word) (x4 : List Nat) (x5 :
    Word) (x6 : Bool) (x7 : BitVec 16) (h : s.Keeps c) : (s.countWritten x1 x2 x3 x4 x5 x6 x7).Keeps c := by
  unfold State.countWritten
  repeat' (first
    | split
    | extract_lets
    | with_reducible apply State.count_keeps
    | with_reducible apply State.firstWrite_keeps
    | with_reducible apply State.logEvent_keeps
    | with_reducible apply State.modWindow_keeps
    | with_reducible apply State.pageEvent_keeps
    | with_reducible apply State.setEntry_keeps
    | assumption)

theorem State.emit_keeps {c : Settings} {s : State} (x1 : Chain) (x2 : Prod Nat (Prod Nat Nat)) (x3 : Nat) (x4 : Nat)
    (x5 : Word) (x6 : List Bool) (x7 : List OutRow) (h : s.Keeps c) : (s.emit x1 x2 x3 x4 x5 x6 x7).Keeps c := by
  unfold State.emit
  repeat' (first
    | with_reducible assumption
    | split
    | extract_lets
    | with_reducible apply State.countWritten_keeps
    | with_reducible apply State.issueWrite_keeps
    | with_reducible apply State.modChain_keeps
    | (with_reducible apply foldl_keeps)
    | (with_reducible apply foldl_keeps1)
    | (intro _)
    | assumption)

theorem State.endItem_keeps {c : Settings} {s : State} (x1 : Nat) (x2 : Item) (h : s.Keeps c) : (s.endItem x1
    x2).Keeps c := h

theorem State.keepTs_keeps {c : Settings} {s : State} (x1 : Nat) (x2 : Word) (x3 : RegEntry) (h : s.Keeps c) :
    (s.keepTs x1 x2 x3).Keeps c := by
  unfold State.keepTs
  repeat' (first
    | split
    | (with_reducible apply foldl_keeps)
    | (intro _)
    | assumption)

theorem State.openWindow_keeps {c : Settings} {s : State} (x1 : Nat) (x2 : Word) (x3 : RegEntry) (x4 : Word) (x5 :
    Nat) (h : s.Keeps c) : (s.openWindow x1 x2 x3 x4 x5).Keeps c := by
  unfold State.openWindow
  repeat' (first
    | with_reducible apply State.issueWrite_keeps
    | with_reducible apply State.keepTs_keeps
    | with_reducible apply State.recordEntry_keeps
    | with_reducible apply State.setEntry_keeps
    | assumption)

theorem State.outScale_keeps {c : Settings} {s : State} (x1 : Nat) (x2 : Word) (x3 : Nat) (x4 : Nat) (x5 : Option
    Word) (h : s.Keeps c) : (s.outScale x1 x2 x3 x4 x5).1.Keeps c := by
  unfold State.outScale
  try dsimp only
  repeat' (first
    | with_reducible assumption
    | split
    | dsimp only
    | with_reducible apply State.needEntry_keeps
    | exact State.needEntry_keeps' (by assumption) (by assumption)
    | with_reducible apply State.openWindow_keeps
    | (refine keep_mk rfl ?_ rfl)
    | (with_reducible apply foldl_keeps)
    | (with_reducible apply foldl_keeps1)
    | (intro _)
    | assumption)

theorem State.outScale_keeps' {c : Settings} {s : State} {x1 : Nat} {x2 : Word} {x3 : Nat} {x4 : Nat} {x5 : Option Word} (h : s.Keeps c) {p : _} {t : State} (e : (s.outScale x1 x2 x3 x4 x5) = (t, p)) : t.Keeps c := by
  have h2 := State.outScale_keeps x1 x2 x3 x4 x5 h
  rw [e] at h2
  exact h2

theorem State.writeItem_keeps {c : Settings} {s : State} (x1 : Nat) (x2 : Nat) (h : s.Keeps c) : (s.writeItem x1
    x2).Keeps c := by
  unfold State.writeItem
  repeat' (first
    | with_reducible assumption
    | split
    | extract_lets
    | with_reducible apply State.emit_keeps
    | with_reducible apply State.endItem_keeps
    | with_reducible apply State.outScale_keeps
    | exact State.outScale_keeps' (by assumption) (by assumption)
    | (with_reducible apply foldl_keeps)
    | (with_reducible apply foldl_keeps1)
    | (intro _)
    | assumption)

theorem State.itemsGo_keeps {c : Settings} {s : State} (h : s.Keeps c) : s.itemsGo.Keeps c := by
  unfold State.itemsGo
  repeat' (first
    | with_reducible assumption
    | split
    | extract_lets
    | with_reducible apply State.itemAdvance_keeps
    | with_reducible apply State.spawn_keeps
    | with_reducible apply State.writeItem_keeps
    | (with_reducible apply foldl_keeps)
    | (with_reducible apply foldl_keeps1)
    | (intro _)
    | assumption)

theorem State.judgesGo_keeps {c : Settings} {s : State} (h : s.Keeps c) : s.judgesGo.Keeps c := by
  unfold State.judgesGo
  repeat' (first
    | with_reducible apply State.needEntry_keeps
    | (with_reducible apply foldl_keeps)
    | (intro _)
    | assumption)

theorem State.ctxEnter_keeps {c : Settings} {s : State} (x1 : Nat) (x2 : BitVec 4) (h : s.Keeps c) : (s.ctxEnter x1
    x2).Keeps c := by
  unfold State.ctxEnter
  repeat' (first
    | with_reducible assumption
    | split
    | extract_lets
    | with_reducible apply State.openCtx_keeps
    | with_reducible apply State.setCtxState_keeps
    | (with_reducible apply foldl_keeps)
    | (with_reducible apply foldl_keeps1)
    | (intro _)
    | assumption)

theorem State.logStale_keeps {c : Settings} {s : State} (x1 : BitVec 16) (x2 : BitVec 4) (x3 : Nat) (x4 : Nat) (x5 :
    Nat) (x6 : BitVec 4) (h : s.Keeps c) : (s.logStale x1 x2 x3 x4 x5 x6).Keeps c := by
  unfold State.logStale
  repeat' (first
    | with_reducible assumption
    | split
    | extract_lets
    | with_reducible apply State.count_keeps
    | with_reducible apply State.logEvent_keeps
    | with_reducible apply State.pageEvent_keeps
    | (with_reducible apply foldl_keeps)
    | (with_reducible apply foldl_keeps1)
    | (intro _)
    | assumption)

theorem State.checkRows_keeps {c : Settings} {s : State} (x1 : BitVec 16) (x2 : BitVec 4) (x3 : Nat) (x4 : Nat) (h :
    s.Keeps c) : (s.checkRows x1 x2 x3 x4).1.Keeps c := by
  unfold State.checkRows
  repeat' (first
    | with_reducible assumption
    | split
    | extract_lets
    | with_reducible apply State.ctxEnter_keeps
    | with_reducible apply State.logStale_keeps
    | (with_reducible apply foldl_keeps)
    | (with_reducible apply foldl_keeps1)
    | (intro _)
    | assumption)

theorem State.ctxBegin_keeps {c : Settings} {s : State} (x1 : Word) (x2 : Nat) (h : s.Keeps c) : (s.ctxBegin x1
    x2).Keeps c := h

theorem State.setMsgRows_keeps {c : Settings} {s : State} (x1 : Chain) (x2 : MsgKey) (x3 : List Bool) (h : s.Keeps c)
    : (s.setMsgRows x1 x2 x3).Keeps c := h

theorem State.setRows_keeps {c : Settings} {s : State} (x1 : Nat) (x2 : Nat) (x3 : List Bool) (h : s.Keeps c) :
    (s.setRows x1 x2 x3).Keeps c := h

theorem State.startPeeks_keeps {c : Settings} {s : State} (x1 : List Nat) (h : s.Keeps c) : (s.startPeeks x1).Keeps c
    := by
  unfold State.startPeeks
  repeat' (first
    | with_reducible assumption
    | split
    | extract_lets
    | with_reducible apply State.issueRead_keeps
    | (with_reducible apply foldl_keeps)
    | (with_reducible apply foldl_keeps1)
    | (intro _)
    | assumption)

theorem State.pumpCtxGo_keeps {c : Settings} (x0 : Nat) {s : State} (h : s.Keeps c) : (State.pumpCtxGo x0 s).Keeps c
    := by
  induction x0 generalizing s with
  | zero => exact h
  | succ n ih =>
    rw [State.pumpCtxGo]
    split
    · exact h
    · split
      · exact ih (State.ctxGo_keeps (State.ctxBegin_keeps _ _ h))
      · split
        · exact ih h
        · split
          · exact ih h
          · split
            · dsimp only
              exact ih (State.spawn_keeps _ (State.setRows_keeps _ _ _ (id (State.checkRows_keeps _ _ _ _ (id h)))))
            · exact State.startPeeks_keeps _ h
      · split
        · exact ih h
        · split
          · exact ih h
          · split
            · dsimp only
              exact ih (State.setMsgRows_keeps _ _ _ (id (State.checkRows_keeps _ _ _ _ (id h))))
            · exact State.startPeeks_keeps _ h

theorem State.pumpCtx_keeps {c : Settings} {s : State} (h : s.Keeps c) : s.pumpCtx.Keeps c := by
  unfold State.pumpCtx
  repeat' (first
    | with_reducible assumption
    | split
    | extract_lets
    | with_reducible apply State.pumpCtxGo_keeps
    | (with_reducible apply foldl_keeps)
    | (with_reducible apply foldl_keeps1)
    | (intro _)
    | assumption)

theorem State.reportState_keeps {c : Settings} {s : State} (h : s.Keeps c) : s.reportState.Keeps c := by
  unfold State.reportState
  repeat' (first
    | with_reducible apply State.pageEvent_keeps
    | with_reducible apply State.send_keeps
    | assumption)

theorem State.setPwr_keeps {c : Settings} {s : State} (x1 : PwrState) (h : s.Keeps c) : (s.setPwr x1).Keeps c := by
  unfold State.setPwr
  repeat' (first
    | split
    | with_reducible apply State.reportState_keeps
    | assumption)

theorem State.startHeldWake_keeps {c : Settings} {s : State} (h : s.Keeps c) : s.startHeldWake.Keeps c := by
  unfold State.startHeldWake
  repeat' (first
    | with_reducible assumption
    | split
    | extract_lets
    | with_reducible apply State.setPwr_keeps
    | (with_reducible apply foldl_keeps)
    | (with_reducible apply foldl_keeps1)
    | (intro _)
    | assumption)

theorem State.startQueries_keeps {c : Settings} {s : State} (h : s.Keeps c) : s.startQueries.Keeps c := by
  unfold State.startQueries
  repeat' (first
    | with_reducible assumption
    | split
    | extract_lets
    | with_reducible apply State.startPeeks_keeps
    | (with_reducible apply foldl_keeps)
    | (with_reducible apply foldl_keeps1)
    | (intro _)
    | assumption)

theorem State.treeStale_keeps {c : Settings} {s : State} (x1 : TreeMsg) (x2 : Word) (h : s.Keeps c) : (s.treeStale x1
    x2).Keeps c := by
  unfold State.treeStale
  repeat' (first
    | with_reducible assumption
    | split
    | extract_lets
    | with_reducible apply State.count_keeps
    | with_reducible apply State.logEvent_keeps
    | with_reducible apply State.pageEvent_keeps
    | (with_reducible apply foldl_keeps)
    | (with_reducible apply foldl_keeps1)
    | (intro _)
    | assumption)

theorem State.dropCheck_keeps {c : Settings} {s : State} (x1 : CheckSt) (x2 : Word) (h : s.Keeps c) : (s.dropCheck x1
    x2).Keeps c := by
  unfold State.dropCheck
  repeat' (first
    | split
    | with_reducible apply State.returnCredit_keeps
    | with_reducible apply State.treeStale_keeps
    | (with_reducible apply foldl_keeps)
    | (intro _)
    | assumption)

theorem State.ageChecks_keeps {c : Settings} {s : State} (h : s.Keeps c) : s.ageChecks.Keeps c := by
  unfold State.ageChecks
  repeat' (first
    | with_reducible apply State.dropCheck_keeps
    | (with_reducible apply foldl_keeps)
    | (intro _)
    | assumption)

theorem State.releaseHeld_keeps {c : Settings} {s : State} (x1 : HeldMsg) (h : s.Keeps c) : (s.releaseHeld x1).Keeps c
    := by
  unfold State.releaseHeld
  repeat' (first
    | with_reducible assumption
    | split
    | extract_lets
    | with_reducible apply State.returnCredit_keeps
    | (with_reducible apply foldl_keeps)
    | (with_reducible apply foldl_keeps1)
    | (intro _)
    | assumption)

theorem State.judgeHeld_keeps {c : Settings} {s : State} (x1 : HeldMsg) (h : s.Keeps c) : (s.judgeHeld x1).Keeps c := by
  unfold State.judgeHeld
  repeat' (first
    | with_reducible assumption
    | split
    | extract_lets
    | with_reducible apply State.count_keeps
    | with_reducible apply State.pumpCtx_keeps
    | with_reducible apply State.releaseHeld_keeps
    | with_reducible apply State.treeStale_keeps
    | (with_reducible apply foldl_keeps)
    | (with_reducible apply foldl_keeps1)
    | (intro _)
    | assumption)

theorem State.judgeAll_keeps {c : Settings} {s : State} (h : s.Keeps c) : s.judgeAll.Keeps c := by
  unfold State.judgeAll
  extract_lets s1 lives s2
  have h1 : s1.Keeps c := foldl_keeps (fun t a ht => State.judgeHeld_keeps _ ht) _ h
  have h2 : s2.Keeps c := foldl_keeps (fun t a ht => State.releaseHeld_keeps _ ht) _ h1
  exact h2

theorem State.laterWindows_keeps {c : Settings} {s : State} (h : s.Keeps c) : s.laterWindows.Keeps c := h

theorem State.logJump_keeps {c : Settings} {s : State} (x1 : Word) (x2 : Word) (h : s.Keeps c) : (s.logJump x1
    x2).Keeps c := by
  unfold State.logJump
  repeat' (first
    | split
    | with_reducible apply State.logEvent_keeps
    | assumption)

theorem State.logReleased_keeps {c : Settings} {s : State} (x1 : List Word) (h : s.Keeps c) : (s.logReleased x1).Keeps
    c := by
  unfold State.logReleased
  repeat' (first
    | with_reducible apply State.logEvent_keeps
    | (with_reducible apply foldl_keeps)
    | (intro _)
    | assumption)

theorem State.logReplay_keeps {c : Settings} {s : State} (x1 : Word) (h : s.Keeps c) : (s.logReplay x1).Keeps c := by
  unfold State.logReplay
  repeat' (first
    | split
    | with_reducible apply State.logEvent_keeps
    | assumption)

theorem State.retainStep_keeps {c : Settings} {s : State} (x1 : Word) (h : s.Keeps c) : (s.retainStep x1).1.Keeps c := by
  unfold State.retainStep
  dsimp only
  have h2 : ∀ l, ((List.foldl (fun (s : State) w => s.freeStep w) ({ s with img := { s.img with stopped := false } } : State)
      l).freeStep x1).Keeps c := fun l => State.freeStep_keeps _ (foldl_keeps (fun t a ht => State.freeStep_keeps a ht) l h)
  split
  · exact h2 _
  · exact h2 _

theorem State.logConfig_keeps {c : Settings} {s : State} (x1 : Nat) (h : s.Keeps c) : (s.logConfig x1).Keeps c := by
  unfold State.logConfig
  repeat' (first
    | split
    | with_reducible apply State.logEvent_keeps
    | with_reducible apply State.pageEvent_keeps
    | assumption)

theorem State.scheduleToken_keeps {c : Settings} {s : State} (h : s.Keeps c) : s.scheduleToken.Keeps c := by
  unfold State.scheduleToken
  split
  · refine foldl_keeps (fun t k ht => State.logConfig_keeps _ ht) _
      (sch_keeps h (congrArg (fun l => (s.sch.gen, s.sch.scope, s.sch.forceEta, l)) ?_))
    refine groups_settings (fun i g => if g.held then g.miss
      else if bitOf s.sch.gen i then g.advance.take s.step else g.advance) (fun i g => ?_) rfl
    split
    · rfl
    · split <;> rfl
  · exact h

theorem State.sentinelToken_keeps {c : Settings} {s : State} (h : s.Keeps c) : s.sentinelToken.Keeps c := h

theorem State.openWindowOf_keeps {c : Settings} {s : State} (x1 : Word) (h : s.Keeps c) : (s.openWindowOf x1).Keeps c
    := by
  unfold State.openWindowOf
  repeat' (first
    | with_reducible assumption
    | with_reducible apply State.ageChecks_keeps
    | with_reducible apply State.judgeAll_keeps
    | with_reducible apply State.logJump_keeps
    | with_reducible apply State.logReleased_keeps
    | with_reducible apply State.logReplay_keeps
    | with_reducible apply State.retainStep_keeps
    | with_reducible apply State.scheduleToken_keeps
    | (refine keep_mk rfl ?_ rfl))

theorem State.normalToken_keeps {c : Settings} {s : State} (x1 : Word) (h : s.Keeps c) : (s.normalToken x1).Keeps c := by
  unfold State.normalToken
  repeat' (first
    | with_reducible assumption
    | split
    | extract_lets
    | with_reducible apply State.logEvent_keeps
    | with_reducible apply State.openWindowOf_keeps
    | (with_reducible apply foldl_keeps)
    | (with_reducible apply foldl_keeps1)
    | (intro _)
    | assumption)

theorem State.takeTokens_keeps {c : Settings} {s : State} (h : s.Keeps c) : s.takeTokens.Keeps c := by
  unfold State.takeTokens
  repeat' (first
    | with_reducible assumption
    | split
    | extract_lets
    | with_reducible apply State.normalToken_keeps
    | (with_reducible apply foldl_keeps)
    | (with_reducible apply foldl_keeps1)
    | (intro _)
    | assumption)

theorem State.setTenCmd_keeps {c : Settings} {s : State} (x1 : TenCmd) (h : s.Keeps c) : (s.setTenCmd x1).Keeps c :=
  h

theorem State.tenInUse_keeps {c : Settings} {s : State} (x1 : TenCmd) (h : s.Keeps c) : (s.tenInUse x1).Keeps c := by
  unfold State.tenInUse
  repeat' (first
    | split
    | with_reducible apply State.regFault_keeps
    | assumption)

theorem tenEntry_keeps_cases {c0 : Settings} {s : State} {c : TenCmd} {tid : Nat} (h : s.Keeps c0) :
    (∀ t, s.tenEntry c tid = .done t → t.Keeps c0) ∧ (∀ t, s.tenEntry c tid = .waitEntry t → t.Keeps c0) := by
  unfold State.tenEntry
  split
  · exact ⟨fun t e => (by cases e), fun t e => (by cases e)⟩
  · split
    · split
      · split
        · exact ⟨fun t e => (by cases e), fun t e => (by cases e; exact h)⟩
        · exact ⟨fun t e => (by cases e; exact h), fun t e => (by cases e)⟩
      · dsimp only
        split
        · exact ⟨fun t e => (by cases e; exact num_keeps (State.issueWrite_keeps _ _ (num_keeps h rfl)) rfl), fun t e => (by cases e)⟩
        · exact ⟨fun t e => (by cases e; exact num_keeps h rfl), fun t e => (by cases e)⟩
    · split
      · exact ⟨fun t e => (by cases e), fun t e => (by cases e)⟩
      · have he := State.needEntry_keeps tid h
        generalize s.needEntry tid = r at he ⊢
        obtain ⟨s1, e⟩ := r
        dsimp only at he ⊢
        split
        · exact ⟨fun t e => (by cases e), fun t e => (by cases e; exact he)⟩
        · refine ⟨fun t e => ?_, fun t e => ?_⟩
          · split at e
            · cases e
              exact State.setEntry_keeps _ _ (num_keeps (State.recordEntry_keeps _ _ _ he) rfl)
            · cases e
              exact State.setEntry_keeps _ _ (State.recordEntry_keeps _ _ _ he)
            · cases e
              exact State.setEntry_keeps _ _ (State.recordEntry_keeps _ _ _ he)
          · split at e <;> cases e

theorem tenEntry_keeps_done {c0 : Settings} {s t : State} {c : TenCmd} {tid : Nat} (h : s.Keeps c0) (e : s.tenEntry c tid = .done t) : t.Keeps c0 :=
  (tenEntry_keeps_cases h).1 t e

theorem tenEntry_keeps_wait {c0 : Settings} {s t : State} {c : TenCmd} {tid : Nat} (h : s.Keeps c0) (e : s.tenEntry c tid = .waitEntry t) : t.Keeps c0 :=
  (tenEntry_keeps_cases h).2 t e

theorem State.tenAdvance_keeps {c : Settings} (x0 : Nat) {s : State} (h : s.Keeps c) : (State.tenAdvance x0 s).Keeps c
    := by
  induction x0 generalizing s with
  | zero => exact h
  | succ n ih =>
    rw [State.tenAdvance]
    split
    · exact h
    · split
      · exact h
      · split
        · exact h
        · dsimp only
          split
          · rename_i he
            exact ih (State.setTenCmd_keeps _ (tenEntry_keeps_done h he))
          · exact ih (State.setTenCmd_keeps _ (State.tenInUse_keeps _ h))
          · exact ih (State.setTenCmd_keeps _ h)
          · rename_i he
            exact tenEntry_keeps_wait h he

theorem State.tenWaiting_keeps {c : Settings} {s : State} (h : s.Keeps c) : s.tenWaiting.Keeps c := by
  unfold State.tenWaiting
  split
  · exact h
  · refine foldl_keeps (fun t a ht => ?_) _ h
    have hd : ∀ (u : State) (f : Nat → Nat), u.Keeps c → (match u.num.cmd with
        | some c => u.setTenCmd { c with waiting := c.waiting.filter (· != a), code := f c.code }
        | none => u).Keeps c := by
      intro u f hu
      split
      · exact State.setTenCmd_keeps _ hu
      · exact hu
    dsimp only
    split
    · rename_i he
      exact hd _ id (tenEntry_keeps_done ht he)
    · exact hd _ (fun _ => 3) (State.tenInUse_keeps _ ht)
    · exact ht
    · rename_i he
      exact tenEntry_keeps_wait ht he

theorem State.tenGo_keeps {c : Settings} {s : State} (h : s.Keeps c) : s.tenGo.Keeps c := by
  unfold State.tenGo
  repeat' (first
    | split
    | extract_lets
    | with_reducible apply State.setTenCmd_keeps
    | with_reducible apply State.tenAdvance_keeps
    | with_reducible apply State.tenWaiting_keeps
    | assumption)

theorem State.touchLine_keeps {c : Settings} {s : State} (x1 : Nat) (h : s.Keeps c) : (s.touchLine x1).Keeps c := h

theorem State.needLines_keeps {c : Settings} {s : State} (x1 : List Nat) (h : s.Keeps c) : (s.needLines x1).1.Keeps c
    := by
  unfold State.needLines
  repeat' (first
    | with_reducible assumption
    | split
    | extract_lets
    | with_reducible apply State.count_keeps
    | with_reducible apply State.issueRead_keeps
    | with_reducible apply State.touchLine_keeps
    | (with_reducible apply foldl_keeps)
    | (with_reducible apply foldl_keeps1)
    | (intro _)
    | assumption)

theorem State.needLines_keeps' {c : Settings} {s : State} {x1 : List Nat} (h : s.Keeps c) {p : _} {t : State} (e : (s.needLines x1) = (t, p)) : t.Keeps c := by
  have h2 := State.needLines_keeps x1 h
  rw [e] at h2
  exact h2

theorem State.finalReady_keeps {c : Settings} {s : State} (x1 : Chain) (x2 : List Nat) (h : s.Keeps c) : (s.finalReady
    x1 x2).1.Keeps c := by
  unfold State.finalReady
  repeat' (first
    | with_reducible assumption
    | split
    | extract_lets
    | with_reducible apply State.needLines_keeps
    | exact State.needLines_keeps' (by assumption) (by assumption)
    | (with_reducible apply foldl_keeps)
    | (with_reducible apply foldl_keeps1)
    | (intro _)
    | assumption)

theorem State.finalReady_keeps' {c : Settings} {s : State} {x1 : Chain} {x2 : List Nat} (h : s.Keeps c) {p : _} {t : State} (e : (s.finalReady x1 x2) = (t, p)) : t.Keeps c := by
  have h2 := State.finalReady_keeps x1 x2 h
  rw [e] at h2
  exact h2

theorem State.sendDown_keeps {c : Settings} {s : State} (x1 : Nat) (x2 : Nat) (x3 : Bool → Nat → Nat → Nat → TreeMsg)
    (h : s.Keeps c) : (s.sendDown x1 x2 x3).Keeps c := by
  unfold State.sendDown
  repeat' (first
    | with_reducible assumption
    | split
    | extract_lets
    | with_reducible apply State.sendTree_keeps
    | (with_reducible apply foldl_keeps)
    | (with_reducible apply foldl_keeps1)
    | (intro _)
    | assumption)

theorem State.finalRecords_keeps {c : Settings} {s : State} (x1 : Chain) (x2 : List Rec) (x3 : Nat → Bool) (h :
    s.Keeps c) : (s.finalRecords x1 x2 x3).Keeps c := by
  unfold State.finalRecords
  repeat' (first
    | with_reducible assumption
    | split
    | extract_lets
    | with_reducible apply State.ctxGo_keeps
    | with_reducible apply State.modChain_keeps
    | with_reducible apply State.sendDown_keeps
    | with_reducible apply State.setCtxRec_keeps
    | (with_reducible apply foldl_keeps)
    | (with_reducible apply foldl_keeps1)
    | (intro _)
    | assumption)

theorem State.takeFinals_keeps {c : Settings} {s : State} (h : s.Keeps c) : s.takeFinals.Keeps c := by
  unfold State.takeFinals
  repeat' (first
    | with_reducible assumption
    | split
    | extract_lets
    | with_reducible apply State.finalReady_keeps
    | exact State.finalReady_keeps' (by assumption) (by assumption)
    | with_reducible apply State.finalRecords_keeps
    | with_reducible apply State.releaseHeld_keeps
    | (with_reducible apply foldl_keeps)
    | (with_reducible apply foldl_keeps1)
    | (intro _)
    | assumption)

theorem State.treeGo_keeps {c : Settings} {s : State} (h : s.Keeps c) : s.treeGo.Keeps c := by
  unfold State.treeGo
  repeat' (first
    | with_reducible assumption
    | split
    | extract_lets
    | with_reducible apply State.judgeAll_keeps
    | with_reducible apply State.takeFinals_keeps
    | (with_reducible apply foldl_keeps)
    | (with_reducible apply foldl_keeps1)
    | (intro _)
    | assumption)

theorem State.settle_keeps {c : Settings} {s : State} (h : s.Keeps c) : s.settle.Keeps c := by
  unfold State.settle
  repeat' (first
    | split
    | with_reducible apply State.applyGo_keeps
    | with_reducible apply State.ctxGo_keeps
    | with_reducible apply State.finishChains_keeps
    | with_reducible apply State.imgGo_keeps
    | with_reducible apply State.intake_keeps
    | with_reducible apply State.itemsGo_keeps
    | with_reducible apply State.judgesGo_keeps
    | with_reducible apply State.lanesGo_keeps
    | with_reducible apply State.pumpCtx_keeps
    | with_reducible apply State.pumpLog_keeps
    | with_reducible apply State.startFill_keeps
    | with_reducible apply State.startHeldWake_keeps
    | with_reducible apply State.startQueries_keeps
    | with_reducible apply State.takeTokens_keeps
    | with_reducible apply State.tenGo_keeps
    | with_reducible apply State.treeGo_keeps
    | assumption)

end Sys2Proof.Machine
end

