-- ==== Sys2Proof/Laws/Keep3.lean ====
section
/-! SUPPORT. Every operation of the units keeps the settings, part 3 of 6: the operations in the order in which they
use one another. -/
namespace Sys2Proof.Machine

set_option linter.unusedTactic false
set_option linter.unreachableTactic false
set_option linter.unusedVariables false

theorem State.showPinna_keeps {c : Settings} {s : State} (x1 : Nat) (x2 : Nat) (x3 : Bool) (h : s.Keeps c) :
    (s.showPinna x1 x2 x3).Keeps c := h

theorem State.countEcc_keeps {c : Settings} {s : State} (x1 : Nat) (h : s.Keeps c) : (s.countEcc x1).Keeps c := h

theorem State.fragCopyDone_keeps {c : Settings} {s : State} (h : s.Keeps c) : s.fragCopyDone.Keeps c := by
  unfold State.fragCopyDone
  try dsimp only
  repeat' (first
    | with_reducible assumption
    | split
    | dsimp only
    | with_reducible apply State.intake_keeps
    | with_reducible apply State.popFrag_keeps
    | (refine keep_mk rfl ?_ rfl)
    | (with_reducible apply foldl_keeps)
    | (with_reducible apply foldl_keeps1)
    | (intro _)
    | assumption)

theorem State.logAck_keeps {c : Settings} {s : State} (x1 : Bool) (h : s.Keeps c) : (s.logAck x1).Keeps c := by
  unfold State.logAck
  try dsimp only
  repeat' (first
    | with_reducible assumption
    | split
    | dsimp only
    | with_reducible apply State.loseRecord_keeps
    | with_reducible apply State.pageEvent_keeps
    | with_reducible apply State.pumpLog_keeps
    | (refine keep_mk rfl ?_ rfl)
    | (with_reducible apply foldl_keeps)
    | (with_reducible apply foldl_keeps1)
    | (intro _)
    | assumption)

theorem State.setFrag_keeps {c : Settings} {s : State} (x1 : FragIn) (h : s.Keeps c) : (s.setFrag x1).Keeps c := h

theorem State.modGroup_keeps {c : Settings} {s : State} (x1 : Nat) (x2 : SchGroup → SchGroup) (hg : ∀ g, (x2
    g).settings = g.settings) (h : s.Keeps c) : (s.modGroup x1 x2).Keeps c := by
  refine sch_keeps h (congrArg (fun l => (s.sch.gen, s.sch.scope, s.sch.forceEta, l)) ?_)
  unfold modifyAt
  split
  · rename_i a ha
    apply List.ext_getElem?
    intro i
    simp only [List.getElem?_map, List.getElem?_set]
    split
    · rename_i hi
      subst hi
      rw [ha]
      split
      · simp [hg]
      · rename_i hl
        exact absurd (List.getElem?_eq_some_iff.1 ha).1 hl
    · rfl
  · rfl

theorem State.afterRelease_keeps {c : Settings} {s : State} (x1 : Nat) (x2 : Nat) (h : s.Keeps c) : (s.afterRelease x1
    x2).Keeps c := by
  unfold State.afterRelease
  split
  · exact h
  · refine State.logConfig_keeps _ (State.modGroup_keeps _ _ (fun g => ?_) h)
    unfold SchGroup.take
    repeat' (first | rfl | split)

theorem State.etaReady_keeps {c : Settings} {s : State} (x1 : Nat) (x2 : Word) (h : s.Keeps c) : (s.etaReady x1
    x2).Keeps c := by
  unfold State.etaReady
  dsimp only
  have h1 := State.modGroup_keeps x1 (fun g => { g with formed := some x2 }) (fun _ => rfl) h
  split
  · exact State.modGroup_keeps _ _ (fun _ => rfl) h1
  · exact State.afterRelease_keeps _ _ (State.modGroup_keeps _ _ (fun _ => rfl) h1)

theorem State.applyPhi_keeps {c : Settings} {s : State} (x1 : Nat) (x2 : Word) (x3 : Word) (h : s.Keeps c) :
    (s.applyPhi x1 x2 x3).Keeps c := by
  unfold State.applyPhi
  dsimp only
  have h1 := State.modGroup_keeps x1 (fun g => g.setStat 30 false) (fun _ => rfl) h
  split
  · exact State.pageEvent_keeps _ _ (State.logEvent_keeps _ _ _ _ _ _ _ (State.modGroup_keeps _ _ (fun _ => rfl) h1))
  · split
    · exact State.modGroup_keeps _ _ (fun _ => rfl) h
    · exact State.etaReady_keeps _ _ h1

theorem State.enterCheck_keeps {c : Settings} {s : State} (x1 : List Nat) (h : s.Keeps c) : (s.enterCheck x1).Keeps c
    := by
  unfold State.enterCheck
  exact foldl_keeps (f := fun (s : State) k => s.modGroup k (fun g => { g with hashed := true }))
    (fun t k ht => State.modGroup_keeps _ _ (fun _ => rfl) ht) _ h

theorem State.releaseChecked_keeps {c : Settings} {s : State} (x1 : Word) (h : s.Keeps c) : (s.releaseChecked
    x1).Keeps c := by
  refine sch_keeps h (congrArg (fun l => (s.sch.gen, s.sch.scope, s.sch.forceEta, l)) ?_)
  rw [List.map_map]
  refine List.map_congr_left (fun g _ => ?_)
  dsimp only [Function.comp]
  split <;> rfl

theorem State.skewResult_keeps {c : Settings} {s : State} (x1 : Word) (x2 : DWord) (x3 : DWord) (h : s.Keeps c) :
    (s.skewResult x1 x2 x3).Keeps c := by
  unfold State.skewResult
  have h1 : (if x1 = s.step then { s with sch := { s.sch with checking := false, checked := true } } else s : State).Keeps c := by
    split <;> exact h
  dsimp only
  generalize (if x1 = s.step then { s with sch := { s.sch with checking := false, checked := true } } else s : State) = s1 at h1
  split
  · exact State.releaseChecked_keeps _ h1
  · refine State.pageEvent_keeps _ _ (State.pageEvent_keeps _ _ (State.logEvent_keeps _ _ _ _ _ _ _ ?_))
    have e : (s1.sch.groups.map (fun g => if g.inCheck x1 then
        (g.setStat 29 false).setStat 28 true else g)).map SchGroup.settings = s1.sch.groups.map SchGroup.settings := by
      rw [List.map_map]
      refine List.map_congr_left (fun g _ => ?_)
      dsimp only [Function.comp]
      split <;> rfl
    have h2 : s1.settings = c := h1
    refine (?_ : State.settings _ = _)
    rw [← h2]
    simp only [State.settings, e]

theorem State.setCheck_keeps {c : Settings} {s : State} (x1 : CheckSt) (h : s.Keeps c) : (s.setCheck x1).Keeps c :=
  h

theorem State.firmwareCheck_keeps {c : Settings} {s : State} (x1 : CheckSt) (x2 : DWord) (x3 : DWord) (h : s.Keeps c)
    : (s.firmwareCheck x1 x2 x3).Keeps c := by
  unfold State.firmwareCheck
  try dsimp only
  repeat' (first
    | with_reducible assumption
    | split
    | dsimp only
    | with_reducible apply State.logEvent_keeps
    | with_reducible apply State.pageEvent_keeps
    | (refine keep_mk rfl ?_ rfl)
    | (with_reducible apply foldl_keeps)
    | (with_reducible apply foldl_keeps1)
    | (intro _)
    | assumption)

theorem State.concludeCheck_keeps {c : Settings} {s : State} (x1 : CheckSt) (x2 : DWord) (x3 : DWord) (h : s.Keeps c)
    : (s.concludeCheck x1 x2 x3).1.Keeps c := by
  unfold State.concludeCheck
  repeat' (first
    | with_reducible assumption
    | split
    | extract_lets
    | with_reducible apply State.firmwareCheck_keeps
    | with_reducible apply State.sendDown_keeps
    | with_reducible apply State.setCheck_keeps
    | (with_reducible apply foldl_keeps)
    | (with_reducible apply foldl_keeps1)
    | (intro _)
    | assumption)

theorem State.takeDown_keeps {c : Settings} {s : State} (x1 : CheckSt) (h : s.Keeps c) : (s.takeDown x1).1.Keeps c := by
  unfold State.takeDown
  repeat' (first
    | split
    | with_reducible apply State.concludeCheck_keeps
    | with_reducible apply State.returnCredit_keeps
    | assumption)

theorem State.tryCheck_keeps {c : Settings} {s : State} (x1 : CheckSt) (h : s.Keeps c) : (s.tryCheck x1).1.Keeps c := by
  unfold State.tryCheck
  repeat' (first
    | split
    | extract_lets
    | with_reducible apply State.concludeCheck_keeps
    | with_reducible apply State.returnCredit_keeps
    | with_reducible apply State.sendUp_keeps
    | with_reducible apply State.setCheck_keeps
    | with_reducible apply State.takeDown_keeps
    | (with_reducible apply foldl_keeps)
    | (intro _)
    | assumption)

theorem State.startCheck_keeps {c : Settings} {s : State} (x1 : Nat) (x2 : Nat) (x3 : DWord) (h : s.Keeps c) :
    (s.startCheck x1 x2 x3).1.Keeps c := by
  unfold State.startCheck
  repeat' (first
    | split
    | extract_lets
    | with_reducible apply State.dropCheck_keeps
    | with_reducible apply State.setCheck_keeps
    | with_reducible apply State.tryCheck_keeps
    | (with_reducible apply foldl_keeps)
    | (intro _)
    | assumption)

theorem State.startCheck_keeps' {c : Settings} {s : State} {x1 : Nat} {x2 : Nat} {x3 : DWord} (h : s.Keeps c) {p : _} {t : State} (e : (s.startCheck x1 x2 x3) = (t, p)) : t.Keeps c := by
  have h2 := State.startCheck_keeps x1 x2 x3 h
  rw [e] at h2
  exact h2

theorem State.maybeCheck_keeps {c : Settings} {s : State} (h : s.Keeps c) : s.maybeCheck.Keeps c := by
  unfold State.maybeCheck
  try dsimp only
  repeat' (first
    | with_reducible assumption
    | split
    | with_reducible apply State.enterCheck_keeps
    | with_reducible apply State.releaseChecked_keeps
    | with_reducible apply State.skewResult_keeps
    | with_reducible apply State.startCheck_keeps
    | (refine keep_mk rfl ?_ rfl))

theorem State.deliverPhi_keeps {c : Settings} {s : State} (x1 : Nat) (x2 : Word) (x3 : Word) (h : s.Keeps c) :
    (s.deliverPhi x1 x2 x3).Keeps c := by
  unfold State.deliverPhi
  refine foldl_keeps (fun t k ht => ?_) _ h
  dsimp only
  have h1 := State.modGroup_keeps k (fun g => { g with phi := some x3 }) (fun _ => rfl) ht
  repeat' (first
    | exact ht
    | exact h1
    | exact State.pageEvent_keeps _ _ (State.logEvent_keeps _ _ _ _ _ _ _ ht)
    | exact State.maybeCheck_keeps (State.applyPhi_keeps _ _ _ h1)
    | split)

theorem State.freeSlot_keeps {c : Settings} {s : State} (x1 : Nat) (h : s.Keeps c) : (s.freeSlot x1).Keeps c := h

theorem State.leaveWindows_keeps {c : Settings} {s : State} (x1 : Nat) (h : s.Keeps c) : (s.leaveWindows x1).Keeps c
    := h

theorem State.widen_keeps {c : Settings} {s : State} (x1 : Chain) (h : s.Keeps c) : (s.widen x1).Keeps c := by
  unfold State.widen
  refine foldl_keeps (fun t a ht => ?_) _ h
  dsimp only
  refine State.pageEvent_keeps _ _ (State.logEvent_keeps _ _ _ _ _ _ _ ?_)
  have h1 : ∀ e, ((t.recordEntry a.1 x1.step e).setEntry a.1
      { e with level := BitVec.ofNat 3 (Nat.max e.level.toNat (a.2.2.1 + 1)) }).Keeps c :=
    fun e => State.setEntry_keeps _ _ (State.recordEntry_keeps _ _ _ ht)
  repeat' (first | exact num_keeps (h1 _) rfl | exact num_keeps ht rfl | split)

theorem State.wordWritten_keeps {c : Settings} {s : State} (x1 : Nat) (x2 : Bool) (h : s.Keeps c) : (s.wordWritten x1
    x2).Keeps c := by
  unfold State.wordWritten
  repeat' (first
    | with_reducible assumption
    | split
    | extract_lets
    | with_reducible apply State.count_keeps
    | with_reducible apply State.deliverPhi_keeps
    | with_reducible apply State.freeSlot_keeps
    | with_reducible apply State.leaveFirst_keeps
    | with_reducible apply State.leaveWindows_keeps
    | with_reducible apply State.logSpadErr_keeps
    | with_reducible apply State.widen_keeps
    | (with_reducible apply foldl_keeps)
    | (with_reducible apply foldl_keeps1)
    | (intro _)
    | assumption)

theorem State.writeDone_keeps {c : Settings} {s : State} (x1 : WriteTag) (h : s.Keeps c) : (s.writeDone x1).Keeps c := by
  unfold State.writeDone
  repeat' (first
    | with_reducible assumption
    | split
    | extract_lets
    | with_reducible apply State.logAck_keeps
    | with_reducible apply State.modChain_keeps
    | with_reducible apply State.setCtxCmd_keeps
    | with_reducible apply State.setFrag_keeps
    | with_reducible apply State.tileDrained_keeps
    | with_reducible apply State.wordWritten_keeps
    | (with_reducible apply foldl_keeps)
    | (with_reducible apply foldl_keeps1)
    | (intro _)
    | assumption)

theorem State.enqueue_keeps {c : Settings} {s : State} (x1 : PortMsg) (h : s.Keeps c) : (s.enqueue x1).Keeps c := by
  unfold State.enqueue
  repeat' (first
    | with_reducible assumption
    | split
    | extract_lets
    | (with_reducible apply foldl_keeps)
    | (with_reducible apply foldl_keeps1)
    | (intro _)
    | assumption)

theorem State.chainWrite_keeps {c : Settings} {s : State} (x1 : Nat) (x2 : List (Prod Nat Byte)) (h : s.Keeps c) :
    (s.chainWrite x1 x2).Keeps c := by
  unfold State.chainWrite
  repeat' (first
    | with_reducible assumption
    | split
    | extract_lets
    | with_reducible apply State.issueWrite_keeps
    | with_reducible apply State.modChain_keeps
    | (with_reducible apply foldl_keeps)
    | (with_reducible apply foldl_keeps1)
    | (intro _)
    | assumption)

theorem State.itemStats_keeps {c : Settings} {s : State} (x1 : Chain) (x2 : Item) (h : s.Keeps c) : (s.itemStats x1
    x2).Keeps c := by
  unfold State.itemStats
  repeat' (first
    | with_reducible assumption
    | split
    | extract_lets
    | with_reducible apply State.chainWrite_keeps
    | with_reducible apply State.modChain_keeps
    | (with_reducible apply foldl_keeps)
    | (with_reducible apply foldl_keeps1)
    | (intro _)
    | assumption)

theorem State.creditInit_keeps {c : Settings} {s : State} (h : s.Keeps c) : s.creditInit.Keeps c := h

theorem State.becomeReady_keeps {c : Settings} {s : State} (h : s.Keeps c) : s.becomeReady.Keeps c := by
  unfold State.becomeReady
  try dsimp only
  repeat' (first
    | with_reducible assumption
    | split
    | dsimp only
    | with_reducible apply State.creditInit_keeps
    | with_reducible apply State.setPwr_keeps
    | with_reducible apply State.settle_keeps
    | (refine keep_mk rfl ?_ rfl)
    | (with_reducible apply foldl_keeps)
    | (with_reducible apply foldl_keeps1)
    | (intro _)
    | assumption)

theorem State.cancel_keeps {c : Settings} {s : State} (x1 : Requester) (x2 : Word) (h : s.Keeps c) : (s.cancel x1
    x2).Keeps c := by
  unfold State.cancel
  repeat' (first
    | with_reducible assumption
    | split
    | extract_lets
    | with_reducible apply State.endChain_keeps
    | with_reducible apply State.issueWords_keeps
    | with_reducible apply State.regFault_keeps
    | (with_reducible apply foldl_keeps)
    | (with_reducible apply foldl_keeps1)
    | (intro _)
    | assumption)

theorem State.checkWrite_keeps {c : Settings} {s : State} (x1 : Requester) (x2 : Word) (h : s.Keeps c) : (s.checkWrite
    x1 x2).Keeps c := by
  unfold State.checkWrite
  repeat' (first
    | with_reducible assumption
    | split
    | extract_lets
    | with_reducible apply State.regFault_keeps
    | with_reducible apply State.startCheck_keeps
    | exact State.startCheck_keeps' (by assumption) (by assumption)
    | (with_reducible apply foldl_keeps)
    | (with_reducible apply foldl_keeps1)
    | (intro _)
    | assumption)

theorem State.ctxReport_keeps {c : Settings} {s : State} (x1 : Word) (x2 : Nat) (x3 : Nat) (h : s.Keeps c) :
    (s.ctxReport x1 x2 x3).Keeps c := by
  unfold State.ctxReport
  repeat' (first
    | with_reducible assumption
    | split
    | extract_lets
    | with_reducible apply State.logEvent_keeps
    | with_reducible apply State.pageEvent_keeps
    | (with_reducible apply foldl_keeps)
    | (with_reducible apply foldl_keeps1)
    | (intro _)
    | assumption)

theorem State.ctxCommand_keeps {c : Settings} {s : State} (x1 : Word) (h : s.Keeps c) : (s.ctxCommand x1).Keeps c := by
  unfold State.ctxCommand
  repeat' (first
    | with_reducible assumption
    | split
    | extract_lets
    | with_reducible apply State.ctxReport_keeps
    | with_reducible apply State.pumpCtx_keeps
    | (with_reducible apply foldl_keeps)
    | (with_reducible apply foldl_keeps1)
    | (intro _)
    | assumption)

theorem State.freeze_keeps {c : Settings} {s : State} (x1 : Requester) (x2 : Nat) (h : s.Keeps c) : (s.freeze x1
    x2).Keeps c := by
  unfold State.freeze
  repeat' (first
    | with_reducible assumption
    | split
    | extract_lets
    | with_reducible apply State.regFault_keeps
    | (with_reducible apply foldl_keeps)
    | (with_reducible apply foldl_keeps1)
    | (intro _)
    | assumption)

theorem State.imgAwait_keeps {c : Settings} {s : State} (x1 : ImgState) (h : s.Keeps c) : (s.imgAwait x1).Keeps c :=
  h

theorem State.imgAbort_keeps {c : Settings} {s : State} (x1 : ImgState) (x2 : Word) (h : s.Keeps c) : (s.imgAbort x1
    x2).Keeps c := by
  unfold State.imgAbort
  repeat' (first
    | with_reducible assumption
    | split
    | extract_lets
    | with_reducible apply State.imgAwait_keeps
    | with_reducible apply State.logEvent_keeps
    | (with_reducible apply foldl_keeps)
    | (with_reducible apply foldl_keeps1)
    | (intro _)
    | assumption)

theorem State.imgEnds_keeps {c : Settings} {s : State} (x1 : Nat) (x2 : Nat) (h : s.Keeps c) : (s.imgEnds x1 x2).Keeps
    c := h

theorem State.imgChecked_keeps {c : Settings} {s : State} (h : s.Keeps c) : s.imgChecked.Keeps c := by
  unfold State.imgChecked
  repeat' (first
    | with_reducible assumption
    | split
    | extract_lets
    | with_reducible apply State.imgEnds_keeps
    | (with_reducible apply foldl_keeps)
    | (with_reducible apply foldl_keeps1)
    | (intro _)
    | assumption)

theorem State.imgExport_keeps {c : Settings} {s : State} (h : s.Keeps c) : s.imgExport.Keeps c := by
  unfold State.imgExport
  repeat' (first
    | with_reducible assumption
    | split
    | extract_lets
    | with_reducible apply State.imgEnds_keeps
    | with_reducible apply State.setImgCmd_keeps
    | (with_reducible apply foldl_keeps)
    | (with_reducible apply foldl_keeps1)
    | (intro _)
    | assumption)

theorem State.imgPrepare_keeps {c : Settings} {s : State} (h : s.Keeps c) : s.imgPrepare.Keeps c := by
  unfold State.imgPrepare
  repeat' (first
    | with_reducible assumption
    | split
    | extract_lets
    | with_reducible apply State.imgAwait_keeps
    | with_reducible apply State.imgEnds_keeps
    | (with_reducible apply foldl_keeps)
    | (with_reducible apply foldl_keeps1)
    | (intro _)
    | assumption)

theorem State.imgReport_keeps {c : Settings} {s : State} (x1 : Nat) (x2 : Nat) (h : s.Keeps c) : (s.imgReport x1
    x2).Keeps c := by
  unfold State.imgReport
  repeat' (first
    | with_reducible assumption
    | split
    | extract_lets
    | with_reducible apply State.logEvent_keeps
    | with_reducible apply State.pageEvent_keeps
    | (with_reducible apply foldl_keeps)
    | (with_reducible apply foldl_keeps1)
    | (intro _)
    | assumption)

theorem State.imgRollback_keeps {c : Settings} {s : State} (h : s.Keeps c) : s.imgRollback.Keeps c := by
  unfold State.imgRollback
  repeat' (first
    | with_reducible assumption
    | split
    | extract_lets
    | with_reducible apply State.imgEnds_keeps
    | with_reducible apply State.setImgCmd_keeps
    | (with_reducible apply foldl_keeps)
    | (with_reducible apply foldl_keeps1)
    | (intro _)
    | assumption)

theorem State.imgCommand_keeps {c : Settings} {s : State} (x1 : Nat) (h : s.Keeps c) : (s.imgCommand x1).Keeps c := by
  unfold State.imgCommand
  repeat' (first
    | with_reducible assumption
    | split
    | extract_lets
    | with_reducible apply State.imgAbort_keeps
    | with_reducible apply State.imgChecked_keeps
    | with_reducible apply State.imgEnds_keeps
    | with_reducible apply State.imgExport_keeps
    | with_reducible apply State.imgPrepare_keeps
    | with_reducible apply State.imgReport_keeps
    | with_reducible apply State.imgRollback_keeps
    | (with_reducible apply foldl_keeps)
    | (with_reducible apply foldl_keeps1)
    | (intro _)
    | assumption)

theorem State.ring_keeps {c : Settings} {s : State} (x1 : Requester) (x2 : Word) (h : s.Keeps c) : (s.ring x1
    x2).Keeps c := by
  unfold State.ring
  repeat' (first
    | with_reducible assumption
    | split
    | extract_lets
    | with_reducible apply State.pageEvent_keeps
    | with_reducible apply State.regFault_keeps
    | (with_reducible apply foldl_keeps)
    | (with_reducible apply foldl_keeps1)
    | (intro _)
    | assumption)

theorem State.releaseGroup_keeps {c : Settings} {s : State} (x1 : Bool) (x2 : Nat) (h : s.Keeps c) : (s.releaseGroup
    x1 x2).1.Keeps c := by
  unfold State.releaseGroup
  dsimp only
  repeat' (first
    | exact h
    | exact State.afterRelease_keeps _ _ (State.modGroup_keeps _ _ (fun _ => rfl) h)
    | split)

theorem State.releaseGroup_keeps' {c : Settings} {s : State} {x1 : Bool} {x2 : Nat} (h : s.Keeps c) {p : _} {t : State} (e : (s.releaseGroup x1 x2) = (t, p)) : t.Keeps c := by
  have h2 := State.releaseGroup_keeps x1 x2 h
  rw [e] at h2
  exact h2

theorem State.schCommand_keeps {c : Settings} {s : State} (x1 : Bool) (x2 : Bool) (x3 : Nat) (h : s.Keeps c) :
    (s.schCommand x1 x2 x3).1.Keeps c := by
  unfold State.schCommand
  repeat' (first
    | with_reducible assumption
    | split
    | extract_lets
    | with_reducible apply State.maybeCheck_keeps
    | with_reducible apply State.releaseGroup_keeps
    | exact State.releaseGroup_keeps' (by assumption) (by assumption)
    | (with_reducible apply foldl_keeps)
    | (with_reducible apply foldl_keeps1)
    | (intro _)
    | assumption)

theorem State.schCommand_keeps' {c : Settings} {s : State} {x1 : Bool} {x2 : Bool} {x3 : Nat} (h : s.Keeps c) {p : _} {t : State} (e : (s.schCommand x1 x2 x3) = (t, p)) : t.Keeps c := by
  have h2 := State.schCommand_keeps x1 x2 x3 h
  rw [e] at h2
  exact h2

theorem State.schWrite_keeps {c : Settings} {s : State} (x1 : Requester) (x2 : Word) (h : s.Keeps c) : (s.schWrite x1
    x2).Keeps c := by
  unfold State.schWrite
  repeat' (first
    | with_reducible assumption
    | split
    | extract_lets
    | with_reducible apply State.regFault_keeps
    | with_reducible apply State.schCommand_keeps
    | exact State.schCommand_keeps' (by assumption) (by assumption)
    | (with_reducible apply foldl_keeps)
    | (with_reducible apply foldl_keeps1)
    | (intro _)
    | assumption)

theorem State.submitGo_keeps {c : Settings} {s : State} (h : s.Keeps c) : s.submitGo.Keeps c := by
  unfold State.submitGo
  repeat' (first
    | with_reducible assumption
    | split
    | extract_lets
    | with_reducible apply State.issueRead_keeps
    | (with_reducible apply foldl_keeps)
    | (with_reducible apply foldl_keeps1)
    | (intro _)
    | assumption)

theorem State.submit_keeps {c : Settings} {s : State} (x1 : Requester) (x2 : Word) (h : s.Keeps c) : (s.submit x1
    x2).Keeps c := by
  unfold State.submit
  repeat' (first
    | with_reducible assumption
    | split
    | extract_lets
    | with_reducible apply State.pageEvent_keeps
    | with_reducible apply State.regFault_keeps
    | with_reducible apply State.submitGo_keeps
    | (with_reducible apply foldl_keeps)
    | (with_reducible apply foldl_keeps1)
    | (intro _)
    | assumption)

theorem State.submitWrite_keeps {c : Settings} {s : State} (x1 : Requester) (x2 : Word) (h : s.Keeps c) :
    (s.submitWrite x1 x2).Keeps c := by
  unfold State.submitWrite
  repeat' (first
    | with_reducible assumption
    | split
    | extract_lets
    | with_reducible apply State.regFault_keeps
    | with_reducible apply State.submit_keeps
    | (with_reducible apply foldl_keeps)
    | (with_reducible apply foldl_keeps1)
    | (intro _)
    | assumption)

theorem State.switchWrite_keeps {c : Settings} {s : State} (h : s.Keeps c) : s.switchWrite.Keeps c := h

theorem State.loadNext_keeps {c : Settings} {s : State} (h : s.Keeps c) : s.loadNext.Keeps c := by
  unfold State.loadNext
  repeat' (first
    | with_reducible assumption
    | split
    | extract_lets
    | with_reducible apply State.issueRead_keeps
    | (with_reducible apply foldl_keeps)
    | (with_reducible apply foldl_keeps1)
    | (intro _)
    | assumption)

theorem State.tblCode_keeps {c : Settings} {s : State} (x1 : Nat) (x2 : Nat) (x3 : Nat) (h : s.Keeps c) : (s.tblCode
    x1 x2 x3).Keeps c := h

theorem State.tblReport_keeps {c : Settings} {s : State} (x1 : Nat) (x2 : Nat) (x3 : Nat) (x4 : Nat) (h : s.Keeps c) :
    (s.tblReport x1 x2 x3 x4).Keeps c := by
  unfold State.tblReport
  repeat' (first
    | with_reducible assumption
    | split
    | extract_lets
    | with_reducible apply State.logEvent_keeps
    | with_reducible apply State.pageEvent_keeps
    | with_reducible apply State.tblCode_keeps
    | (with_reducible apply foldl_keeps)
    | (with_reducible apply foldl_keeps1)
    | (intro _)
    | assumption)

theorem State.tblCommand_keeps {c : Settings} {s : State} (x1 : Nat) (h : s.Keeps c) : (s.tblCommand x1).Keeps c := by
  unfold State.tblCommand
  have hb : ∀ (u : TblUnit) b k, ({ s with tbl := u } : State).Keeps c → ({ s with tbl := u.setBank b k } : State).Keeps c :=
    fun u b k hu => setBank_keeps b k hu
  split
  · exact State.tblReport_keeps _ _ _ _ h
  · dsimp only
    split
    · have := hb s.tbl s.shadowBank { s.tbl.bank s.shadowBank with sealed := false, crzSteps := 0, crzCount := 0 } h
      exact this
    · split
      · repeat' (first
          | exact State.tblReport_keeps _ _ _ _ h
          | exact State.wantTables_keeps _ h
          | split)
      · repeat' (first
          | exact State.tblReport_keeps _ _ _ _ h
          | split)
        refine State.loadNext_keeps ?_
        have := hb s.tbl s.shadowBank { s.tbl.bank s.shadowBank with sealed := false, quarantine := false, fault := false, crzSteps := 0, crzCount := 0 } h
        exact this

theorem State.tblWrite_keeps {c : Settings} {s : State} (x1 : Requester) (x2 : Word) (h : s.Keeps c) : (s.tblWrite x1
    x2).Keeps c := by
  unfold State.tblWrite
  repeat' (first
    | with_reducible assumption
    | split
    | extract_lets
    | with_reducible apply State.regFault_keeps
    | with_reducible apply State.tblCommand_keeps
    | (with_reducible apply foldl_keeps)
    | (with_reducible apply foldl_keeps1)
    | (intro _)
    | assumption)

theorem State.tenReport_keeps {c : Settings} {s : State} (x1 : Word) (x2 : Nat) (x3 : Nat) (h : s.Keeps c) :
    (s.tenReport x1 x2 x3).Keeps c := by
  unfold State.tenReport
  repeat' (first
    | with_reducible assumption
    | split
    | extract_lets
    | with_reducible apply State.logEvent_keeps
    | with_reducible apply State.pageEvent_keeps
    | (with_reducible apply foldl_keeps)
    | (with_reducible apply foldl_keeps1)
    | (intro _)
    | assumption)

theorem State.tenCommand_keeps {c : Settings} {s : State} (x1 : Requester) (x2 : Word) (h : s.Keeps c) : (s.tenCommand
    x1 x2).Keeps c := by
  unfold State.tenCommand
  repeat' (first
    | with_reducible assumption
    | split
    | extract_lets
    | with_reducible apply State.setTenCmd_keeps
    | with_reducible apply State.tenGo_keeps
    | with_reducible apply State.tenReport_keeps
    | (with_reducible apply foldl_keeps)
    | (with_reducible apply foldl_keeps1)
    | (intro _)
    | assumption)

theorem State.command_keeps {c : Settings} {s : State} (x1 : Requester) (x2 : Page) (x3 : Nat) (x4 : Word) (h :
    s.Keeps c) : (s.command x1 x2 x3 x4).Keeps c := by
  unfold State.command
  repeat' (first
    | split
    | with_reducible apply State.cancel_keeps
    | with_reducible apply State.checkWrite_keeps
    | with_reducible apply State.ctxCommand_keeps
    | with_reducible apply State.freeze_keeps
    | with_reducible apply State.imgCommand_keeps
    | with_reducible apply State.noteCommand_keeps
    | with_reducible apply State.ring_keeps
    | with_reducible apply State.schWrite_keeps
    | with_reducible apply State.submitWrite_keeps
    | with_reducible apply State.tblWrite_keeps
    | with_reducible apply State.tenCommand_keeps
    | assumption)

theorem withArgs_settings {s t : State} (a : CmdArgs) (h : t.settings = (s.withArgs a).settings) :
    (t.withArgs s.cmdArgs).settings = s.settings := by
  simp only [State.settings, State.withArgs, State.cmdArgs, Settings.mk.injEq, Prod.mk.injEq] at h ⊢
  simp_all

theorem State.runHeld_keeps {c : Settings} {s : State} (x1 : HeldCmd) (h : s.Keeps c) : (s.runHeld x1).Keeps c := by
  have h2 : s.settings = c := h
  rw [← h2]
  unfold State.runHeld
  exact withArgs_settings _ (State.settle_keeps (State.command_keeps _ _ _ _ rfl))

theorem State.nowReady_keeps {c : Settings} {s : State} (h : s.Keeps c) : s.nowReady.Keeps c := by
  unfold State.nowReady
  repeat' (first
    | split
    | with_reducible apply State.becomeReady_keeps
    | with_reducible apply State.runHeld_keeps
    | (with_reducible apply foldl_keeps)
    | assumption)

theorem State.badCredit_keeps {c : Settings} {s : State} (x1 : CreditPath) (x2 : Word) (h : s.Keeps c) : (s.badCredit
    x1 x2).Keeps c := by
  unfold State.badCredit
  repeat' (first
    | with_reducible assumption
    | split
    | extract_lets
    | with_reducible apply State.logEvent_keeps
    | (with_reducible apply foldl_keeps)
    | (with_reducible apply foldl_keeps1)
    | (intro _)
    | assumption)

end Sys2Proof.Machine
end

