-- ==== Sys2Proof/Laws/Keep4.lean ====
section
/-! SUPPORT. Every operation of the units keeps the settings, part 4 of 6: the operations in the order in which they
use one another. -/
namespace Sys2Proof.Machine

set_option linter.unusedTactic false
set_option linter.unreachableTactic false
set_option linter.unusedVariables false

theorem State.creditIn_keeps {c : Settings} {s : State} (x1 : Option (Fin 16)) (x2 : Word) (h : s.Keeps c) :
    (s.creditIn x1 x2).Keeps c := by
  unfold State.creditIn
  repeat' (first
    | with_reducible assumption
    | split
    | extract_lets
    | with_reducible apply State.badCredit_keeps
    | with_reducible apply State.pumpTree_keeps
    | with_reducible apply State.send_keeps
    | (with_reducible apply foldl_keeps)
    | (with_reducible apply foldl_keeps1)
    | (intro _)
    | assumption)

theorem State.pairTile_keeps {c : Settings} {s : State} (x1 : MsgKey) (h : s.Keeps c) : (s.pairTile x1).Keeps c := by
  unfold State.pairTile
  repeat' (first
    | with_reducible assumption
    | split
    | extract_lets
    | with_reducible apply State.judgeAll_keeps
    | (with_reducible apply foldl_keeps)
    | (with_reducible apply foldl_keeps1)
    | (intro _)
    | assumption)

theorem State.captureDrop_keeps {c : Settings} {s : State} (x1 : Header) (x2 : Nat) (x3 : Nat) (h : s.Keeps c) :
    (s.captureDrop x1 x2 x3).Keeps c := h

theorem State.takeBad_keeps {c : Settings} {s : State} (x1 : Header) (h : s.Keeps c) : (s.takeBad x1).Keeps c := by
  unfold State.takeBad
  repeat' (first
    | with_reducible assumption
    | split
    | extract_lets
    | with_reducible apply State.captureDrop_keeps
    | with_reducible apply State.logEvent_keeps
    | with_reducible apply State.pageEvent_keeps
    | (with_reducible apply foldl_keeps)
    | (with_reducible apply foldl_keeps1)
    | (intro _)
    | assumption)

theorem State.applyFail_keeps {c : Settings} {s : State} (h : s.Keeps c) : s.applyFail.Keeps c := h

theorem State.pwrResult_keeps {c : Settings} {s : State} (x1 : BitVec 4) (h : s.Keeps c) : (s.pwrResult x1).Keeps c :=
  h

theorem State.abandonEntry_keeps {c : Settings} {s : State} (h : s.Keeps c) : s.abandonEntry.Keeps c := by
  unfold State.abandonEntry
  repeat' (first
    | with_reducible assumption
    | split
    | extract_lets
    | with_reducible apply State.setPwr_keeps
    | (with_reducible apply foldl_keeps)
    | (with_reducible apply foldl_keeps1)
    | (intro _)
    | assumption)

theorem State.wake_keeps {c : Settings} {s : State} (x1 : Bool) (h : s.Keeps c) : (s.wake x1).Keeps c := by
  unfold State.wake
  try dsimp only
  repeat' (first
    | with_reducible assumption
    | split
    | dsimp only
    | with_reducible apply State.abandonEntry_keeps
    | with_reducible apply State.startHeldWake_keeps
    | (refine keep_mk rfl ?_ rfl)
    | (with_reducible apply foldl_keeps)
    | (with_reducible apply foldl_keeps1)
    | (intro _)
    | assumption)

theorem State.requestResting_keeps {c : Settings} {s : State} (h : s.Keeps c) : s.requestResting.Keeps c := by
  unfold State.requestResting
  repeat' (first
    | with_reducible assumption
    | split
    | extract_lets
    | with_reducible apply State.pwrResult_keeps
    | with_reducible apply State.setPwr_keeps
    | with_reducible apply State.wake_keeps
    | (with_reducible apply foldl_keeps)
    | (with_reducible apply foldl_keeps1)
    | (intro _)
    | assumption)

theorem State.logEcc_keeps {c : Settings} {s : State} (x1 : Bool) (x2 : Nat) (x3 : Nat) (x4 : Entry) (x5 : Bool) (x6 :
    optParam (BitVec 16) 0) (h : s.Keeps c) : (s.logEcc x1 x2 x3 x4 x5 x6).Keeps c := by
  unfold State.logEcc
  repeat' (first
    | with_reducible assumption
    | split
    | extract_lets
    | with_reducible apply State.logEvent_keeps
    | with_reducible apply State.pageEvent_keeps
    | (with_reducible apply foldl_keeps)
    | (with_reducible apply foldl_keeps1)
    | (intro _)
    | assumption)

theorem State.setCopy_keeps {c : Settings} {s : State} (x1 : TableKey) (x2 : Nat) (x3 : Nat) (x4 : Option Entry) (h :
    s.Keeps c) : (s.setCopy x1 x2 x3 x4).Keeps c := h

theorem State.setFault_keeps {c : Settings} {s : State} (x1 : Nat) (h : s.Keeps c) : (s.setFault x1).Keeps c := by
  unfold State.setFault
  split
  · exact h
  · exact setBank_keeps _ _ h

theorem State.refetch_keeps {c : Settings} {s : State} (x1 : BitVec 16) (x2 : TableKey) (x3 : Nat) (x4 : Nat) (x5 :
    Prod Nat Nat) (x6 : Entry) (x7 : Entry) (h : s.Keeps c) : (s.refetch x1 x2 x3 x4 x5 x6 x7).Keeps c := by
  unfold State.refetch
  repeat' (first
    | with_reducible assumption
    | split
    | extract_lets
    | with_reducible apply State.count_keeps
    | with_reducible apply State.countEcc_keeps
    | with_reducible apply State.logEcc_keeps
    | with_reducible apply State.setCopy_keeps
    | with_reducible apply State.setFault_keeps
    | (with_reducible apply foldl_keeps)
    | (with_reducible apply foldl_keeps1)
    | (intro _)
    | assumption)

theorem State.restDrop_keeps {c : Settings} {s : State} (x1 : BitVec 80) (h : s.Keeps c) : (s.restDrop x1).Keeps c := by
  unfold State.restDrop
  repeat' (first
    | with_reducible assumption
    | split
    | extract_lets
    | with_reducible apply State.logEvent_keeps
    | (with_reducible apply foldl_keeps)
    | (with_reducible apply foldl_keeps1)
    | (intro _)
    | assumption)

theorem State.answerRead_keeps {c : Settings} {s : State} (x1 : Access) (x2 : Word) (x3 : optParam Nat 0) (h : s.Keeps
    c) : (s.answerRead x1 x2 x3).Keeps c := by
  unfold State.answerRead
  repeat' (first
    | with_reducible assumption
    | split
    | extract_lets
    | with_reducible apply State.send_keeps
    | (with_reducible apply foldl_keeps)
    | (with_reducible apply foldl_keeps1)
    | (intro _)
    | assumption)

theorem State.choose_keeps {c : Settings} {s : State} (h : s.Keeps c) : (State.choose s).2.Keeps c := h

theorem State.choose_keeps' {c : Settings} {s : State} (h : s.Keeps c) {p : _} {t : State} (e : (State.choose s) = (p, t)) : t.Keeps c := by
  have h2 := State.choose_keeps  h
  rw [e] at h2
  exact h2

theorem State.clearRead_keeps {c : Settings} {s : State} (x1 : Page) (x2 : Nat) (h : s.Keeps c) : (s.clearRead x1
    x2).Keeps c := by
  unfold State.clearRead
  try dsimp only
  repeat' (first
    | with_reducible assumption
    | split
    | dsimp only
    | with_reducible apply State.setHdr_keeps
    | (refine keep_mk rfl ?_ rfl)
    | (with_reducible apply foldl_keeps)
    | (with_reducible apply foldl_keeps1)
    | (intro _)
    | assumption)

theorem State.clearPair_keeps {c : Settings} {s : State} (x1 : PairId) (h : s.Keeps c) : (s.clearPair x1).Keeps c := by
  unfold State.clearPair
  repeat' (first
    | with_reducible assumption
    | split
    | extract_lets
    | (with_reducible apply foldl_keeps)
    | (with_reducible apply foldl_keeps1)
    | (intro _)
    | assumption)

theorem State.pairHi_keeps {c : Settings} {s : State} (x1 : Requester) (x2 : PairId) (x3 : DWord) (h : s.Keeps c) :
    (s.pairHi x1 x2 x3).1.Keeps c := by
  unfold State.pairHi
  repeat' (first
    | with_reducible assumption
    | split
    | extract_lets
    | (with_reducible apply foldl_keeps)
    | (with_reducible apply foldl_keeps1)
    | (intro _)
    | assumption)

theorem State.pairHi_keeps' {c : Settings} {s : State} {x1 : Requester} {x2 : PairId} {x3 : DWord} (h : s.Keeps c) {p : _} {t : State} (e : (s.pairHi x1 x2 x3) = (t, p)) : t.Keeps c := by
  have h2 := State.pairHi_keeps x1 x2 x3 h
  rw [e] at h2
  exact h2

theorem State.pairLo_keeps {c : Settings} {s : State} (x1 : Requester) (x2 : PairId) (x3 : DWord) (h : s.Keeps c) :
    (s.pairLo x1 x2 x3).1.Keeps c := h

theorem State.pairLo_keeps' {c : Settings} {s : State} {x1 : Requester} {x2 : PairId} {x3 : DWord} (h : s.Keeps c) {p : _} {t : State} (e : (s.pairLo x1 x2 x3) = (t, p)) : t.Keeps c := by
  have h2 := State.pairLo_keeps x1 x2 x3 h
  rw [e] at h2
  exact h2

theorem State.readPair_keeps {c : Settings} {s : State} (x1 : Requester) (x2 : PairId) (x3 : Bool) (h : s.Keeps c) :
    (s.readPair x1 x2 x3).1.Keeps c := by
  unfold State.readPair
  repeat' (first
    | with_reducible assumption
    | split
    | extract_lets
    | with_reducible apply State.clearPair_keeps
    | with_reducible apply State.pairHi_keeps
    | exact State.pairHi_keeps' (by assumption) (by assumption)
    | with_reducible apply State.pairLo_keeps
    | exact State.pairLo_keeps' (by assumption) (by assumption)
    | (with_reducible apply foldl_keeps)
    | (with_reducible apply foldl_keeps1)
    | (intro _)
    | assumption)

theorem State.readPair_keeps' {c : Settings} {s : State} {x1 : Requester} {x2 : PairId} {x3 : Bool} (h : s.Keeps c) {p : _} {t : State} (e : (s.readPair x1 x2 x3) = (t, p)) : t.Keeps c := by
  have h2 := State.readPair_keeps x1 x2 x3 h
  rw [e] at h2
  exact h2

theorem State.readReg_keeps {c : Settings} {s : State} (x1 : Requester) (x2 : Page) (x3 : Nat) (h : s.Keeps c) :
    (s.readReg x1 x2 x3).1.Keeps c := by
  unfold State.readReg
  repeat' (first
    | with_reducible assumption
    | split
    | extract_lets
    | with_reducible apply State.choose_keeps
    | exact State.choose_keeps' (by assumption) (by assumption)
    | with_reducible apply State.clearRead_keeps
    | with_reducible apply State.readPair_keeps
    | exact State.readPair_keeps' (by assumption) (by assumption)
    | (with_reducible apply foldl_keeps)
    | (with_reducible apply foldl_keeps1)
    | (intro _)
    | assumption)

theorem State.refuseAccess_keeps {c : Settings} {s : State} (x1 : Access) (h : s.Keeps c) : (s.refuseAccess x1).Keeps
    c := by
  unfold State.refuseAccess
  repeat' (first
    | with_reducible assumption
    | split
    | extract_lets
    | with_reducible apply State.recordFault_keeps
    | with_reducible apply State.wake_keeps
    | (with_reducible apply foldl_keeps)
    | (with_reducible apply foldl_keeps1)
    | (intro _)
    | assumption)

theorem State.refuseRead_keeps {c : Settings} {s : State} (x1 : Access) (h : s.Keeps c) : (s.refuseRead x1).Keeps c := by
  unfold State.refuseRead
  repeat' (first
    | with_reducible assumption
    | split
    | extract_lets
    | with_reducible apply State.answerRead_keeps
    | with_reducible apply State.refuseAccess_keeps
    | (with_reducible apply foldl_keeps)
    | (with_reducible apply foldl_keeps1)
    | (intro _)
    | assumption)

theorem State.waitRead_keeps {c : Settings} {s : State} (x1 : Access) (x2 : Bool) (x3 : Nat) (h : s.Keeps c) :
    (s.waitRead x1 x2 x3).Keeps c := h

theorem State.busRead_keeps {c : Settings} {s : State} (x1 : Access) (h : s.Keeps c) : (s.busRead x1).Keeps c := by
  unfold State.busRead
  repeat' (first
    | split
    | extract_lets
    | with_reducible apply State.answerRead_keeps
    | with_reducible apply State.readReg_keeps
    | with_reducible apply State.recordFault_keeps
    | with_reducible apply State.refuseRead_keeps
    | with_reducible apply State.startQueries_keeps
    | assumption)

theorem State.answerWrite_keeps {c : Settings} {s : State} (x1 : Access) (x2 : optParam Nat 0) (h : s.Keeps c) :
    (s.answerWrite x1 x2).Keeps c := by
  unfold State.answerWrite
  repeat' (first
    | with_reducible assumption
    | split
    | extract_lets
    | with_reducible apply State.send_keeps
    | (with_reducible apply foldl_keeps)
    | (with_reducible apply foldl_keeps1)
    | (intro _)
    | assumption)

theorem State.refuseWrite_keeps {c : Settings} {s : State} (x1 : Access) (h : s.Keeps c) : (s.refuseWrite x1).Keeps c
    := by
  unfold State.refuseWrite
  repeat' (first
    | with_reducible assumption
    | split
    | extract_lets
    | with_reducible apply State.answerWrite_keeps
    | with_reducible apply State.refuseAccess_keeps
    | (with_reducible apply foldl_keeps)
    | (with_reducible apply foldl_keeps1)
    | (intro _)
    | assumption)

theorem State.commandWrite_keeps {c : Settings} {s : State} (x1 : Requester) (x2 : Page) (x3 : Nat) (x4 : Word) (h :
    s.Keeps c) : (s.commandWrite x1 x2 x3 x4).Keeps c := by
  unfold State.commandWrite
  repeat' (first
    | with_reducible assumption
    | split
    | extract_lets
    | with_reducible apply State.command_keeps
    | with_reducible apply State.regFault_keeps
    | with_reducible apply State.settle_keeps
    | with_reducible apply State.wake_keeps
    | (with_reducible apply foldl_keeps)
    | (with_reducible apply foldl_keeps1)
    | (intro _)
    | assumption)

theorem State.writeRam_keeps {c : Settings} {s : State} (x1 : Bool) (x2 : Nat) (x3 : Entry) (h : s.Keeps c) :
    (s.writeRam x1 x2 x3).Keeps c := by
  unfold State.writeRam
  exact setBank_keeps _ _ h

theorem State.flipBit_keeps {c : Settings} {s : State} (x1 : Requester) (x2 : Nat) (h : s.Keeps c) : (s.flipBit x1
    x2).Keeps c := by
  unfold State.flipBit
  try dsimp only
  repeat' (first
    | with_reducible assumption
    | split
    | dsimp only
    | with_reducible apply State.regFault_keeps
    | with_reducible apply State.setCopy_keeps
    | with_reducible apply State.writeRam_keeps
    | (refine keep_mk rfl ?_ rfl)
    | (with_reducible apply foldl_keeps)
    | (with_reducible apply foldl_keeps1)
    | (intro _)
    | assumption)

theorem State.holdLo_keeps {c : Settings} {s : State} (x1 : Requester) (x2 : PairId) (x3 : Word) (h : s.Keeps c) :
    (s.holdLo x1 x2 x3).Keeps c := h

theorem State.lifeCommand_keeps {c : Settings} {s : State} (x1 : Requester) (x2 : Nat) (h : s.Keeps c) :
    (s.lifeCommand x1 x2).Keeps c := by
  unfold State.lifeCommand
  repeat' (first
    | with_reducible assumption
    | split
    | extract_lets
    | with_reducible apply State.regFault_keeps
    | (with_reducible apply foldl_keeps)
    | (with_reducible apply foldl_keeps1)
    | (intro _)
    | assumption)

theorem State.refuseDormant_keeps {c : Settings} {s : State} (h : s.Keeps c) : s.refuseDormant.Keeps c := by
  unfold State.refuseDormant
  repeat' (first
    | with_reducible assumption
    | split
    | extract_lets
    | with_reducible apply State.logEvent_keeps
    | with_reducible apply State.pageEvent_keeps
    | (with_reducible apply foldl_keeps)
    | (with_reducible apply foldl_keeps1)
    | (intro _)
    | assumption)

theorem State.writeBacks_keeps {c : Settings} {s : State} (h : s.Keeps c) : s.writeBacks.Keeps c := by
  unfold State.writeBacks
  repeat' (first
    | split
    | extract_lets
    | (with_reducible apply foldl_keeps)
    | (intro _)
    | assumption)

theorem State.imgFail_keeps {c : Settings} {s : State} (h : s.Keeps c) : s.imgFail.Keeps c := by
  unfold State.imgFail
  repeat' (first
    | with_reducible assumption
    | split
    | extract_lets
    | with_reducible apply State.setImgCmd_keeps
    | (with_reducible apply foldl_keeps)
    | (with_reducible apply foldl_keeps1)
    | (intro _)
    | assumption)

theorem State.purgeLog_keeps {c : Settings} {s : State} (h : s.Keeps c) : s.purgeLog.Keeps c := h

theorem State.nodeDone_keeps {c : Settings} {s : State} (x1 : Chain) (h : s.Keeps c) : (s.nodeDone x1).Keeps c := by
  unfold State.nodeDone
  repeat' (first
    | with_reducible assumption
    | split
    | extract_lets
    | with_reducible apply State.finalReady_keeps
    | exact State.finalReady_keeps' (by assumption) (by assumption)
    | with_reducible apply State.finalRecords_keeps
    | with_reducible apply State.modChain_keeps
    | with_reducible apply State.sendUp_keeps
    | (with_reducible apply foldl_keeps)
    | (with_reducible apply foldl_keeps1)
    | (intro _)
    | assumption)

theorem State.logRefusal_keeps {c : Settings} {s : State} (x1 : Word) (x2 : Nat) (x3 : BitVec 16) (h : s.Keeps c) :
    (s.logRefusal x1 x2 x3).Keeps c := by
  unfold State.logRefusal
  try dsimp only
  repeat' (first
    | with_reducible assumption
    | split
    | dsimp only
    | with_reducible apply State.count_keeps
    | with_reducible apply State.logEvent_keeps
    | with_reducible apply State.pageEvent_keeps
    | (refine keep_mk rfl ?_ rfl)
    | (with_reducible apply foldl_keeps)
    | (with_reducible apply foldl_keeps1)
    | (intro _)
    | assumption)

theorem State.logOverlap_keeps {c : Settings} {s : State} (x1 : Nat) (x2 : Word) (x3 : Word) (x4 : BitVec 16) (h :
    s.Keeps c) : (s.logOverlap x1 x2 x3 x4).Keeps c := by
  unfold State.logOverlap
  repeat' (first
    | with_reducible assumption
    | with_reducible apply State.logEvent_keeps
    | with_reducible apply State.pageEvent_keeps
    | (refine keep_mk rfl ?_ rfl))

theorem State.rollbackData_keeps {c : Settings} {s : State} (x1 : List (Prod Nat (List Byte))) (h : s.Keeps c) :
    (s.rollbackData x1).Keeps c := by
  unfold State.rollbackData
  repeat' (first
    | with_reducible assumption
    | split
    | extract_lets
    | with_reducible apply State.issueWrite_keeps
    | with_reducible apply State.setImgCmd_keeps
    | (with_reducible apply foldl_keeps)
    | (with_reducible apply foldl_keeps1)
    | (intro _)
    | assumption)

theorem State.addSample_keeps {c : Settings} {s : State} (x1 : Nat) (x2 : Resolved) (x3 : Bool) (x4 : EvIn) (x5 :
    Outcome) (x6 : Bool) (x7 : BitVec 16) (h : s.Keeps c) : (s.addSample x1 x2 x3 x4 x5 x6 x7).Keeps c := by
  unfold State.addSample
  try dsimp only
  repeat' (first
    | with_reducible assumption
    | split
    | dsimp only
    | with_reducible apply State.choose_keeps
    | exact State.choose_keeps' (by assumption) (by assumption)
    | (refine keep_mk rfl ?_ rfl)
    | (with_reducible apply foldl_keeps)
    | (with_reducible apply foldl_keeps1)
    | (intro _)
    | assumption)

theorem State.considerSample_keeps {c : Settings} {s : State} (x1 : Nat) (h : s.Keeps c) : (s.considerSample
    x1).1.Keeps c := by
  unfold State.considerSample
  repeat' (first
    | with_reducible assumption
    | split
    | extract_lets
    | with_reducible apply State.count_keeps
    | (with_reducible apply foldl_keeps)
    | (with_reducible apply foldl_keeps1)
    | (intro _)
    | assumption)

theorem State.considerSample_keeps' {c : Settings} {s : State} {x1 : Nat} (h : s.Keeps c) {p : _} {t : State} (e : (s.considerSample x1) = (t, p)) : t.Keeps c := by
  have h2 := State.considerSample_keeps x1 h
  rw [e] at h2
  exact h2

theorem State.countSlots_keeps {c : Settings} {s : State} (x1 : Nat) (x2 : Grade) (x3 : Nat) (h : s.Keeps c) :
    (s.countSlots x1 x2 x3).Keeps c := by
  unfold State.countSlots
  try dsimp only
  repeat' (first
    | with_reducible assumption
    | split
    | dsimp only
    | with_reducible apply State.count_keeps
    | (refine keep_mk rfl ?_ rfl)
    | (with_reducible apply foldl_keeps)
    | (with_reducible apply foldl_keeps1)
    | (intro _)
    | assumption)

theorem State.refetchAll_keeps {c : Settings} {s : State} (x1 : BitVec 16) (x2 : Nat) (x3 : Prod (List (Prod TblRef
    Nat)) (List Nat)) (h : s.Keeps c) : (s.refetchAll x1 x2 x3).Keeps c := by
  unfold State.refetchAll
  repeat' (first
    | with_reducible apply State.refetch_keeps
    | (with_reducible apply foldl_keeps)
    | (intro _)
    | assumption)

theorem State.ownUse_keeps {c : Settings} {s : State} (x1 : Bool) (x2 : BitVec 16) (x3 : Nat) (x4 : Nat) (x5 : Word)
    (h : s.Keeps c) : (s.ownUse x1 x2 x3 x4 x5).Keeps c := by
  unfold State.ownUse
  repeat' (first
    | split
    | with_reducible apply State.addSample_keeps
    | exact State.considerSample_keeps' (by assumption) (by assumption)
    | with_reducible apply State.count_keeps
    | with_reducible apply State.countSlots_keeps
    | with_reducible apply State.refetchAll_keeps)

theorem State.gnormDone_keeps {c : Settings} {s : State} (x1 : Chain) (x2 : List Nat) (h : s.Keeps c) : (s.gnormDone
    x1 x2).Keeps c := by
  unfold State.gnormDone
  repeat' (first
    | with_reducible assumption
    | split
    | with_reducible apply State.logEvent_keeps
    | with_reducible apply State.ownUse_keeps
    | (refine keep_mk rfl ?_ rfl))

theorem State.dropBell_keeps {c : Settings} {s : State} (x1 : Header) (x2 : Nat) (x3 : Option Chain) (h : s.Keeps c) :
    (s.dropBell x1 x2 x3).Keeps c := by
  unfold State.dropBell
  repeat' (first
    | with_reducible assumption
    | split
    | extract_lets
    | with_reducible apply State.captureDrop_keeps
    | with_reducible apply State.count_keeps
    | with_reducible apply State.logEvent_keeps
    | with_reducible apply State.modChain_keeps
    | with_reducible apply State.pageEvent_keeps
    | (with_reducible apply foldl_keeps)
    | (with_reducible apply foldl_keeps1)
    | (intro _)
    | assumption)

theorem State.switchAccept_keeps {c : Settings} {s : State} (h : s.Keeps c) : s.switchAccept.Keeps c := by
  unfold State.switchAccept
  repeat' (first
    | with_reducible assumption
    | split
    | extract_lets
    | with_reducible apply State.pageEvent_keeps
    | with_reducible apply State.tblCode_keeps
    | (with_reducible apply foldl_keeps)
    | (with_reducible apply foldl_keeps1)
    | (intro _)
    | assumption)

theorem State.arm_keeps {c : Settings} {s : State} (x1 : Word) (x2 : ChainDesc) (h : s.Keeps c) : (s.arm x1 x2).Keeps
    c := by
  unfold State.arm
  repeat' (first
    | with_reducible assumption
    | split
    | extract_lets
    | (with_reducible apply foldl_keeps)
    | (with_reducible apply foldl_keeps1)
    | (intro _)
    | assumption)

theorem State.finishItem_keeps {c : Settings} {s : State} (x1 : Nat) (x2 : Nat) (h : s.Keeps c) : (s.finishItem x1
    x2).Keeps c := by
  unfold State.finishItem
  repeat' (first
    | with_reducible assumption
    | split
    | extract_lets
    | with_reducible apply State.count_keeps
    | with_reducible apply State.endItem_keeps
    | with_reducible apply State.itemStats_keeps
    | with_reducible apply State.modItem_keeps
    | with_reducible apply State.modWindow_keeps
    | with_reducible apply State.spawn_keeps
    | with_reducible apply State.writeItem_keeps
    | (with_reducible apply foldl_keeps)
    | (with_reducible apply foldl_keeps1)
    | (intro _)
    | assumption)

theorem State.noteOnce_keeps {c : Settings} {s : State} (x1 : Bool) (x2 : Nat) (x3 : BitVec 4) (x4 : BitVec 16) (h :
    s.Keeps c) : (s.noteOnce x1 x2 x3 x4).Keeps c := by
  unfold State.noteOnce
  repeat' (first
    | split
    | with_reducible apply State.logEvent_keeps
    | with_reducible apply State.pageEvent_keeps
    | assumption)

theorem State.faultNotice_keeps {c : Settings} {s : State} (x1 : Nat) (x2 : Nat) (h : s.Keeps c) : (s.faultNotice x1
    x2).Keeps c := by
  unfold State.faultNotice
  repeat' (first
    | with_reducible assumption
    | split
    | extract_lets
    | with_reducible apply State.imgAbort_keeps
    | with_reducible apply State.logEvent_keeps
    | (with_reducible apply foldl_keeps)
    | (with_reducible apply foldl_keeps1)
    | (intro _)
    | assumption)

theorem State.evictLine_keeps {c : Settings} {s : State} (h : s.Keeps c) : s.evictLine.Keeps c := by
  unfold State.evictLine
  repeat' (first
    | with_reducible assumption
    | split
    | extract_lets
    | with_reducible apply State.issueWrite_keeps
    | (with_reducible apply foldl_keeps)
    | (with_reducible apply foldl_keeps1)
    | (intro _)
    | assumption)

theorem State.exportData_keeps {c : Settings} {s : State} (x1 : Nat) (x2 : List (Prod Nat (List Byte))) (h : s.Keeps
    c) : (s.exportData x1 x2).Keeps c := by
  unfold State.exportData
  repeat' (first
    | with_reducible assumption
    | split
    | extract_lets
    | with_reducible apply State.setImgCmd_keeps
    | (with_reducible apply foldl_keeps)
    | (with_reducible apply foldl_keeps1)
    | (intro _)
    | assumption)

theorem State.countWrite_keeps {c : Settings} {s : State} (x1 : Bool) (h : s.Keeps c) : (s.countWrite x1).Keeps c :=
  h

theorem State.answerShadow_keeps {c : Settings} {s : State} (x1 : Access) (x2 : Nat) (h : s.Keeps c) : (s.answerShadow
    x1 x2).Keeps c := by
  unfold State.answerShadow
  repeat' (first
    | with_reducible assumption
    | split
    | extract_lets
    | with_reducible apply State.answerRead_keeps
    | (with_reducible apply foldl_keeps)
    | (with_reducible apply foldl_keeps1)
    | (intro _)
    | assumption)

theorem State.ctxCmdDone_keeps {c : Settings} {s : State} (h : s.Keeps c) : s.ctxCmdDone.Keeps c := by
  unfold State.ctxCmdDone
  repeat' (first
    | with_reducible assumption
    | split
    | extract_lets
    | with_reducible apply State.ctxReport_keeps
    | (with_reducible apply foldl_keeps)
    | (with_reducible apply foldl_keeps1)
    | (intro _)
    | assumption)

theorem State.admitFetch_keeps {c : Settings} {s : State} (x1 : Fin 8) (x2 : Header) (h : s.Keeps c) : (s.admitFetch
    x1 x2).Keeps c := by
  unfold State.admitFetch
  repeat' (first
    | with_reducible assumption
    | split
    | extract_lets
    | with_reducible apply State.lanesGo_keeps
    | with_reducible apply State.logEvent_keeps
    | with_reducible apply State.modLane_keeps
    | with_reducible apply State.pushLane_keeps
    | (with_reducible apply foldl_keeps)
    | (with_reducible apply foldl_keeps1)
    | (intro _)
    | assumption)

theorem State.admitLane_keeps {c : Settings} {s : State} (x1 : Fin 8) (x2 : LaneReq) (h : s.Keeps c) : (s.admitLane x1
    x2).Keeps c := by
  unfold State.admitLane
  repeat' (first
    | with_reducible assumption
    | split
    | extract_lets
    | with_reducible apply State.admitEval_keeps
    | with_reducible apply State.admitFetch_keeps
    | (with_reducible apply foldl_keeps)
    | (with_reducible apply foldl_keeps1)
    | (intro _)
    | assumption)

theorem State.rmsFactor_keeps {c : Settings} {s : State} (x1 : Chain) (x2 : Nat) (h : s.Keeps c) : (s.rmsFactor x1
    x2).1.Keeps c := by
  unfold State.rmsFactor
  repeat' (first
    | split
    | extract_lets
    | with_reducible apply State.count_keeps
    | with_reducible apply State.noteOnce_keeps
    | with_reducible apply State.ownUse_keeps
    | assumption)

theorem State.rmsFactor_keeps' {c : Settings} {s : State} {x1 : Chain} {x2 : Nat} (h : s.Keeps c) {p : _} {t : State} (e : (s.rmsFactor x1 x2) = (t, p)) : t.Keeps c := by
  have h2 := State.rmsFactor_keeps x1 x2 h
  rw [e] at h2
  exact h2

theorem State.rmsDone_keeps {c : Settings} {s : State} (x1 : Chain) (x2 : List Nat) (h : s.Keeps c) : (s.rmsDone x1
    x2).Keeps c := by
  unfold State.rmsDone
  repeat' (first
    | with_reducible assumption
    | split
    | extract_lets
    | with_reducible apply State.modChain_keeps
    | with_reducible apply State.rmsFactor_keeps
    | exact State.rmsFactor_keeps' (by assumption) (by assumption)
    | (with_reducible apply foldl_keeps)
    | (with_reducible apply foldl_keeps1)
    | (intro _)
    | assumption)

theorem State.rowLse_keeps {c : Settings} {s : State} (x1 : Chain) (x2 : Nat) (h : s.Keeps c) : (s.rowLse x1
    x2).1.Keeps c := by
  unfold State.rowLse
  repeat' (first
    | split
    | extract_lets
    | with_reducible apply State.ownUse_keeps
    | assumption)

theorem State.xentRows_keeps {c : Settings} {s : State} (x1 : Chain) (x2 : List Nat) (h : s.Keeps c) : (s.xentRows x1
    x2).1.Keeps c := by
  unfold State.xentRows
  generalize List.range x1.d.rows = ks
  refine foldl_keeps1 (fun p a hp => ?_) _ h
  dsimp only
  split
  · exact hp
  · have h1 := State.rowLse_keeps x1 a hp
    generalize p.1.rowLse x1 a = q at h1
    obtain ⟨s1, l⟩ := q
    dsimp only at h1 ⊢
    repeat' (first
      | exact h1
      | with_reducible exact State.logEvent_keeps _ _ _ _ _ _ _ h1
      | with_reducible apply State.count_keeps
      | split)

theorem State.xentRows_keeps' {c : Settings} {s : State} {x1 : Chain} {x2 : List Nat} (h : s.Keeps c) {p : _} {t : State} (e : (s.xentRows x1 x2) = (t, p)) : t.Keeps c := by
  have h2 := State.xentRows_keeps x1 x2 h
  rw [e] at h2
  exact h2

end Sys2Proof.Machine
end

