-- ==== Sys2Proof/Laws/Keep5.lean ====
section
/-! SUPPORT. Every operation of the units keeps the settings, part 5 of 6: the operations in the order in which they
use one another. -/
namespace Sys2Proof.Machine

set_option linter.unusedTactic false
set_option linter.unreachableTactic false
set_option linter.unusedVariables false

theorem State.xentDone_keeps {c : Settings} {s : State} (x1 : Chain) (x2 : List Nat) (h : s.Keeps c) : (s.xentDone x1
    x2).Keeps c := by
  unfold State.xentDone
  repeat' (first
    | with_reducible assumption
    | split
    | extract_lets
    | with_reducible apply State.chainWrite_keeps
    | with_reducible apply State.modChain_keeps
    | with_reducible apply State.xentRows_keeps
    | exact State.xentRows_keeps' (by assumption) (by assumption)
    | (with_reducible apply foldl_keeps)
    | (with_reducible apply foldl_keeps1)
    | (intro _)
    | assumption)

theorem State.statDone_keeps {c : Settings} {s : State} (x1 : Chain) (x2 : List Nat) (h : s.Keeps c) : (s.statDone x1
    x2).Keeps c := by
  unfold State.statDone
  repeat' (first
    | with_reducible assumption
    | split
    | extract_lets
    | with_reducible apply State.chainWrite_keeps
    | with_reducible apply State.gnormDone_keeps
    | with_reducible apply State.rmsDone_keeps
    | with_reducible apply State.xentDone_keeps
    | (with_reducible apply foldl_keeps)
    | (with_reducible apply foldl_keeps1)
    | (intro _)
    | assumption)

theorem State.idleExpires_keeps {c : Settings} {s : State} (h : s.Keeps c) : s.idleExpires.Keeps c := by
  unfold State.idleExpires
  repeat' (first
    | with_reducible assumption
    | split
    | extract_lets
    | with_reducible apply State.requestResting_keeps
    | (with_reducible apply foldl_keeps)
    | (with_reducible apply foldl_keeps1)
    | (intro _)
    | assumption)

theorem State.creditOver_keeps {c : Settings} {s : State} (x1 : Nat) (x2 : Nat) (x3 : Nat) (h : s.Keeps c) :
    (s.creditOver x1 x2 x3).Keeps c := by
  unfold State.creditOver
  repeat' (first
    | with_reducible assumption
    | split
    | extract_lets
    | with_reducible apply State.logEvent_keeps
    | (with_reducible apply foldl_keeps)
    | (with_reducible apply foldl_keeps1)
    | (intro _)
    | assumption)

theorem State.messageWakes_keeps {c : Settings} {s : State} (h : s.Keeps c) : s.messageWakes.Keeps c := by
  unfold State.messageWakes
  repeat' (first
    | with_reducible assumption
    | split
    | extract_lets
    | with_reducible apply State.abandonEntry_keeps
    | with_reducible apply State.wake_keeps
    | (with_reducible apply foldl_keeps)
    | (with_reducible apply foldl_keeps1)
    | (intro _)
    | assumption)

theorem State.ingress_keeps {c : Settings} {s : State} (x1 : PortMsg) (h : s.Keeps c) : (s.ingress x1).1.Keeps c := by
  unfold State.ingress
  try dsimp only
  repeat' (first
    | with_reducible assumption
    | split
    | with_reducible apply State.creditOver_keeps
    | with_reducible apply State.logEvent_keeps
    | with_reducible apply State.messageWakes_keeps
    | (refine keep_mk rfl ?_ rfl))

theorem State.ingress_keeps' {c : Settings} {s : State} {x1 : PortMsg} (h : s.Keeps c) {p : _} {t : State} (e : (s.ingress x1) = (t, p)) : t.Keeps c := by
  have h2 := State.ingress_keeps x1 h
  rw [e] at h2
  exact h2

theorem State.takeP4_keeps {c : Settings} {s : State} (x1 : TreeMsg) (x2 : State → State) (h : s.Keeps c) (H2 : ∀ (t :
    State) , t.Keeps c → (x2 t ).Keeps c) : (s.takeP4 x1 x2).Keeps c := by
  unfold State.takeP4
  dsimp only
  have hi := State.ingress_keeps (PortMsg.tree .p4 x1) h
  repeat' (first | exact h | exact hi | exact H2 _ h | exact H2 _ hi | split)

theorem State.takeHeld_keeps {c : Settings} {s : State} (x1 : TreeVia) (x2 : TreeMsg) (h : s.Keeps c) : (s.takeHeld x1
    x2).Keeps c := by
  unfold State.takeHeld
  repeat' (first
    | with_reducible assumption
    | split
    | extract_lets
    | with_reducible apply State.judgeAll_keeps
    | (with_reducible apply foldl_keeps)
    | (with_reducible apply foldl_keeps1)
    | (intro _)
    | assumption)

theorem State.fly_keeps {c : Settings} {s : State} (x1 : Option (Prod Nat Nat)) (x2 : Nat) (x3 : Bool) (x4 : Bool) (x5
    : EvalReq) (h : s.Keeps c) : (s.fly x1 x2 x3 x4 x5).Keeps c := by
  unfold State.fly
  try dsimp only
  repeat' (first
    | with_reducible assumption
    | split
    | dsimp only
    | with_reducible apply State.considerSample_keeps
    | exact State.considerSample_keeps' (by assumption) (by assumption)
    | (refine keep_mk rfl ?_ rfl)
    | (with_reducible apply foldl_keeps)
    | (with_reducible apply foldl_keeps1)
    | (intro _)
    | assumption)

theorem State.chooseLane_keeps {c : Settings} {s : State} (h : s.Keeps c) : s.chooseLane.Keeps c := by
  unfold State.chooseLane
  try dsimp only
  repeat' (first
    | with_reducible assumption
    | split
    | dsimp only
    | (refine keep_mk rfl ?_ rfl)
    | (with_reducible apply foldl_keeps)
    | (with_reducible apply foldl_keeps1)
    | (intro _)
    | assumption)

theorem State.takeSlice_keeps {c : Settings} {s : State} (x1 : Nat) (h : s.Keeps c) : (s.takeSlice x1).Keeps c := by
  unfold State.takeSlice
  repeat' (first
    | split
    | extract_lets
    | with_reducible apply State.chooseLane_keeps
    | assumption)

theorem State.waitsForEnv_keeps {c : Settings} {s : State} (x1 : Bool) (h : s.Keeps c) : (s.waitsForEnv x1).Keeps c :=
  h

theorem State.fillLane_keeps {c : Settings} {s : State} (x1 : Nat) (x2 : Nat) (h : s.Keeps c) : (s.fillLane x1
    x2).1.Keeps c := by
  unfold State.fillLane
  repeat' (first
    | split
    | extract_lets
    | with_reducible apply State.countSlots_keeps
    | with_reducible apply State.fly_keeps
    | with_reducible apply State.modLane_keeps
    | with_reducible apply State.showPinna_keeps
    | with_reducible apply State.takeSlice_keeps
    | with_reducible apply State.waitsForEnv_keeps
    | (with_reducible apply foldl_keeps)
    | (intro _)
    | assumption)

theorem State.tenCmdDone_keeps {c : Settings} {s : State} (h : s.Keeps c) : s.tenCmdDone.Keeps c := by
  unfold State.tenCmdDone
  repeat' (first
    | with_reducible assumption
    | split
    | extract_lets
    | with_reducible apply State.tenReport_keeps
    | (with_reducible apply foldl_keeps)
    | (with_reducible apply foldl_keeps1)
    | (intro _)
    | assumption)

theorem State.boundLost_keeps {c : Settings} {s : State} (x1 : Nat) (x2 : BitVec 16) (h : s.Keeps c) : (s.boundLost x1
    x2).Keeps c := by
  unfold State.boundLost
  repeat' (first
    | split
    | with_reducible apply State.noteOnce_keeps
    | assumption)

theorem State.mergeUse_keeps {c : Settings} {s : State} (x1 : Chain) (x2 : Nat) (x3 : Rec) (x4 : Rec) (h : s.Keeps c)
    : (s.mergeUse x1 x2 x3 x4).Keeps c := by
  unfold State.mergeUse
  repeat' (first
    | split
    | with_reducible apply State.ownUse_keeps
    | (with_reducible apply foldl_keeps)
    | (intro _)
    | assumption)

theorem State.foldRow_keeps {c : Settings} {s : State} (x1 : Chain) (x2 : Nat) (x3 : Part) (h : s.Keeps c) :
    (s.foldRow x1 x2 x3).Keeps c := by
  unfold State.foldRow
  repeat' (first
    | split
    | extract_lets
    | with_reducible apply State.boundLost_keeps
    | with_reducible apply State.mergeUse_keeps
    | assumption)

theorem State.leafFormed_keeps {c : Settings} {s : State} (x1 : Nat) (h : s.Keeps c) : (s.leafFormed x1).Keeps c := by
  unfold State.leafFormed
  repeat' (first
    | with_reducible assumption
    | split
    | extract_lets
    | with_reducible apply State.modChain_keeps
    | (with_reducible apply foldl_keeps)
    | (with_reducible apply foldl_keeps1)
    | (intro _)
    | assumption)

theorem State.foldNow_keeps {c : Settings} {s : State} (x1 : Chain) (x2 : PartRow) (x3 : List (Prod Nat Part)) (h :
    s.Keeps c) : (s.foldNow x1 x2 x3).Keeps c := by
  unfold State.foldNow
  repeat' (first
    | with_reducible assumption
    | split
    | extract_lets
    | with_reducible apply State.chainWrite_keeps
    | with_reducible apply State.count_keeps
    | with_reducible apply State.ctxGo_keeps
    | with_reducible apply State.foldRow_keeps
    | with_reducible apply State.leafFormed_keeps
    | with_reducible apply State.modChain_keeps
    | (with_reducible apply foldl_keeps)
    | (with_reducible apply foldl_keeps1)
    | (intro _)
    | assumption)

theorem State.fold_keeps {c : Settings} {s : State} (x1 : Nat) (h : s.Keeps c) : (s.fold x1).Keeps c := by
  unfold State.fold
  repeat' (first
    | with_reducible assumption
    | split
    | extract_lets
    | with_reducible apply State.failChain_keeps
    | with_reducible apply State.foldNow_keeps
    | with_reducible apply State.issueRead_keeps
    | with_reducible apply State.needLines_keeps
    | exact State.needLines_keeps' (by assumption) (by assumption)
    | (with_reducible apply foldl_keeps)
    | (with_reducible apply foldl_keeps1)
    | (intro _)
    | assumption)

theorem State.recordToken_keeps {c : Settings} {s : State} (x1 : Word) (h : s.Keeps c) : (s.recordToken x1).Keeps c :=
  h

theorem State.fillDone_keeps {c : Settings} {s : State} (h : s.Keeps c) : s.fillDone.Keeps c := by
  unfold State.fillDone
  repeat' (first
    | split
    | with_reducible apply State.count_keeps
    | with_reducible apply State.spend_keeps
    | with_reducible apply State.startFill_keeps
    | assumption)

theorem State.takeCheck_keeps {c : Settings} {s : State} (x1 : TreeMsg) (h : s.Keeps c) : (s.takeCheck x1).1.Keeps c
    := by
  unfold State.takeCheck
  repeat' (first
    | split
    | extract_lets
    | with_reducible apply State.count_keeps
    | with_reducible apply State.returnCredit_keeps
    | with_reducible apply State.takeDown_keeps
    | with_reducible apply State.treeStale_keeps
    | with_reducible apply State.tryCheck_keeps
    | assumption)

theorem State.rowDone_keeps {c : Settings} {s : State} (x1 : Chain) (x2 : Nat) (h : s.Keeps c) : (s.rowDone x1
    x2).Keeps c := by
  unfold State.rowDone
  repeat' (first
    | with_reducible assumption
    | split
    | extract_lets
    | with_reducible apply State.logEvent_keeps
    | with_reducible apply State.modChain_keeps
    | with_reducible apply State.pageEvent_keeps
    | (with_reducible apply foldl_keeps)
    | (with_reducible apply foldl_keeps1)
    | (intro _)
    | assumption)

theorem State.rowBlock_keeps {c : Settings} {s : State} (x1 : Nat) (h : s.Keeps c) : (s.rowBlock x1).Keeps c := by
  unfold State.rowBlock
  repeat' (first
    | with_reducible assumption
    | split
    | extract_lets
    | with_reducible apply State.finishChains_keeps
    | with_reducible apply State.modChain_keeps
    | with_reducible apply State.rowDone_keeps
    | with_reducible apply State.spawn_keeps
    | with_reducible apply State.statDone_keeps
    | (with_reducible apply foldl_keeps)
    | (with_reducible apply foldl_keeps1)
    | (intro _)
    | assumption)

theorem State.vddReport_keeps {c : Settings} {s : State} (x1 : Bool) (h : s.Keeps c) : (s.vddReport x1).Keeps c := by
  unfold State.vddReport
  repeat' (first
    | with_reducible assumption
    | split
    | extract_lets
    | with_reducible apply State.startHeldWake_keeps
    | (with_reducible apply foldl_keeps)
    | (with_reducible apply foldl_keeps1)
    | (intro _)
    | assumption)

theorem State.dropWindow_keeps {c : Settings} {s : State} (x1 : Nat) (x2 : Word) (h : s.Keeps c) : (s.dropWindow x1
    x2).Keeps c := h

theorem State.fragJudge_keeps {c : Settings} {s : State} (x1 : FragIn) (x2 : List Byte) (h : s.Keeps c) : (s.fragJudge
    x1 x2).Keeps c := by
  unfold State.fragJudge
  repeat' (first
    | with_reducible assumption
    | split
    | extract_lets
    | with_reducible apply State.dropFrag_keeps
    | with_reducible apply State.issueWrite_keeps
    | with_reducible apply State.setFrag_keeps
    | (with_reducible apply foldl_keeps)
    | (with_reducible apply foldl_keeps1)
    | (intro _)
    | assumption)

theorem State.fragHeader_keeps {c : Settings} {s : State} (x1 : List Byte) (h : s.Keeps c) : (s.fragHeader x1).Keeps c
    := by
  unfold State.fragHeader
  repeat' (first
    | with_reducible assumption
    | split
    | extract_lets
    | with_reducible apply State.dropFrag_keeps
    | with_reducible apply State.fragJudge_keeps
    | with_reducible apply State.issueRead_keeps
    | with_reducible apply State.setFrag_keeps
    | (with_reducible apply foldl_keeps)
    | (with_reducible apply foldl_keeps1)
    | (intro _)
    | assumption)

theorem State.wakingDone_keeps {c : Settings} {s : State} (h : s.Keeps c) : s.wakingDone.Keeps c := by
  unfold State.wakingDone
  repeat' (first
    | with_reducible assumption
    | split
    | extract_lets
    | with_reducible apply State.setPwr_keeps
    | (with_reducible apply foldl_keeps)
    | (with_reducible apply foldl_keeps1)
    | (intro _)
    | assumption)

theorem State.revertMsgs_keeps {c : Settings} {s : State} (x1 : List (Prod Nat (BitVec 4))) (h : s.Keeps c) :
    (s.revertMsgs x1).Keeps c := by
  unfold State.revertMsgs
  refine foldl_keeps (fun t a ht => ?_) _ h
  have held : ∀ (u : State) (l : List HeldMsg), u.Keeps c → ({ u with tree := { u.tree with held := l } } : State).Keeps c :=
    fun _ _ hu => hu
  dsimp only
  split
  · refine State.logStale_keeps _ _ _ _ _ _ (held _ _ ?_)
    split
    · exact State.modChain_keeps _ _ ht
    · exact ht
  · exact ht

theorem State.evictEntry_keeps {c : Settings} {s : State} (h : s.Keeps c) : s.evictEntry.Keeps c := by
  unfold State.evictEntry
  repeat' (first
    | with_reducible assumption
    | split
    | extract_lets
    | with_reducible apply State.issueWrite_keeps
    | (with_reducible apply foldl_keeps)
    | (with_reducible apply foldl_keeps1)
    | (intro _)
    | assumption)

theorem State.insertEntry_keeps {c : Settings} {s : State} (x1 : Nat) (x2 : RegEntry) (h : s.Keeps c) : (s.insertEntry
    x1 x2).Keeps c := by
  unfold State.insertEntry
  try dsimp only
  repeat' (first
    | with_reducible assumption
    | split
    | dsimp only
    | with_reducible apply State.evictEntry_keeps
    | (refine keep_mk rfl ?_ rfl)
    | (with_reducible apply foldl_keeps)
    | (with_reducible apply foldl_keeps1)
    | (intro _)
    | assumption)

theorem State.itemData_keeps {c : Settings} {s : State} (x1 : Nat) (x2 : Nat) (x3 : List (Prod Nat (List Byte))) (h :
    s.Keeps c) : (s.itemData x1 x2 x3).Keeps c := by
  unfold State.itemData
  repeat' (first
    | with_reducible assumption
    | split
    | extract_lets
    | with_reducible apply State.itemAdvance_keeps
    | with_reducible apply State.modItem_keeps
    | (with_reducible apply foldl_keeps)
    | (with_reducible apply foldl_keeps1)
    | (intro _)
    | assumption)

theorem State.itemResult_keeps {c : Settings} {s : State} (x1 : Nat) (x2 : Nat) (x3 : EvalReq) (x4 : Word) (h :
    s.Keeps c) : (s.itemResult x1 x2 x3 x4).Keeps c := by
  unfold State.itemResult
  repeat' (first
    | with_reducible assumption
    | split
    | extract_lets
    | with_reducible apply State.finishItem_keeps
    | with_reducible apply State.modItem_keeps
    | (with_reducible apply foldl_keeps)
    | (with_reducible apply foldl_keeps1)
    | (intro _)
    | assumption)

theorem State.deliver_keeps {c : Settings} {s : State} (x1 : Flight) (x2 : Word) (h : s.Keeps c) : (s.deliver x1
    x2).Keeps c := by
  unfold State.deliver
  repeat' (first
    | with_reducible assumption
    | split
    | extract_lets
    | with_reducible apply State.itemResult_keeps
    | with_reducible apply State.laneFinish_keeps
    | with_reducible apply State.lanesGo_keeps
    | with_reducible apply State.modLane_keeps
    | (with_reducible apply foldl_keeps)
    | (with_reducible apply foldl_keeps1)
    | (intro _)
    | assumption)

theorem State.holdBallast_keeps {c : Settings} {s : State} (h : s.Keeps c) : s.holdBallast.Keeps c := by
  unfold State.holdBallast
  repeat' (first
    | with_reducible assumption
    | split
    | extract_lets
    | (with_reducible apply foldl_keeps)
    | (with_reducible apply foldl_keeps1)
    | (intro _)
    | assumption)

theorem State.evalResult_keeps {c : Settings} {s : State} (x1 : Nat) (h : s.Keeps c) : (s.evalResult x1).Keeps c := by
  unfold State.evalResult
  repeat' (first
    | with_reducible assumption
    | split
    | extract_lets
    | with_reducible apply State.addSample_keeps
    | with_reducible apply State.count_keeps
    | with_reducible apply State.deliver_keeps
    | with_reducible apply State.holdBallast_keeps
    | (with_reducible apply foldl_keeps)
    | (with_reducible apply foldl_keeps1)
    | (intro _)
    | assumption)

theorem State.serveShadow_keeps {c : Settings} {s : State} (h : s.Keeps c) : s.serveShadow.Keeps c := by
  unfold State.serveShadow
  repeat' (first
    | with_reducible assumption
    | split
    | extract_lets
    | with_reducible apply State.answerShadow_keeps
    | (with_reducible apply foldl_keeps)
    | (with_reducible apply foldl_keeps1)
    | (intro _)
    | assumption)

theorem State.frozen_keeps {c : Settings} {s : State} (h : s.Keeps c) : s.frozen.Keeps c := by
  unfold State.frozen
  repeat' (first
    | with_reducible assumption
    | split
    | extract_lets
    | with_reducible apply State.logEvent_keeps
    | with_reducible apply State.pageEvent_keeps
    | with_reducible apply State.serveShadow_keeps
    | (with_reducible apply foldl_keeps)
    | (with_reducible apply foldl_keeps1)
    | (intro _)
    | assumption)

theorem State.acceptBell_keeps {c : Settings} {s : State} (x1 : Chain) (x2 : Header) (h : s.Keeps c) : (s.acceptBell
    x1 x2).Keeps c := by
  unfold State.acceptBell
  try dsimp only
  repeat' (first
    | with_reducible assumption
    | split
    | dsimp only
    | with_reducible apply State.count_keeps
    | with_reducible apply State.modChain_keeps
    | with_reducible apply State.pumpCtx_keeps
    | with_reducible apply State.spawn_keeps
    | (refine keep_mk rfl ?_ rfl)
    | (with_reducible apply foldl_keeps)
    | (with_reducible apply foldl_keeps1)
    | (intro _)
    | assumption)

theorem State.revertRows_keeps {c : Settings} {s : State} (x1 : List (Prod Nat (BitVec 4))) (h : s.Keeps c) :
    (s.revertRows x1).Keeps c := by
  unfold State.revertRows
  refine foldl_keeps (fun t c ht => foldl_keeps (fun u a hu => ?_) _ ht) _ h
  dsimp only
  split
  · split
    · exact hu
    · exact State.logStale_keeps _ _ _ _ _ _ (State.modChain_keeps _ _ hu)
  · exact hu

theorem State.ctxFail_keeps {c : Settings} {s : State} (x1 : Nat) (h : s.Keeps c) : (s.ctxFail x1).Keeps c := by
  unfold State.ctxFail
  repeat' (first
    | split
    | with_reducible apply State.revertMsgs_keeps
    | with_reducible apply State.revertRows_keeps
    | assumption)

theorem State.unitErr_keeps {c : Settings} {s : State} (x1 : Nat) (x2 : Page) (h : s.Keeps c) : (s.unitErr x1
    x2).Keeps c := by
  unfold State.unitErr
  repeat' (first
    | with_reducible assumption
    | split
    | extract_lets
    | with_reducible apply State.logSpadErr_keeps
    | (with_reducible apply foldl_keeps)
    | (with_reducible apply foldl_keeps1)
    | (intro _)
    | assumption)

theorem State.failChains_keeps {c : Settings} {s : State} (x1 : Nat) (x2 : Page) (x3 : List Chain) (h : s.Keeps c) :
    (s.failChains x1 x2 x3).Keeps c := by
  unfold State.failChains
  repeat' (first
    | with_reducible assumption
    | split
    | extract_lets
    | with_reducible apply State.failChain_keeps
    | with_reducible apply State.unitErr_keeps
    | (with_reducible apply foldl_keeps)
    | (with_reducible apply foldl_keeps1)
    | (intro _)
    | assumption)

theorem State.fragCopyFail_keeps {c : Settings} {s : State} (h : s.Keeps c) : s.fragCopyFail.Keeps c := by
  unfold State.fragCopyFail
  repeat' (first
    | with_reducible assumption
    | split
    | extract_lets
    | with_reducible apply State.setFrag_keeps
    | (with_reducible apply foldl_keeps)
    | (with_reducible apply foldl_keeps1)
    | (intro _)
    | assumption)

theorem State.tenFail_keeps {c : Settings} {s : State} (h : s.Keeps c) : s.tenFail.Keeps c := by
  unfold State.tenFail
  repeat' (first
    | with_reducible assumption
    | split
    | extract_lets
    | with_reducible apply State.setTenCmd_keeps
    | (with_reducible apply foldl_keeps)
    | (with_reducible apply foldl_keeps1)
    | (intro _)
    | assumption)

theorem State.writeFails_keeps {c : Settings} {s : State} (x1 : WriteJob) (h : s.Keeps c) : (s.writeFails x1).Keeps c
    := by
  unfold State.writeFails
  try dsimp only
  repeat' (first
    | with_reducible assumption
    | split
    | dsimp only
    | with_reducible apply State.applyFail_keeps
    | with_reducible apply State.ctxFail_keeps
    | with_reducible apply State.failChain_keeps
    | with_reducible apply State.failChains_keeps
    | with_reducible apply State.fragCopyFail_keeps
    | with_reducible apply State.imgFail_keeps
    | with_reducible apply State.logAck_keeps
    | with_reducible apply State.logSpadErr_keeps
    | with_reducible apply State.modChain_keeps
    | with_reducible apply State.tenFail_keeps
    | with_reducible apply State.unitErr_keeps
    | with_reducible apply State.wordWritten_keeps
    | (refine keep_mk rfl ?_ rfl)
    | (with_reducible apply foldl_keeps)
    | (with_reducible apply foldl_keeps1)
    | (intro _)
    | assumption)

theorem State.samplePasses_keeps {c : Settings} {s : State} (x1 : Sample) (h : s.Keeps c) : (s.samplePasses
    x1).1.Keeps c := by
  unfold State.samplePasses
  repeat' (first
    | with_reducible assumption
    | split
    | extract_lets
    | with_reducible apply State.choose_keeps
    | exact State.choose_keeps' (by assumption) (by assumption)
    | (with_reducible apply foldl_keeps)
    | (with_reducible apply foldl_keeps1)
    | (intro _)
    | assumption)

theorem State.samplePasses_keeps' {c : Settings} {s : State} {x1 : Sample} (h : s.Keeps c) {p : _} {t : State} (e : (s.samplePasses x1) = (t, p)) : t.Keeps c := by
  have h2 := State.samplePasses_keeps x1 h
  rw [e] at h2
  exact h2

theorem State.countViolation_keeps {c : Settings} {s : State} (x1 : Sample) (h : s.Keeps c) : (s.countViolation
    x1).Keeps c := by
  unfold State.countViolation
  split
  · exact h
  · rename_i b _
    cases b
    all_goals
      dsimp only
      repeat' split
      all_goals first
        | exact h
        | apply State.logEvent_keeps
          exact State.pageEvent_keeps _ _ (State.pageEvent_keeps _ _ (setBank_keeps (s := { s with sen := _ }) _ _ h))

theorem State.violation_keeps {c : Settings} {s : State} (x1 : Sample) (h : s.Keeps c) : (s.violation x1).Keeps c := by
  unfold State.violation
  try dsimp only
  repeat' (first
    | with_reducible assumption
    | split
    | dsimp only
    | with_reducible apply State.count_keeps
    | with_reducible apply State.countViolation_keeps
    | with_reducible apply State.logEvent_keeps
    | with_reducible apply State.pageEvent_keeps
    | (refine keep_mk rfl ?_ rfl)
    | (with_reducible apply foldl_keeps)
    | (with_reducible apply foldl_keeps1)
    | (intro _)
    | assumption)

theorem State.judgeSample_keeps {c : Settings} {s : State} (h : s.Keeps c) : s.judgeSample.Keeps c := by
  unfold State.judgeSample
  try dsimp only
  repeat' (first
    | with_reducible assumption
    | split
    | dsimp only
    | with_reducible apply State.count_keeps
    | with_reducible apply State.samplePasses_keeps
    | exact State.samplePasses_keeps' (by assumption) (by assumption)
    | with_reducible apply State.violation_keeps
    | (refine keep_mk rfl ?_ rfl)
    | (with_reducible apply foldl_keeps)
    | (with_reducible apply foldl_keeps1)
    | (intro _)
    | assumption)

theorem State.loseDormant_keeps {c : Settings} {s : State} (h : s.Keeps c) : s.loseDormant.Keeps c := h

theorem State.enterDormant_keeps {c : Settings} {s : State} (h : s.Keeps c) : s.enterDormant.Keeps c := by
  unfold State.enterDormant
  try dsimp only
  repeat' (first
    | with_reducible assumption
    | split
    | dsimp only
    | with_reducible apply State.loseDormant_keeps
    | with_reducible apply State.setPwr_keeps
    | with_reducible apply State.wake_keeps
    | (refine keep_mk rfl ?_ rfl)
    | (with_reducible apply foldl_keeps)
    | (with_reducible apply foldl_keeps1)
    | (intro _)
    | assumption)

theorem State.insertLine_keeps {c : Settings} {s : State} (x1 : Nat) (x2 : List Rec) (h : s.Keeps c) : (s.insertLine
    x1 x2).Keeps c := by
  unfold State.insertLine
  try dsimp only
  repeat' (first
    | with_reducible assumption
    | split
    | dsimp only
    | with_reducible apply State.evictLine_keeps
    | (refine keep_mk rfl ?_ rfl)
    | (with_reducible apply foldl_keeps)
    | (with_reducible apply foldl_keeps1)
    | (intro _)
    | assumption)

theorem State.adoptTile_keeps {c : Settings} {s : State} (x1 : CtxCmd) (x2 : Nat) (x3 : List Rec) (h : s.Keeps c) :
    (s.adoptTile x1 x2 x3).Keeps c := by
  unfold State.adoptTile
  dsimp only
  refine State.setCtxCmd_keeps _ (foldl_keeps (fun t a ht => State.setCtxRec_keeps _ _ (State.setCtxState_keeps _ _ ht)) _ ?_)
  split
  · exact h
  · exact State.insertLine_keeps _ _ h

theorem State.answerQueries_keeps {c : Settings} {s : State} (x1 : Nat) (x2 : State → Nat → State × BitVec 4) (h :
    s.Keeps c) (H2 : ∀ (t : State) (i : Nat), t.Keeps c → (x2 t i).1.Keeps c) : (s.answerQueries x1 x2).Keeps c := by
  unfold State.answerQueries
  dsimp only
  refine foldl_keeps (fun t a ht => ?_) _ ?_
  · exact State.answerRead_keeps _ _ _ (H2 _ _ ht)
  · exact h

theorem State.checkData_keeps {c : Settings} {s : State} (x1 : List (Prod Nat (List Byte))) (h : s.Keeps c) :
    (s.checkData x1).Keeps c := by
  unfold State.checkData
  repeat' (first
    | with_reducible assumption
    | split
    | extract_lets
    | with_reducible apply State.issueRead_keeps
    | (with_reducible apply foldl_keeps)
    | (with_reducible apply foldl_keeps1)
    | (intro _)
    | assumption)

theorem State.descriptorData_keeps {c : Settings} {s : State} (x1 : Option (List Byte)) (h : s.Keeps c) :
    (s.descriptorData x1).Keeps c := by
  unfold State.descriptorData
  repeat' (first
    | with_reducible assumption
    | split
    | extract_lets
    | (with_reducible apply foldl_keeps)
    | (with_reducible apply foldl_keeps1)
    | (intro _)
    | assumption)

theorem State.fragPayload_keeps {c : Settings} {s : State} (x1 : List (Prod Nat (List Byte))) (h : s.Keeps c) :
    (s.fragPayload x1).Keeps c := by
  unfold State.fragPayload
  repeat' (first
    | with_reducible assumption
    | split
    | extract_lets
    | with_reducible apply State.fragJudge_keeps
    | (with_reducible apply foldl_keeps)
    | (with_reducible apply foldl_keeps1)
    | (intro _)
    | assumption)

theorem State.judgeCold_keeps {c : Settings} {s : State} (x1 : Nat) (x2 : Bool) (h : s.Keeps c) : (s.judgeCold x1
    x2).Keeps c := by
  unfold State.judgeCold
  repeat' (first
    | split
    | with_reducible apply State.logOverlap_keeps
    | (with_reducible apply foldl_keeps)
    | (intro _)
    | assumption)

theorem State.storeItem_keeps {c : Settings} {s : State} (x1 : Nat) (x2 : Nat) (x3 : List Byte) (h : s.Keeps c) :
    (s.storeItem x1 x2 x3).Keeps c := by
  unfold State.storeItem
  dsimp only
  split
  · exact State.countWrite_keeps _ (setBank_keeps _ _ h)
  · exact setBank_keeps _ _ h
  · exact setBank_keeps _ _ h
  · exact setBank_keeps _ _ h

theorem State.storeItems_keeps {c : Settings} {s : State} (x1 : Nat) (x2 : Nat) (x3 : Nat) (x4 : Nat) (x5 : List Byte)
    (h : s.Keeps c) : (s.storeItems x1 x2 x3 x4 x5).Keeps c := by
  induction x3 generalizing s x4 x5 with
  | zero => exact h
  | succ n ih =>
    rw [State.storeItems]
    exact ih _ _ (State.storeItem_keeps _ _ _ h)

end Sys2Proof.Machine
end

