-- ==== Sys2Proof/Laws/Keep6.lean ====
section
/-! SUPPORT. Every operation of the units keeps the settings, part 6 of 6: the operations in the order in which they
use one another. -/
namespace Sys2Proof.Machine

set_option linter.unusedTactic false
set_option linter.unreachableTactic false
set_option linter.unusedVariables false

theorem State.loadData_keeps {c : Settings} {s : State} (x1 : List (Prod Nat (List Byte))) (x2 : Bool) (h : s.Keeps c)
    : (s.loadData x1 x2).Keeps c := by
  unfold State.loadData
  try dsimp only
  repeat' (first
    | with_reducible assumption
    | split
    | dsimp only
    | with_reducible apply State.loadNext_keeps
    | with_reducible apply State.storeItems_keeps
    | (refine keep_mk rfl ?_ rfl)
    | (with_reducible apply foldl_keeps)
    | (with_reducible apply foldl_keeps1)
    | (intro _)
    | assumption)

theorem State.readData_keeps {c : Settings} {s : State} (x1 : ReadTag) (x2 : List (Prod Nat (List Byte))) (h : s.Keeps
    c) : (s.readData x1 x2).Keeps c := by
  unfold State.readData
  repeat' (first
    | with_reducible assumption
    | split
    | extract_lets
    | with_reducible apply State.adoptTile_keeps
    | with_reducible apply State.answerQueries_keeps
    | with_reducible apply State.checkData_keeps
    | with_reducible apply State.descriptorData_keeps
    | with_reducible apply State.exportData_keeps
    | with_reducible apply State.fragHeader_keeps
    | with_reducible apply State.fragPayload_keeps
    | with_reducible apply State.insertEntry_keeps
    | with_reducible apply State.insertLine_keeps
    | with_reducible apply State.itemData_keeps
    | with_reducible apply State.judgeCold_keeps
    | with_reducible apply State.loadData_keeps
    | with_reducible apply State.modChain_keeps
    | with_reducible apply State.pumpCtx_keeps
    | with_reducible apply State.rollbackData_keeps
    | with_reducible apply State.setCtxCmd_keeps
    | (with_reducible apply foldl_keeps)
    | (with_reducible apply foldl_keeps1)
    | (intro _)
    | assumption)

theorem State.scrub_keeps {c : Settings} {s : State} (h : s.Keeps c) : s.scrub.Keeps c := by
  unfold State.scrub
  repeat' (first
    | with_reducible assumption
    | split
    | extract_lets
    | with_reducible apply State.count_keeps
    | with_reducible apply State.countEcc_keeps
    | with_reducible apply State.countWrite_keeps
    | with_reducible apply State.logEcc_keeps
    | with_reducible apply State.setFault_keeps
    | with_reducible apply State.writeRam_keeps
    | (with_reducible apply foldl_keeps)
    | (with_reducible apply foldl_keeps1)
    | (intro _)
    | assumption)

theorem State.popP3_keeps {c : Settings} {s : State} (h : s.Keeps c) : s.popP3.Keeps c := h

theorem State.countBallast_keeps {c : Settings} {s : State} (x1 : Nat) (x2 : Nat) (h : s.Keeps c) : (s.countBallast x1
    x2).Keeps c := by
  unfold State.countBallast
  try dsimp only
  repeat' (first
    | with_reducible assumption
    | split
    | dsimp only
    | with_reducible apply State.count_keeps
    | (refine keep_mk rfl ?_ rfl)
    | (with_reducible apply foldl_keeps)
    | (with_reducible apply foldl_keeps1)
    | (intro _)
    | assumption)

theorem State.putJob_keeps {c : Settings} {s : State} (x1 : Nat) (x2 : Option ReadJob) (h : s.Keeps c) : (s.putJob x1
    x2).Keeps c := h

theorem State.sendHeld_keeps {c : Settings} {s : State} (h : s.Keeps c) : s.sendHeld.Keeps c := by
  unfold State.sendHeld
  repeat' (first
    | with_reducible apply State.sendPiece_keeps
    | (with_reducible apply foldl_keeps)
    | (intro _)
    | assumption)

theorem State.judgeSubmission_keeps {c : Settings} {s : State} (x1 : Word) (x2 : Option (List Byte)) (h : s.Keeps c) :
    (s.judgeSubmission x1 x2).Keeps c := by
  unfold State.judgeSubmission
  repeat' (first
    | with_reducible assumption
    | split
    | extract_lets
    | with_reducible apply State.arm_keeps
    | with_reducible apply State.issueWrite_keeps
    | with_reducible apply State.logRefusal_keeps
    | (with_reducible apply foldl_keeps)
    | (with_reducible apply foldl_keeps1)
    | (intro _)
    | assumption)

theorem State.freezeAt_keeps {c : Settings} {s : State} (x1 : Word) (h : s.Keeps c) : (s.freezeAt x1).Keeps c := by
  unfold State.freezeAt
  repeat' (first
    | with_reducible assumption
    | split
    | extract_lets
    | (with_reducible apply foldl_keeps)
    | (with_reducible apply foldl_keeps1)
    | (intro _)
    | assumption)

theorem State.beginApply_keeps {c : Settings} {s : State} (h : s.Keeps c) : s.beginApply.Keeps c := by
  unfold State.beginApply
  repeat' (first
    | with_reducible assumption
    | with_reducible apply State.freezeAt_keeps
    | (refine keep_mk rfl ?_ rfl))

theorem State.freezeFrom_keeps {c : Settings} {s : State} (x1 : Word) (x2 : Word) (h : s.Keeps c) : (s.freezeFrom x1
    x2).Keeps c := by
  unfold State.freezeFrom
  repeat' (first
    | split
    | with_reducible apply State.freezeAt_keeps
    | assumption)

theorem State.queueToken_keeps {c : Settings} {s : State} (x1 : Word) (x2 : Word) (h : s.Keeps c) : (s.queueToken x1
    x2).Keeps c := by
  unfold State.queueToken
  repeat' (first
    | with_reducible assumption
    | with_reducible apply State.freezeFrom_keeps
    | (refine keep_mk rfl ?_ rfl))

theorem State.restoreSkew_keeps {c : Settings} {s : State} (x1 : Word) (h : s.Keeps c) : (s.restoreSkew x1).Keeps c := by
  unfold State.restoreSkew
  try dsimp only
  repeat' (first
    | with_reducible assumption
    | split
    | dsimp only
    | with_reducible apply State.imgAwait_keeps
    | with_reducible apply State.logEvent_keeps
    | with_reducible apply State.pageEvent_keeps
    | (refine keep_mk rfl ?_ rfl)
    | (with_reducible apply foldl_keeps)
    | (with_reducible apply foldl_keeps1)
    | (intro _)
    | assumption)

theorem State.stepToken_keeps {c : Settings} {s : State} (x1 : Word) (h : s.Keeps c) : (s.stepToken x1).Keeps c := by
  unfold State.stepToken
  repeat' (first
    | split
    | with_reducible apply State.beginApply_keeps
    | with_reducible apply State.freezeFrom_keeps
    | with_reducible apply State.normalToken_keeps
    | with_reducible apply State.queueToken_keeps
    | with_reducible apply State.restoreSkew_keeps
    | assumption)

theorem State.contend_keeps {c : Settings} {s : State} (x1 : Nat) (h : s.Keeps c) : (s.contend x1).1.Keeps c := by
  unfold State.contend
  repeat' (first
    | with_reducible assumption
    | split
    | extract_lets
    | with_reducible apply State.count_keeps
    | (with_reducible apply foldl_keeps)
    | (with_reducible apply foldl_keeps1)
    | (intro _)
    | assumption)

theorem State.contend_keeps' {c : Settings} {s : State} {x1 : Nat} (h : s.Keeps c) {p : _} {t : State} (e : (s.contend x1) = (t, p)) : t.Keeps c := by
  have h2 := State.contend_keeps x1 h
  rw [e] at h2
  exact h2

theorem State.fillChain_keeps {c : Settings} {s : State} (x1 : Nat) (x2 : Nat) (x3 : List (Prod Nat (Prod Nat (Prod
    Nat Nat)))) (h : s.Keeps c) : (s.fillChain x1 x2 x3).1.Keeps c := by
  unfold State.fillChain
  repeat' (first
    | with_reducible assumption
    | split
    | extract_lets
    | with_reducible apply State.countSlots_keeps
    | with_reducible apply State.fly_keeps
    | with_reducible apply State.modItem_keeps
    | with_reducible apply State.showPinna_keeps
    | (with_reducible apply foldl_keeps)
    | (with_reducible apply foldl_keeps1)
    | (intro _)
    | assumption)

theorem State.fillChain_keeps' {c : Settings} {s : State} {x1 : Nat} {x2 : Nat} (x3 : List (Prod Nat (Prod Nat (Prod Nat Nat)))) (h : s.Keeps c) {p : _} {t : State} (e : (s.fillChain x1 x2 x3) = (t, p)) : t.Keeps c := by
  have h2 := State.fillChain_keeps x1 x2 x3 h
  rw [e] at h2
  exact h2

theorem State.issuePinna_keeps {c : Settings} {s : State} (x1 : List (Prod Nat (Prod Nat (Prod Nat Nat)))) (x2 : Bool)
    (x3 : Nat) (x4 : Nat) (h : s.Keeps c) : (s.issuePinna x1 x2 x3 x4).1.Keeps c := by
  unfold State.issuePinna
  try dsimp only
  repeat' (first
    | with_reducible assumption
    | split
    | dsimp only
    | with_reducible apply State.contend_keeps
    | exact State.contend_keeps' (by assumption) (by assumption)
    | with_reducible apply State.countBallast_keeps
    | with_reducible apply State.fillChain_keeps
    | exact State.fillChain_keeps' (by assumption) (by assumption)
    | with_reducible apply State.fillLane_keeps
    | (refine keep_mk rfl ?_ rfl)
    | (with_reducible apply foldl_keeps)
    | (with_reducible apply foldl_keeps1)
    | (intro _)
    | assumption)

theorem State.issue_keeps {c : Settings} {s : State} (x1 : Nat) (h : s.Keeps c) : (s.issue x1).Keeps c := by
  unfold State.issue
  split
  · exact h
  · extract_lets halt items s0
    have h0 : s0.Keeps c := by
      show State.Keeps (if _ then _ else _) c
      repeat' (first | exact h | exact State.chooseLane_keeps h | exact chn_keeps h h.sizes.1 h.sizes.2.1 | split)
    clear_value s0
    split
    rename_i heq
    have hf := foldl_keeps1' heq (fun p a hp => State.issuePinna_keeps _ _ _ _ hp) h0
    dsimp only
    have h2 := fun l => foldl_keeps (α := Nat × Nat × Nat × Nat) (f := fun (s : State) (it : Nat × Nat × Nat × Nat) =>
        match (s.chainOf it.2.2.1).bind (fun c => (c.item it.2.2.2).map (fun i => (c, i))) with
        | some (c, i) =>
          if i.idle && i.results.isEmpty && s.storeAllows c i then s.finishItem it.2.2.1 it.2.2.2 else s
        | none => s)
      (fun (t : State) a ht => by
        split
        · split
          · exact State.finishItem_keeps _ _ ht
          · exact ht
        · exact ht) l hf
    split
    · exact State.count_keeps _ _ (h2 _)
    · exact h2 _

theorem State.captureSpad_keeps {c : Settings} {s : State} (x1 : Nat) (h : s.Keeps c) : (s.captureSpad x1).Keeps c := by
  unfold State.captureSpad
  repeat' (first
    | with_reducible assumption
    | split
    | extract_lets
    | (with_reducible apply foldl_keeps)
    | (with_reducible apply foldl_keeps1)
    | (intro _)
    | assumption)

theorem State.imageReject_keeps {c : Settings} {s : State} (x1 : Nat) (h : s.Keeps c) : (s.imageReject x1).Keeps c := by
  unfold State.imageReject
  try dsimp only
  repeat' (first
    | with_reducible assumption
    | split
    | dsimp only
    | with_reducible apply State.imgAwait_keeps
    | with_reducible apply State.logEvent_keeps
    | with_reducible apply State.pageEvent_keeps
    | (refine keep_mk rfl ?_ rfl)
    | (with_reducible apply foldl_keeps)
    | (with_reducible apply foldl_keeps1)
    | (intro _)
    | assumption)

theorem State.takeLane_keeps {c : Settings} {s : State} (x1 : Fin 8) (x2 : LaneReq) (h : s.Keeps c) : (s.takeLane x1
    x2).Keeps c := by
  unfold State.takeLane
  try dsimp only
  repeat' (first
    | with_reducible assumption
    | split
    | dsimp only
    | with_reducible apply State.admitLane_keeps
    | with_reducible apply State.ingress_keeps
    | exact State.ingress_keeps' (by assumption) (by assumption)
    | (refine keep_mk rfl ?_ rfl)
    | (with_reducible apply foldl_keeps)
    | (with_reducible apply foldl_keeps1)
    | (intro _)
    | assumption)

theorem State.submissionStep_keeps {c : Settings} {s : State} (h : s.Keeps c) : s.submissionStep.Keeps c := by
  unfold State.submissionStep
  repeat' (first
    | with_reducible assumption
    | split
    | extract_lets
    | with_reducible apply State.judgeSubmission_keeps
    | with_reducible apply State.submitGo_keeps
    | (with_reducible apply foldl_keeps)
    | (with_reducible apply foldl_keeps1)
    | (intro _)
    | assumption)

theorem State.dormancy_keeps {c : Settings} {s : State} (x1 : Nat) (x2 : RegEntry) (h : s.Keeps c) : (s.dormancy x1
    x2).Keeps c := by
  unfold State.dormancy
  repeat' (first
    | with_reducible assumption
    | split
    | extract_lets
    | with_reducible apply State.logEvent_keeps
    | with_reducible apply State.pageEvent_keeps
    | with_reducible apply State.setEntry_keeps
    | (with_reducible apply foldl_keeps)
    | (with_reducible apply foldl_keeps1)
    | (intro _)
    | assumption)

theorem State.mergeRows_keeps {c : Settings} {s : State} (x1 : Chain) (x2 : List Rec) (x3 : List Rec) (h : s.Keeps c)
    : (s.mergeRows x1 x2 x3).1.Keeps c := by
  unfold State.mergeRows
  repeat' (first
    | split
    | with_reducible apply State.boundLost_keeps
    | with_reducible apply State.mergeUse_keeps
    | (with_reducible apply foldl_keeps1)
    | (intro _)
    | assumption)

theorem State.mergeRows_keeps' {c : Settings} {s : State} {x1 : Chain} {x2 : List Rec} {x3 : List Rec} (h : s.Keeps c) {p : _} {t : State} (e : (s.mergeRows x1 x2 x3) = (t, p)) : t.Keeps c := by
  have h2 := State.mergeRows_keeps x1 x2 x3 h
  rw [e] at h2
  exact h2

theorem State.nodeMerge_keeps {c : Settings} {s : State} (x1 : Chain) (x2 : List HeldMsg) (h : s.Keeps c) :
    (s.nodeMerge x1 x2).Keeps c := by
  unfold State.nodeMerge
  extract_lets n data recs tiles own
  clear_value recs tiles own
  have hm : ∀ {t : State} xs ys, t.Keeps c → (t.mergeRows x1 xs ys).1.Keeps c := fun xs ys ht => State.mergeRows_keeps _ _ _ ht
  split
  rename_i s1 b tb heq
  have h1 : s1.Keeps c := by
    split at heq
    · have e := congrArg Prod.fst heq
      dsimp only at e
      exact e ▸ hm _ _ h
    · have e := congrArg Prod.fst heq
      dsimp only at e
      exact e ▸ h
    · have e := congrArg Prod.fst heq
      dsimp only at e
      exact e ▸ h
  split
  rename_i s2 out heq2
  have h2 : s2.Keeps c := State.mergeRows_keeps' h1 heq2
  refine foldl_keeps (fun t a ht => State.releaseHeld_keeps _ ht) _ (State.modChain_keeps _ _ ?_)
  split
  · exact State.chainWrite_keeps _ _ h2
  · exact h2

theorem State.imgCmdDone_keeps {c : Settings} {s : State} (h : s.Keeps c) : s.imgCmdDone.Keeps c := by
  unfold State.imgCmdDone
  repeat' (first
    | with_reducible assumption
    | split
    | extract_lets
    | with_reducible apply State.imgReport_keeps
    | (with_reducible apply foldl_keeps)
    | (with_reducible apply foldl_keeps1)
    | (intro _)
    | assumption)

theorem State.recallAnswer_keeps {c : Settings} {s : State} (x1 : CreditPath) (x2 : Word) (h : s.Keeps c) :
    (s.recallAnswer x1 x2).Keeps c := by
  unfold State.recallAnswer
  repeat' (first
    | with_reducible assumption
    | split
    | extract_lets
    | with_reducible apply State.badCredit_keeps
    | (with_reducible apply foldl_keeps)
    | (with_reducible apply foldl_keeps1)
    | (intro _)
    | assumption)

theorem State.nodeGo_keeps {c : Settings} (x0 : Nat) {s : State} (x2 : Nat) (h : s.Keeps c) : (State.nodeGo x0 s
    x2).Keeps c := by
  induction x0 generalizing s with
  | zero => exact h
  | succ n ih =>
    rw [State.nodeGo]
    split
    · exact h
    · split
      · exact h
      · split
        · exact State.nodeDone_keeps _ h
        · split
          · exact h
          · split
            · exact ih (State.nodeMerge_keeps _ _ h)
            · split
              · exact h
              · dsimp only
                split
                · exact State.failChain_keeps _ _ h
                · exact State.issueRead_keeps _ _ h

theorem State.treeNode_keeps {c : Settings} {s : State} (x1 : Nat) (h : s.Keeps c) : (s.treeNode x1).Keeps c := by
  unfold State.treeNode
  repeat' (first
    | with_reducible assumption
    | split
    | extract_lets
    | with_reducible apply State.nodeGo_keeps
    | (with_reducible apply foldl_keeps)
    | (with_reducible apply foldl_keeps1)
    | (intro _)
    | assumption)

theorem State.lifeEffect_keeps {c : Settings} {s : State} (x1 : Nat) (h : s.Keeps c) : (s.lifeEffect x1).1.Keeps c := by
  unfold State.lifeEffect
  repeat' (first
    | with_reducible assumption
    | split
    | extract_lets
    | (with_reducible apply foldl_keeps)
    | (with_reducible apply foldl_keeps1)
    | (intro _)
    | assumption)

theorem State.lifeEffect_keeps' {c : Settings} {s : State} {x1 : Nat} (h : s.Keeps c) {p : _} {t : State} (e : (s.lifeEffect x1) = (t, p)) : t.Keeps c := by
  have h2 := State.lifeEffect_keeps x1 h
  rw [e] at h2
  exact h2

theorem State.returnP3_keeps {c : Settings} {s : State} (x1 : Header) (x2 : Bool) (h : s.Keeps c) : (s.returnP3 x1
    x2).Keeps c := by
  unfold State.returnP3
  repeat' (first
    | with_reducible assumption
    | split
    | extract_lets
    | with_reducible apply State.returnCredit_keeps
    | (with_reducible apply foldl_keeps)
    | (with_reducible apply foldl_keeps1)
    | (intro _)
    | assumption)

theorem State.readFails_keeps {c : Settings} {s : State} (x1 : ReadJob) (x2 : Nat) (h : s.Keeps c) : (s.readFails x1
    x2).Keeps c := by
  unfold State.readFails
  repeat' (first
    | split
    | extract_lets
    | with_reducible apply State.answerQueries_keeps
    | with_reducible apply State.applyFail_keeps
    | with_reducible apply State.ctxFail_keeps
    | with_reducible apply State.descriptorData_keeps
    | with_reducible apply State.failChain_keeps
    | with_reducible apply State.failChains_keeps
    | with_reducible apply State.fragUnreadable_keeps
    | with_reducible apply State.imgFail_keeps
    | with_reducible apply State.judgeCold_keeps
    | with_reducible apply State.loadData_keeps
    | with_reducible apply State.pumpCtx_keeps
    | with_reducible apply State.tenFail_keeps
    | with_reducible apply State.unitErr_keeps
    | (intro _)
    | assumption)

theorem State.readAnswer_keeps {c : Settings} {s : State} (x1 : Nat) (x2 : Option (List Byte)) (h : s.Keeps c) :
    (s.readAnswer x1 x2).Keeps c := by
  unfold State.readAnswer
  repeat' (first
    | with_reducible assumption
    | split
    | extract_lets
    | with_reducible apply State.captureSpad_keeps
    | with_reducible apply State.readData_keeps
    | with_reducible apply State.readFails_keeps
    | with_reducible apply State.settle_keeps
    | (with_reducible apply foldl_keeps)
    | (with_reducible apply foldl_keeps1)
    | (intro _)
    | assumption)

theorem State.tblCmdDone_keeps {c : Settings} {s : State} (h : s.Keeps c) : s.tblCmdDone.Keeps c := by
  unfold State.tblCmdDone
  split
  · split
    · refine State.tblReport_keeps _ _ _ _ ?_
      split
      · exact setBank_keeps _ _ h
      · exact h
    · exact h
  · exact h

theorem State.closeWindow_keeps {c : Settings} {s : State} (x1 : Nat) (h : s.Keeps c) : (s.closeWindow x1).Keeps c := by
  unfold State.closeWindow
  repeat' (first
    | split
    | extract_lets
    | with_reducible apply State.dormancy_keeps
    | with_reducible apply State.dropWindow_keeps
    | with_reducible apply State.keepT_keeps
    | with_reducible apply State.keepTs_keeps
    | with_reducible apply State.logEvent_keeps
    | exact State.needEntry_keeps' (by assumption) (by assumption)
    | with_reducible apply State.recordEntry_keeps
    | with_reducible apply State.setEntry_keeps
    | assumption)

theorem State.second_keeps {c : Settings} {s : State} (x1 : Option Nat) (x2 : Int) (h : s.Keeps c) : (s.second x1
    x2).Keeps c := by
  have h2 : s.settings = c := h
  show (s.second x1 x2).settings = c
  rw [← h2]
  unfold State.second LifeUnit.thermal
  dsimp only
  repeat' (first | rfl | split)

theorem State.selfTest_keeps {c : Settings} {s : State} (h : s.Keeps c) : s.selfTest.Keeps c := by
  unfold State.selfTest
  try dsimp only
  repeat' (first
    | with_reducible assumption
    | split
    | dsimp only
    | with_reducible apply State.logEvent_keeps
    | (refine keep_mk rfl ?_ rfl)
    | (with_reducible apply foldl_keeps)
    | (with_reducible apply foldl_keeps1)
    | (intro _)
    | assumption)

theorem State.guardEntry_keeps {c : Settings} {s : State} (x1 : Nat) (h : s.Keeps c) : (s.guardEntry x1).Keeps c := by
  unfold State.guardEntry
  repeat' (first
    | with_reducible assumption
    | split
    | extract_lets
    | with_reducible apply State.logEvent_keeps
    | with_reducible apply State.pageEvent_keeps
    | (with_reducible apply foldl_keeps)
    | (with_reducible apply foldl_keeps1)
    | (intro _)
    | assumption)

theorem State.imageChecks_keeps {c : Settings} {s : State} (h : s.Keeps c) : s.imageChecks.Keeps c := by
  unfold State.imageChecks
  repeat' (first
    | with_reducible assumption
    | split
    | extract_lets
    | with_reducible apply State.imageReject_keeps
    | with_reducible apply State.issueRead_keeps
    | (with_reducible apply foldl_keeps)
    | (with_reducible apply foldl_keeps1)
    | (intro _)
    | assumption)

theorem State.lifeDone_keeps {c : Settings} {s : State} (h : s.Keeps c) : s.lifeDone.Keeps c := by
  unfold State.lifeDone
  try dsimp only
  repeat' (first
    | with_reducible assumption
    | split
    | dsimp only
    | with_reducible apply State.lifeEffect_keeps
    | exact State.lifeEffect_keeps' (by assumption) (by assumption)
    | with_reducible apply State.logEvent_keeps
    | with_reducible apply State.pageEvent_keeps
    | (refine keep_mk rfl ?_ rfl)
    | (with_reducible apply foldl_keeps)
    | (with_reducible apply foldl_keeps1)
    | (intro _)
    | assumption)

theorem State.guardRelease_keeps {c : Settings} {s : State} (x1 : Nat) (h : s.Keeps c) : (s.guardRelease x1).Keeps c
    := by
  unfold State.guardRelease
  repeat' (first
    | with_reducible assumption
    | split
    | extract_lets
    | (with_reducible apply foldl_keeps)
    | (with_reducible apply foldl_keeps1)
    | (intro _)
    | assumption)

theorem State.openPending_keeps {c : Settings} {s : State} (x1 : Nat) (x2 : Word) (x3 : BitVec 16) (x4 : Word) (x5 :
    List Nat) (x6 : List Chain) (h : s.Keeps c) : (s.openPending x1 x2 x3 x4 x5 x6).Keeps c := by
  unfold State.openPending
  repeat' (first
    | split
    | extract_lets
    | with_reducible apply State.logOverlap_keeps
    | with_reducible apply State.needEntry_keeps
    | (with_reducible apply foldl_keeps)
    | (intro _)
    | assumption)

theorem State.admitChain_keeps {c : Settings} {s : State} (x1 : Chain) (h : s.Keeps c) : (s.admitChain x1).Keeps c := by
  unfold State.admitChain
  repeat' (first
    | split
    | with_reducible apply State.logRefusal_keeps
    | with_reducible apply State.openPending_keeps
    | with_reducible apply State.wantTables_keeps
    | assumption)

theorem State.endReset_keeps {c : Settings} {s : State} (h : s.Keeps c) : s.endReset.Keeps c := by
  unfold State.endReset
  repeat' (first
    | with_reducible assumption
    | split
    | extract_lets
    | with_reducible apply State.creditInit_keeps
    | with_reducible apply State.setPwr_keeps
    | with_reducible apply State.startHeldWake_keeps
    | (with_reducible apply foldl_keeps)
    | (with_reducible apply foldl_keeps1)
    | (intro _)
    | assumption)

theorem State.forecastSlot_keeps {c : Settings} {s : State} (x : Bool) (h : s.Keeps c) : (s.forecastSlot x).Keeps c := by
  unfold State.forecastSlot
  repeat' (first
    | with_reducible assumption
    | split
    | extract_lets
    | with_reducible apply State.send_keeps
    | (with_reducible apply foldl_keeps)
    | (with_reducible apply foldl_keeps1)
    | (intro _)
    | assumption)

theorem State.grantExpires_keeps {c : Settings} {s : State} (h : s.Keeps c) : s.grantExpires.Keeps c := by
  unfold State.grantExpires
  repeat' (first
    | with_reducible assumption
    | split
    | extract_lets
    | with_reducible apply State.setGrant_keeps
    | (with_reducible apply foldl_keeps)
    | (with_reducible apply foldl_keeps1)
    | (intro _)
    | assumption)

theorem State.writeAnswer_keeps {c : Settings} {s : State} (x1 : Nat) (x2 : Bool) (h : s.Keeps c) : (s.writeAnswer x1
    x2).Keeps c := by
  unfold State.writeAnswer
  repeat' (first
    | split
    | with_reducible apply State.captureSpad_keeps
    | with_reducible apply State.sendHeld_keeps
    | with_reducible apply State.settle_keeps
    | with_reducible apply State.writeDone_keeps
    | with_reducible apply State.writeFails_keeps
    | assumption)

theorem State.holdEnds_keeps {c : Settings} {s : State} (h : s.Keeps c) : s.holdEnds.Keeps c := h

theorem State.sorusRefetch_keeps {c : Settings} {s : State} (x1 : Nat) (h : s.Keeps c) : (s.sorusRefetch x1).Keeps c
    := by
  unfold State.sorusRefetch
  split
  · exact h
  · dsimp only
    split
    · exact h
    · exact State.refetchAll_keeps _ _ _ h

theorem State.exportBegin_keeps {c : Settings} {s : State} (h : s.Keeps c) : s.exportBegin.Keeps c := by
  unfold State.exportBegin
  repeat' (first
    | with_reducible assumption
    | split
    | extract_lets
    | with_reducible apply State.setImgCmd_keeps
    | (with_reducible apply foldl_keeps)
    | (with_reducible apply foldl_keeps1)
    | (intro _)
    | assumption)

theorem State.fragBell_keeps {c : Settings} {s : State} (x1 : Nat) (h : s.Keeps c) : (s.fragBell x1).Keeps c := by
  unfold State.fragBell
  repeat' (first
    | with_reducible assumption
    | split
    | extract_lets
    | with_reducible apply State.intake_keeps
    | (with_reducible apply foldl_keeps)
    | (with_reducible apply foldl_keeps1)
    | (intro _)
    | assumption)

theorem State.enterResting_keeps {c : Settings} {s : State} (h : s.Keeps c) : s.enterResting.Keeps c := by
  unfold State.enterResting
  repeat' (first
    | with_reducible assumption
    | split
    | extract_lets
    | with_reducible apply State.setPwr_keeps
    | (with_reducible apply foldl_keeps)
    | (with_reducible apply foldl_keeps1)
    | (intro _)
    | assumption)

theorem State.takeP3_keeps {c : Settings} {s : State} (x1 : PortMsg) (x2 : State → Bool → State) (h : s.Keeps c) (H2 :
    ∀ (t : State) a0, t.Keeps c → (x2 t a0).Keeps c) : (s.takeP3 x1 x2).Keeps c := by
  unfold State.takeP3
  dsimp only
  have hi := State.ingress_keeps x1 h
  repeat' (first | exact h | exact hi | exact H2 _ _ (State.popP3_keeps h) | exact H2 _ _ (State.popP3_keeps hi) | split)

theorem State.beginRecall_keeps {c : Settings} {s : State} (h : s.Keeps c) : s.beginRecall.Keeps c := h

theorem State.formEta_keeps {c : Settings} {s : State} (x1 : Nat) (h : s.Keeps c) : (s.formEta x1).Keeps c := by
  unfold State.formEta
  dsimp only
  have h1 := State.modGroup_keeps x1 (fun g => { g with etab := some (s.group x1).conf.base }) (fun _ => rfl) h
  split
  · exact h
  · refine State.maybeCheck_keeps ?_
    repeat' (first
      | exact State.etaReady_keeps _ _ h1
      | exact State.applyPhi_keeps _ _ _ h1
      | exact State.modGroup_keeps _ _ (fun _ => rfl) h1
      | split)

theorem State.secondCheck_keeps {c : Settings} {s : State} (h : s.Keeps c) : s.secondCheck.Keeps c := by
  unfold State.secondCheck
  repeat' (first
    | split
    | with_reducible apply State.abandonEntry_keeps
    | with_reducible apply State.refuseDormant_keeps
    | with_reducible apply State.writeBacks_keeps
    | assumption)

theorem State.takeBell_keeps {c : Settings} {s : State} (x1 : Header) (h : s.Keeps c) : (s.takeBell x1).Keeps c := by
  unfold State.takeBell
  repeat' (first
    | split
    | extract_lets
    | with_reducible apply State.acceptBell_keeps
    | with_reducible apply State.admitChain_keeps
    | with_reducible apply State.dropBell_keeps
    | with_reducible apply State.issueWords_keeps
    | assumption)

end Sys2Proof.Machine
end

