-- ==== Sys2Proof/Laws/State.lean ====
section
/-! SUPPORT. The fields of State that each named update leaves as they were, one lemma per field and update, each true by
rfl, and two lemmas for the updates whose new value a proof reads most. No later proof unfolds a record update. -/

namespace Sys2Proof.Machine

/-! ### State.send changes `out` alone -/
@[simp] theorem State.send_variant (s : State) (m : OutMsg) :
    (s.send m).variant = s.variant := rfl
@[simp] theorem State.send_inst (s : State) (m : OutMsg) :
    (s.send m).inst = s.inst := rfl
@[simp] theorem State.send_strap (s : State) (m : OutMsg) :
    (s.send m).strap = s.strap := rfl
@[simp] theorem State.send_gen3 (s : State) (m : OutMsg) :
    (s.send m).gen3 = s.gen3 := rfl
@[simp] theorem State.send_step (s : State) (m : OutMsg) :
    (s.send m).step = s.step := rfl
@[simp] theorem State.send_stepSeen (s : State) (m : OutMsg) :
    (s.send m).stepSeen = s.stepSeen := rfl
@[simp] theorem State.send_inReset (s : State) (m : OutMsg) :
    (s.send m).inReset = s.inReset := rfl
@[simp] theorem State.send_resetCause (s : State) (m : OutMsg) :
    (s.send m).resetCause = s.resetCause := rfl
@[simp] theorem State.send_fc (s : State) (m : OutMsg) :
    (s.send m).fc = s.fc := rfl
@[simp] theorem State.send_hdrs (s : State) (m : OutMsg) :
    (s.send m).hdrs = s.hdrs := rfl
@[simp] theorem State.send_pairs (s : State) (m : OutMsg) :
    (s.send m).pairs = s.pairs := rfl
@[simp] theorem State.send_pwr (s : State) (m : OutMsg) :
    (s.send m).pwr = s.pwr := rfl
@[simp] theorem State.send_env (s : State) (m : OutMsg) :
    (s.send m).env = s.env := rfl
@[simp] theorem State.send_life (s : State) (m : OutMsg) :
    (s.send m).life = s.life := rfl
@[simp] theorem State.send_cal (s : State) (m : OutMsg) :
    (s.send m).cal = s.cal := rfl
@[simp] theorem State.send_port (s : State) (m : OutMsg) :
    (s.send m).port = s.port := rfl
@[simp] theorem State.send_tbl (s : State) (m : OutMsg) :
    (s.send m).tbl = s.tbl := rfl
@[simp] theorem State.send_sen (s : State) (m : OutMsg) :
    (s.send m).sen = s.sen := rfl
@[simp] theorem State.send_chn (s : State) (m : OutMsg) :
    (s.send m).chn = s.chn := rfl
@[simp] theorem State.send_ctx (s : State) (m : OutMsg) :
    (s.send m).ctx = s.ctx := rfl
@[simp] theorem State.send_tree (s : State) (m : OutMsg) :
    (s.send m).tree = s.tree := rfl
@[simp] theorem State.send_num (s : State) (m : OutMsg) :
    (s.send m).num = s.num := rfl
@[simp] theorem State.send_log (s : State) (m : OutMsg) :
    (s.send m).log = s.log := rfl
@[simp] theorem State.send_sch (s : State) (m : OutMsg) :
    (s.send m).sch = s.sch := rfl
@[simp] theorem State.send_img (s : State) (m : OutMsg) :
    (s.send m).img = s.img := rfl
@[simp] theorem State.send_cnt (s : State) (m : OutMsg) :
    (s.send m).cnt = s.cnt := rfl
@[simp] theorem State.send_dbg (s : State) (m : OutMsg) :
    (s.send m).dbg = s.dbg := rfl
@[simp] theorem State.send_p0 (s : State) (m : OutMsg) :
    (s.send m).p0 = s.p0 := rfl
@[simp] theorem State.send_powerOns (s : State) (m : OutMsg) :
    (s.send m).powerOns = s.powerOns := rfl
@[simp] theorem State.send_choices (s : State) (m : OutMsg) :
    (s.send m).choices = s.choices := rfl
@[simp] theorem State.send_pending (s : State) (m : OutMsg) :
    (s.send m).pending = s.pending := rfl

/-! ### State.setHdr changes `hdrs` alone -/
@[simp] theorem State.setHdr_variant (s : State) (p : Page) (h : PageHdr) :
    (s.setHdr p h).variant = s.variant := rfl
@[simp] theorem State.setHdr_inst (s : State) (p : Page) (h : PageHdr) :
    (s.setHdr p h).inst = s.inst := rfl
@[simp] theorem State.setHdr_strap (s : State) (p : Page) (h : PageHdr) :
    (s.setHdr p h).strap = s.strap := rfl
@[simp] theorem State.setHdr_gen3 (s : State) (p : Page) (h : PageHdr) :
    (s.setHdr p h).gen3 = s.gen3 := rfl
@[simp] theorem State.setHdr_step (s : State) (p : Page) (h : PageHdr) :
    (s.setHdr p h).step = s.step := rfl
@[simp] theorem State.setHdr_stepSeen (s : State) (p : Page) (h : PageHdr) :
    (s.setHdr p h).stepSeen = s.stepSeen := rfl
@[simp] theorem State.setHdr_inReset (s : State) (p : Page) (h : PageHdr) :
    (s.setHdr p h).inReset = s.inReset := rfl
@[simp] theorem State.setHdr_resetCause (s : State) (p : Page) (h : PageHdr) :
    (s.setHdr p h).resetCause = s.resetCause := rfl
@[simp] theorem State.setHdr_fc (s : State) (p : Page) (h : PageHdr) :
    (s.setHdr p h).fc = s.fc := rfl
@[simp] theorem State.setHdr_pairs (s : State) (p : Page) (h : PageHdr) :
    (s.setHdr p h).pairs = s.pairs := rfl
@[simp] theorem State.setHdr_pwr (s : State) (p : Page) (h : PageHdr) :
    (s.setHdr p h).pwr = s.pwr := rfl
@[simp] theorem State.setHdr_env (s : State) (p : Page) (h : PageHdr) :
    (s.setHdr p h).env = s.env := rfl
@[simp] theorem State.setHdr_life (s : State) (p : Page) (h : PageHdr) :
    (s.setHdr p h).life = s.life := rfl
@[simp] theorem State.setHdr_cal (s : State) (p : Page) (h : PageHdr) :
    (s.setHdr p h).cal = s.cal := rfl
@[simp] theorem State.setHdr_port (s : State) (p : Page) (h : PageHdr) :
    (s.setHdr p h).port = s.port := rfl
@[simp] theorem State.setHdr_tbl (s : State) (p : Page) (h : PageHdr) :
    (s.setHdr p h).tbl = s.tbl := rfl
@[simp] theorem State.setHdr_sen (s : State) (p : Page) (h : PageHdr) :
    (s.setHdr p h).sen = s.sen := rfl
@[simp] theorem State.setHdr_chn (s : State) (p : Page) (h : PageHdr) :
    (s.setHdr p h).chn = s.chn := rfl
@[simp] theorem State.setHdr_ctx (s : State) (p : Page) (h : PageHdr) :
    (s.setHdr p h).ctx = s.ctx := rfl
@[simp] theorem State.setHdr_tree (s : State) (p : Page) (h : PageHdr) :
    (s.setHdr p h).tree = s.tree := rfl
@[simp] theorem State.setHdr_num (s : State) (p : Page) (h : PageHdr) :
    (s.setHdr p h).num = s.num := rfl
@[simp] theorem State.setHdr_log (s : State) (p : Page) (h : PageHdr) :
    (s.setHdr p h).log = s.log := rfl
@[simp] theorem State.setHdr_sch (s : State) (p : Page) (h : PageHdr) :
    (s.setHdr p h).sch = s.sch := rfl
@[simp] theorem State.setHdr_img (s : State) (p : Page) (h : PageHdr) :
    (s.setHdr p h).img = s.img := rfl
@[simp] theorem State.setHdr_cnt (s : State) (p : Page) (h : PageHdr) :
    (s.setHdr p h).cnt = s.cnt := rfl
@[simp] theorem State.setHdr_dbg (s : State) (p : Page) (h : PageHdr) :
    (s.setHdr p h).dbg = s.dbg := rfl
@[simp] theorem State.setHdr_p0 (s : State) (p : Page) (h : PageHdr) :
    (s.setHdr p h).p0 = s.p0 := rfl
@[simp] theorem State.setHdr_powerOns (s : State) (p : Page) (h : PageHdr) :
    (s.setHdr p h).powerOns = s.powerOns := rfl
@[simp] theorem State.setHdr_choices (s : State) (p : Page) (h : PageHdr) :
    (s.setHdr p h).choices = s.choices := rfl
@[simp] theorem State.setHdr_out (s : State) (p : Page) (h : PageHdr) :
    (s.setHdr p h).out = s.out := rfl
@[simp] theorem State.setHdr_pending (s : State) (p : Page) (h : PageHdr) :
    (s.setHdr p h).pending = s.pending := rfl

/-! ### State.holdLo changes `pairs` alone -/
@[simp] theorem State.holdLo_variant (s : State) (rq : Requester) (p : PairId) (v : Word) :
    (s.holdLo rq p v).variant = s.variant := rfl
@[simp] theorem State.holdLo_inst (s : State) (rq : Requester) (p : PairId) (v : Word) :
    (s.holdLo rq p v).inst = s.inst := rfl
@[simp] theorem State.holdLo_strap (s : State) (rq : Requester) (p : PairId) (v : Word) :
    (s.holdLo rq p v).strap = s.strap := rfl
@[simp] theorem State.holdLo_gen3 (s : State) (rq : Requester) (p : PairId) (v : Word) :
    (s.holdLo rq p v).gen3 = s.gen3 := rfl
@[simp] theorem State.holdLo_step (s : State) (rq : Requester) (p : PairId) (v : Word) :
    (s.holdLo rq p v).step = s.step := rfl
@[simp] theorem State.holdLo_stepSeen (s : State) (rq : Requester) (p : PairId) (v : Word) :
    (s.holdLo rq p v).stepSeen = s.stepSeen := rfl
@[simp] theorem State.holdLo_inReset (s : State) (rq : Requester) (p : PairId) (v : Word) :
    (s.holdLo rq p v).inReset = s.inReset := rfl
@[simp] theorem State.holdLo_resetCause (s : State) (rq : Requester) (p : PairId) (v : Word) :
    (s.holdLo rq p v).resetCause = s.resetCause := rfl
@[simp] theorem State.holdLo_fc (s : State) (rq : Requester) (p : PairId) (v : Word) :
    (s.holdLo rq p v).fc = s.fc := rfl
@[simp] theorem State.holdLo_hdrs (s : State) (rq : Requester) (p : PairId) (v : Word) :
    (s.holdLo rq p v).hdrs = s.hdrs := rfl
@[simp] theorem State.holdLo_pwr (s : State) (rq : Requester) (p : PairId) (v : Word) :
    (s.holdLo rq p v).pwr = s.pwr := rfl
@[simp] theorem State.holdLo_env (s : State) (rq : Requester) (p : PairId) (v : Word) :
    (s.holdLo rq p v).env = s.env := rfl
@[simp] theorem State.holdLo_life (s : State) (rq : Requester) (p : PairId) (v : Word) :
    (s.holdLo rq p v).life = s.life := rfl
@[simp] theorem State.holdLo_cal (s : State) (rq : Requester) (p : PairId) (v : Word) :
    (s.holdLo rq p v).cal = s.cal := rfl
@[simp] theorem State.holdLo_port (s : State) (rq : Requester) (p : PairId) (v : Word) :
    (s.holdLo rq p v).port = s.port := rfl
@[simp] theorem State.holdLo_tbl (s : State) (rq : Requester) (p : PairId) (v : Word) :
    (s.holdLo rq p v).tbl = s.tbl := rfl
@[simp] theorem State.holdLo_sen (s : State) (rq : Requester) (p : PairId) (v : Word) :
    (s.holdLo rq p v).sen = s.sen := rfl
@[simp] theorem State.holdLo_chn (s : State) (rq : Requester) (p : PairId) (v : Word) :
    (s.holdLo rq p v).chn = s.chn := rfl
@[simp] theorem State.holdLo_ctx (s : State) (rq : Requester) (p : PairId) (v : Word) :
    (s.holdLo rq p v).ctx = s.ctx := rfl
@[simp] theorem State.holdLo_tree (s : State) (rq : Requester) (p : PairId) (v : Word) :
    (s.holdLo rq p v).tree = s.tree := rfl
@[simp] theorem State.holdLo_num (s : State) (rq : Requester) (p : PairId) (v : Word) :
    (s.holdLo rq p v).num = s.num := rfl
@[simp] theorem State.holdLo_log (s : State) (rq : Requester) (p : PairId) (v : Word) :
    (s.holdLo rq p v).log = s.log := rfl
@[simp] theorem State.holdLo_sch (s : State) (rq : Requester) (p : PairId) (v : Word) :
    (s.holdLo rq p v).sch = s.sch := rfl
@[simp] theorem State.holdLo_img (s : State) (rq : Requester) (p : PairId) (v : Word) :
    (s.holdLo rq p v).img = s.img := rfl
@[simp] theorem State.holdLo_cnt (s : State) (rq : Requester) (p : PairId) (v : Word) :
    (s.holdLo rq p v).cnt = s.cnt := rfl
@[simp] theorem State.holdLo_dbg (s : State) (rq : Requester) (p : PairId) (v : Word) :
    (s.holdLo rq p v).dbg = s.dbg := rfl
@[simp] theorem State.holdLo_p0 (s : State) (rq : Requester) (p : PairId) (v : Word) :
    (s.holdLo rq p v).p0 = s.p0 := rfl
@[simp] theorem State.holdLo_powerOns (s : State) (rq : Requester) (p : PairId) (v : Word) :
    (s.holdLo rq p v).powerOns = s.powerOns := rfl
@[simp] theorem State.holdLo_choices (s : State) (rq : Requester) (p : PairId) (v : Word) :
    (s.holdLo rq p v).choices = s.choices := rfl
@[simp] theorem State.holdLo_out (s : State) (rq : Requester) (p : PairId) (v : Word) :
    (s.holdLo rq p v).out = s.out := rfl
@[simp] theorem State.holdLo_pending (s : State) (rq : Requester) (p : PairId) (v : Word) :
    (s.holdLo rq p v).pending = s.pending := rfl

/-! ### State.popP3 changes `port` alone -/
@[simp] theorem State.popP3_variant (s : State) :
    (s.popP3).variant = s.variant := rfl
@[simp] theorem State.popP3_inst (s : State) :
    (s.popP3).inst = s.inst := rfl
@[simp] theorem State.popP3_strap (s : State) :
    (s.popP3).strap = s.strap := rfl
@[simp] theorem State.popP3_gen3 (s : State) :
    (s.popP3).gen3 = s.gen3 := rfl
@[simp] theorem State.popP3_step (s : State) :
    (s.popP3).step = s.step := rfl
@[simp] theorem State.popP3_stepSeen (s : State) :
    (s.popP3).stepSeen = s.stepSeen := rfl
@[simp] theorem State.popP3_inReset (s : State) :
    (s.popP3).inReset = s.inReset := rfl
@[simp] theorem State.popP3_resetCause (s : State) :
    (s.popP3).resetCause = s.resetCause := rfl
@[simp] theorem State.popP3_fc (s : State) :
    (s.popP3).fc = s.fc := rfl
@[simp] theorem State.popP3_hdrs (s : State) :
    (s.popP3).hdrs = s.hdrs := rfl
@[simp] theorem State.popP3_pairs (s : State) :
    (s.popP3).pairs = s.pairs := rfl
@[simp] theorem State.popP3_pwr (s : State) :
    (s.popP3).pwr = s.pwr := rfl
@[simp] theorem State.popP3_env (s : State) :
    (s.popP3).env = s.env := rfl
@[simp] theorem State.popP3_life (s : State) :
    (s.popP3).life = s.life := rfl
@[simp] theorem State.popP3_cal (s : State) :
    (s.popP3).cal = s.cal := rfl
@[simp] theorem State.popP3_tbl (s : State) :
    (s.popP3).tbl = s.tbl := rfl
@[simp] theorem State.popP3_sen (s : State) :
    (s.popP3).sen = s.sen := rfl
@[simp] theorem State.popP3_chn (s : State) :
    (s.popP3).chn = s.chn := rfl
@[simp] theorem State.popP3_ctx (s : State) :
    (s.popP3).ctx = s.ctx := rfl
@[simp] theorem State.popP3_tree (s : State) :
    (s.popP3).tree = s.tree := rfl
@[simp] theorem State.popP3_num (s : State) :
    (s.popP3).num = s.num := rfl
@[simp] theorem State.popP3_log (s : State) :
    (s.popP3).log = s.log := rfl
@[simp] theorem State.popP3_sch (s : State) :
    (s.popP3).sch = s.sch := rfl
@[simp] theorem State.popP3_img (s : State) :
    (s.popP3).img = s.img := rfl
@[simp] theorem State.popP3_cnt (s : State) :
    (s.popP3).cnt = s.cnt := rfl
@[simp] theorem State.popP3_dbg (s : State) :
    (s.popP3).dbg = s.dbg := rfl
@[simp] theorem State.popP3_p0 (s : State) :
    (s.popP3).p0 = s.p0 := rfl
@[simp] theorem State.popP3_powerOns (s : State) :
    (s.popP3).powerOns = s.powerOns := rfl
@[simp] theorem State.popP3_choices (s : State) :
    (s.popP3).choices = s.choices := rfl
@[simp] theorem State.popP3_out (s : State) :
    (s.popP3).out = s.out := rfl
@[simp] theorem State.popP3_pending (s : State) :
    (s.popP3).pending = s.pending := rfl

/-! ### State.captureDrop changes `chn` alone -/
@[simp] theorem State.captureDrop_variant (s : State) (h : Header) (reason ord : Nat) :
    (s.captureDrop h reason ord).variant = s.variant := rfl
@[simp] theorem State.captureDrop_inst (s : State) (h : Header) (reason ord : Nat) :
    (s.captureDrop h reason ord).inst = s.inst := rfl
@[simp] theorem State.captureDrop_strap (s : State) (h : Header) (reason ord : Nat) :
    (s.captureDrop h reason ord).strap = s.strap := rfl
@[simp] theorem State.captureDrop_gen3 (s : State) (h : Header) (reason ord : Nat) :
    (s.captureDrop h reason ord).gen3 = s.gen3 := rfl
@[simp] theorem State.captureDrop_step (s : State) (h : Header) (reason ord : Nat) :
    (s.captureDrop h reason ord).step = s.step := rfl
@[simp] theorem State.captureDrop_stepSeen (s : State) (h : Header) (reason ord : Nat) :
    (s.captureDrop h reason ord).stepSeen = s.stepSeen := rfl
@[simp] theorem State.captureDrop_inReset (s : State) (h : Header) (reason ord : Nat) :
    (s.captureDrop h reason ord).inReset = s.inReset := rfl
@[simp] theorem State.captureDrop_resetCause (s : State) (h : Header) (reason ord : Nat) :
    (s.captureDrop h reason ord).resetCause = s.resetCause := rfl
@[simp] theorem State.captureDrop_fc (s : State) (h : Header) (reason ord : Nat) :
    (s.captureDrop h reason ord).fc = s.fc := rfl
@[simp] theorem State.captureDrop_hdrs (s : State) (h : Header) (reason ord : Nat) :
    (s.captureDrop h reason ord).hdrs = s.hdrs := rfl
@[simp] theorem State.captureDrop_pairs (s : State) (h : Header) (reason ord : Nat) :
    (s.captureDrop h reason ord).pairs = s.pairs := rfl
@[simp] theorem State.captureDrop_pwr (s : State) (h : Header) (reason ord : Nat) :
    (s.captureDrop h reason ord).pwr = s.pwr := rfl
@[simp] theorem State.captureDrop_env (s : State) (h : Header) (reason ord : Nat) :
    (s.captureDrop h reason ord).env = s.env := rfl
@[simp] theorem State.captureDrop_life (s : State) (h : Header) (reason ord : Nat) :
    (s.captureDrop h reason ord).life = s.life := rfl
@[simp] theorem State.captureDrop_cal (s : State) (h : Header) (reason ord : Nat) :
    (s.captureDrop h reason ord).cal = s.cal := rfl
@[simp] theorem State.captureDrop_port (s : State) (h : Header) (reason ord : Nat) :
    (s.captureDrop h reason ord).port = s.port := rfl
@[simp] theorem State.captureDrop_tbl (s : State) (h : Header) (reason ord : Nat) :
    (s.captureDrop h reason ord).tbl = s.tbl := rfl
@[simp] theorem State.captureDrop_sen (s : State) (h : Header) (reason ord : Nat) :
    (s.captureDrop h reason ord).sen = s.sen := rfl
@[simp] theorem State.captureDrop_ctx (s : State) (h : Header) (reason ord : Nat) :
    (s.captureDrop h reason ord).ctx = s.ctx := rfl
@[simp] theorem State.captureDrop_tree (s : State) (h : Header) (reason ord : Nat) :
    (s.captureDrop h reason ord).tree = s.tree := rfl
@[simp] theorem State.captureDrop_num (s : State) (h : Header) (reason ord : Nat) :
    (s.captureDrop h reason ord).num = s.num := rfl
@[simp] theorem State.captureDrop_log (s : State) (h : Header) (reason ord : Nat) :
    (s.captureDrop h reason ord).log = s.log := rfl
@[simp] theorem State.captureDrop_sch (s : State) (h : Header) (reason ord : Nat) :
    (s.captureDrop h reason ord).sch = s.sch := rfl
@[simp] theorem State.captureDrop_img (s : State) (h : Header) (reason ord : Nat) :
    (s.captureDrop h reason ord).img = s.img := rfl
@[simp] theorem State.captureDrop_cnt (s : State) (h : Header) (reason ord : Nat) :
    (s.captureDrop h reason ord).cnt = s.cnt := rfl
@[simp] theorem State.captureDrop_dbg (s : State) (h : Header) (reason ord : Nat) :
    (s.captureDrop h reason ord).dbg = s.dbg := rfl
@[simp] theorem State.captureDrop_p0 (s : State) (h : Header) (reason ord : Nat) :
    (s.captureDrop h reason ord).p0 = s.p0 := rfl
@[simp] theorem State.captureDrop_powerOns (s : State) (h : Header) (reason ord : Nat) :
    (s.captureDrop h reason ord).powerOns = s.powerOns := rfl
@[simp] theorem State.captureDrop_choices (s : State) (h : Header) (reason ord : Nat) :
    (s.captureDrop h reason ord).choices = s.choices := rfl
@[simp] theorem State.captureDrop_out (s : State) (h : Header) (reason ord : Nat) :
    (s.captureDrop h reason ord).out = s.out := rfl
@[simp] theorem State.captureDrop_pending (s : State) (h : Header) (reason ord : Nat) :
    (s.captureDrop h reason ord).pending = s.pending := rfl

/-! ### State.modChain changes `chn` alone -/
@[simp] theorem State.modChain_variant (s : State) (uid : Nat) (f : Chain → Chain) :
    (s.modChain uid f).variant = s.variant := rfl
@[simp] theorem State.modChain_inst (s : State) (uid : Nat) (f : Chain → Chain) :
    (s.modChain uid f).inst = s.inst := rfl
@[simp] theorem State.modChain_strap (s : State) (uid : Nat) (f : Chain → Chain) :
    (s.modChain uid f).strap = s.strap := rfl
@[simp] theorem State.modChain_gen3 (s : State) (uid : Nat) (f : Chain → Chain) :
    (s.modChain uid f).gen3 = s.gen3 := rfl
@[simp] theorem State.modChain_step (s : State) (uid : Nat) (f : Chain → Chain) :
    (s.modChain uid f).step = s.step := rfl
@[simp] theorem State.modChain_stepSeen (s : State) (uid : Nat) (f : Chain → Chain) :
    (s.modChain uid f).stepSeen = s.stepSeen := rfl
@[simp] theorem State.modChain_inReset (s : State) (uid : Nat) (f : Chain → Chain) :
    (s.modChain uid f).inReset = s.inReset := rfl
@[simp] theorem State.modChain_resetCause (s : State) (uid : Nat) (f : Chain → Chain) :
    (s.modChain uid f).resetCause = s.resetCause := rfl
@[simp] theorem State.modChain_fc (s : State) (uid : Nat) (f : Chain → Chain) :
    (s.modChain uid f).fc = s.fc := rfl
@[simp] theorem State.modChain_hdrs (s : State) (uid : Nat) (f : Chain → Chain) :
    (s.modChain uid f).hdrs = s.hdrs := rfl
@[simp] theorem State.modChain_pairs (s : State) (uid : Nat) (f : Chain → Chain) :
    (s.modChain uid f).pairs = s.pairs := rfl
@[simp] theorem State.modChain_pwr (s : State) (uid : Nat) (f : Chain → Chain) :
    (s.modChain uid f).pwr = s.pwr := rfl
@[simp] theorem State.modChain_env (s : State) (uid : Nat) (f : Chain → Chain) :
    (s.modChain uid f).env = s.env := rfl
@[simp] theorem State.modChain_life (s : State) (uid : Nat) (f : Chain → Chain) :
    (s.modChain uid f).life = s.life := rfl
@[simp] theorem State.modChain_cal (s : State) (uid : Nat) (f : Chain → Chain) :
    (s.modChain uid f).cal = s.cal := rfl
@[simp] theorem State.modChain_port (s : State) (uid : Nat) (f : Chain → Chain) :
    (s.modChain uid f).port = s.port := rfl
@[simp] theorem State.modChain_tbl (s : State) (uid : Nat) (f : Chain → Chain) :
    (s.modChain uid f).tbl = s.tbl := rfl
@[simp] theorem State.modChain_sen (s : State) (uid : Nat) (f : Chain → Chain) :
    (s.modChain uid f).sen = s.sen := rfl
@[simp] theorem State.modChain_ctx (s : State) (uid : Nat) (f : Chain → Chain) :
    (s.modChain uid f).ctx = s.ctx := rfl
@[simp] theorem State.modChain_tree (s : State) (uid : Nat) (f : Chain → Chain) :
    (s.modChain uid f).tree = s.tree := rfl
@[simp] theorem State.modChain_num (s : State) (uid : Nat) (f : Chain → Chain) :
    (s.modChain uid f).num = s.num := rfl
@[simp] theorem State.modChain_log (s : State) (uid : Nat) (f : Chain → Chain) :
    (s.modChain uid f).log = s.log := rfl
@[simp] theorem State.modChain_sch (s : State) (uid : Nat) (f : Chain → Chain) :
    (s.modChain uid f).sch = s.sch := rfl
@[simp] theorem State.modChain_img (s : State) (uid : Nat) (f : Chain → Chain) :
    (s.modChain uid f).img = s.img := rfl
@[simp] theorem State.modChain_cnt (s : State) (uid : Nat) (f : Chain → Chain) :
    (s.modChain uid f).cnt = s.cnt := rfl
@[simp] theorem State.modChain_dbg (s : State) (uid : Nat) (f : Chain → Chain) :
    (s.modChain uid f).dbg = s.dbg := rfl
@[simp] theorem State.modChain_p0 (s : State) (uid : Nat) (f : Chain → Chain) :
    (s.modChain uid f).p0 = s.p0 := rfl
@[simp] theorem State.modChain_powerOns (s : State) (uid : Nat) (f : Chain → Chain) :
    (s.modChain uid f).powerOns = s.powerOns := rfl
@[simp] theorem State.modChain_choices (s : State) (uid : Nat) (f : Chain → Chain) :
    (s.modChain uid f).choices = s.choices := rfl
@[simp] theorem State.modChain_out (s : State) (uid : Nat) (f : Chain → Chain) :
    (s.modChain uid f).out = s.out := rfl
@[simp] theorem State.modChain_pending (s : State) (uid : Nat) (f : Chain → Chain) :
    (s.modChain uid f).pending = s.pending := rfl

/-! ### State.modLane changes `chn` alone -/
@[simp] theorem State.modLane_variant (s : State) (no : Nat) (f : LaneWork → LaneWork) :
    (s.modLane no f).variant = s.variant := rfl
@[simp] theorem State.modLane_inst (s : State) (no : Nat) (f : LaneWork → LaneWork) :
    (s.modLane no f).inst = s.inst := rfl
@[simp] theorem State.modLane_strap (s : State) (no : Nat) (f : LaneWork → LaneWork) :
    (s.modLane no f).strap = s.strap := rfl
@[simp] theorem State.modLane_gen3 (s : State) (no : Nat) (f : LaneWork → LaneWork) :
    (s.modLane no f).gen3 = s.gen3 := rfl
@[simp] theorem State.modLane_step (s : State) (no : Nat) (f : LaneWork → LaneWork) :
    (s.modLane no f).step = s.step := rfl
@[simp] theorem State.modLane_stepSeen (s : State) (no : Nat) (f : LaneWork → LaneWork) :
    (s.modLane no f).stepSeen = s.stepSeen := rfl
@[simp] theorem State.modLane_inReset (s : State) (no : Nat) (f : LaneWork → LaneWork) :
    (s.modLane no f).inReset = s.inReset := rfl
@[simp] theorem State.modLane_resetCause (s : State) (no : Nat) (f : LaneWork → LaneWork) :
    (s.modLane no f).resetCause = s.resetCause := rfl
@[simp] theorem State.modLane_fc (s : State) (no : Nat) (f : LaneWork → LaneWork) :
    (s.modLane no f).fc = s.fc := rfl
@[simp] theorem State.modLane_hdrs (s : State) (no : Nat) (f : LaneWork → LaneWork) :
    (s.modLane no f).hdrs = s.hdrs := rfl
@[simp] theorem State.modLane_pairs (s : State) (no : Nat) (f : LaneWork → LaneWork) :
    (s.modLane no f).pairs = s.pairs := rfl
@[simp] theorem State.modLane_pwr (s : State) (no : Nat) (f : LaneWork → LaneWork) :
    (s.modLane no f).pwr = s.pwr := rfl
@[simp] theorem State.modLane_env (s : State) (no : Nat) (f : LaneWork → LaneWork) :
    (s.modLane no f).env = s.env := rfl
@[simp] theorem State.modLane_life (s : State) (no : Nat) (f : LaneWork → LaneWork) :
    (s.modLane no f).life = s.life := rfl
@[simp] theorem State.modLane_cal (s : State) (no : Nat) (f : LaneWork → LaneWork) :
    (s.modLane no f).cal = s.cal := rfl
@[simp] theorem State.modLane_port (s : State) (no : Nat) (f : LaneWork → LaneWork) :
    (s.modLane no f).port = s.port := rfl
@[simp] theorem State.modLane_tbl (s : State) (no : Nat) (f : LaneWork → LaneWork) :
    (s.modLane no f).tbl = s.tbl := rfl
@[simp] theorem State.modLane_sen (s : State) (no : Nat) (f : LaneWork → LaneWork) :
    (s.modLane no f).sen = s.sen := rfl
@[simp] theorem State.modLane_ctx (s : State) (no : Nat) (f : LaneWork → LaneWork) :
    (s.modLane no f).ctx = s.ctx := rfl
@[simp] theorem State.modLane_tree (s : State) (no : Nat) (f : LaneWork → LaneWork) :
    (s.modLane no f).tree = s.tree := rfl
@[simp] theorem State.modLane_num (s : State) (no : Nat) (f : LaneWork → LaneWork) :
    (s.modLane no f).num = s.num := rfl
@[simp] theorem State.modLane_log (s : State) (no : Nat) (f : LaneWork → LaneWork) :
    (s.modLane no f).log = s.log := rfl
@[simp] theorem State.modLane_sch (s : State) (no : Nat) (f : LaneWork → LaneWork) :
    (s.modLane no f).sch = s.sch := rfl
@[simp] theorem State.modLane_img (s : State) (no : Nat) (f : LaneWork → LaneWork) :
    (s.modLane no f).img = s.img := rfl
@[simp] theorem State.modLane_cnt (s : State) (no : Nat) (f : LaneWork → LaneWork) :
    (s.modLane no f).cnt = s.cnt := rfl
@[simp] theorem State.modLane_dbg (s : State) (no : Nat) (f : LaneWork → LaneWork) :
    (s.modLane no f).dbg = s.dbg := rfl
@[simp] theorem State.modLane_p0 (s : State) (no : Nat) (f : LaneWork → LaneWork) :
    (s.modLane no f).p0 = s.p0 := rfl
@[simp] theorem State.modLane_powerOns (s : State) (no : Nat) (f : LaneWork → LaneWork) :
    (s.modLane no f).powerOns = s.powerOns := rfl
@[simp] theorem State.modLane_choices (s : State) (no : Nat) (f : LaneWork → LaneWork) :
    (s.modLane no f).choices = s.choices := rfl
@[simp] theorem State.modLane_out (s : State) (no : Nat) (f : LaneWork → LaneWork) :
    (s.modLane no f).out = s.out := rfl
@[simp] theorem State.modLane_pending (s : State) (no : Nat) (f : LaneWork → LaneWork) :
    (s.modLane no f).pending = s.pending := rfl

/-! ### State.showPinna changes `chn` alone -/
@[simp] theorem State.showPinna_variant (s : State) (p : Nat) (g : Nat) (lane : Bool) :
    (s.showPinna p g lane).variant = s.variant := rfl
@[simp] theorem State.showPinna_inst (s : State) (p : Nat) (g : Nat) (lane : Bool) :
    (s.showPinna p g lane).inst = s.inst := rfl
@[simp] theorem State.showPinna_strap (s : State) (p : Nat) (g : Nat) (lane : Bool) :
    (s.showPinna p g lane).strap = s.strap := rfl
@[simp] theorem State.showPinna_gen3 (s : State) (p : Nat) (g : Nat) (lane : Bool) :
    (s.showPinna p g lane).gen3 = s.gen3 := rfl
@[simp] theorem State.showPinna_step (s : State) (p : Nat) (g : Nat) (lane : Bool) :
    (s.showPinna p g lane).step = s.step := rfl
@[simp] theorem State.showPinna_stepSeen (s : State) (p : Nat) (g : Nat) (lane : Bool) :
    (s.showPinna p g lane).stepSeen = s.stepSeen := rfl
@[simp] theorem State.showPinna_inReset (s : State) (p : Nat) (g : Nat) (lane : Bool) :
    (s.showPinna p g lane).inReset = s.inReset := rfl
@[simp] theorem State.showPinna_resetCause (s : State) (p : Nat) (g : Nat) (lane : Bool) :
    (s.showPinna p g lane).resetCause = s.resetCause := rfl
@[simp] theorem State.showPinna_fc (s : State) (p : Nat) (g : Nat) (lane : Bool) :
    (s.showPinna p g lane).fc = s.fc := rfl
@[simp] theorem State.showPinna_hdrs (s : State) (p : Nat) (g : Nat) (lane : Bool) :
    (s.showPinna p g lane).hdrs = s.hdrs := rfl
@[simp] theorem State.showPinna_pairs (s : State) (p : Nat) (g : Nat) (lane : Bool) :
    (s.showPinna p g lane).pairs = s.pairs := rfl
@[simp] theorem State.showPinna_pwr (s : State) (p : Nat) (g : Nat) (lane : Bool) :
    (s.showPinna p g lane).pwr = s.pwr := rfl
@[simp] theorem State.showPinna_env (s : State) (p : Nat) (g : Nat) (lane : Bool) :
    (s.showPinna p g lane).env = s.env := rfl
@[simp] theorem State.showPinna_life (s : State) (p : Nat) (g : Nat) (lane : Bool) :
    (s.showPinna p g lane).life = s.life := rfl
@[simp] theorem State.showPinna_cal (s : State) (p : Nat) (g : Nat) (lane : Bool) :
    (s.showPinna p g lane).cal = s.cal := rfl
@[simp] theorem State.showPinna_port (s : State) (p : Nat) (g : Nat) (lane : Bool) :
    (s.showPinna p g lane).port = s.port := rfl
@[simp] theorem State.showPinna_tbl (s : State) (p : Nat) (g : Nat) (lane : Bool) :
    (s.showPinna p g lane).tbl = s.tbl := rfl
@[simp] theorem State.showPinna_sen (s : State) (p : Nat) (g : Nat) (lane : Bool) :
    (s.showPinna p g lane).sen = s.sen := rfl
@[simp] theorem State.showPinna_ctx (s : State) (p : Nat) (g : Nat) (lane : Bool) :
    (s.showPinna p g lane).ctx = s.ctx := rfl
@[simp] theorem State.showPinna_tree (s : State) (p : Nat) (g : Nat) (lane : Bool) :
    (s.showPinna p g lane).tree = s.tree := rfl
@[simp] theorem State.showPinna_num (s : State) (p : Nat) (g : Nat) (lane : Bool) :
    (s.showPinna p g lane).num = s.num := rfl
@[simp] theorem State.showPinna_log (s : State) (p : Nat) (g : Nat) (lane : Bool) :
    (s.showPinna p g lane).log = s.log := rfl
@[simp] theorem State.showPinna_sch (s : State) (p : Nat) (g : Nat) (lane : Bool) :
    (s.showPinna p g lane).sch = s.sch := rfl
@[simp] theorem State.showPinna_img (s : State) (p : Nat) (g : Nat) (lane : Bool) :
    (s.showPinna p g lane).img = s.img := rfl
@[simp] theorem State.showPinna_cnt (s : State) (p : Nat) (g : Nat) (lane : Bool) :
    (s.showPinna p g lane).cnt = s.cnt := rfl
@[simp] theorem State.showPinna_dbg (s : State) (p : Nat) (g : Nat) (lane : Bool) :
    (s.showPinna p g lane).dbg = s.dbg := rfl
@[simp] theorem State.showPinna_p0 (s : State) (p : Nat) (g : Nat) (lane : Bool) :
    (s.showPinna p g lane).p0 = s.p0 := rfl
@[simp] theorem State.showPinna_powerOns (s : State) (p : Nat) (g : Nat) (lane : Bool) :
    (s.showPinna p g lane).powerOns = s.powerOns := rfl
@[simp] theorem State.showPinna_choices (s : State) (p : Nat) (g : Nat) (lane : Bool) :
    (s.showPinna p g lane).choices = s.choices := rfl
@[simp] theorem State.showPinna_out (s : State) (p : Nat) (g : Nat) (lane : Bool) :
    (s.showPinna p g lane).out = s.out := rfl
@[simp] theorem State.showPinna_pending (s : State) (p : Nat) (g : Nat) (lane : Bool) :
    (s.showPinna p g lane).pending = s.pending := rfl

/-! ### State.freeSlot changes `chn` alone -/
@[simp] theorem State.freeSlot_variant (s : State) (uid : Nat) :
    (s.freeSlot uid).variant = s.variant := rfl
@[simp] theorem State.freeSlot_inst (s : State) (uid : Nat) :
    (s.freeSlot uid).inst = s.inst := rfl
@[simp] theorem State.freeSlot_strap (s : State) (uid : Nat) :
    (s.freeSlot uid).strap = s.strap := rfl
@[simp] theorem State.freeSlot_gen3 (s : State) (uid : Nat) :
    (s.freeSlot uid).gen3 = s.gen3 := rfl
@[simp] theorem State.freeSlot_step (s : State) (uid : Nat) :
    (s.freeSlot uid).step = s.step := rfl
@[simp] theorem State.freeSlot_stepSeen (s : State) (uid : Nat) :
    (s.freeSlot uid).stepSeen = s.stepSeen := rfl
@[simp] theorem State.freeSlot_inReset (s : State) (uid : Nat) :
    (s.freeSlot uid).inReset = s.inReset := rfl
@[simp] theorem State.freeSlot_resetCause (s : State) (uid : Nat) :
    (s.freeSlot uid).resetCause = s.resetCause := rfl
@[simp] theorem State.freeSlot_fc (s : State) (uid : Nat) :
    (s.freeSlot uid).fc = s.fc := rfl
@[simp] theorem State.freeSlot_hdrs (s : State) (uid : Nat) :
    (s.freeSlot uid).hdrs = s.hdrs := rfl
@[simp] theorem State.freeSlot_pairs (s : State) (uid : Nat) :
    (s.freeSlot uid).pairs = s.pairs := rfl
@[simp] theorem State.freeSlot_pwr (s : State) (uid : Nat) :
    (s.freeSlot uid).pwr = s.pwr := rfl
@[simp] theorem State.freeSlot_env (s : State) (uid : Nat) :
    (s.freeSlot uid).env = s.env := rfl
@[simp] theorem State.freeSlot_life (s : State) (uid : Nat) :
    (s.freeSlot uid).life = s.life := rfl
@[simp] theorem State.freeSlot_cal (s : State) (uid : Nat) :
    (s.freeSlot uid).cal = s.cal := rfl
@[simp] theorem State.freeSlot_port (s : State) (uid : Nat) :
    (s.freeSlot uid).port = s.port := rfl
@[simp] theorem State.freeSlot_tbl (s : State) (uid : Nat) :
    (s.freeSlot uid).tbl = s.tbl := rfl
@[simp] theorem State.freeSlot_sen (s : State) (uid : Nat) :
    (s.freeSlot uid).sen = s.sen := rfl
@[simp] theorem State.freeSlot_ctx (s : State) (uid : Nat) :
    (s.freeSlot uid).ctx = s.ctx := rfl
@[simp] theorem State.freeSlot_tree (s : State) (uid : Nat) :
    (s.freeSlot uid).tree = s.tree := rfl
@[simp] theorem State.freeSlot_num (s : State) (uid : Nat) :
    (s.freeSlot uid).num = s.num := rfl
@[simp] theorem State.freeSlot_log (s : State) (uid : Nat) :
    (s.freeSlot uid).log = s.log := rfl
@[simp] theorem State.freeSlot_sch (s : State) (uid : Nat) :
    (s.freeSlot uid).sch = s.sch := rfl
@[simp] theorem State.freeSlot_img (s : State) (uid : Nat) :
    (s.freeSlot uid).img = s.img := rfl
@[simp] theorem State.freeSlot_cnt (s : State) (uid : Nat) :
    (s.freeSlot uid).cnt = s.cnt := rfl
@[simp] theorem State.freeSlot_dbg (s : State) (uid : Nat) :
    (s.freeSlot uid).dbg = s.dbg := rfl
@[simp] theorem State.freeSlot_p0 (s : State) (uid : Nat) :
    (s.freeSlot uid).p0 = s.p0 := rfl
@[simp] theorem State.freeSlot_powerOns (s : State) (uid : Nat) :
    (s.freeSlot uid).powerOns = s.powerOns := rfl
@[simp] theorem State.freeSlot_choices (s : State) (uid : Nat) :
    (s.freeSlot uid).choices = s.choices := rfl
@[simp] theorem State.freeSlot_out (s : State) (uid : Nat) :
    (s.freeSlot uid).out = s.out := rfl
@[simp] theorem State.freeSlot_pending (s : State) (uid : Nat) :
    (s.freeSlot uid).pending = s.pending := rfl

/-! ### State.leaveFirst changes `num` alone -/
@[simp] theorem State.leaveFirst_variant (s : State) (uid : Nat) :
    (s.leaveFirst uid).variant = s.variant := rfl
@[simp] theorem State.leaveFirst_inst (s : State) (uid : Nat) :
    (s.leaveFirst uid).inst = s.inst := rfl
@[simp] theorem State.leaveFirst_strap (s : State) (uid : Nat) :
    (s.leaveFirst uid).strap = s.strap := rfl
@[simp] theorem State.leaveFirst_gen3 (s : State) (uid : Nat) :
    (s.leaveFirst uid).gen3 = s.gen3 := rfl
@[simp] theorem State.leaveFirst_step (s : State) (uid : Nat) :
    (s.leaveFirst uid).step = s.step := rfl
@[simp] theorem State.leaveFirst_stepSeen (s : State) (uid : Nat) :
    (s.leaveFirst uid).stepSeen = s.stepSeen := rfl
@[simp] theorem State.leaveFirst_inReset (s : State) (uid : Nat) :
    (s.leaveFirst uid).inReset = s.inReset := rfl
@[simp] theorem State.leaveFirst_resetCause (s : State) (uid : Nat) :
    (s.leaveFirst uid).resetCause = s.resetCause := rfl
@[simp] theorem State.leaveFirst_fc (s : State) (uid : Nat) :
    (s.leaveFirst uid).fc = s.fc := rfl
@[simp] theorem State.leaveFirst_hdrs (s : State) (uid : Nat) :
    (s.leaveFirst uid).hdrs = s.hdrs := rfl
@[simp] theorem State.leaveFirst_pairs (s : State) (uid : Nat) :
    (s.leaveFirst uid).pairs = s.pairs := rfl
@[simp] theorem State.leaveFirst_pwr (s : State) (uid : Nat) :
    (s.leaveFirst uid).pwr = s.pwr := rfl
@[simp] theorem State.leaveFirst_env (s : State) (uid : Nat) :
    (s.leaveFirst uid).env = s.env := rfl
@[simp] theorem State.leaveFirst_life (s : State) (uid : Nat) :
    (s.leaveFirst uid).life = s.life := rfl
@[simp] theorem State.leaveFirst_cal (s : State) (uid : Nat) :
    (s.leaveFirst uid).cal = s.cal := rfl
@[simp] theorem State.leaveFirst_port (s : State) (uid : Nat) :
    (s.leaveFirst uid).port = s.port := rfl
@[simp] theorem State.leaveFirst_tbl (s : State) (uid : Nat) :
    (s.leaveFirst uid).tbl = s.tbl := rfl
@[simp] theorem State.leaveFirst_sen (s : State) (uid : Nat) :
    (s.leaveFirst uid).sen = s.sen := rfl
@[simp] theorem State.leaveFirst_chn (s : State) (uid : Nat) :
    (s.leaveFirst uid).chn = s.chn := rfl
@[simp] theorem State.leaveFirst_ctx (s : State) (uid : Nat) :
    (s.leaveFirst uid).ctx = s.ctx := rfl
@[simp] theorem State.leaveFirst_tree (s : State) (uid : Nat) :
    (s.leaveFirst uid).tree = s.tree := rfl
@[simp] theorem State.leaveFirst_log (s : State) (uid : Nat) :
    (s.leaveFirst uid).log = s.log := rfl
@[simp] theorem State.leaveFirst_sch (s : State) (uid : Nat) :
    (s.leaveFirst uid).sch = s.sch := rfl
@[simp] theorem State.leaveFirst_img (s : State) (uid : Nat) :
    (s.leaveFirst uid).img = s.img := rfl
@[simp] theorem State.leaveFirst_cnt (s : State) (uid : Nat) :
    (s.leaveFirst uid).cnt = s.cnt := rfl
@[simp] theorem State.leaveFirst_dbg (s : State) (uid : Nat) :
    (s.leaveFirst uid).dbg = s.dbg := rfl
@[simp] theorem State.leaveFirst_p0 (s : State) (uid : Nat) :
    (s.leaveFirst uid).p0 = s.p0 := rfl
@[simp] theorem State.leaveFirst_powerOns (s : State) (uid : Nat) :
    (s.leaveFirst uid).powerOns = s.powerOns := rfl
@[simp] theorem State.leaveFirst_choices (s : State) (uid : Nat) :
    (s.leaveFirst uid).choices = s.choices := rfl
@[simp] theorem State.leaveFirst_out (s : State) (uid : Nat) :
    (s.leaveFirst uid).out = s.out := rfl
@[simp] theorem State.leaveFirst_pending (s : State) (uid : Nat) :
    (s.leaveFirst uid).pending = s.pending := rfl

/-! ### State.modLine changes `ctx` alone -/
@[simp] theorem State.modLine_variant (s : State) (k : Nat) (f : CtxLine → CtxLine) :
    (s.modLine k f).variant = s.variant := rfl
@[simp] theorem State.modLine_inst (s : State) (k : Nat) (f : CtxLine → CtxLine) :
    (s.modLine k f).inst = s.inst := rfl
@[simp] theorem State.modLine_strap (s : State) (k : Nat) (f : CtxLine → CtxLine) :
    (s.modLine k f).strap = s.strap := rfl
@[simp] theorem State.modLine_gen3 (s : State) (k : Nat) (f : CtxLine → CtxLine) :
    (s.modLine k f).gen3 = s.gen3 := rfl
@[simp] theorem State.modLine_step (s : State) (k : Nat) (f : CtxLine → CtxLine) :
    (s.modLine k f).step = s.step := rfl
@[simp] theorem State.modLine_stepSeen (s : State) (k : Nat) (f : CtxLine → CtxLine) :
    (s.modLine k f).stepSeen = s.stepSeen := rfl
@[simp] theorem State.modLine_inReset (s : State) (k : Nat) (f : CtxLine → CtxLine) :
    (s.modLine k f).inReset = s.inReset := rfl
@[simp] theorem State.modLine_resetCause (s : State) (k : Nat) (f : CtxLine → CtxLine) :
    (s.modLine k f).resetCause = s.resetCause := rfl
@[simp] theorem State.modLine_fc (s : State) (k : Nat) (f : CtxLine → CtxLine) :
    (s.modLine k f).fc = s.fc := rfl
@[simp] theorem State.modLine_hdrs (s : State) (k : Nat) (f : CtxLine → CtxLine) :
    (s.modLine k f).hdrs = s.hdrs := rfl
@[simp] theorem State.modLine_pairs (s : State) (k : Nat) (f : CtxLine → CtxLine) :
    (s.modLine k f).pairs = s.pairs := rfl
@[simp] theorem State.modLine_pwr (s : State) (k : Nat) (f : CtxLine → CtxLine) :
    (s.modLine k f).pwr = s.pwr := rfl
@[simp] theorem State.modLine_env (s : State) (k : Nat) (f : CtxLine → CtxLine) :
    (s.modLine k f).env = s.env := rfl
@[simp] theorem State.modLine_life (s : State) (k : Nat) (f : CtxLine → CtxLine) :
    (s.modLine k f).life = s.life := rfl
@[simp] theorem State.modLine_cal (s : State) (k : Nat) (f : CtxLine → CtxLine) :
    (s.modLine k f).cal = s.cal := rfl
@[simp] theorem State.modLine_port (s : State) (k : Nat) (f : CtxLine → CtxLine) :
    (s.modLine k f).port = s.port := rfl
@[simp] theorem State.modLine_tbl (s : State) (k : Nat) (f : CtxLine → CtxLine) :
    (s.modLine k f).tbl = s.tbl := rfl
@[simp] theorem State.modLine_sen (s : State) (k : Nat) (f : CtxLine → CtxLine) :
    (s.modLine k f).sen = s.sen := rfl
@[simp] theorem State.modLine_chn (s : State) (k : Nat) (f : CtxLine → CtxLine) :
    (s.modLine k f).chn = s.chn := rfl
@[simp] theorem State.modLine_tree (s : State) (k : Nat) (f : CtxLine → CtxLine) :
    (s.modLine k f).tree = s.tree := rfl
@[simp] theorem State.modLine_num (s : State) (k : Nat) (f : CtxLine → CtxLine) :
    (s.modLine k f).num = s.num := rfl
@[simp] theorem State.modLine_log (s : State) (k : Nat) (f : CtxLine → CtxLine) :
    (s.modLine k f).log = s.log := rfl
@[simp] theorem State.modLine_sch (s : State) (k : Nat) (f : CtxLine → CtxLine) :
    (s.modLine k f).sch = s.sch := rfl
@[simp] theorem State.modLine_img (s : State) (k : Nat) (f : CtxLine → CtxLine) :
    (s.modLine k f).img = s.img := rfl
@[simp] theorem State.modLine_cnt (s : State) (k : Nat) (f : CtxLine → CtxLine) :
    (s.modLine k f).cnt = s.cnt := rfl
@[simp] theorem State.modLine_dbg (s : State) (k : Nat) (f : CtxLine → CtxLine) :
    (s.modLine k f).dbg = s.dbg := rfl
@[simp] theorem State.modLine_p0 (s : State) (k : Nat) (f : CtxLine → CtxLine) :
    (s.modLine k f).p0 = s.p0 := rfl
@[simp] theorem State.modLine_powerOns (s : State) (k : Nat) (f : CtxLine → CtxLine) :
    (s.modLine k f).powerOns = s.powerOns := rfl
@[simp] theorem State.modLine_choices (s : State) (k : Nat) (f : CtxLine → CtxLine) :
    (s.modLine k f).choices = s.choices := rfl
@[simp] theorem State.modLine_out (s : State) (k : Nat) (f : CtxLine → CtxLine) :
    (s.modLine k f).out = s.out := rfl
@[simp] theorem State.modLine_pending (s : State) (k : Nat) (f : CtxLine → CtxLine) :
    (s.modLine k f).pending = s.pending := rfl

/-! ### State.setCtxState changes `ctx` alone -/
@[simp] theorem State.setCtxState_variant (s : State) (i : Nat) (c : CtxState) :
    (s.setCtxState i c).variant = s.variant := rfl
@[simp] theorem State.setCtxState_inst (s : State) (i : Nat) (c : CtxState) :
    (s.setCtxState i c).inst = s.inst := rfl
@[simp] theorem State.setCtxState_strap (s : State) (i : Nat) (c : CtxState) :
    (s.setCtxState i c).strap = s.strap := rfl
@[simp] theorem State.setCtxState_gen3 (s : State) (i : Nat) (c : CtxState) :
    (s.setCtxState i c).gen3 = s.gen3 := rfl
@[simp] theorem State.setCtxState_step (s : State) (i : Nat) (c : CtxState) :
    (s.setCtxState i c).step = s.step := rfl
@[simp] theorem State.setCtxState_stepSeen (s : State) (i : Nat) (c : CtxState) :
    (s.setCtxState i c).stepSeen = s.stepSeen := rfl
@[simp] theorem State.setCtxState_inReset (s : State) (i : Nat) (c : CtxState) :
    (s.setCtxState i c).inReset = s.inReset := rfl
@[simp] theorem State.setCtxState_resetCause (s : State) (i : Nat) (c : CtxState) :
    (s.setCtxState i c).resetCause = s.resetCause := rfl
@[simp] theorem State.setCtxState_fc (s : State) (i : Nat) (c : CtxState) :
    (s.setCtxState i c).fc = s.fc := rfl
@[simp] theorem State.setCtxState_hdrs (s : State) (i : Nat) (c : CtxState) :
    (s.setCtxState i c).hdrs = s.hdrs := rfl
@[simp] theorem State.setCtxState_pairs (s : State) (i : Nat) (c : CtxState) :
    (s.setCtxState i c).pairs = s.pairs := rfl
@[simp] theorem State.setCtxState_pwr (s : State) (i : Nat) (c : CtxState) :
    (s.setCtxState i c).pwr = s.pwr := rfl
@[simp] theorem State.setCtxState_env (s : State) (i : Nat) (c : CtxState) :
    (s.setCtxState i c).env = s.env := rfl
@[simp] theorem State.setCtxState_life (s : State) (i : Nat) (c : CtxState) :
    (s.setCtxState i c).life = s.life := rfl
@[simp] theorem State.setCtxState_cal (s : State) (i : Nat) (c : CtxState) :
    (s.setCtxState i c).cal = s.cal := rfl
@[simp] theorem State.setCtxState_port (s : State) (i : Nat) (c : CtxState) :
    (s.setCtxState i c).port = s.port := rfl
@[simp] theorem State.setCtxState_tbl (s : State) (i : Nat) (c : CtxState) :
    (s.setCtxState i c).tbl = s.tbl := rfl
@[simp] theorem State.setCtxState_sen (s : State) (i : Nat) (c : CtxState) :
    (s.setCtxState i c).sen = s.sen := rfl
@[simp] theorem State.setCtxState_chn (s : State) (i : Nat) (c : CtxState) :
    (s.setCtxState i c).chn = s.chn := rfl
@[simp] theorem State.setCtxState_tree (s : State) (i : Nat) (c : CtxState) :
    (s.setCtxState i c).tree = s.tree := rfl
@[simp] theorem State.setCtxState_num (s : State) (i : Nat) (c : CtxState) :
    (s.setCtxState i c).num = s.num := rfl
@[simp] theorem State.setCtxState_log (s : State) (i : Nat) (c : CtxState) :
    (s.setCtxState i c).log = s.log := rfl
@[simp] theorem State.setCtxState_sch (s : State) (i : Nat) (c : CtxState) :
    (s.setCtxState i c).sch = s.sch := rfl
@[simp] theorem State.setCtxState_img (s : State) (i : Nat) (c : CtxState) :
    (s.setCtxState i c).img = s.img := rfl
@[simp] theorem State.setCtxState_cnt (s : State) (i : Nat) (c : CtxState) :
    (s.setCtxState i c).cnt = s.cnt := rfl
@[simp] theorem State.setCtxState_dbg (s : State) (i : Nat) (c : CtxState) :
    (s.setCtxState i c).dbg = s.dbg := rfl
@[simp] theorem State.setCtxState_p0 (s : State) (i : Nat) (c : CtxState) :
    (s.setCtxState i c).p0 = s.p0 := rfl
@[simp] theorem State.setCtxState_powerOns (s : State) (i : Nat) (c : CtxState) :
    (s.setCtxState i c).powerOns = s.powerOns := rfl
@[simp] theorem State.setCtxState_choices (s : State) (i : Nat) (c : CtxState) :
    (s.setCtxState i c).choices = s.choices := rfl
@[simp] theorem State.setCtxState_out (s : State) (i : Nat) (c : CtxState) :
    (s.setCtxState i c).out = s.out := rfl
@[simp] theorem State.setCtxState_pending (s : State) (i : Nat) (c : CtxState) :
    (s.setCtxState i c).pending = s.pending := rfl

/-! ### State.closeCtx changes `ctx` alone -/
@[simp] theorem State.closeCtx_variant (s : State) (i : Nat) :
    (s.closeCtx i).variant = s.variant := rfl
@[simp] theorem State.closeCtx_inst (s : State) (i : Nat) :
    (s.closeCtx i).inst = s.inst := rfl
@[simp] theorem State.closeCtx_strap (s : State) (i : Nat) :
    (s.closeCtx i).strap = s.strap := rfl
@[simp] theorem State.closeCtx_gen3 (s : State) (i : Nat) :
    (s.closeCtx i).gen3 = s.gen3 := rfl
@[simp] theorem State.closeCtx_step (s : State) (i : Nat) :
    (s.closeCtx i).step = s.step := rfl
@[simp] theorem State.closeCtx_stepSeen (s : State) (i : Nat) :
    (s.closeCtx i).stepSeen = s.stepSeen := rfl
@[simp] theorem State.closeCtx_inReset (s : State) (i : Nat) :
    (s.closeCtx i).inReset = s.inReset := rfl
@[simp] theorem State.closeCtx_resetCause (s : State) (i : Nat) :
    (s.closeCtx i).resetCause = s.resetCause := rfl
@[simp] theorem State.closeCtx_fc (s : State) (i : Nat) :
    (s.closeCtx i).fc = s.fc := rfl
@[simp] theorem State.closeCtx_hdrs (s : State) (i : Nat) :
    (s.closeCtx i).hdrs = s.hdrs := rfl
@[simp] theorem State.closeCtx_pairs (s : State) (i : Nat) :
    (s.closeCtx i).pairs = s.pairs := rfl
@[simp] theorem State.closeCtx_pwr (s : State) (i : Nat) :
    (s.closeCtx i).pwr = s.pwr := rfl
@[simp] theorem State.closeCtx_env (s : State) (i : Nat) :
    (s.closeCtx i).env = s.env := rfl
@[simp] theorem State.closeCtx_life (s : State) (i : Nat) :
    (s.closeCtx i).life = s.life := rfl
@[simp] theorem State.closeCtx_cal (s : State) (i : Nat) :
    (s.closeCtx i).cal = s.cal := rfl
@[simp] theorem State.closeCtx_port (s : State) (i : Nat) :
    (s.closeCtx i).port = s.port := rfl
@[simp] theorem State.closeCtx_tbl (s : State) (i : Nat) :
    (s.closeCtx i).tbl = s.tbl := rfl
@[simp] theorem State.closeCtx_sen (s : State) (i : Nat) :
    (s.closeCtx i).sen = s.sen := rfl
@[simp] theorem State.closeCtx_chn (s : State) (i : Nat) :
    (s.closeCtx i).chn = s.chn := rfl
@[simp] theorem State.closeCtx_tree (s : State) (i : Nat) :
    (s.closeCtx i).tree = s.tree := rfl
@[simp] theorem State.closeCtx_num (s : State) (i : Nat) :
    (s.closeCtx i).num = s.num := rfl
@[simp] theorem State.closeCtx_log (s : State) (i : Nat) :
    (s.closeCtx i).log = s.log := rfl
@[simp] theorem State.closeCtx_sch (s : State) (i : Nat) :
    (s.closeCtx i).sch = s.sch := rfl
@[simp] theorem State.closeCtx_img (s : State) (i : Nat) :
    (s.closeCtx i).img = s.img := rfl
@[simp] theorem State.closeCtx_cnt (s : State) (i : Nat) :
    (s.closeCtx i).cnt = s.cnt := rfl
@[simp] theorem State.closeCtx_dbg (s : State) (i : Nat) :
    (s.closeCtx i).dbg = s.dbg := rfl
@[simp] theorem State.closeCtx_p0 (s : State) (i : Nat) :
    (s.closeCtx i).p0 = s.p0 := rfl
@[simp] theorem State.closeCtx_powerOns (s : State) (i : Nat) :
    (s.closeCtx i).powerOns = s.powerOns := rfl
@[simp] theorem State.closeCtx_choices (s : State) (i : Nat) :
    (s.closeCtx i).choices = s.choices := rfl
@[simp] theorem State.closeCtx_out (s : State) (i : Nat) :
    (s.closeCtx i).out = s.out := rfl
@[simp] theorem State.closeCtx_pending (s : State) (i : Nat) :
    (s.closeCtx i).pending = s.pending := rfl

/-! ### State.setCtxCmd changes `ctx` alone -/
@[simp] theorem State.setCtxCmd_variant (s : State) (c : CtxCmd) :
    (s.setCtxCmd c).variant = s.variant := rfl
@[simp] theorem State.setCtxCmd_inst (s : State) (c : CtxCmd) :
    (s.setCtxCmd c).inst = s.inst := rfl
@[simp] theorem State.setCtxCmd_strap (s : State) (c : CtxCmd) :
    (s.setCtxCmd c).strap = s.strap := rfl
@[simp] theorem State.setCtxCmd_gen3 (s : State) (c : CtxCmd) :
    (s.setCtxCmd c).gen3 = s.gen3 := rfl
@[simp] theorem State.setCtxCmd_step (s : State) (c : CtxCmd) :
    (s.setCtxCmd c).step = s.step := rfl
@[simp] theorem State.setCtxCmd_stepSeen (s : State) (c : CtxCmd) :
    (s.setCtxCmd c).stepSeen = s.stepSeen := rfl
@[simp] theorem State.setCtxCmd_inReset (s : State) (c : CtxCmd) :
    (s.setCtxCmd c).inReset = s.inReset := rfl
@[simp] theorem State.setCtxCmd_resetCause (s : State) (c : CtxCmd) :
    (s.setCtxCmd c).resetCause = s.resetCause := rfl
@[simp] theorem State.setCtxCmd_fc (s : State) (c : CtxCmd) :
    (s.setCtxCmd c).fc = s.fc := rfl
@[simp] theorem State.setCtxCmd_hdrs (s : State) (c : CtxCmd) :
    (s.setCtxCmd c).hdrs = s.hdrs := rfl
@[simp] theorem State.setCtxCmd_pairs (s : State) (c : CtxCmd) :
    (s.setCtxCmd c).pairs = s.pairs := rfl
@[simp] theorem State.setCtxCmd_pwr (s : State) (c : CtxCmd) :
    (s.setCtxCmd c).pwr = s.pwr := rfl
@[simp] theorem State.setCtxCmd_env (s : State) (c : CtxCmd) :
    (s.setCtxCmd c).env = s.env := rfl
@[simp] theorem State.setCtxCmd_life (s : State) (c : CtxCmd) :
    (s.setCtxCmd c).life = s.life := rfl
@[simp] theorem State.setCtxCmd_cal (s : State) (c : CtxCmd) :
    (s.setCtxCmd c).cal = s.cal := rfl
@[simp] theorem State.setCtxCmd_port (s : State) (c : CtxCmd) :
    (s.setCtxCmd c).port = s.port := rfl
@[simp] theorem State.setCtxCmd_tbl (s : State) (c : CtxCmd) :
    (s.setCtxCmd c).tbl = s.tbl := rfl
@[simp] theorem State.setCtxCmd_sen (s : State) (c : CtxCmd) :
    (s.setCtxCmd c).sen = s.sen := rfl
@[simp] theorem State.setCtxCmd_chn (s : State) (c : CtxCmd) :
    (s.setCtxCmd c).chn = s.chn := rfl
@[simp] theorem State.setCtxCmd_tree (s : State) (c : CtxCmd) :
    (s.setCtxCmd c).tree = s.tree := rfl
@[simp] theorem State.setCtxCmd_num (s : State) (c : CtxCmd) :
    (s.setCtxCmd c).num = s.num := rfl
@[simp] theorem State.setCtxCmd_log (s : State) (c : CtxCmd) :
    (s.setCtxCmd c).log = s.log := rfl
@[simp] theorem State.setCtxCmd_sch (s : State) (c : CtxCmd) :
    (s.setCtxCmd c).sch = s.sch := rfl
@[simp] theorem State.setCtxCmd_img (s : State) (c : CtxCmd) :
    (s.setCtxCmd c).img = s.img := rfl
@[simp] theorem State.setCtxCmd_cnt (s : State) (c : CtxCmd) :
    (s.setCtxCmd c).cnt = s.cnt := rfl
@[simp] theorem State.setCtxCmd_dbg (s : State) (c : CtxCmd) :
    (s.setCtxCmd c).dbg = s.dbg := rfl
@[simp] theorem State.setCtxCmd_p0 (s : State) (c : CtxCmd) :
    (s.setCtxCmd c).p0 = s.p0 := rfl
@[simp] theorem State.setCtxCmd_powerOns (s : State) (c : CtxCmd) :
    (s.setCtxCmd c).powerOns = s.powerOns := rfl
@[simp] theorem State.setCtxCmd_choices (s : State) (c : CtxCmd) :
    (s.setCtxCmd c).choices = s.choices := rfl
@[simp] theorem State.setCtxCmd_out (s : State) (c : CtxCmd) :
    (s.setCtxCmd c).out = s.out := rfl
@[simp] theorem State.setCtxCmd_pending (s : State) (c : CtxCmd) :
    (s.setCtxCmd c).pending = s.pending := rfl

/-! ### State.setImgCmd changes `img` alone -/
@[simp] theorem State.setImgCmd_variant (s : State) (c : ImgCmd) :
    (s.setImgCmd c).variant = s.variant := rfl
@[simp] theorem State.setImgCmd_inst (s : State) (c : ImgCmd) :
    (s.setImgCmd c).inst = s.inst := rfl
@[simp] theorem State.setImgCmd_strap (s : State) (c : ImgCmd) :
    (s.setImgCmd c).strap = s.strap := rfl
@[simp] theorem State.setImgCmd_gen3 (s : State) (c : ImgCmd) :
    (s.setImgCmd c).gen3 = s.gen3 := rfl
@[simp] theorem State.setImgCmd_step (s : State) (c : ImgCmd) :
    (s.setImgCmd c).step = s.step := rfl
@[simp] theorem State.setImgCmd_stepSeen (s : State) (c : ImgCmd) :
    (s.setImgCmd c).stepSeen = s.stepSeen := rfl
@[simp] theorem State.setImgCmd_inReset (s : State) (c : ImgCmd) :
    (s.setImgCmd c).inReset = s.inReset := rfl
@[simp] theorem State.setImgCmd_resetCause (s : State) (c : ImgCmd) :
    (s.setImgCmd c).resetCause = s.resetCause := rfl
@[simp] theorem State.setImgCmd_fc (s : State) (c : ImgCmd) :
    (s.setImgCmd c).fc = s.fc := rfl
@[simp] theorem State.setImgCmd_hdrs (s : State) (c : ImgCmd) :
    (s.setImgCmd c).hdrs = s.hdrs := rfl
@[simp] theorem State.setImgCmd_pairs (s : State) (c : ImgCmd) :
    (s.setImgCmd c).pairs = s.pairs := rfl
@[simp] theorem State.setImgCmd_pwr (s : State) (c : ImgCmd) :
    (s.setImgCmd c).pwr = s.pwr := rfl
@[simp] theorem State.setImgCmd_env (s : State) (c : ImgCmd) :
    (s.setImgCmd c).env = s.env := rfl
@[simp] theorem State.setImgCmd_life (s : State) (c : ImgCmd) :
    (s.setImgCmd c).life = s.life := rfl
@[simp] theorem State.setImgCmd_cal (s : State) (c : ImgCmd) :
    (s.setImgCmd c).cal = s.cal := rfl
@[simp] theorem State.setImgCmd_port (s : State) (c : ImgCmd) :
    (s.setImgCmd c).port = s.port := rfl
@[simp] theorem State.setImgCmd_tbl (s : State) (c : ImgCmd) :
    (s.setImgCmd c).tbl = s.tbl := rfl
@[simp] theorem State.setImgCmd_sen (s : State) (c : ImgCmd) :
    (s.setImgCmd c).sen = s.sen := rfl
@[simp] theorem State.setImgCmd_chn (s : State) (c : ImgCmd) :
    (s.setImgCmd c).chn = s.chn := rfl
@[simp] theorem State.setImgCmd_ctx (s : State) (c : ImgCmd) :
    (s.setImgCmd c).ctx = s.ctx := rfl
@[simp] theorem State.setImgCmd_tree (s : State) (c : ImgCmd) :
    (s.setImgCmd c).tree = s.tree := rfl
@[simp] theorem State.setImgCmd_num (s : State) (c : ImgCmd) :
    (s.setImgCmd c).num = s.num := rfl
@[simp] theorem State.setImgCmd_log (s : State) (c : ImgCmd) :
    (s.setImgCmd c).log = s.log := rfl
@[simp] theorem State.setImgCmd_sch (s : State) (c : ImgCmd) :
    (s.setImgCmd c).sch = s.sch := rfl
@[simp] theorem State.setImgCmd_cnt (s : State) (c : ImgCmd) :
    (s.setImgCmd c).cnt = s.cnt := rfl
@[simp] theorem State.setImgCmd_dbg (s : State) (c : ImgCmd) :
    (s.setImgCmd c).dbg = s.dbg := rfl
@[simp] theorem State.setImgCmd_p0 (s : State) (c : ImgCmd) :
    (s.setImgCmd c).p0 = s.p0 := rfl
@[simp] theorem State.setImgCmd_powerOns (s : State) (c : ImgCmd) :
    (s.setImgCmd c).powerOns = s.powerOns := rfl
@[simp] theorem State.setImgCmd_choices (s : State) (c : ImgCmd) :
    (s.setImgCmd c).choices = s.choices := rfl
@[simp] theorem State.setImgCmd_out (s : State) (c : ImgCmd) :
    (s.setImgCmd c).out = s.out := rfl
@[simp] theorem State.setImgCmd_pending (s : State) (c : ImgCmd) :
    (s.setImgCmd c).pending = s.pending := rfl

/-! ### State.setFrag changes `img` alone -/
@[simp] theorem State.setFrag_variant (s : State) (f : FragIn) :
    (s.setFrag f).variant = s.variant := rfl
@[simp] theorem State.setFrag_inst (s : State) (f : FragIn) :
    (s.setFrag f).inst = s.inst := rfl
@[simp] theorem State.setFrag_strap (s : State) (f : FragIn) :
    (s.setFrag f).strap = s.strap := rfl
@[simp] theorem State.setFrag_gen3 (s : State) (f : FragIn) :
    (s.setFrag f).gen3 = s.gen3 := rfl
@[simp] theorem State.setFrag_step (s : State) (f : FragIn) :
    (s.setFrag f).step = s.step := rfl
@[simp] theorem State.setFrag_stepSeen (s : State) (f : FragIn) :
    (s.setFrag f).stepSeen = s.stepSeen := rfl
@[simp] theorem State.setFrag_inReset (s : State) (f : FragIn) :
    (s.setFrag f).inReset = s.inReset := rfl
@[simp] theorem State.setFrag_resetCause (s : State) (f : FragIn) :
    (s.setFrag f).resetCause = s.resetCause := rfl
@[simp] theorem State.setFrag_fc (s : State) (f : FragIn) :
    (s.setFrag f).fc = s.fc := rfl
@[simp] theorem State.setFrag_hdrs (s : State) (f : FragIn) :
    (s.setFrag f).hdrs = s.hdrs := rfl
@[simp] theorem State.setFrag_pairs (s : State) (f : FragIn) :
    (s.setFrag f).pairs = s.pairs := rfl
@[simp] theorem State.setFrag_pwr (s : State) (f : FragIn) :
    (s.setFrag f).pwr = s.pwr := rfl
@[simp] theorem State.setFrag_env (s : State) (f : FragIn) :
    (s.setFrag f).env = s.env := rfl
@[simp] theorem State.setFrag_life (s : State) (f : FragIn) :
    (s.setFrag f).life = s.life := rfl
@[simp] theorem State.setFrag_cal (s : State) (f : FragIn) :
    (s.setFrag f).cal = s.cal := rfl
@[simp] theorem State.setFrag_port (s : State) (f : FragIn) :
    (s.setFrag f).port = s.port := rfl
@[simp] theorem State.setFrag_tbl (s : State) (f : FragIn) :
    (s.setFrag f).tbl = s.tbl := rfl
@[simp] theorem State.setFrag_sen (s : State) (f : FragIn) :
    (s.setFrag f).sen = s.sen := rfl
@[simp] theorem State.setFrag_chn (s : State) (f : FragIn) :
    (s.setFrag f).chn = s.chn := rfl
@[simp] theorem State.setFrag_ctx (s : State) (f : FragIn) :
    (s.setFrag f).ctx = s.ctx := rfl
@[simp] theorem State.setFrag_tree (s : State) (f : FragIn) :
    (s.setFrag f).tree = s.tree := rfl
@[simp] theorem State.setFrag_num (s : State) (f : FragIn) :
    (s.setFrag f).num = s.num := rfl
@[simp] theorem State.setFrag_log (s : State) (f : FragIn) :
    (s.setFrag f).log = s.log := rfl
@[simp] theorem State.setFrag_sch (s : State) (f : FragIn) :
    (s.setFrag f).sch = s.sch := rfl
@[simp] theorem State.setFrag_cnt (s : State) (f : FragIn) :
    (s.setFrag f).cnt = s.cnt := rfl
@[simp] theorem State.setFrag_dbg (s : State) (f : FragIn) :
    (s.setFrag f).dbg = s.dbg := rfl
@[simp] theorem State.setFrag_p0 (s : State) (f : FragIn) :
    (s.setFrag f).p0 = s.p0 := rfl
@[simp] theorem State.setFrag_powerOns (s : State) (f : FragIn) :
    (s.setFrag f).powerOns = s.powerOns := rfl
@[simp] theorem State.setFrag_choices (s : State) (f : FragIn) :
    (s.setFrag f).choices = s.choices := rfl
@[simp] theorem State.setFrag_out (s : State) (f : FragIn) :
    (s.setFrag f).out = s.out := rfl
@[simp] theorem State.setFrag_pending (s : State) (f : FragIn) :
    (s.setFrag f).pending = s.pending := rfl

/-! ### State.popFrag changes `img` alone -/
@[simp] theorem State.popFrag_variant (s : State) :
    (s.popFrag).variant = s.variant := rfl
@[simp] theorem State.popFrag_inst (s : State) :
    (s.popFrag).inst = s.inst := rfl
@[simp] theorem State.popFrag_strap (s : State) :
    (s.popFrag).strap = s.strap := rfl
@[simp] theorem State.popFrag_gen3 (s : State) :
    (s.popFrag).gen3 = s.gen3 := rfl
@[simp] theorem State.popFrag_step (s : State) :
    (s.popFrag).step = s.step := rfl
@[simp] theorem State.popFrag_stepSeen (s : State) :
    (s.popFrag).stepSeen = s.stepSeen := rfl
@[simp] theorem State.popFrag_inReset (s : State) :
    (s.popFrag).inReset = s.inReset := rfl
@[simp] theorem State.popFrag_resetCause (s : State) :
    (s.popFrag).resetCause = s.resetCause := rfl
@[simp] theorem State.popFrag_fc (s : State) :
    (s.popFrag).fc = s.fc := rfl
@[simp] theorem State.popFrag_hdrs (s : State) :
    (s.popFrag).hdrs = s.hdrs := rfl
@[simp] theorem State.popFrag_pairs (s : State) :
    (s.popFrag).pairs = s.pairs := rfl
@[simp] theorem State.popFrag_pwr (s : State) :
    (s.popFrag).pwr = s.pwr := rfl
@[simp] theorem State.popFrag_env (s : State) :
    (s.popFrag).env = s.env := rfl
@[simp] theorem State.popFrag_life (s : State) :
    (s.popFrag).life = s.life := rfl
@[simp] theorem State.popFrag_cal (s : State) :
    (s.popFrag).cal = s.cal := rfl
@[simp] theorem State.popFrag_port (s : State) :
    (s.popFrag).port = s.port := rfl
@[simp] theorem State.popFrag_tbl (s : State) :
    (s.popFrag).tbl = s.tbl := rfl
@[simp] theorem State.popFrag_sen (s : State) :
    (s.popFrag).sen = s.sen := rfl
@[simp] theorem State.popFrag_chn (s : State) :
    (s.popFrag).chn = s.chn := rfl
@[simp] theorem State.popFrag_ctx (s : State) :
    (s.popFrag).ctx = s.ctx := rfl
@[simp] theorem State.popFrag_tree (s : State) :
    (s.popFrag).tree = s.tree := rfl
@[simp] theorem State.popFrag_num (s : State) :
    (s.popFrag).num = s.num := rfl
@[simp] theorem State.popFrag_log (s : State) :
    (s.popFrag).log = s.log := rfl
@[simp] theorem State.popFrag_sch (s : State) :
    (s.popFrag).sch = s.sch := rfl
@[simp] theorem State.popFrag_cnt (s : State) :
    (s.popFrag).cnt = s.cnt := rfl
@[simp] theorem State.popFrag_dbg (s : State) :
    (s.popFrag).dbg = s.dbg := rfl
@[simp] theorem State.popFrag_p0 (s : State) :
    (s.popFrag).p0 = s.p0 := rfl
@[simp] theorem State.popFrag_powerOns (s : State) :
    (s.popFrag).powerOns = s.powerOns := rfl
@[simp] theorem State.popFrag_choices (s : State) :
    (s.popFrag).choices = s.choices := rfl
@[simp] theorem State.popFrag_out (s : State) :
    (s.popFrag).out = s.out := rfl
@[simp] theorem State.popFrag_pending (s : State) :
    (s.popFrag).pending = s.pending := rfl

/-! ### State.spend changes `env` alone -/
@[simp] theorem State.spend_variant (s : State) (k n : Nat) :
    (s.spend k n).variant = s.variant := rfl
@[simp] theorem State.spend_inst (s : State) (k n : Nat) :
    (s.spend k n).inst = s.inst := rfl
@[simp] theorem State.spend_strap (s : State) (k n : Nat) :
    (s.spend k n).strap = s.strap := rfl
@[simp] theorem State.spend_gen3 (s : State) (k n : Nat) :
    (s.spend k n).gen3 = s.gen3 := rfl
@[simp] theorem State.spend_step (s : State) (k n : Nat) :
    (s.spend k n).step = s.step := rfl
@[simp] theorem State.spend_stepSeen (s : State) (k n : Nat) :
    (s.spend k n).stepSeen = s.stepSeen := rfl
@[simp] theorem State.spend_inReset (s : State) (k n : Nat) :
    (s.spend k n).inReset = s.inReset := rfl
@[simp] theorem State.spend_resetCause (s : State) (k n : Nat) :
    (s.spend k n).resetCause = s.resetCause := rfl
@[simp] theorem State.spend_fc (s : State) (k n : Nat) :
    (s.spend k n).fc = s.fc := rfl
@[simp] theorem State.spend_hdrs (s : State) (k n : Nat) :
    (s.spend k n).hdrs = s.hdrs := rfl
@[simp] theorem State.spend_pairs (s : State) (k n : Nat) :
    (s.spend k n).pairs = s.pairs := rfl
@[simp] theorem State.spend_pwr (s : State) (k n : Nat) :
    (s.spend k n).pwr = s.pwr := rfl
@[simp] theorem State.spend_life (s : State) (k n : Nat) :
    (s.spend k n).life = s.life := rfl
@[simp] theorem State.spend_cal (s : State) (k n : Nat) :
    (s.spend k n).cal = s.cal := rfl
@[simp] theorem State.spend_port (s : State) (k n : Nat) :
    (s.spend k n).port = s.port := rfl
@[simp] theorem State.spend_tbl (s : State) (k n : Nat) :
    (s.spend k n).tbl = s.tbl := rfl
@[simp] theorem State.spend_sen (s : State) (k n : Nat) :
    (s.spend k n).sen = s.sen := rfl
@[simp] theorem State.spend_chn (s : State) (k n : Nat) :
    (s.spend k n).chn = s.chn := rfl
@[simp] theorem State.spend_ctx (s : State) (k n : Nat) :
    (s.spend k n).ctx = s.ctx := rfl
@[simp] theorem State.spend_tree (s : State) (k n : Nat) :
    (s.spend k n).tree = s.tree := rfl
@[simp] theorem State.spend_num (s : State) (k n : Nat) :
    (s.spend k n).num = s.num := rfl
@[simp] theorem State.spend_log (s : State) (k n : Nat) :
    (s.spend k n).log = s.log := rfl
@[simp] theorem State.spend_sch (s : State) (k n : Nat) :
    (s.spend k n).sch = s.sch := rfl
@[simp] theorem State.spend_img (s : State) (k n : Nat) :
    (s.spend k n).img = s.img := rfl
@[simp] theorem State.spend_cnt (s : State) (k n : Nat) :
    (s.spend k n).cnt = s.cnt := rfl
@[simp] theorem State.spend_dbg (s : State) (k n : Nat) :
    (s.spend k n).dbg = s.dbg := rfl
@[simp] theorem State.spend_p0 (s : State) (k n : Nat) :
    (s.spend k n).p0 = s.p0 := rfl
@[simp] theorem State.spend_powerOns (s : State) (k n : Nat) :
    (s.spend k n).powerOns = s.powerOns := rfl
@[simp] theorem State.spend_choices (s : State) (k n : Nat) :
    (s.spend k n).choices = s.choices := rfl
@[simp] theorem State.spend_out (s : State) (k n : Nat) :
    (s.spend k n).out = s.out := rfl
@[simp] theorem State.spend_pending (s : State) (k n : Nat) :
    (s.spend k n).pending = s.pending := rfl

/-! ### State.stopReads changes `p0` alone -/
@[simp] theorem State.stopReads_variant (s : State) (mine : ReadTag → Bool) :
    (s.stopReads mine).variant = s.variant := rfl
@[simp] theorem State.stopReads_inst (s : State) (mine : ReadTag → Bool) :
    (s.stopReads mine).inst = s.inst := rfl
@[simp] theorem State.stopReads_strap (s : State) (mine : ReadTag → Bool) :
    (s.stopReads mine).strap = s.strap := rfl
@[simp] theorem State.stopReads_gen3 (s : State) (mine : ReadTag → Bool) :
    (s.stopReads mine).gen3 = s.gen3 := rfl
@[simp] theorem State.stopReads_step (s : State) (mine : ReadTag → Bool) :
    (s.stopReads mine).step = s.step := rfl
@[simp] theorem State.stopReads_stepSeen (s : State) (mine : ReadTag → Bool) :
    (s.stopReads mine).stepSeen = s.stepSeen := rfl
@[simp] theorem State.stopReads_inReset (s : State) (mine : ReadTag → Bool) :
    (s.stopReads mine).inReset = s.inReset := rfl
@[simp] theorem State.stopReads_resetCause (s : State) (mine : ReadTag → Bool) :
    (s.stopReads mine).resetCause = s.resetCause := rfl
@[simp] theorem State.stopReads_fc (s : State) (mine : ReadTag → Bool) :
    (s.stopReads mine).fc = s.fc := rfl
@[simp] theorem State.stopReads_hdrs (s : State) (mine : ReadTag → Bool) :
    (s.stopReads mine).hdrs = s.hdrs := rfl
@[simp] theorem State.stopReads_pairs (s : State) (mine : ReadTag → Bool) :
    (s.stopReads mine).pairs = s.pairs := rfl
@[simp] theorem State.stopReads_pwr (s : State) (mine : ReadTag → Bool) :
    (s.stopReads mine).pwr = s.pwr := rfl
@[simp] theorem State.stopReads_env (s : State) (mine : ReadTag → Bool) :
    (s.stopReads mine).env = s.env := rfl
@[simp] theorem State.stopReads_life (s : State) (mine : ReadTag → Bool) :
    (s.stopReads mine).life = s.life := rfl
@[simp] theorem State.stopReads_cal (s : State) (mine : ReadTag → Bool) :
    (s.stopReads mine).cal = s.cal := rfl
@[simp] theorem State.stopReads_port (s : State) (mine : ReadTag → Bool) :
    (s.stopReads mine).port = s.port := rfl
@[simp] theorem State.stopReads_tbl (s : State) (mine : ReadTag → Bool) :
    (s.stopReads mine).tbl = s.tbl := rfl
@[simp] theorem State.stopReads_sen (s : State) (mine : ReadTag → Bool) :
    (s.stopReads mine).sen = s.sen := rfl
@[simp] theorem State.stopReads_chn (s : State) (mine : ReadTag → Bool) :
    (s.stopReads mine).chn = s.chn := rfl
@[simp] theorem State.stopReads_ctx (s : State) (mine : ReadTag → Bool) :
    (s.stopReads mine).ctx = s.ctx := rfl
@[simp] theorem State.stopReads_tree (s : State) (mine : ReadTag → Bool) :
    (s.stopReads mine).tree = s.tree := rfl
@[simp] theorem State.stopReads_num (s : State) (mine : ReadTag → Bool) :
    (s.stopReads mine).num = s.num := rfl
@[simp] theorem State.stopReads_log (s : State) (mine : ReadTag → Bool) :
    (s.stopReads mine).log = s.log := rfl
@[simp] theorem State.stopReads_sch (s : State) (mine : ReadTag → Bool) :
    (s.stopReads mine).sch = s.sch := rfl
@[simp] theorem State.stopReads_img (s : State) (mine : ReadTag → Bool) :
    (s.stopReads mine).img = s.img := rfl
@[simp] theorem State.stopReads_cnt (s : State) (mine : ReadTag → Bool) :
    (s.stopReads mine).cnt = s.cnt := rfl
@[simp] theorem State.stopReads_dbg (s : State) (mine : ReadTag → Bool) :
    (s.stopReads mine).dbg = s.dbg := rfl
@[simp] theorem State.stopReads_powerOns (s : State) (mine : ReadTag → Bool) :
    (s.stopReads mine).powerOns = s.powerOns := rfl
@[simp] theorem State.stopReads_choices (s : State) (mine : ReadTag → Bool) :
    (s.stopReads mine).choices = s.choices := rfl
@[simp] theorem State.stopReads_out (s : State) (mine : ReadTag → Bool) :
    (s.stopReads mine).out = s.out := rfl
@[simp] theorem State.stopReads_pending (s : State) (mine : ReadTag → Bool) :
    (s.stopReads mine).pending = s.pending := rfl

/-! ### State.putJob changes `p0` alone -/
@[simp] theorem State.putJob_variant (s : State) (id : Nat) (q : Option ReadJob) :
    (s.putJob id q).variant = s.variant := rfl
@[simp] theorem State.putJob_inst (s : State) (id : Nat) (q : Option ReadJob) :
    (s.putJob id q).inst = s.inst := rfl
@[simp] theorem State.putJob_strap (s : State) (id : Nat) (q : Option ReadJob) :
    (s.putJob id q).strap = s.strap := rfl
@[simp] theorem State.putJob_gen3 (s : State) (id : Nat) (q : Option ReadJob) :
    (s.putJob id q).gen3 = s.gen3 := rfl
@[simp] theorem State.putJob_step (s : State) (id : Nat) (q : Option ReadJob) :
    (s.putJob id q).step = s.step := rfl
@[simp] theorem State.putJob_stepSeen (s : State) (id : Nat) (q : Option ReadJob) :
    (s.putJob id q).stepSeen = s.stepSeen := rfl
@[simp] theorem State.putJob_inReset (s : State) (id : Nat) (q : Option ReadJob) :
    (s.putJob id q).inReset = s.inReset := rfl
@[simp] theorem State.putJob_resetCause (s : State) (id : Nat) (q : Option ReadJob) :
    (s.putJob id q).resetCause = s.resetCause := rfl
@[simp] theorem State.putJob_fc (s : State) (id : Nat) (q : Option ReadJob) :
    (s.putJob id q).fc = s.fc := rfl
@[simp] theorem State.putJob_hdrs (s : State) (id : Nat) (q : Option ReadJob) :
    (s.putJob id q).hdrs = s.hdrs := rfl
@[simp] theorem State.putJob_pairs (s : State) (id : Nat) (q : Option ReadJob) :
    (s.putJob id q).pairs = s.pairs := rfl
@[simp] theorem State.putJob_pwr (s : State) (id : Nat) (q : Option ReadJob) :
    (s.putJob id q).pwr = s.pwr := rfl
@[simp] theorem State.putJob_env (s : State) (id : Nat) (q : Option ReadJob) :
    (s.putJob id q).env = s.env := rfl
@[simp] theorem State.putJob_life (s : State) (id : Nat) (q : Option ReadJob) :
    (s.putJob id q).life = s.life := rfl
@[simp] theorem State.putJob_cal (s : State) (id : Nat) (q : Option ReadJob) :
    (s.putJob id q).cal = s.cal := rfl
@[simp] theorem State.putJob_port (s : State) (id : Nat) (q : Option ReadJob) :
    (s.putJob id q).port = s.port := rfl
@[simp] theorem State.putJob_tbl (s : State) (id : Nat) (q : Option ReadJob) :
    (s.putJob id q).tbl = s.tbl := rfl
@[simp] theorem State.putJob_sen (s : State) (id : Nat) (q : Option ReadJob) :
    (s.putJob id q).sen = s.sen := rfl
@[simp] theorem State.putJob_chn (s : State) (id : Nat) (q : Option ReadJob) :
    (s.putJob id q).chn = s.chn := rfl
@[simp] theorem State.putJob_ctx (s : State) (id : Nat) (q : Option ReadJob) :
    (s.putJob id q).ctx = s.ctx := rfl
@[simp] theorem State.putJob_tree (s : State) (id : Nat) (q : Option ReadJob) :
    (s.putJob id q).tree = s.tree := rfl
@[simp] theorem State.putJob_num (s : State) (id : Nat) (q : Option ReadJob) :
    (s.putJob id q).num = s.num := rfl
@[simp] theorem State.putJob_log (s : State) (id : Nat) (q : Option ReadJob) :
    (s.putJob id q).log = s.log := rfl
@[simp] theorem State.putJob_sch (s : State) (id : Nat) (q : Option ReadJob) :
    (s.putJob id q).sch = s.sch := rfl
@[simp] theorem State.putJob_img (s : State) (id : Nat) (q : Option ReadJob) :
    (s.putJob id q).img = s.img := rfl
@[simp] theorem State.putJob_cnt (s : State) (id : Nat) (q : Option ReadJob) :
    (s.putJob id q).cnt = s.cnt := rfl
@[simp] theorem State.putJob_dbg (s : State) (id : Nat) (q : Option ReadJob) :
    (s.putJob id q).dbg = s.dbg := rfl
@[simp] theorem State.putJob_powerOns (s : State) (id : Nat) (q : Option ReadJob) :
    (s.putJob id q).powerOns = s.powerOns := rfl
@[simp] theorem State.putJob_choices (s : State) (id : Nat) (q : Option ReadJob) :
    (s.putJob id q).choices = s.choices := rfl
@[simp] theorem State.putJob_out (s : State) (id : Nat) (q : Option ReadJob) :
    (s.putJob id q).out = s.out := rfl
@[simp] theorem State.putJob_pending (s : State) (id : Nat) (q : Option ReadJob) :
    (s.putJob id q).pending = s.pending := rfl

/-! ### State.freeStep changes `img` alone -/
@[simp] theorem State.freeStep_variant (s : State) (w : Word) :
    (s.freeStep w).variant = s.variant := rfl
@[simp] theorem State.freeStep_inst (s : State) (w : Word) :
    (s.freeStep w).inst = s.inst := rfl
@[simp] theorem State.freeStep_strap (s : State) (w : Word) :
    (s.freeStep w).strap = s.strap := rfl
@[simp] theorem State.freeStep_gen3 (s : State) (w : Word) :
    (s.freeStep w).gen3 = s.gen3 := rfl
@[simp] theorem State.freeStep_step (s : State) (w : Word) :
    (s.freeStep w).step = s.step := rfl
@[simp] theorem State.freeStep_stepSeen (s : State) (w : Word) :
    (s.freeStep w).stepSeen = s.stepSeen := rfl
@[simp] theorem State.freeStep_inReset (s : State) (w : Word) :
    (s.freeStep w).inReset = s.inReset := rfl
@[simp] theorem State.freeStep_resetCause (s : State) (w : Word) :
    (s.freeStep w).resetCause = s.resetCause := rfl
@[simp] theorem State.freeStep_fc (s : State) (w : Word) :
    (s.freeStep w).fc = s.fc := rfl
@[simp] theorem State.freeStep_hdrs (s : State) (w : Word) :
    (s.freeStep w).hdrs = s.hdrs := rfl
@[simp] theorem State.freeStep_pairs (s : State) (w : Word) :
    (s.freeStep w).pairs = s.pairs := rfl
@[simp] theorem State.freeStep_pwr (s : State) (w : Word) :
    (s.freeStep w).pwr = s.pwr := rfl
@[simp] theorem State.freeStep_env (s : State) (w : Word) :
    (s.freeStep w).env = s.env := rfl
@[simp] theorem State.freeStep_life (s : State) (w : Word) :
    (s.freeStep w).life = s.life := rfl
@[simp] theorem State.freeStep_cal (s : State) (w : Word) :
    (s.freeStep w).cal = s.cal := rfl
@[simp] theorem State.freeStep_port (s : State) (w : Word) :
    (s.freeStep w).port = s.port := rfl
@[simp] theorem State.freeStep_tbl (s : State) (w : Word) :
    (s.freeStep w).tbl = s.tbl := rfl
@[simp] theorem State.freeStep_sen (s : State) (w : Word) :
    (s.freeStep w).sen = s.sen := rfl
@[simp] theorem State.freeStep_chn (s : State) (w : Word) :
    (s.freeStep w).chn = s.chn := rfl
@[simp] theorem State.freeStep_ctx (s : State) (w : Word) :
    (s.freeStep w).ctx = s.ctx := rfl
@[simp] theorem State.freeStep_tree (s : State) (w : Word) :
    (s.freeStep w).tree = s.tree := rfl
@[simp] theorem State.freeStep_num (s : State) (w : Word) :
    (s.freeStep w).num = s.num := rfl
@[simp] theorem State.freeStep_log (s : State) (w : Word) :
    (s.freeStep w).log = s.log := rfl
@[simp] theorem State.freeStep_sch (s : State) (w : Word) :
    (s.freeStep w).sch = s.sch := rfl
@[simp] theorem State.freeStep_cnt (s : State) (w : Word) :
    (s.freeStep w).cnt = s.cnt := rfl
@[simp] theorem State.freeStep_dbg (s : State) (w : Word) :
    (s.freeStep w).dbg = s.dbg := rfl
@[simp] theorem State.freeStep_p0 (s : State) (w : Word) :
    (s.freeStep w).p0 = s.p0 := rfl
@[simp] theorem State.freeStep_powerOns (s : State) (w : Word) :
    (s.freeStep w).powerOns = s.powerOns := rfl
@[simp] theorem State.freeStep_choices (s : State) (w : Word) :
    (s.freeStep w).choices = s.choices := rfl
@[simp] theorem State.freeStep_out (s : State) (w : Word) :
    (s.freeStep w).out = s.out := rfl
@[simp] theorem State.freeStep_pending (s : State) (w : Word) :
    (s.freeStep w).pending = s.pending := rfl

/-! ### State.setAnchor changes `life` alone -/
@[simp] theorem State.setAnchor_variant (s : State) (v : DWord) :
    (s.setAnchor v).variant = s.variant := rfl
@[simp] theorem State.setAnchor_inst (s : State) (v : DWord) :
    (s.setAnchor v).inst = s.inst := rfl
@[simp] theorem State.setAnchor_strap (s : State) (v : DWord) :
    (s.setAnchor v).strap = s.strap := rfl
@[simp] theorem State.setAnchor_gen3 (s : State) (v : DWord) :
    (s.setAnchor v).gen3 = s.gen3 := rfl
@[simp] theorem State.setAnchor_step (s : State) (v : DWord) :
    (s.setAnchor v).step = s.step := rfl
@[simp] theorem State.setAnchor_stepSeen (s : State) (v : DWord) :
    (s.setAnchor v).stepSeen = s.stepSeen := rfl
@[simp] theorem State.setAnchor_inReset (s : State) (v : DWord) :
    (s.setAnchor v).inReset = s.inReset := rfl
@[simp] theorem State.setAnchor_resetCause (s : State) (v : DWord) :
    (s.setAnchor v).resetCause = s.resetCause := rfl
@[simp] theorem State.setAnchor_fc (s : State) (v : DWord) :
    (s.setAnchor v).fc = s.fc := rfl
@[simp] theorem State.setAnchor_hdrs (s : State) (v : DWord) :
    (s.setAnchor v).hdrs = s.hdrs := rfl
@[simp] theorem State.setAnchor_pairs (s : State) (v : DWord) :
    (s.setAnchor v).pairs = s.pairs := rfl
@[simp] theorem State.setAnchor_pwr (s : State) (v : DWord) :
    (s.setAnchor v).pwr = s.pwr := rfl
@[simp] theorem State.setAnchor_env (s : State) (v : DWord) :
    (s.setAnchor v).env = s.env := rfl
@[simp] theorem State.setAnchor_cal (s : State) (v : DWord) :
    (s.setAnchor v).cal = s.cal := rfl
@[simp] theorem State.setAnchor_port (s : State) (v : DWord) :
    (s.setAnchor v).port = s.port := rfl
@[simp] theorem State.setAnchor_tbl (s : State) (v : DWord) :
    (s.setAnchor v).tbl = s.tbl := rfl
@[simp] theorem State.setAnchor_sen (s : State) (v : DWord) :
    (s.setAnchor v).sen = s.sen := rfl
@[simp] theorem State.setAnchor_chn (s : State) (v : DWord) :
    (s.setAnchor v).chn = s.chn := rfl
@[simp] theorem State.setAnchor_ctx (s : State) (v : DWord) :
    (s.setAnchor v).ctx = s.ctx := rfl
@[simp] theorem State.setAnchor_tree (s : State) (v : DWord) :
    (s.setAnchor v).tree = s.tree := rfl
@[simp] theorem State.setAnchor_num (s : State) (v : DWord) :
    (s.setAnchor v).num = s.num := rfl
@[simp] theorem State.setAnchor_log (s : State) (v : DWord) :
    (s.setAnchor v).log = s.log := rfl
@[simp] theorem State.setAnchor_sch (s : State) (v : DWord) :
    (s.setAnchor v).sch = s.sch := rfl
@[simp] theorem State.setAnchor_img (s : State) (v : DWord) :
    (s.setAnchor v).img = s.img := rfl
@[simp] theorem State.setAnchor_cnt (s : State) (v : DWord) :
    (s.setAnchor v).cnt = s.cnt := rfl
@[simp] theorem State.setAnchor_dbg (s : State) (v : DWord) :
    (s.setAnchor v).dbg = s.dbg := rfl
@[simp] theorem State.setAnchor_p0 (s : State) (v : DWord) :
    (s.setAnchor v).p0 = s.p0 := rfl
@[simp] theorem State.setAnchor_powerOns (s : State) (v : DWord) :
    (s.setAnchor v).powerOns = s.powerOns := rfl
@[simp] theorem State.setAnchor_choices (s : State) (v : DWord) :
    (s.setAnchor v).choices = s.choices := rfl
@[simp] theorem State.setAnchor_out (s : State) (v : DWord) :
    (s.setAnchor v).out = s.out := rfl
@[simp] theorem State.setAnchor_pending (s : State) (v : DWord) :
    (s.setAnchor v).pending = s.pending := rfl

/-! ### State.setEntry changes `num` alone -/
@[simp] theorem State.setEntry_variant (s : State) (tid : Nat) (e : RegEntry) :
    (s.setEntry tid e).variant = s.variant := rfl
@[simp] theorem State.setEntry_inst (s : State) (tid : Nat) (e : RegEntry) :
    (s.setEntry tid e).inst = s.inst := rfl
@[simp] theorem State.setEntry_strap (s : State) (tid : Nat) (e : RegEntry) :
    (s.setEntry tid e).strap = s.strap := rfl
@[simp] theorem State.setEntry_gen3 (s : State) (tid : Nat) (e : RegEntry) :
    (s.setEntry tid e).gen3 = s.gen3 := rfl
@[simp] theorem State.setEntry_step (s : State) (tid : Nat) (e : RegEntry) :
    (s.setEntry tid e).step = s.step := rfl
@[simp] theorem State.setEntry_stepSeen (s : State) (tid : Nat) (e : RegEntry) :
    (s.setEntry tid e).stepSeen = s.stepSeen := rfl
@[simp] theorem State.setEntry_inReset (s : State) (tid : Nat) (e : RegEntry) :
    (s.setEntry tid e).inReset = s.inReset := rfl
@[simp] theorem State.setEntry_resetCause (s : State) (tid : Nat) (e : RegEntry) :
    (s.setEntry tid e).resetCause = s.resetCause := rfl
@[simp] theorem State.setEntry_fc (s : State) (tid : Nat) (e : RegEntry) :
    (s.setEntry tid e).fc = s.fc := rfl
@[simp] theorem State.setEntry_hdrs (s : State) (tid : Nat) (e : RegEntry) :
    (s.setEntry tid e).hdrs = s.hdrs := rfl
@[simp] theorem State.setEntry_pairs (s : State) (tid : Nat) (e : RegEntry) :
    (s.setEntry tid e).pairs = s.pairs := rfl
@[simp] theorem State.setEntry_pwr (s : State) (tid : Nat) (e : RegEntry) :
    (s.setEntry tid e).pwr = s.pwr := rfl
@[simp] theorem State.setEntry_env (s : State) (tid : Nat) (e : RegEntry) :
    (s.setEntry tid e).env = s.env := rfl
@[simp] theorem State.setEntry_life (s : State) (tid : Nat) (e : RegEntry) :
    (s.setEntry tid e).life = s.life := rfl
@[simp] theorem State.setEntry_cal (s : State) (tid : Nat) (e : RegEntry) :
    (s.setEntry tid e).cal = s.cal := rfl
@[simp] theorem State.setEntry_port (s : State) (tid : Nat) (e : RegEntry) :
    (s.setEntry tid e).port = s.port := rfl
@[simp] theorem State.setEntry_tbl (s : State) (tid : Nat) (e : RegEntry) :
    (s.setEntry tid e).tbl = s.tbl := rfl
@[simp] theorem State.setEntry_sen (s : State) (tid : Nat) (e : RegEntry) :
    (s.setEntry tid e).sen = s.sen := rfl
@[simp] theorem State.setEntry_chn (s : State) (tid : Nat) (e : RegEntry) :
    (s.setEntry tid e).chn = s.chn := rfl
@[simp] theorem State.setEntry_ctx (s : State) (tid : Nat) (e : RegEntry) :
    (s.setEntry tid e).ctx = s.ctx := rfl
@[simp] theorem State.setEntry_tree (s : State) (tid : Nat) (e : RegEntry) :
    (s.setEntry tid e).tree = s.tree := rfl
@[simp] theorem State.setEntry_log (s : State) (tid : Nat) (e : RegEntry) :
    (s.setEntry tid e).log = s.log := rfl
@[simp] theorem State.setEntry_sch (s : State) (tid : Nat) (e : RegEntry) :
    (s.setEntry tid e).sch = s.sch := rfl
@[simp] theorem State.setEntry_img (s : State) (tid : Nat) (e : RegEntry) :
    (s.setEntry tid e).img = s.img := rfl
@[simp] theorem State.setEntry_cnt (s : State) (tid : Nat) (e : RegEntry) :
    (s.setEntry tid e).cnt = s.cnt := rfl
@[simp] theorem State.setEntry_dbg (s : State) (tid : Nat) (e : RegEntry) :
    (s.setEntry tid e).dbg = s.dbg := rfl
@[simp] theorem State.setEntry_p0 (s : State) (tid : Nat) (e : RegEntry) :
    (s.setEntry tid e).p0 = s.p0 := rfl
@[simp] theorem State.setEntry_powerOns (s : State) (tid : Nat) (e : RegEntry) :
    (s.setEntry tid e).powerOns = s.powerOns := rfl
@[simp] theorem State.setEntry_choices (s : State) (tid : Nat) (e : RegEntry) :
    (s.setEntry tid e).choices = s.choices := rfl
@[simp] theorem State.setEntry_out (s : State) (tid : Nat) (e : RegEntry) :
    (s.setEntry tid e).out = s.out := rfl
@[simp] theorem State.setEntry_pending (s : State) (tid : Nat) (e : RegEntry) :
    (s.setEntry tid e).pending = s.pending := rfl

/-! ### State.modWindow changes `num` alone -/
@[simp] theorem State.modWindow_variant (s : State) (tid : Nat) (step : Word) (f : TenWindow → TenWindow) :
    (s.modWindow tid step f).variant = s.variant := rfl
@[simp] theorem State.modWindow_inst (s : State) (tid : Nat) (step : Word) (f : TenWindow → TenWindow) :
    (s.modWindow tid step f).inst = s.inst := rfl
@[simp] theorem State.modWindow_strap (s : State) (tid : Nat) (step : Word) (f : TenWindow → TenWindow) :
    (s.modWindow tid step f).strap = s.strap := rfl
@[simp] theorem State.modWindow_gen3 (s : State) (tid : Nat) (step : Word) (f : TenWindow → TenWindow) :
    (s.modWindow tid step f).gen3 = s.gen3 := rfl
@[simp] theorem State.modWindow_step (s : State) (tid : Nat) (step : Word) (f : TenWindow → TenWindow) :
    (s.modWindow tid step f).step = s.step := rfl
@[simp] theorem State.modWindow_stepSeen (s : State) (tid : Nat) (step : Word) (f : TenWindow → TenWindow) :
    (s.modWindow tid step f).stepSeen = s.stepSeen := rfl
@[simp] theorem State.modWindow_inReset (s : State) (tid : Nat) (step : Word) (f : TenWindow → TenWindow) :
    (s.modWindow tid step f).inReset = s.inReset := rfl
@[simp] theorem State.modWindow_resetCause (s : State) (tid : Nat) (step : Word) (f : TenWindow → TenWindow) :
    (s.modWindow tid step f).resetCause = s.resetCause := rfl
@[simp] theorem State.modWindow_fc (s : State) (tid : Nat) (step : Word) (f : TenWindow → TenWindow) :
    (s.modWindow tid step f).fc = s.fc := rfl
@[simp] theorem State.modWindow_hdrs (s : State) (tid : Nat) (step : Word) (f : TenWindow → TenWindow) :
    (s.modWindow tid step f).hdrs = s.hdrs := rfl
@[simp] theorem State.modWindow_pairs (s : State) (tid : Nat) (step : Word) (f : TenWindow → TenWindow) :
    (s.modWindow tid step f).pairs = s.pairs := rfl
@[simp] theorem State.modWindow_pwr (s : State) (tid : Nat) (step : Word) (f : TenWindow → TenWindow) :
    (s.modWindow tid step f).pwr = s.pwr := rfl
@[simp] theorem State.modWindow_env (s : State) (tid : Nat) (step : Word) (f : TenWindow → TenWindow) :
    (s.modWindow tid step f).env = s.env := rfl
@[simp] theorem State.modWindow_life (s : State) (tid : Nat) (step : Word) (f : TenWindow → TenWindow) :
    (s.modWindow tid step f).life = s.life := rfl
@[simp] theorem State.modWindow_cal (s : State) (tid : Nat) (step : Word) (f : TenWindow → TenWindow) :
    (s.modWindow tid step f).cal = s.cal := rfl
@[simp] theorem State.modWindow_port (s : State) (tid : Nat) (step : Word) (f : TenWindow → TenWindow) :
    (s.modWindow tid step f).port = s.port := rfl
@[simp] theorem State.modWindow_tbl (s : State) (tid : Nat) (step : Word) (f : TenWindow → TenWindow) :
    (s.modWindow tid step f).tbl = s.tbl := rfl
@[simp] theorem State.modWindow_sen (s : State) (tid : Nat) (step : Word) (f : TenWindow → TenWindow) :
    (s.modWindow tid step f).sen = s.sen := rfl
@[simp] theorem State.modWindow_chn (s : State) (tid : Nat) (step : Word) (f : TenWindow → TenWindow) :
    (s.modWindow tid step f).chn = s.chn := rfl
@[simp] theorem State.modWindow_ctx (s : State) (tid : Nat) (step : Word) (f : TenWindow → TenWindow) :
    (s.modWindow tid step f).ctx = s.ctx := rfl
@[simp] theorem State.modWindow_tree (s : State) (tid : Nat) (step : Word) (f : TenWindow → TenWindow) :
    (s.modWindow tid step f).tree = s.tree := rfl
@[simp] theorem State.modWindow_log (s : State) (tid : Nat) (step : Word) (f : TenWindow → TenWindow) :
    (s.modWindow tid step f).log = s.log := rfl
@[simp] theorem State.modWindow_sch (s : State) (tid : Nat) (step : Word) (f : TenWindow → TenWindow) :
    (s.modWindow tid step f).sch = s.sch := rfl
@[simp] theorem State.modWindow_img (s : State) (tid : Nat) (step : Word) (f : TenWindow → TenWindow) :
    (s.modWindow tid step f).img = s.img := rfl
@[simp] theorem State.modWindow_cnt (s : State) (tid : Nat) (step : Word) (f : TenWindow → TenWindow) :
    (s.modWindow tid step f).cnt = s.cnt := rfl
@[simp] theorem State.modWindow_dbg (s : State) (tid : Nat) (step : Word) (f : TenWindow → TenWindow) :
    (s.modWindow tid step f).dbg = s.dbg := rfl
@[simp] theorem State.modWindow_p0 (s : State) (tid : Nat) (step : Word) (f : TenWindow → TenWindow) :
    (s.modWindow tid step f).p0 = s.p0 := rfl
@[simp] theorem State.modWindow_powerOns (s : State) (tid : Nat) (step : Word) (f : TenWindow → TenWindow) :
    (s.modWindow tid step f).powerOns = s.powerOns := rfl
@[simp] theorem State.modWindow_choices (s : State) (tid : Nat) (step : Word) (f : TenWindow → TenWindow) :
    (s.modWindow tid step f).choices = s.choices := rfl
@[simp] theorem State.modWindow_out (s : State) (tid : Nat) (step : Word) (f : TenWindow → TenWindow) :
    (s.modWindow tid step f).out = s.out := rfl
@[simp] theorem State.modWindow_pending (s : State) (tid : Nat) (step : Word) (f : TenWindow → TenWindow) :
    (s.modWindow tid step f).pending = s.pending := rfl

/-! ### State.dropWindow changes `num` alone -/
@[simp] theorem State.dropWindow_variant (s : State) (tid : Nat) (step : Word) :
    (s.dropWindow tid step).variant = s.variant := rfl
@[simp] theorem State.dropWindow_inst (s : State) (tid : Nat) (step : Word) :
    (s.dropWindow tid step).inst = s.inst := rfl
@[simp] theorem State.dropWindow_strap (s : State) (tid : Nat) (step : Word) :
    (s.dropWindow tid step).strap = s.strap := rfl
@[simp] theorem State.dropWindow_gen3 (s : State) (tid : Nat) (step : Word) :
    (s.dropWindow tid step).gen3 = s.gen3 := rfl
@[simp] theorem State.dropWindow_step (s : State) (tid : Nat) (step : Word) :
    (s.dropWindow tid step).step = s.step := rfl
@[simp] theorem State.dropWindow_stepSeen (s : State) (tid : Nat) (step : Word) :
    (s.dropWindow tid step).stepSeen = s.stepSeen := rfl
@[simp] theorem State.dropWindow_inReset (s : State) (tid : Nat) (step : Word) :
    (s.dropWindow tid step).inReset = s.inReset := rfl
@[simp] theorem State.dropWindow_resetCause (s : State) (tid : Nat) (step : Word) :
    (s.dropWindow tid step).resetCause = s.resetCause := rfl
@[simp] theorem State.dropWindow_fc (s : State) (tid : Nat) (step : Word) :
    (s.dropWindow tid step).fc = s.fc := rfl
@[simp] theorem State.dropWindow_hdrs (s : State) (tid : Nat) (step : Word) :
    (s.dropWindow tid step).hdrs = s.hdrs := rfl
@[simp] theorem State.dropWindow_pairs (s : State) (tid : Nat) (step : Word) :
    (s.dropWindow tid step).pairs = s.pairs := rfl
@[simp] theorem State.dropWindow_pwr (s : State) (tid : Nat) (step : Word) :
    (s.dropWindow tid step).pwr = s.pwr := rfl
@[simp] theorem State.dropWindow_env (s : State) (tid : Nat) (step : Word) :
    (s.dropWindow tid step).env = s.env := rfl
@[simp] theorem State.dropWindow_life (s : State) (tid : Nat) (step : Word) :
    (s.dropWindow tid step).life = s.life := rfl
@[simp] theorem State.dropWindow_cal (s : State) (tid : Nat) (step : Word) :
    (s.dropWindow tid step).cal = s.cal := rfl
@[simp] theorem State.dropWindow_port (s : State) (tid : Nat) (step : Word) :
    (s.dropWindow tid step).port = s.port := rfl
@[simp] theorem State.dropWindow_tbl (s : State) (tid : Nat) (step : Word) :
    (s.dropWindow tid step).tbl = s.tbl := rfl
@[simp] theorem State.dropWindow_sen (s : State) (tid : Nat) (step : Word) :
    (s.dropWindow tid step).sen = s.sen := rfl
@[simp] theorem State.dropWindow_chn (s : State) (tid : Nat) (step : Word) :
    (s.dropWindow tid step).chn = s.chn := rfl
@[simp] theorem State.dropWindow_ctx (s : State) (tid : Nat) (step : Word) :
    (s.dropWindow tid step).ctx = s.ctx := rfl
@[simp] theorem State.dropWindow_tree (s : State) (tid : Nat) (step : Word) :
    (s.dropWindow tid step).tree = s.tree := rfl
@[simp] theorem State.dropWindow_log (s : State) (tid : Nat) (step : Word) :
    (s.dropWindow tid step).log = s.log := rfl
@[simp] theorem State.dropWindow_sch (s : State) (tid : Nat) (step : Word) :
    (s.dropWindow tid step).sch = s.sch := rfl
@[simp] theorem State.dropWindow_img (s : State) (tid : Nat) (step : Word) :
    (s.dropWindow tid step).img = s.img := rfl
@[simp] theorem State.dropWindow_cnt (s : State) (tid : Nat) (step : Word) :
    (s.dropWindow tid step).cnt = s.cnt := rfl
@[simp] theorem State.dropWindow_dbg (s : State) (tid : Nat) (step : Word) :
    (s.dropWindow tid step).dbg = s.dbg := rfl
@[simp] theorem State.dropWindow_p0 (s : State) (tid : Nat) (step : Word) :
    (s.dropWindow tid step).p0 = s.p0 := rfl
@[simp] theorem State.dropWindow_powerOns (s : State) (tid : Nat) (step : Word) :
    (s.dropWindow tid step).powerOns = s.powerOns := rfl
@[simp] theorem State.dropWindow_choices (s : State) (tid : Nat) (step : Word) :
    (s.dropWindow tid step).choices = s.choices := rfl
@[simp] theorem State.dropWindow_out (s : State) (tid : Nat) (step : Word) :
    (s.dropWindow tid step).out = s.out := rfl
@[simp] theorem State.dropWindow_pending (s : State) (tid : Nat) (step : Word) :
    (s.dropWindow tid step).pending = s.pending := rfl

/-! ### State.leaveWindows changes `num` alone -/
@[simp] theorem State.leaveWindows_variant (s : State) (uid : Nat) :
    (s.leaveWindows uid).variant = s.variant := rfl
@[simp] theorem State.leaveWindows_inst (s : State) (uid : Nat) :
    (s.leaveWindows uid).inst = s.inst := rfl
@[simp] theorem State.leaveWindows_strap (s : State) (uid : Nat) :
    (s.leaveWindows uid).strap = s.strap := rfl
@[simp] theorem State.leaveWindows_gen3 (s : State) (uid : Nat) :
    (s.leaveWindows uid).gen3 = s.gen3 := rfl
@[simp] theorem State.leaveWindows_step (s : State) (uid : Nat) :
    (s.leaveWindows uid).step = s.step := rfl
@[simp] theorem State.leaveWindows_stepSeen (s : State) (uid : Nat) :
    (s.leaveWindows uid).stepSeen = s.stepSeen := rfl
@[simp] theorem State.leaveWindows_inReset (s : State) (uid : Nat) :
    (s.leaveWindows uid).inReset = s.inReset := rfl
@[simp] theorem State.leaveWindows_resetCause (s : State) (uid : Nat) :
    (s.leaveWindows uid).resetCause = s.resetCause := rfl
@[simp] theorem State.leaveWindows_fc (s : State) (uid : Nat) :
    (s.leaveWindows uid).fc = s.fc := rfl
@[simp] theorem State.leaveWindows_hdrs (s : State) (uid : Nat) :
    (s.leaveWindows uid).hdrs = s.hdrs := rfl
@[simp] theorem State.leaveWindows_pairs (s : State) (uid : Nat) :
    (s.leaveWindows uid).pairs = s.pairs := rfl
@[simp] theorem State.leaveWindows_pwr (s : State) (uid : Nat) :
    (s.leaveWindows uid).pwr = s.pwr := rfl
@[simp] theorem State.leaveWindows_env (s : State) (uid : Nat) :
    (s.leaveWindows uid).env = s.env := rfl
@[simp] theorem State.leaveWindows_life (s : State) (uid : Nat) :
    (s.leaveWindows uid).life = s.life := rfl
@[simp] theorem State.leaveWindows_cal (s : State) (uid : Nat) :
    (s.leaveWindows uid).cal = s.cal := rfl
@[simp] theorem State.leaveWindows_port (s : State) (uid : Nat) :
    (s.leaveWindows uid).port = s.port := rfl
@[simp] theorem State.leaveWindows_tbl (s : State) (uid : Nat) :
    (s.leaveWindows uid).tbl = s.tbl := rfl
@[simp] theorem State.leaveWindows_sen (s : State) (uid : Nat) :
    (s.leaveWindows uid).sen = s.sen := rfl
@[simp] theorem State.leaveWindows_chn (s : State) (uid : Nat) :
    (s.leaveWindows uid).chn = s.chn := rfl
@[simp] theorem State.leaveWindows_ctx (s : State) (uid : Nat) :
    (s.leaveWindows uid).ctx = s.ctx := rfl
@[simp] theorem State.leaveWindows_tree (s : State) (uid : Nat) :
    (s.leaveWindows uid).tree = s.tree := rfl
@[simp] theorem State.leaveWindows_log (s : State) (uid : Nat) :
    (s.leaveWindows uid).log = s.log := rfl
@[simp] theorem State.leaveWindows_sch (s : State) (uid : Nat) :
    (s.leaveWindows uid).sch = s.sch := rfl
@[simp] theorem State.leaveWindows_img (s : State) (uid : Nat) :
    (s.leaveWindows uid).img = s.img := rfl
@[simp] theorem State.leaveWindows_cnt (s : State) (uid : Nat) :
    (s.leaveWindows uid).cnt = s.cnt := rfl
@[simp] theorem State.leaveWindows_dbg (s : State) (uid : Nat) :
    (s.leaveWindows uid).dbg = s.dbg := rfl
@[simp] theorem State.leaveWindows_p0 (s : State) (uid : Nat) :
    (s.leaveWindows uid).p0 = s.p0 := rfl
@[simp] theorem State.leaveWindows_powerOns (s : State) (uid : Nat) :
    (s.leaveWindows uid).powerOns = s.powerOns := rfl
@[simp] theorem State.leaveWindows_choices (s : State) (uid : Nat) :
    (s.leaveWindows uid).choices = s.choices := rfl
@[simp] theorem State.leaveWindows_out (s : State) (uid : Nat) :
    (s.leaveWindows uid).out = s.out := rfl
@[simp] theorem State.leaveWindows_pending (s : State) (uid : Nat) :
    (s.leaveWindows uid).pending = s.pending := rfl

/-! ### State.setTenCmd changes `num` alone -/
@[simp] theorem State.setTenCmd_variant (s : State) (c : TenCmd) :
    (s.setTenCmd c).variant = s.variant := rfl
@[simp] theorem State.setTenCmd_inst (s : State) (c : TenCmd) :
    (s.setTenCmd c).inst = s.inst := rfl
@[simp] theorem State.setTenCmd_strap (s : State) (c : TenCmd) :
    (s.setTenCmd c).strap = s.strap := rfl
@[simp] theorem State.setTenCmd_gen3 (s : State) (c : TenCmd) :
    (s.setTenCmd c).gen3 = s.gen3 := rfl
@[simp] theorem State.setTenCmd_step (s : State) (c : TenCmd) :
    (s.setTenCmd c).step = s.step := rfl
@[simp] theorem State.setTenCmd_stepSeen (s : State) (c : TenCmd) :
    (s.setTenCmd c).stepSeen = s.stepSeen := rfl
@[simp] theorem State.setTenCmd_inReset (s : State) (c : TenCmd) :
    (s.setTenCmd c).inReset = s.inReset := rfl
@[simp] theorem State.setTenCmd_resetCause (s : State) (c : TenCmd) :
    (s.setTenCmd c).resetCause = s.resetCause := rfl
@[simp] theorem State.setTenCmd_fc (s : State) (c : TenCmd) :
    (s.setTenCmd c).fc = s.fc := rfl
@[simp] theorem State.setTenCmd_hdrs (s : State) (c : TenCmd) :
    (s.setTenCmd c).hdrs = s.hdrs := rfl
@[simp] theorem State.setTenCmd_pairs (s : State) (c : TenCmd) :
    (s.setTenCmd c).pairs = s.pairs := rfl
@[simp] theorem State.setTenCmd_pwr (s : State) (c : TenCmd) :
    (s.setTenCmd c).pwr = s.pwr := rfl
@[simp] theorem State.setTenCmd_env (s : State) (c : TenCmd) :
    (s.setTenCmd c).env = s.env := rfl
@[simp] theorem State.setTenCmd_life (s : State) (c : TenCmd) :
    (s.setTenCmd c).life = s.life := rfl
@[simp] theorem State.setTenCmd_cal (s : State) (c : TenCmd) :
    (s.setTenCmd c).cal = s.cal := rfl
@[simp] theorem State.setTenCmd_port (s : State) (c : TenCmd) :
    (s.setTenCmd c).port = s.port := rfl
@[simp] theorem State.setTenCmd_tbl (s : State) (c : TenCmd) :
    (s.setTenCmd c).tbl = s.tbl := rfl
@[simp] theorem State.setTenCmd_sen (s : State) (c : TenCmd) :
    (s.setTenCmd c).sen = s.sen := rfl
@[simp] theorem State.setTenCmd_chn (s : State) (c : TenCmd) :
    (s.setTenCmd c).chn = s.chn := rfl
@[simp] theorem State.setTenCmd_ctx (s : State) (c : TenCmd) :
    (s.setTenCmd c).ctx = s.ctx := rfl
@[simp] theorem State.setTenCmd_tree (s : State) (c : TenCmd) :
    (s.setTenCmd c).tree = s.tree := rfl
@[simp] theorem State.setTenCmd_log (s : State) (c : TenCmd) :
    (s.setTenCmd c).log = s.log := rfl
@[simp] theorem State.setTenCmd_sch (s : State) (c : TenCmd) :
    (s.setTenCmd c).sch = s.sch := rfl
@[simp] theorem State.setTenCmd_img (s : State) (c : TenCmd) :
    (s.setTenCmd c).img = s.img := rfl
@[simp] theorem State.setTenCmd_cnt (s : State) (c : TenCmd) :
    (s.setTenCmd c).cnt = s.cnt := rfl
@[simp] theorem State.setTenCmd_dbg (s : State) (c : TenCmd) :
    (s.setTenCmd c).dbg = s.dbg := rfl
@[simp] theorem State.setTenCmd_p0 (s : State) (c : TenCmd) :
    (s.setTenCmd c).p0 = s.p0 := rfl
@[simp] theorem State.setTenCmd_powerOns (s : State) (c : TenCmd) :
    (s.setTenCmd c).powerOns = s.powerOns := rfl
@[simp] theorem State.setTenCmd_choices (s : State) (c : TenCmd) :
    (s.setTenCmd c).choices = s.choices := rfl
@[simp] theorem State.setTenCmd_out (s : State) (c : TenCmd) :
    (s.setTenCmd c).out = s.out := rfl
@[simp] theorem State.setTenCmd_pending (s : State) (c : TenCmd) :
    (s.setTenCmd c).pending = s.pending := rfl

/-! ### State.laterWindows changes `num` alone -/
@[simp] theorem State.laterWindows_variant (s : State) :
    (s.laterWindows).variant = s.variant := rfl
@[simp] theorem State.laterWindows_inst (s : State) :
    (s.laterWindows).inst = s.inst := rfl
@[simp] theorem State.laterWindows_strap (s : State) :
    (s.laterWindows).strap = s.strap := rfl
@[simp] theorem State.laterWindows_gen3 (s : State) :
    (s.laterWindows).gen3 = s.gen3 := rfl
@[simp] theorem State.laterWindows_step (s : State) :
    (s.laterWindows).step = s.step := rfl
@[simp] theorem State.laterWindows_stepSeen (s : State) :
    (s.laterWindows).stepSeen = s.stepSeen := rfl
@[simp] theorem State.laterWindows_inReset (s : State) :
    (s.laterWindows).inReset = s.inReset := rfl
@[simp] theorem State.laterWindows_resetCause (s : State) :
    (s.laterWindows).resetCause = s.resetCause := rfl
@[simp] theorem State.laterWindows_fc (s : State) :
    (s.laterWindows).fc = s.fc := rfl
@[simp] theorem State.laterWindows_hdrs (s : State) :
    (s.laterWindows).hdrs = s.hdrs := rfl
@[simp] theorem State.laterWindows_pairs (s : State) :
    (s.laterWindows).pairs = s.pairs := rfl
@[simp] theorem State.laterWindows_pwr (s : State) :
    (s.laterWindows).pwr = s.pwr := rfl
@[simp] theorem State.laterWindows_env (s : State) :
    (s.laterWindows).env = s.env := rfl
@[simp] theorem State.laterWindows_life (s : State) :
    (s.laterWindows).life = s.life := rfl
@[simp] theorem State.laterWindows_cal (s : State) :
    (s.laterWindows).cal = s.cal := rfl
@[simp] theorem State.laterWindows_port (s : State) :
    (s.laterWindows).port = s.port := rfl
@[simp] theorem State.laterWindows_tbl (s : State) :
    (s.laterWindows).tbl = s.tbl := rfl
@[simp] theorem State.laterWindows_sen (s : State) :
    (s.laterWindows).sen = s.sen := rfl
@[simp] theorem State.laterWindows_chn (s : State) :
    (s.laterWindows).chn = s.chn := rfl
@[simp] theorem State.laterWindows_ctx (s : State) :
    (s.laterWindows).ctx = s.ctx := rfl
@[simp] theorem State.laterWindows_tree (s : State) :
    (s.laterWindows).tree = s.tree := rfl
@[simp] theorem State.laterWindows_log (s : State) :
    (s.laterWindows).log = s.log := rfl
@[simp] theorem State.laterWindows_sch (s : State) :
    (s.laterWindows).sch = s.sch := rfl
@[simp] theorem State.laterWindows_img (s : State) :
    (s.laterWindows).img = s.img := rfl
@[simp] theorem State.laterWindows_cnt (s : State) :
    (s.laterWindows).cnt = s.cnt := rfl
@[simp] theorem State.laterWindows_dbg (s : State) :
    (s.laterWindows).dbg = s.dbg := rfl
@[simp] theorem State.laterWindows_p0 (s : State) :
    (s.laterWindows).p0 = s.p0 := rfl
@[simp] theorem State.laterWindows_powerOns (s : State) :
    (s.laterWindows).powerOns = s.powerOns := rfl
@[simp] theorem State.laterWindows_choices (s : State) :
    (s.laterWindows).choices = s.choices := rfl
@[simp] theorem State.laterWindows_out (s : State) :
    (s.laterWindows).out = s.out := rfl
@[simp] theorem State.laterWindows_pending (s : State) :
    (s.laterWindows).pending = s.pending := rfl

/-! ### State.pwrResult changes `pwr` alone -/
@[simp] theorem State.pwrResult_variant (s : State) (r : BitVec 4) :
    (s.pwrResult r).variant = s.variant := rfl
@[simp] theorem State.pwrResult_inst (s : State) (r : BitVec 4) :
    (s.pwrResult r).inst = s.inst := rfl
@[simp] theorem State.pwrResult_strap (s : State) (r : BitVec 4) :
    (s.pwrResult r).strap = s.strap := rfl
@[simp] theorem State.pwrResult_gen3 (s : State) (r : BitVec 4) :
    (s.pwrResult r).gen3 = s.gen3 := rfl
@[simp] theorem State.pwrResult_step (s : State) (r : BitVec 4) :
    (s.pwrResult r).step = s.step := rfl
@[simp] theorem State.pwrResult_stepSeen (s : State) (r : BitVec 4) :
    (s.pwrResult r).stepSeen = s.stepSeen := rfl
@[simp] theorem State.pwrResult_inReset (s : State) (r : BitVec 4) :
    (s.pwrResult r).inReset = s.inReset := rfl
@[simp] theorem State.pwrResult_resetCause (s : State) (r : BitVec 4) :
    (s.pwrResult r).resetCause = s.resetCause := rfl
@[simp] theorem State.pwrResult_fc (s : State) (r : BitVec 4) :
    (s.pwrResult r).fc = s.fc := rfl
@[simp] theorem State.pwrResult_hdrs (s : State) (r : BitVec 4) :
    (s.pwrResult r).hdrs = s.hdrs := rfl
@[simp] theorem State.pwrResult_pairs (s : State) (r : BitVec 4) :
    (s.pwrResult r).pairs = s.pairs := rfl
@[simp] theorem State.pwrResult_env (s : State) (r : BitVec 4) :
    (s.pwrResult r).env = s.env := rfl
@[simp] theorem State.pwrResult_life (s : State) (r : BitVec 4) :
    (s.pwrResult r).life = s.life := rfl
@[simp] theorem State.pwrResult_cal (s : State) (r : BitVec 4) :
    (s.pwrResult r).cal = s.cal := rfl
@[simp] theorem State.pwrResult_port (s : State) (r : BitVec 4) :
    (s.pwrResult r).port = s.port := rfl
@[simp] theorem State.pwrResult_tbl (s : State) (r : BitVec 4) :
    (s.pwrResult r).tbl = s.tbl := rfl
@[simp] theorem State.pwrResult_sen (s : State) (r : BitVec 4) :
    (s.pwrResult r).sen = s.sen := rfl
@[simp] theorem State.pwrResult_chn (s : State) (r : BitVec 4) :
    (s.pwrResult r).chn = s.chn := rfl
@[simp] theorem State.pwrResult_ctx (s : State) (r : BitVec 4) :
    (s.pwrResult r).ctx = s.ctx := rfl
@[simp] theorem State.pwrResult_tree (s : State) (r : BitVec 4) :
    (s.pwrResult r).tree = s.tree := rfl
@[simp] theorem State.pwrResult_num (s : State) (r : BitVec 4) :
    (s.pwrResult r).num = s.num := rfl
@[simp] theorem State.pwrResult_log (s : State) (r : BitVec 4) :
    (s.pwrResult r).log = s.log := rfl
@[simp] theorem State.pwrResult_sch (s : State) (r : BitVec 4) :
    (s.pwrResult r).sch = s.sch := rfl
@[simp] theorem State.pwrResult_img (s : State) (r : BitVec 4) :
    (s.pwrResult r).img = s.img := rfl
@[simp] theorem State.pwrResult_cnt (s : State) (r : BitVec 4) :
    (s.pwrResult r).cnt = s.cnt := rfl
@[simp] theorem State.pwrResult_dbg (s : State) (r : BitVec 4) :
    (s.pwrResult r).dbg = s.dbg := rfl
@[simp] theorem State.pwrResult_p0 (s : State) (r : BitVec 4) :
    (s.pwrResult r).p0 = s.p0 := rfl
@[simp] theorem State.pwrResult_powerOns (s : State) (r : BitVec 4) :
    (s.pwrResult r).powerOns = s.powerOns := rfl
@[simp] theorem State.pwrResult_choices (s : State) (r : BitVec 4) :
    (s.pwrResult r).choices = s.choices := rfl
@[simp] theorem State.pwrResult_out (s : State) (r : BitVec 4) :
    (s.pwrResult r).out = s.out := rfl
@[simp] theorem State.pwrResult_pending (s : State) (r : BitVec 4) :
    (s.pwrResult r).pending = s.pending := rfl

/-! ### State.holdEnds changes `pwr` alone -/
@[simp] theorem State.holdEnds_variant (s : State) :
    (s.holdEnds).variant = s.variant := rfl
@[simp] theorem State.holdEnds_inst (s : State) :
    (s.holdEnds).inst = s.inst := rfl
@[simp] theorem State.holdEnds_strap (s : State) :
    (s.holdEnds).strap = s.strap := rfl
@[simp] theorem State.holdEnds_gen3 (s : State) :
    (s.holdEnds).gen3 = s.gen3 := rfl
@[simp] theorem State.holdEnds_step (s : State) :
    (s.holdEnds).step = s.step := rfl
@[simp] theorem State.holdEnds_stepSeen (s : State) :
    (s.holdEnds).stepSeen = s.stepSeen := rfl
@[simp] theorem State.holdEnds_inReset (s : State) :
    (s.holdEnds).inReset = s.inReset := rfl
@[simp] theorem State.holdEnds_resetCause (s : State) :
    (s.holdEnds).resetCause = s.resetCause := rfl
@[simp] theorem State.holdEnds_fc (s : State) :
    (s.holdEnds).fc = s.fc := rfl
@[simp] theorem State.holdEnds_hdrs (s : State) :
    (s.holdEnds).hdrs = s.hdrs := rfl
@[simp] theorem State.holdEnds_pairs (s : State) :
    (s.holdEnds).pairs = s.pairs := rfl
@[simp] theorem State.holdEnds_env (s : State) :
    (s.holdEnds).env = s.env := rfl
@[simp] theorem State.holdEnds_life (s : State) :
    (s.holdEnds).life = s.life := rfl
@[simp] theorem State.holdEnds_cal (s : State) :
    (s.holdEnds).cal = s.cal := rfl
@[simp] theorem State.holdEnds_port (s : State) :
    (s.holdEnds).port = s.port := rfl
@[simp] theorem State.holdEnds_tbl (s : State) :
    (s.holdEnds).tbl = s.tbl := rfl
@[simp] theorem State.holdEnds_sen (s : State) :
    (s.holdEnds).sen = s.sen := rfl
@[simp] theorem State.holdEnds_chn (s : State) :
    (s.holdEnds).chn = s.chn := rfl
@[simp] theorem State.holdEnds_ctx (s : State) :
    (s.holdEnds).ctx = s.ctx := rfl
@[simp] theorem State.holdEnds_tree (s : State) :
    (s.holdEnds).tree = s.tree := rfl
@[simp] theorem State.holdEnds_num (s : State) :
    (s.holdEnds).num = s.num := rfl
@[simp] theorem State.holdEnds_log (s : State) :
    (s.holdEnds).log = s.log := rfl
@[simp] theorem State.holdEnds_sch (s : State) :
    (s.holdEnds).sch = s.sch := rfl
@[simp] theorem State.holdEnds_img (s : State) :
    (s.holdEnds).img = s.img := rfl
@[simp] theorem State.holdEnds_cnt (s : State) :
    (s.holdEnds).cnt = s.cnt := rfl
@[simp] theorem State.holdEnds_dbg (s : State) :
    (s.holdEnds).dbg = s.dbg := rfl
@[simp] theorem State.holdEnds_p0 (s : State) :
    (s.holdEnds).p0 = s.p0 := rfl
@[simp] theorem State.holdEnds_powerOns (s : State) :
    (s.holdEnds).powerOns = s.powerOns := rfl
@[simp] theorem State.holdEnds_choices (s : State) :
    (s.holdEnds).choices = s.choices := rfl
@[simp] theorem State.holdEnds_out (s : State) :
    (s.holdEnds).out = s.out := rfl
@[simp] theorem State.holdEnds_pending (s : State) :
    (s.holdEnds).pending = s.pending := rfl

/-! ### State.strapLevel changes `strap` alone -/
@[simp] theorem State.strapLevel_variant (s : State) (level : Bool) :
    (s.strapLevel level).variant = s.variant := rfl
@[simp] theorem State.strapLevel_inst (s : State) (level : Bool) :
    (s.strapLevel level).inst = s.inst := rfl
@[simp] theorem State.strapLevel_gen3 (s : State) (level : Bool) :
    (s.strapLevel level).gen3 = s.gen3 := rfl
@[simp] theorem State.strapLevel_step (s : State) (level : Bool) :
    (s.strapLevel level).step = s.step := rfl
@[simp] theorem State.strapLevel_stepSeen (s : State) (level : Bool) :
    (s.strapLevel level).stepSeen = s.stepSeen := rfl
@[simp] theorem State.strapLevel_inReset (s : State) (level : Bool) :
    (s.strapLevel level).inReset = s.inReset := rfl
@[simp] theorem State.strapLevel_resetCause (s : State) (level : Bool) :
    (s.strapLevel level).resetCause = s.resetCause := rfl
@[simp] theorem State.strapLevel_fc (s : State) (level : Bool) :
    (s.strapLevel level).fc = s.fc := rfl
@[simp] theorem State.strapLevel_hdrs (s : State) (level : Bool) :
    (s.strapLevel level).hdrs = s.hdrs := rfl
@[simp] theorem State.strapLevel_pairs (s : State) (level : Bool) :
    (s.strapLevel level).pairs = s.pairs := rfl
@[simp] theorem State.strapLevel_pwr (s : State) (level : Bool) :
    (s.strapLevel level).pwr = s.pwr := rfl
@[simp] theorem State.strapLevel_env (s : State) (level : Bool) :
    (s.strapLevel level).env = s.env := rfl
@[simp] theorem State.strapLevel_life (s : State) (level : Bool) :
    (s.strapLevel level).life = s.life := rfl
@[simp] theorem State.strapLevel_cal (s : State) (level : Bool) :
    (s.strapLevel level).cal = s.cal := rfl
@[simp] theorem State.strapLevel_port (s : State) (level : Bool) :
    (s.strapLevel level).port = s.port := rfl
@[simp] theorem State.strapLevel_tbl (s : State) (level : Bool) :
    (s.strapLevel level).tbl = s.tbl := rfl
@[simp] theorem State.strapLevel_sen (s : State) (level : Bool) :
    (s.strapLevel level).sen = s.sen := rfl
@[simp] theorem State.strapLevel_chn (s : State) (level : Bool) :
    (s.strapLevel level).chn = s.chn := rfl
@[simp] theorem State.strapLevel_ctx (s : State) (level : Bool) :
    (s.strapLevel level).ctx = s.ctx := rfl
@[simp] theorem State.strapLevel_tree (s : State) (level : Bool) :
    (s.strapLevel level).tree = s.tree := rfl
@[simp] theorem State.strapLevel_num (s : State) (level : Bool) :
    (s.strapLevel level).num = s.num := rfl
@[simp] theorem State.strapLevel_log (s : State) (level : Bool) :
    (s.strapLevel level).log = s.log := rfl
@[simp] theorem State.strapLevel_sch (s : State) (level : Bool) :
    (s.strapLevel level).sch = s.sch := rfl
@[simp] theorem State.strapLevel_img (s : State) (level : Bool) :
    (s.strapLevel level).img = s.img := rfl
@[simp] theorem State.strapLevel_cnt (s : State) (level : Bool) :
    (s.strapLevel level).cnt = s.cnt := rfl
@[simp] theorem State.strapLevel_dbg (s : State) (level : Bool) :
    (s.strapLevel level).dbg = s.dbg := rfl
@[simp] theorem State.strapLevel_p0 (s : State) (level : Bool) :
    (s.strapLevel level).p0 = s.p0 := rfl
@[simp] theorem State.strapLevel_powerOns (s : State) (level : Bool) :
    (s.strapLevel level).powerOns = s.powerOns := rfl
@[simp] theorem State.strapLevel_choices (s : State) (level : Bool) :
    (s.strapLevel level).choices = s.choices := rfl
@[simp] theorem State.strapLevel_out (s : State) (level : Bool) :
    (s.strapLevel level).out = s.out := rfl
@[simp] theorem State.strapLevel_pending (s : State) (level : Bool) :
    (s.strapLevel level).pending = s.pending := rfl

/-! ### State.modGroup changes `sch` alone -/
@[simp] theorem State.modGroup_variant (s : State) (k : Nat) (f : SchGroup → SchGroup) :
    (s.modGroup k f).variant = s.variant := rfl
@[simp] theorem State.modGroup_inst (s : State) (k : Nat) (f : SchGroup → SchGroup) :
    (s.modGroup k f).inst = s.inst := rfl
@[simp] theorem State.modGroup_strap (s : State) (k : Nat) (f : SchGroup → SchGroup) :
    (s.modGroup k f).strap = s.strap := rfl
@[simp] theorem State.modGroup_gen3 (s : State) (k : Nat) (f : SchGroup → SchGroup) :
    (s.modGroup k f).gen3 = s.gen3 := rfl
@[simp] theorem State.modGroup_step (s : State) (k : Nat) (f : SchGroup → SchGroup) :
    (s.modGroup k f).step = s.step := rfl
@[simp] theorem State.modGroup_stepSeen (s : State) (k : Nat) (f : SchGroup → SchGroup) :
    (s.modGroup k f).stepSeen = s.stepSeen := rfl
@[simp] theorem State.modGroup_inReset (s : State) (k : Nat) (f : SchGroup → SchGroup) :
    (s.modGroup k f).inReset = s.inReset := rfl
@[simp] theorem State.modGroup_resetCause (s : State) (k : Nat) (f : SchGroup → SchGroup) :
    (s.modGroup k f).resetCause = s.resetCause := rfl
@[simp] theorem State.modGroup_fc (s : State) (k : Nat) (f : SchGroup → SchGroup) :
    (s.modGroup k f).fc = s.fc := rfl
@[simp] theorem State.modGroup_hdrs (s : State) (k : Nat) (f : SchGroup → SchGroup) :
    (s.modGroup k f).hdrs = s.hdrs := rfl
@[simp] theorem State.modGroup_pairs (s : State) (k : Nat) (f : SchGroup → SchGroup) :
    (s.modGroup k f).pairs = s.pairs := rfl
@[simp] theorem State.modGroup_pwr (s : State) (k : Nat) (f : SchGroup → SchGroup) :
    (s.modGroup k f).pwr = s.pwr := rfl
@[simp] theorem State.modGroup_env (s : State) (k : Nat) (f : SchGroup → SchGroup) :
    (s.modGroup k f).env = s.env := rfl
@[simp] theorem State.modGroup_life (s : State) (k : Nat) (f : SchGroup → SchGroup) :
    (s.modGroup k f).life = s.life := rfl
@[simp] theorem State.modGroup_cal (s : State) (k : Nat) (f : SchGroup → SchGroup) :
    (s.modGroup k f).cal = s.cal := rfl
@[simp] theorem State.modGroup_port (s : State) (k : Nat) (f : SchGroup → SchGroup) :
    (s.modGroup k f).port = s.port := rfl
@[simp] theorem State.modGroup_tbl (s : State) (k : Nat) (f : SchGroup → SchGroup) :
    (s.modGroup k f).tbl = s.tbl := rfl
@[simp] theorem State.modGroup_sen (s : State) (k : Nat) (f : SchGroup → SchGroup) :
    (s.modGroup k f).sen = s.sen := rfl
@[simp] theorem State.modGroup_chn (s : State) (k : Nat) (f : SchGroup → SchGroup) :
    (s.modGroup k f).chn = s.chn := rfl
@[simp] theorem State.modGroup_ctx (s : State) (k : Nat) (f : SchGroup → SchGroup) :
    (s.modGroup k f).ctx = s.ctx := rfl
@[simp] theorem State.modGroup_tree (s : State) (k : Nat) (f : SchGroup → SchGroup) :
    (s.modGroup k f).tree = s.tree := rfl
@[simp] theorem State.modGroup_num (s : State) (k : Nat) (f : SchGroup → SchGroup) :
    (s.modGroup k f).num = s.num := rfl
@[simp] theorem State.modGroup_log (s : State) (k : Nat) (f : SchGroup → SchGroup) :
    (s.modGroup k f).log = s.log := rfl
@[simp] theorem State.modGroup_img (s : State) (k : Nat) (f : SchGroup → SchGroup) :
    (s.modGroup k f).img = s.img := rfl
@[simp] theorem State.modGroup_cnt (s : State) (k : Nat) (f : SchGroup → SchGroup) :
    (s.modGroup k f).cnt = s.cnt := rfl
@[simp] theorem State.modGroup_dbg (s : State) (k : Nat) (f : SchGroup → SchGroup) :
    (s.modGroup k f).dbg = s.dbg := rfl
@[simp] theorem State.modGroup_p0 (s : State) (k : Nat) (f : SchGroup → SchGroup) :
    (s.modGroup k f).p0 = s.p0 := rfl
@[simp] theorem State.modGroup_powerOns (s : State) (k : Nat) (f : SchGroup → SchGroup) :
    (s.modGroup k f).powerOns = s.powerOns := rfl
@[simp] theorem State.modGroup_choices (s : State) (k : Nat) (f : SchGroup → SchGroup) :
    (s.modGroup k f).choices = s.choices := rfl
@[simp] theorem State.modGroup_out (s : State) (k : Nat) (f : SchGroup → SchGroup) :
    (s.modGroup k f).out = s.out := rfl
@[simp] theorem State.modGroup_pending (s : State) (k : Nat) (f : SchGroup → SchGroup) :
    (s.modGroup k f).pending = s.pending := rfl

/-! ### State.releaseChecked changes `sch` alone -/
@[simp] theorem State.releaseChecked_variant (s : State) (step : Word) :
    (s.releaseChecked step).variant = s.variant := rfl
@[simp] theorem State.releaseChecked_inst (s : State) (step : Word) :
    (s.releaseChecked step).inst = s.inst := rfl
@[simp] theorem State.releaseChecked_strap (s : State) (step : Word) :
    (s.releaseChecked step).strap = s.strap := rfl
@[simp] theorem State.releaseChecked_gen3 (s : State) (step : Word) :
    (s.releaseChecked step).gen3 = s.gen3 := rfl
@[simp] theorem State.releaseChecked_step (s : State) (step : Word) :
    (s.releaseChecked step).step = s.step := rfl
@[simp] theorem State.releaseChecked_stepSeen (s : State) (step : Word) :
    (s.releaseChecked step).stepSeen = s.stepSeen := rfl
@[simp] theorem State.releaseChecked_inReset (s : State) (step : Word) :
    (s.releaseChecked step).inReset = s.inReset := rfl
@[simp] theorem State.releaseChecked_resetCause (s : State) (step : Word) :
    (s.releaseChecked step).resetCause = s.resetCause := rfl
@[simp] theorem State.releaseChecked_fc (s : State) (step : Word) :
    (s.releaseChecked step).fc = s.fc := rfl
@[simp] theorem State.releaseChecked_hdrs (s : State) (step : Word) :
    (s.releaseChecked step).hdrs = s.hdrs := rfl
@[simp] theorem State.releaseChecked_pairs (s : State) (step : Word) :
    (s.releaseChecked step).pairs = s.pairs := rfl
@[simp] theorem State.releaseChecked_pwr (s : State) (step : Word) :
    (s.releaseChecked step).pwr = s.pwr := rfl
@[simp] theorem State.releaseChecked_env (s : State) (step : Word) :
    (s.releaseChecked step).env = s.env := rfl
@[simp] theorem State.releaseChecked_life (s : State) (step : Word) :
    (s.releaseChecked step).life = s.life := rfl
@[simp] theorem State.releaseChecked_cal (s : State) (step : Word) :
    (s.releaseChecked step).cal = s.cal := rfl
@[simp] theorem State.releaseChecked_port (s : State) (step : Word) :
    (s.releaseChecked step).port = s.port := rfl
@[simp] theorem State.releaseChecked_tbl (s : State) (step : Word) :
    (s.releaseChecked step).tbl = s.tbl := rfl
@[simp] theorem State.releaseChecked_sen (s : State) (step : Word) :
    (s.releaseChecked step).sen = s.sen := rfl
@[simp] theorem State.releaseChecked_chn (s : State) (step : Word) :
    (s.releaseChecked step).chn = s.chn := rfl
@[simp] theorem State.releaseChecked_ctx (s : State) (step : Word) :
    (s.releaseChecked step).ctx = s.ctx := rfl
@[simp] theorem State.releaseChecked_tree (s : State) (step : Word) :
    (s.releaseChecked step).tree = s.tree := rfl
@[simp] theorem State.releaseChecked_num (s : State) (step : Word) :
    (s.releaseChecked step).num = s.num := rfl
@[simp] theorem State.releaseChecked_log (s : State) (step : Word) :
    (s.releaseChecked step).log = s.log := rfl
@[simp] theorem State.releaseChecked_img (s : State) (step : Word) :
    (s.releaseChecked step).img = s.img := rfl
@[simp] theorem State.releaseChecked_cnt (s : State) (step : Word) :
    (s.releaseChecked step).cnt = s.cnt := rfl
@[simp] theorem State.releaseChecked_dbg (s : State) (step : Word) :
    (s.releaseChecked step).dbg = s.dbg := rfl
@[simp] theorem State.releaseChecked_p0 (s : State) (step : Word) :
    (s.releaseChecked step).p0 = s.p0 := rfl
@[simp] theorem State.releaseChecked_powerOns (s : State) (step : Word) :
    (s.releaseChecked step).powerOns = s.powerOns := rfl
@[simp] theorem State.releaseChecked_choices (s : State) (step : Word) :
    (s.releaseChecked step).choices = s.choices := rfl
@[simp] theorem State.releaseChecked_out (s : State) (step : Word) :
    (s.releaseChecked step).out = s.out := rfl
@[simp] theorem State.releaseChecked_pending (s : State) (step : Word) :
    (s.releaseChecked step).pending = s.pending := rfl

/-! ### State.sentinelToken changes `sen` alone -/
@[simp] theorem State.sentinelToken_variant (s : State) :
    (s.sentinelToken).variant = s.variant := rfl
@[simp] theorem State.sentinelToken_inst (s : State) :
    (s.sentinelToken).inst = s.inst := rfl
@[simp] theorem State.sentinelToken_strap (s : State) :
    (s.sentinelToken).strap = s.strap := rfl
@[simp] theorem State.sentinelToken_gen3 (s : State) :
    (s.sentinelToken).gen3 = s.gen3 := rfl
@[simp] theorem State.sentinelToken_step (s : State) :
    (s.sentinelToken).step = s.step := rfl
@[simp] theorem State.sentinelToken_stepSeen (s : State) :
    (s.sentinelToken).stepSeen = s.stepSeen := rfl
@[simp] theorem State.sentinelToken_inReset (s : State) :
    (s.sentinelToken).inReset = s.inReset := rfl
@[simp] theorem State.sentinelToken_resetCause (s : State) :
    (s.sentinelToken).resetCause = s.resetCause := rfl
@[simp] theorem State.sentinelToken_fc (s : State) :
    (s.sentinelToken).fc = s.fc := rfl
@[simp] theorem State.sentinelToken_hdrs (s : State) :
    (s.sentinelToken).hdrs = s.hdrs := rfl
@[simp] theorem State.sentinelToken_pairs (s : State) :
    (s.sentinelToken).pairs = s.pairs := rfl
@[simp] theorem State.sentinelToken_pwr (s : State) :
    (s.sentinelToken).pwr = s.pwr := rfl
@[simp] theorem State.sentinelToken_env (s : State) :
    (s.sentinelToken).env = s.env := rfl
@[simp] theorem State.sentinelToken_life (s : State) :
    (s.sentinelToken).life = s.life := rfl
@[simp] theorem State.sentinelToken_cal (s : State) :
    (s.sentinelToken).cal = s.cal := rfl
@[simp] theorem State.sentinelToken_port (s : State) :
    (s.sentinelToken).port = s.port := rfl
@[simp] theorem State.sentinelToken_tbl (s : State) :
    (s.sentinelToken).tbl = s.tbl := rfl
@[simp] theorem State.sentinelToken_chn (s : State) :
    (s.sentinelToken).chn = s.chn := rfl
@[simp] theorem State.sentinelToken_ctx (s : State) :
    (s.sentinelToken).ctx = s.ctx := rfl
@[simp] theorem State.sentinelToken_tree (s : State) :
    (s.sentinelToken).tree = s.tree := rfl
@[simp] theorem State.sentinelToken_num (s : State) :
    (s.sentinelToken).num = s.num := rfl
@[simp] theorem State.sentinelToken_log (s : State) :
    (s.sentinelToken).log = s.log := rfl
@[simp] theorem State.sentinelToken_sch (s : State) :
    (s.sentinelToken).sch = s.sch := rfl
@[simp] theorem State.sentinelToken_img (s : State) :
    (s.sentinelToken).img = s.img := rfl
@[simp] theorem State.sentinelToken_cnt (s : State) :
    (s.sentinelToken).cnt = s.cnt := rfl
@[simp] theorem State.sentinelToken_dbg (s : State) :
    (s.sentinelToken).dbg = s.dbg := rfl
@[simp] theorem State.sentinelToken_p0 (s : State) :
    (s.sentinelToken).p0 = s.p0 := rfl
@[simp] theorem State.sentinelToken_powerOns (s : State) :
    (s.sentinelToken).powerOns = s.powerOns := rfl
@[simp] theorem State.sentinelToken_choices (s : State) :
    (s.sentinelToken).choices = s.choices := rfl
@[simp] theorem State.sentinelToken_out (s : State) :
    (s.sentinelToken).out = s.out := rfl
@[simp] theorem State.sentinelToken_pending (s : State) :
    (s.sentinelToken).pending = s.pending := rfl

/-! ### State.setCopy changes `tbl` alone -/
@[simp] theorem State.setCopy_variant (s : State) (k : TableKey) (p i : Nat) (e : Option Entry) :
    (s.setCopy k p i e).variant = s.variant := rfl
@[simp] theorem State.setCopy_inst (s : State) (k : TableKey) (p i : Nat) (e : Option Entry) :
    (s.setCopy k p i e).inst = s.inst := rfl
@[simp] theorem State.setCopy_strap (s : State) (k : TableKey) (p i : Nat) (e : Option Entry) :
    (s.setCopy k p i e).strap = s.strap := rfl
@[simp] theorem State.setCopy_gen3 (s : State) (k : TableKey) (p i : Nat) (e : Option Entry) :
    (s.setCopy k p i e).gen3 = s.gen3 := rfl
@[simp] theorem State.setCopy_step (s : State) (k : TableKey) (p i : Nat) (e : Option Entry) :
    (s.setCopy k p i e).step = s.step := rfl
@[simp] theorem State.setCopy_stepSeen (s : State) (k : TableKey) (p i : Nat) (e : Option Entry) :
    (s.setCopy k p i e).stepSeen = s.stepSeen := rfl
@[simp] theorem State.setCopy_inReset (s : State) (k : TableKey) (p i : Nat) (e : Option Entry) :
    (s.setCopy k p i e).inReset = s.inReset := rfl
@[simp] theorem State.setCopy_resetCause (s : State) (k : TableKey) (p i : Nat) (e : Option Entry) :
    (s.setCopy k p i e).resetCause = s.resetCause := rfl
@[simp] theorem State.setCopy_fc (s : State) (k : TableKey) (p i : Nat) (e : Option Entry) :
    (s.setCopy k p i e).fc = s.fc := rfl
@[simp] theorem State.setCopy_hdrs (s : State) (k : TableKey) (p i : Nat) (e : Option Entry) :
    (s.setCopy k p i e).hdrs = s.hdrs := rfl
@[simp] theorem State.setCopy_pairs (s : State) (k : TableKey) (p i : Nat) (e : Option Entry) :
    (s.setCopy k p i e).pairs = s.pairs := rfl
@[simp] theorem State.setCopy_pwr (s : State) (k : TableKey) (p i : Nat) (e : Option Entry) :
    (s.setCopy k p i e).pwr = s.pwr := rfl
@[simp] theorem State.setCopy_env (s : State) (k : TableKey) (p i : Nat) (e : Option Entry) :
    (s.setCopy k p i e).env = s.env := rfl
@[simp] theorem State.setCopy_life (s : State) (k : TableKey) (p i : Nat) (e : Option Entry) :
    (s.setCopy k p i e).life = s.life := rfl
@[simp] theorem State.setCopy_cal (s : State) (k : TableKey) (p i : Nat) (e : Option Entry) :
    (s.setCopy k p i e).cal = s.cal := rfl
@[simp] theorem State.setCopy_port (s : State) (k : TableKey) (p i : Nat) (e : Option Entry) :
    (s.setCopy k p i e).port = s.port := rfl
@[simp] theorem State.setCopy_sen (s : State) (k : TableKey) (p i : Nat) (e : Option Entry) :
    (s.setCopy k p i e).sen = s.sen := rfl
@[simp] theorem State.setCopy_chn (s : State) (k : TableKey) (p i : Nat) (e : Option Entry) :
    (s.setCopy k p i e).chn = s.chn := rfl
@[simp] theorem State.setCopy_ctx (s : State) (k : TableKey) (p i : Nat) (e : Option Entry) :
    (s.setCopy k p i e).ctx = s.ctx := rfl
@[simp] theorem State.setCopy_tree (s : State) (k : TableKey) (p i : Nat) (e : Option Entry) :
    (s.setCopy k p i e).tree = s.tree := rfl
@[simp] theorem State.setCopy_num (s : State) (k : TableKey) (p i : Nat) (e : Option Entry) :
    (s.setCopy k p i e).num = s.num := rfl
@[simp] theorem State.setCopy_log (s : State) (k : TableKey) (p i : Nat) (e : Option Entry) :
    (s.setCopy k p i e).log = s.log := rfl
@[simp] theorem State.setCopy_sch (s : State) (k : TableKey) (p i : Nat) (e : Option Entry) :
    (s.setCopy k p i e).sch = s.sch := rfl
@[simp] theorem State.setCopy_img (s : State) (k : TableKey) (p i : Nat) (e : Option Entry) :
    (s.setCopy k p i e).img = s.img := rfl
@[simp] theorem State.setCopy_cnt (s : State) (k : TableKey) (p i : Nat) (e : Option Entry) :
    (s.setCopy k p i e).cnt = s.cnt := rfl
@[simp] theorem State.setCopy_dbg (s : State) (k : TableKey) (p i : Nat) (e : Option Entry) :
    (s.setCopy k p i e).dbg = s.dbg := rfl
@[simp] theorem State.setCopy_p0 (s : State) (k : TableKey) (p i : Nat) (e : Option Entry) :
    (s.setCopy k p i e).p0 = s.p0 := rfl
@[simp] theorem State.setCopy_powerOns (s : State) (k : TableKey) (p i : Nat) (e : Option Entry) :
    (s.setCopy k p i e).powerOns = s.powerOns := rfl
@[simp] theorem State.setCopy_choices (s : State) (k : TableKey) (p i : Nat) (e : Option Entry) :
    (s.setCopy k p i e).choices = s.choices := rfl
@[simp] theorem State.setCopy_out (s : State) (k : TableKey) (p i : Nat) (e : Option Entry) :
    (s.setCopy k p i e).out = s.out := rfl
@[simp] theorem State.setCopy_pending (s : State) (k : TableKey) (p i : Nat) (e : Option Entry) :
    (s.setCopy k p i e).pending = s.pending := rfl

/-! ### State.tblCode changes `tbl` alone -/
@[simp] theorem State.tblCode_variant (s : State) (code item index : Nat) :
    (s.tblCode code item index).variant = s.variant := rfl
@[simp] theorem State.tblCode_inst (s : State) (code item index : Nat) :
    (s.tblCode code item index).inst = s.inst := rfl
@[simp] theorem State.tblCode_strap (s : State) (code item index : Nat) :
    (s.tblCode code item index).strap = s.strap := rfl
@[simp] theorem State.tblCode_gen3 (s : State) (code item index : Nat) :
    (s.tblCode code item index).gen3 = s.gen3 := rfl
@[simp] theorem State.tblCode_step (s : State) (code item index : Nat) :
    (s.tblCode code item index).step = s.step := rfl
@[simp] theorem State.tblCode_stepSeen (s : State) (code item index : Nat) :
    (s.tblCode code item index).stepSeen = s.stepSeen := rfl
@[simp] theorem State.tblCode_inReset (s : State) (code item index : Nat) :
    (s.tblCode code item index).inReset = s.inReset := rfl
@[simp] theorem State.tblCode_resetCause (s : State) (code item index : Nat) :
    (s.tblCode code item index).resetCause = s.resetCause := rfl
@[simp] theorem State.tblCode_fc (s : State) (code item index : Nat) :
    (s.tblCode code item index).fc = s.fc := rfl
@[simp] theorem State.tblCode_hdrs (s : State) (code item index : Nat) :
    (s.tblCode code item index).hdrs = s.hdrs := rfl
@[simp] theorem State.tblCode_pairs (s : State) (code item index : Nat) :
    (s.tblCode code item index).pairs = s.pairs := rfl
@[simp] theorem State.tblCode_pwr (s : State) (code item index : Nat) :
    (s.tblCode code item index).pwr = s.pwr := rfl
@[simp] theorem State.tblCode_env (s : State) (code item index : Nat) :
    (s.tblCode code item index).env = s.env := rfl
@[simp] theorem State.tblCode_life (s : State) (code item index : Nat) :
    (s.tblCode code item index).life = s.life := rfl
@[simp] theorem State.tblCode_cal (s : State) (code item index : Nat) :
    (s.tblCode code item index).cal = s.cal := rfl
@[simp] theorem State.tblCode_port (s : State) (code item index : Nat) :
    (s.tblCode code item index).port = s.port := rfl
@[simp] theorem State.tblCode_sen (s : State) (code item index : Nat) :
    (s.tblCode code item index).sen = s.sen := rfl
@[simp] theorem State.tblCode_chn (s : State) (code item index : Nat) :
    (s.tblCode code item index).chn = s.chn := rfl
@[simp] theorem State.tblCode_ctx (s : State) (code item index : Nat) :
    (s.tblCode code item index).ctx = s.ctx := rfl
@[simp] theorem State.tblCode_tree (s : State) (code item index : Nat) :
    (s.tblCode code item index).tree = s.tree := rfl
@[simp] theorem State.tblCode_num (s : State) (code item index : Nat) :
    (s.tblCode code item index).num = s.num := rfl
@[simp] theorem State.tblCode_log (s : State) (code item index : Nat) :
    (s.tblCode code item index).log = s.log := rfl
@[simp] theorem State.tblCode_sch (s : State) (code item index : Nat) :
    (s.tblCode code item index).sch = s.sch := rfl
@[simp] theorem State.tblCode_img (s : State) (code item index : Nat) :
    (s.tblCode code item index).img = s.img := rfl
@[simp] theorem State.tblCode_cnt (s : State) (code item index : Nat) :
    (s.tblCode code item index).cnt = s.cnt := rfl
@[simp] theorem State.tblCode_dbg (s : State) (code item index : Nat) :
    (s.tblCode code item index).dbg = s.dbg := rfl
@[simp] theorem State.tblCode_p0 (s : State) (code item index : Nat) :
    (s.tblCode code item index).p0 = s.p0 := rfl
@[simp] theorem State.tblCode_powerOns (s : State) (code item index : Nat) :
    (s.tblCode code item index).powerOns = s.powerOns := rfl
@[simp] theorem State.tblCode_choices (s : State) (code item index : Nat) :
    (s.tblCode code item index).choices = s.choices := rfl
@[simp] theorem State.tblCode_out (s : State) (code item index : Nat) :
    (s.tblCode code item index).out = s.out := rfl
@[simp] theorem State.tblCode_pending (s : State) (code item index : Nat) :
    (s.tblCode code item index).pending = s.pending := rfl

/-! ### State.switchWrite changes `tbl` alone -/
@[simp] theorem State.switchWrite_variant (s : State) :
    (s.switchWrite).variant = s.variant := rfl
@[simp] theorem State.switchWrite_inst (s : State) :
    (s.switchWrite).inst = s.inst := rfl
@[simp] theorem State.switchWrite_strap (s : State) :
    (s.switchWrite).strap = s.strap := rfl
@[simp] theorem State.switchWrite_gen3 (s : State) :
    (s.switchWrite).gen3 = s.gen3 := rfl
@[simp] theorem State.switchWrite_step (s : State) :
    (s.switchWrite).step = s.step := rfl
@[simp] theorem State.switchWrite_stepSeen (s : State) :
    (s.switchWrite).stepSeen = s.stepSeen := rfl
@[simp] theorem State.switchWrite_inReset (s : State) :
    (s.switchWrite).inReset = s.inReset := rfl
@[simp] theorem State.switchWrite_resetCause (s : State) :
    (s.switchWrite).resetCause = s.resetCause := rfl
@[simp] theorem State.switchWrite_fc (s : State) :
    (s.switchWrite).fc = s.fc := rfl
@[simp] theorem State.switchWrite_hdrs (s : State) :
    (s.switchWrite).hdrs = s.hdrs := rfl
@[simp] theorem State.switchWrite_pairs (s : State) :
    (s.switchWrite).pairs = s.pairs := rfl
@[simp] theorem State.switchWrite_pwr (s : State) :
    (s.switchWrite).pwr = s.pwr := rfl
@[simp] theorem State.switchWrite_env (s : State) :
    (s.switchWrite).env = s.env := rfl
@[simp] theorem State.switchWrite_life (s : State) :
    (s.switchWrite).life = s.life := rfl
@[simp] theorem State.switchWrite_cal (s : State) :
    (s.switchWrite).cal = s.cal := rfl
@[simp] theorem State.switchWrite_port (s : State) :
    (s.switchWrite).port = s.port := rfl
@[simp] theorem State.switchWrite_sen (s : State) :
    (s.switchWrite).sen = s.sen := rfl
@[simp] theorem State.switchWrite_chn (s : State) :
    (s.switchWrite).chn = s.chn := rfl
@[simp] theorem State.switchWrite_ctx (s : State) :
    (s.switchWrite).ctx = s.ctx := rfl
@[simp] theorem State.switchWrite_tree (s : State) :
    (s.switchWrite).tree = s.tree := rfl
@[simp] theorem State.switchWrite_num (s : State) :
    (s.switchWrite).num = s.num := rfl
@[simp] theorem State.switchWrite_log (s : State) :
    (s.switchWrite).log = s.log := rfl
@[simp] theorem State.switchWrite_sch (s : State) :
    (s.switchWrite).sch = s.sch := rfl
@[simp] theorem State.switchWrite_img (s : State) :
    (s.switchWrite).img = s.img := rfl
@[simp] theorem State.switchWrite_cnt (s : State) :
    (s.switchWrite).cnt = s.cnt := rfl
@[simp] theorem State.switchWrite_dbg (s : State) :
    (s.switchWrite).dbg = s.dbg := rfl
@[simp] theorem State.switchWrite_p0 (s : State) :
    (s.switchWrite).p0 = s.p0 := rfl
@[simp] theorem State.switchWrite_powerOns (s : State) :
    (s.switchWrite).powerOns = s.powerOns := rfl
@[simp] theorem State.switchWrite_choices (s : State) :
    (s.switchWrite).choices = s.choices := rfl
@[simp] theorem State.switchWrite_out (s : State) :
    (s.switchWrite).out = s.out := rfl
@[simp] theorem State.switchWrite_pending (s : State) :
    (s.switchWrite).pending = s.pending := rfl

/-! ### What the updates put -/

@[simp] theorem State.send_out (s : State) (m : OutMsg) : (s.send m).out = m :: s.out := rfl

@[simp] theorem State.strapLevel_strap (s : State) (level : Bool) : (s.strapLevel level).strap = level := rfl

end Sys2Proof.Machine
end

