-- ==== Sys2Proof/WellFormed.lean ====
section
/-! DEFINITION. Which terms are commands that can come to the block: a header whose TYPE is its row's (Table 12.1), a
command word whose OP or TARGET is its row's, and a frame whose TYPE is its row's (Table 12.10). The meanings do not lean
on it: they force these fields, or take the row at its word. -/
namespace Sys2Proof

/-- TYPE of a P3 header (Table 12.1). -/
def Header.type3 (h : Header) : BitVec 4 := h.extractLsb' 28 4

/-- TYPE of a lane header (Table 12.5). -/
def Header.laneType (h : Header) : BitVec 2 := h.extractLsb' 14 2

/-- OP of a command word: bits [31:28]. -/
def opIs (v : Word) (k : BitVec 4) : Bool := v.extractLsb' 28 4 == k

/-- A reserved P3 TYPE (Table 12.1). -/
def reservedType3 (h : Header) : Bool := h.type3 == 0 || decide (h.type3 ≥ 7)

/-- KIND of a tree message (Table 12.7). -/
def TreeMsg.kindIs (m : TreeMsg) (k : BitVec 8) : Bool := m.hdr.extractLsb' 0 8 == k

/-- A payload of its KIND's length (R262). -/
def TreeMsg.sized (m : TreeMsg) : Bool :=
  if m.kindIs 3 then m.payload.length == 32
  else if m.kindIs 1 || m.kindIs 2 then m.payload.length == 2048
  else true

/-- TYPE of a REST frame (Table 12.10). -/
def frameTypeIs (f : BitVec 80) (k : BitVec 4) : Bool := f.extractLsb' 76 4 == k

/-- A message that belongs to its port. -/
def PortMsg.wf : PortMsg → Bool
  | .p3 h => h.type3 != 6
  | .tree _ m => m.sized
  | .lane _ _ => true

/-- The well-formed commands. -/
def Instr.wf : Instr → Bool
  | .doorbell h => h.type3 == 1
  | .step h => h.type3 == 2
  | .imgFrag h => h.type3 == 3
  | .fault h => h.type3 == 4
  | .treeTile h => h.type3 == 5
  | .arvBadType h => reservedType3 h
  | .treeUp _ m => m.kindIs 1 && m.sized
  | .treeDown _ m => m.kindIs 2 && m.sized
  | .treeCheck _ m => m.kindIs 3 && m.sized
  | .laneRequestEval _ r => r.hdr.laneType != 1
  | .laneRequestFetch _ h => h.laneType == 1
  | .loadEntries _ v => opIs v 1
  | .loadDesc _ v => opIs v 2
  | .loadMap _ v => opIs v 3
  | .loadCrz _ v => opIs v 4
  | .seal _ v => opIs v 5
  | .preload _ v => opIs v 6
  | .switch _ v => v.getLsbD 31
  | .drain _ v => v.extractLsb' 30 2 == 0
  | .clear _ v => v.extractLsb' 30 2 == 1
  | .adopt _ v => v.extractLsb' 30 2 == 2
  | .register _ v => opIs v 1
  | .set _ v => opIs v 2
  | .rewind _ v => opIs v 3
  | .flush _ v => opIs v 4
  | .checked _ v => opIs v 1
  | .rollback _ v => opIs v 2
  | .exportImg _ v => opIs v 3
  | .prepare _ v => opIs v 4
  | .fill _ v => opIs v 5
  | .abort _ v => opIs v 6
  | .leave _ v => opIs v 7
  | .atStep _ v => opIs v 1
  | .next _ v => opIs v 2
  | .disarm _ v => opIs v 3
  | .release _ v => opIs v 1
  | .force _ v => opIs v 2
  | .snap _ v => opIs v 1
  | .restore _ v => opIs v 2
  | .flip _ v => opIs v 1
  | .pwrReqDormant _ v => v.extractLsb' 0 2 == 0
  | .pwrReqResting _ v => v.extractLsb' 0 2 == 2
  | .pwrReqReady _ v => v.extractLsb' 0 2 == 3
  | .recallAck via _ => via != .rest
  | .grant f => frameTypeIs f 6
  | .wake f => frameTypeIs f 5
  | .restRd f => frameTypeIs f 1
  | .restWr f => frameTypeIs f 2
  | .portMessageAccepted m => m.wf
  | .spadReadData _ (some d) => d.length ≤ 2048
  | _ => true

end Sys2Proof
end

