-- ==== Sys2Proof/Tests/Slice0.lean ====
section
/-! SUPPORT. Own tests: an ill-formed term for each check of WellFormed, the manual's worked examples and tables, and for
each statement with hypotheses a state and operands that meet them. -/
namespace Sys2Proof.Tests
open Sys2Proof.Machine

set_option Elab.async false

/-! ## WellFormed: each check refuses an ill-formed term -/

/-- A P3 header of a TYPE, and a lane header of one. -/
def hdrOf (ty : Nat) : Header := BitVec.ofNat 128 (ty * 2 ^ 28)
def laneHdr (ty : Nat) : Header := BitVec.ofNat 128 (ty * 2 ^ 14)
/-- A tree message of a KIND with `n` payload bytes. -/
def treeMsg (kind n : Nat) : TreeMsg := { hdr := BitVec.ofNat 256 kind, payload := List.replicate n 0 }
/-- A command word of an OP, and a frame of a TYPE. -/
def opWord (k : Nat) : Word := BitVec.ofNat 32 (k * 2 ^ 28)
def frameTy (k : Nat) : BitVec 80 := BitVec.ofNat 80 (k * 2 ^ 76)

theorem test_wf_p3_types :
    ([.doorbell (hdrOf 1), .step (hdrOf 2), .imgFrag (hdrOf 3), .fault (hdrOf 4), .treeTile (hdrOf 5), .arvBadType (hdrOf 7),
      .arvBadType (hdrOf 0)] : List Instr).all Instr.wf = true ∧
    ([.doorbell (hdrOf 2), .step (hdrOf 1), .imgFrag (hdrOf 4), .fault (hdrOf 3), .treeTile (hdrOf 6), .arvBadType (hdrOf 6),
      .arvBadType (hdrOf 1)] : List Instr).any Instr.wf = false := by decide +kernel

theorem test_wf_tree :
    (Instr.treeCheck .p4 (treeMsg 3 32)).wf = true ∧ (Instr.treeCheck .p4 (treeMsg 3 31)).wf = false ∧
    (Instr.treeCheck .p4 (treeMsg 1 32)).wf = false ∧ (Instr.treeUp .remote (treeMsg 1 32)).wf = false ∧
    (Instr.treeUp .remote (treeMsg 2 0)).wf = false ∧ (Instr.treeDown .p4 (treeMsg 2 7)).wf = false ∧
    (Instr.treeDown .p4 (treeMsg 1 0)).wf = false := by decide +kernel

theorem test_wf_lane :
    (Instr.laneRequestEval 7 { hdr := laneHdr 0, mask := 0, ops := 0 }).wf = true ∧
    (Instr.laneRequestEval 7 { hdr := laneHdr 1, mask := 0, ops := 0 }).wf = false ∧
    (Instr.laneRequestFetch 0 (laneHdr 1)).wf = true ∧ (Instr.laneRequestFetch 0 (laneHdr 0)).wf = false := by decide +kernel

theorem test_wf_ops :
    ([.loadEntries .rest (opWord 1), .seal .rest (opWord 5), .preload .rest (opWord 6), .switch .rest 0x80000000,
      .drain .rest 0, .clear .rest 0x40000000, .adopt .rest 0x80000000, .flush .rest (opWord 4), .leave .rest (opWord 7),
      .disarm .rest (opWord 3), .force .rest (opWord 2), .restore .rest (opWord 2), .flip .rest (opWord 1)] : List Instr).all
      Instr.wf = true ∧
    ([.loadEntries .rest 0, .loadDesc .rest (opWord 1), .loadMap .rest (opWord 2), .loadCrz .rest (opWord 3),
      .seal .rest (opWord 4), .preload .rest (opWord 7), .switch .rest 0x7FFFFFFF, .drain .rest 0x40000000, .clear .rest 0,
      .adopt .rest 0xC0000000, .register .rest 0, .set .rest (opWord 1), .rewind .rest (opWord 2), .flush .rest (opWord 5),
      .checked .rest 0, .rollback .rest (opWord 1), .exportImg .rest (opWord 4), .prepare .rest (opWord 3), .fill .rest (opWord 6),
      .abort .rest (opWord 5), .leave .rest (opWord 8), .atStep .rest 0, .next .rest (opWord 1), .disarm .rest (opWord 4),
      .release .rest 0, .force .rest (opWord 1), .snap .rest 0, .restore .rest (opWord 1), .flip .rest 0] : List Instr).any
      Instr.wf = false := by decide +kernel

theorem test_wf_power :
    ([.pwrReqDormant .rest 0, .pwrReqResting .rest 2, .pwrReqReady .rest 3, .recallAck (.lane 7) 0, .recallAck .arrive 0, .recallAck .tree 0,
      .grant (frameTy 6), .wake (frameTy 5), .restRd (frameTy 1), .restWr (frameTy 2)] : List Instr).all Instr.wf = true ∧
    ([.pwrReqDormant .rest 1, .pwrReqResting .rest 3, .pwrReqReady .rest 2, .recallAck .rest 0, .grant (frameTy 5),
      .wake (frameTy 6), .restRd (frameTy 2), .restWr (frameTy 1)] : List Instr).any Instr.wf = false := by decide +kernel

theorem test_wf_messages :
    (Instr.portMessageAccepted (.p3 (hdrOf 1))).wf = true ∧ (Instr.portMessageAccepted (.p3 (hdrOf 6))).wf = false ∧
    (Instr.portMessageAccepted (.tree .p4 (treeMsg 3 31))).wf = false ∧
    (Instr.spadReadData 0 (some (List.replicate 16 0))).wf = true := by decide +kernel

/-- No row of the table gives bits, so no word spells a command. -/
theorem test_no_word (n w : Nat) : decodeTableWord n w = none := rfl

/-! ## Worked examples -/

/-- CRC-32C of the nine digits (the check value of R238's polynomial): 0xE3069283. -/
theorem test_crc32c : crc32c ([0x31, 0x32, 0x33, 0x34, 0x35, 0x36, 0x37, 0x38, 0x39] : List Byte) = 0xE3069283 := by decide +kernel

/-- Table 14.6: the capability registers of both variants. -/
theorem test_capabilities :
    (State.reset.regWord .glb 0x040, State.reset.regWord .glb 0x044) = (0x0000A03C, 0x10405206) ∧
    (({ State.reset with variant := .d4m } : State).regWord .glb 0x040,
      ({ State.reset with variant := .d4m } : State).regWord .glb 0x044) = (0x00006005, 0x080049E6) := by decide +kernel

/-- Table 14.4: instance 5, GLB and SCH. -/
theorem test_ident :
    ({ State.reset with inst := 5 } : State).regWord .glb 0 = 0xD4000501 ∧
    ({ State.reset with inst := 5 } : State).regWord .sch 0 = 0xD4200501 := by decide +kernel

/-- Table 14.4: in DORMANT a REST read of SCH is refused, and DL_PWR_DACC becomes 1. -/
theorem test_dormant_read :
    let s : State := { State.reset with pwr := { State.reset.pwr with st := .dormant } }
    (s.busRead (accessOf .rest .sch 0)).pwr.dacc = 1 ∧
    (s.busRead (accessOf .rest .sch 0)).out = [.rest (frameOf 3 0 0x8000 1 0xFFFFFFFF)] := by decide +kernel

/-- Table 3.10: four contended fc at weights 12 and 4. -/
theorem test_contended :
    let s := contendRun 0 4 State.reset
    s.2 = [true, true, false, true] ∧ (s.1.chn.pinnae.getD 0 {}).creditChn = 0 ∧ (s.1.chn.pinnae.getD 0 {}).creditLane = 0 ∧
    (((contendRun 0 3 State.reset).1.chn.pinnae.getD 0 {}).creditChn, ((contendRun 0 3 State.reset).1.chn.pinnae.getD 0 {}).creditLane)
      = (4, -4) := by decide +kernel

/-- Group 3 of Table 10.9 at a count of ITER. -/
def group3 (iter : Word) : SchGroup :=
  { snap := some [0x00000405, 0x3A000000, 0x38800000, 0, 2000, 100000, 0, iter] }

/-- Table 10.9: the warm-up, the start of the decay, and the clipped step size. -/
theorem test_warm_up : (group3 1000).conf.base = 0x39800000 ∧ fmul 0x39900000 0x3ECCCCCD = 0x38E66667 := by decide +kernel
theorem test_decay_start : (group3 2000).conf.base = 0x3A000000 := by decide +kernel
theorem test_decay_middle : (group3 52000).conf.base = 0x39900000 := by decide +kernel

/-- R43's example: 0x3E99999A bound for E4M3. -/
theorem test_stochastic :
    (Fmt.e4m3.round (.sr 0x30000000) false (f32 0x3E99999A)).code = 0x2A ∧
    (Fmt.e4m3.round (.sr 0xA0000000) false (f32 0x3E99999A)).code = 0x29 ∧
    (Fmt.e4m3.round .rne false (f32 0x3E99999A)).code = 0x2A := by decide +kernel

/-- R25's ties: 432 and 464 reach E4M3 as 448, 431 as 416, and 465 overflows to 448 with a saturation. -/
theorem test_e4m3_ties :
    [432, 464, 431, 465].map (fun n => let r := Fmt.e4m3.round .rne false (Val.ofNat n); (r.code, r.sat)) =
      [(0x7E, false), (0x7E, false), (0x7D, false), (0x7E, true)] := by decide +kernel

/-- R30's block: 2.75 and 2.5 in MXFP4. -/
theorem test_mxfp4 :
    let b := encodeMX .e2m1 2 (fun _ => .rne) ([.fin false 11 4, .fin false 5 2] ++ List.replicate 30 Val.zero)
    b.scale = 0x7E ∧ b.codes.take 2 = [7, 6] := by decide +kernel

/-- Table 2.11 at round 0 of KS-6: with a zero key and counter, x0 and x2 take the constants CA and CB. -/
theorem test_ks6_round :
    ks6Round 0 0 (0, 0, 0x5A6C31E7, 0) 0 (13, 19) =
      (0x8F1BBCDD, (0x5A6C31E7 : Word).rotateLeft 19, 0x5A6C31E7 + 0x6A3D9E45, 0) := by decide +kernel

/-- Table 16.4: the CTX_STALE record of instance 2. -/
theorem test_event_record :
    eventBytes 2 false { code := 0x39, page := .ctx, step := 57, fc := 1000004, tag := 0x0A17, a0 := 0x00330000,
                         a1 := 0x23000000, a2 := 128 } =
      [0x39, 0x42, 0x18, 0x00, 0x39, 0x00, 0x00, 0x00, 0x44, 0x42, 0x0F, 0x00, 0x00, 0x00, 0x17, 0x0A, 0x00, 0x00, 0x33, 0x00,
       0x00, 0x00, 0x00, 0x23, 0x80, 0x00, 0x00, 0x00, 0x00, 0x00, 0x00, 0x00] := by decide +kernel

/-- R112: word 3 of an empty record of generation 5. -/
theorem test_empty_word : (Rec.emptyOf 5).word3 = 0x15000000 := by decide +kernel

/-- Table 17.6: the D4K row record of blocks 0 and 1 to 7, byte for byte, at T = 2^-6. -/
theorem test_d4k_row :
    let y : List Int := [4, -2, 12, 24, -4, 4, -12, 2, 4, -4, 4, 2, -4, 4, -2, 4]
    let xs := y.map (fun i => (Val.ofInt i).mul (.fin false 1 8)) ++ List.replicate 112 Val.one
    let r := encodeRow 0xA (.fin false 1 64) (fun _ => .rne) false (List.replicate 128 true) xs
    r.cells.map (·.1) = List.range 84 ∧
    r.cells.map (·.2) = [0xA4, 0x07, 0x4C, 0x2F, 0xC4, 0x24, 0x4C, 0x4A]
      ++ (List.replicate 7 (0x70 :: List.replicate 7 0x77)).flatten ++ 0x58 :: List.replicate 7 0x53
      ++ 0x74 :: List.replicate 7 0x68 ++ [3, 0, 0, 0] := by decide +kernel

/-- Table 17.3: the capsule of ordinal 0, its fold into the empty context, and the merges of rows 0 and 1. -/
theorem test_capsules :
    let p := (partialOf false false false 0 0x40000000 (List.replicate 128 one32) true).rc
    let q := { p with max := 0xC3160000 }
    let ex : ExpFn := fun w => if w = 0 then one32 else 0
    let c := mergeMax false ex (Rec.emptyOf 0) p
    (p.max, p.sum, p.comp, p.word3) = (0x40000000, 0x43000000, 0, 0x00000080) ∧ c = p ∧
    ((mergeMax false ex c q).sum, (mergeMax false ex c q).word3) = (0x43000000, 0x00000100) ∧
    ((mergeMax false ex c p).sum, (mergeMax false ex c p).comp, (mergeMax false ex c p).word3) = (0x43800000, 0, 0x00000100) :=
  by decide +kernel

/-- Table 17.2: the fields of the CH_ATTN descriptor. -/
theorem test_descriptor :
    let d := parseChain [0x104C4000, 0x7F000000, 0x100, 0, 0, 0x00020000, 0, 0, 0, 0, 0, 0x3E000000, 0, 0, 0, 0x0B010101]
    (d.chain, d.grade, d.inFmt, d.outFmt, d.out2Fmt) = (1, 0, 1, 3, 1) ∧ (d.rows, d.declLen, d.ntiles, d.wsSlots) = (128, 256, 2, 1) ∧
    d.pv = true ∧ d.scope = 0 ∧ d.tag = 0x0B01 := by decide +kernel

/-- The merge factors of Table 17.3: EXP(+0) is 1.0 and EXP(-152) is +0 (R51). -/
theorem test_functions :
    State.reset.mergeExp 0 0 = one32 ∧ State.reset.mergeExp 0 0xC3180000 = 0 := by decide +kernel

/-! ## Witnesses: states and operands that meet the hypotheses of the statements, clause by clause -/

/-- Reset with another power state, and another way there. -/
def inPower (p : PwrState) (e : Entering := .none) : State :=
  { State.reset with pwr := { State.reset.pwr with st := p, entering := e } }
/-- Reset as Derlith-4M. -/
def small : State := { State.reset with variant := .d4m }
/-- Reset with the lock of every page set. -/
def locked : State := { State.reset with hdrs := List.replicate 20 { lock := true } }

theorem witness_step_takes_front :
    ({ State.reset with pending := [.grantExpiry] } : State).pending = [.grantExpiry] := rfl

theorem witness_empty_queue :
    ((inPower .dormant).pending = [] ∧ (inPower .dormant).fclkRuns = false) ∧
    (State.reset.pending = [] ∧ State.reset.fclkRuns = true ∧ State.reset.port.waits = []) := by decide +kernel

theorem witness_step_keeps_sound :
    State.reset.Inv ∧ ∃ t, step State.reset = .next t :=
  ⟨by constructor <;> decide +kernel, _, rfl⟩

theorem witness_happenings_keep_settings :
    (Instr.ballastHoldEnd).leavesSettings = true ∧ (∃ t, exec .ballastHoldEnd State.reset = .next t) ∧
    State.reset.serves (.core 15) .dbg := ⟨rfl, ⟨_, rfl⟩, by unfold State.serves; decide +kernel⟩

theorem witness_absent_unit :
    small.variant = .d4m ∧
    (accessOf .rest .sch 0xFFC).page = Page.sch.number ∧ small.refuses .rest Page.sch.number = false ∧
    (0x21FFF : BitVec 20).toNat / 4096 = Page.sen.number ∧ small.refuses (.core 3) Page.sen.number = false ∧
    (regAt .sen 0xFFC).page.toNat = Page.sen.number := by decide +kernel

theorem witness_absent_page_number :
    (∀ p : Page, p.number ≠ 5) ∧ (∀ p : Page, p.number ≠ 0xFF) ∧ State.reset.refuses .rest 5 = false ∧
    State.reset.refuses (.core 0) 0xFF = false ∧ (0xFF000 : BitVec 20).toNat / 4096 = 0xFF :=
  ⟨by intro p; cases p <;> decide, by intro p; cases p <;> decide, by decide +kernel, by decide +kernel, by decide⟩

theorem witness_width_fault :
    State.reset.serves (.core 3) .sch ∧ State.reset.serves .rest .sch ∧
    ((0x20042 : BitVec 20).toNat / 4096 = Page.sch.number ∧ (0x20042 : BitVec 20).toNat % 4 ≠ 0) ∧
    ({ regAt .sch 0x040 with bytes := 2 } : RegAddr).bytes ≠ 4 ∧ (regAt .sch 0x043).off.toNat % 4 ≠ 0 := by
  unfold State.serves; decide +kernel

theorem witness_refused_access :
    (inPower .dormant).inReset = false ∧ (inPower .dormant).pwr.st = .dormant ∧ (inPower .waking).pwr.st = .waking ∧
    ((accessOf .rest .port 0).rq ≠ .rest ∨ 3 < (accessOf .rest .port 0).page) ∧ (accessOf (.core 0) .glb 0).rq ≠ .rest ∧
    (inPower .dormant).hdrs.length = 20 ∧ Page.cal.alwaysOn = true ∧ Page.cal.number = 3 ∧ 0xFFC % 4 = 0 := by decide +kernel

theorem witness_lock_stays :
    (∃ t, exec .ballastHoldEnd locked = .next t ∧ t.inReset = false) ∧ (locked.hdr .dbg).lock = true ∧
    locked.serves .rest .cal ∧ locked.hdrs.length = 20 ∧ (0x7FFFFFFF : Word).getLsbD 31 = false :=
  ⟨⟨_, rfl, by decide +kernel⟩, by decide +kernel, by unfold State.serves; decide +kernel, by decide +kernel, by decide⟩

theorem witness_error_info :
    State.reset.hdrs.length = 20 ∧ (State.reset.hdr .dbg).err.cause = 0 ∧
    ((State.reset.recordFault .dbg .width .rest 5).hdr .dbg).err.cause ≠ 0 ∧ Page.glb ≠ Page.dbg ∧
    State.reset.serves (.core 0) .dbg := by unfold State.serves; decide +kernel

theorem witness_event_summary :
    State.reset.serves .rest .glb ∧ State.reset.hdrs.length = 20 ∧ 31 < 32 := by unfold State.serves; decide +kernel

/-- Reset with a captured half of every kind of pair that a REST read may name. -/
def captured : State :=
  { State.reset with pairs := { captured := [((.rest, .lifeCal), 7), ((.rest, .chnRefuse), 8)] } }

theorem witness_pair_reads :
    (∀ k : RdPair, State.reset.serves .rest (rdPairAt k).1) ∧ State.reset.serves .rest .num ∧ State.reset.serves .rest .crz ∧
    State.reset.serves .rest .cnt ∧ State.reset.shadowReady 1023 = true ∧ State.reset.serves .rest .chn ∧
    State.reset.serves .rest .arv ∧ pairAt .life 0x054 = some (.lifeCal, true) ∧ captured.serves .rest .life ∧
    lookupKey (Requester.rest, PairId.lifeCal) captured.pairs.captured = some 7 ∧
    lookupKey (Requester.rest, PairId.lifeCal) State.reset.pairs.captured = none ∧
    (Requester.core 0, PairId.lifeCal) ≠ (Requester.rest, PairId.lifeCal) := by
  refine ⟨by intro k; cases k <;> (unfold State.serves; decide +kernel), ?_⟩
  unfold State.serves; decide +kernel

theorem witness_pair_writes : ∀ k : WrPair, State.reset.serves (.core 1) (wrPairAt k).1 := by
  intro k; cases k <;> (unfold State.serves; decide +kernel)

/-- Reset with ten contexts, and the counters being copied. -/
def tenContexts : State := { State.reset with ctx := { State.reset.ctx with limit := 10, states := [(9, { gen := 3 })] } }
def copying : State := { State.reset with cnt := { State.reset.cnt with st := .copying, index := 1023 } }

theorem witness_reads_that_act :
    (∀ p : Page, State.reset.serves .rest p) ∧
    (lookupKey (Requester.rest, PairId.chnRefuse) State.reset.pairs.captured = none ∧
      lookupKey (Requester.rest, PairId.arvDrop) State.reset.pairs.captured = none) ∧
    State.reset.ctx.limit.toNat ≤ State.reset.ctx.query.toNat ∧
    (let s := { tenContexts with ctx := { tenContexts.ctx with query := 10 } }
     s.ctx.limit.toNat ≤ s.ctx.query.toNat ∧ State.refuses s .rest Page.ctx.number = false) ∧
    (let s := { tenContexts with ctx := { tenContexts.ctx with query := 9 } }
     s.ctx.query.toNat < s.ctx.limit.toNat ∧ State.ctxDrained s 9 = false ∧ State.refuses s .rest Page.ctx.number = false) ∧
    copying.cnt.st = .copying ∧ copying.fc ≤ copying.cnt.freezeFc + copying.cnt.index.toNat / 4 + 1 :=
  ⟨by intro p; cases p <;> (unfold State.serves; decide +kernel), by decide +kernel, by decide +kernel, by decide +kernel,
   by decide +kernel, by decide +kernel, by decide +kernel⟩

theorem witness_plain_registers :
    State.reset.serves .rest .pwr ∧ 1200 ≤ ((1200 : Word).extractLsb' 0 12).toNat ∧ ((2600 : Word).extractLsb' 0 12).toNat ≤ 2600 :=
  by unfold State.serves; decide +kernel

theorem witness_writes_read_back :
    (Page.eval, (0x040 : BitVec 12), (0x000000FF : Word)) ∈ rwRegisters ∧ State.reset.serves .rest .eval ∧ State.reset.hdrs.length = 20 :=
  by unfold State.serves; decide +kernel

theorem witness_status_writes : ∀ p : Page, State.reset.serves (.core 15) p := by
  intro p; cases p <;> (unfold State.serves; decide +kernel)

/-- A chain of a descriptor in slot 0, in a state of its own. -/
def desc : ChainDesc := parseChain [0x104C4000, 0x7F000000, 0x100, 0, 0, 0x00020000, 0, 0, 0, 0, 0, 0x3E000000, 0, 0, 0, 0x0B010101]
def chainOf (st : ChainSt) (admitNo : Nat) (d : ChainDesc := desc) : Chain :=
  { uid := 0, addr := 0x1000, d := d, st := st, admitNo := admitNo, live := List.replicate d.rows false, zs := List.replicate d.rows none }
def withChain (c : Chain) (s : State := State.reset) : State :=
  { s with chn := { s.chn with slots := s.chn.slots.set 0 (some c), nextUid := 1 } }

theorem witness_region_registers :
    State.reset.serves .rest .ctx ∧ State.reset.serves .rest .ten ∧ State.reset.serves .rest .tree ∧
    (0x800 : Word).toNat % 2048 = 0 ∧ (0x7FF : Word).toNat % 2048 ≠ 0 ∧
    (((1048576 : Word).extractLsb' 0 21).toNat % 128 = 0 ∧ ((1048576 : Word).extractLsb' 0 21).toNat ≤ State.reset.maxContexts) ∧
    State.reset.maxContexts < ((1048704 : Word).extractLsb' 0 21).toNat ∧ (0x1000 : Word).toNat % 4096 = 0 ∧
    (∀ c ∈ State.reset.chains, c.d.treeScoped = false) ∧
    (let s := withChain (chainOf .armed 0 { desc with scope := 1 })
     (∃ c ∈ State.chains s, c.d.treeScoped = true) ∧ State.refuses s .rest Page.tree.number = false) := by
  unfold State.serves; decide +kernel

theorem witness_log_registers :
    let s : State := { State.reset with log := { State.reset.log with en := true } }
    State.refuses s .rest Page.log.number = false ∧ s.log.en = true ∧ State.reset.serves .rest .log ∧ State.reset.log.en = false ∧
    (0xFFF : Word).toNat % 4096 ≠ 0 ∧ (0x1000000 : Word).toNat % 4096 = 0 ∧ (0x1000000 : Word).toNat ≤ 2 ^ 24 := by
  unfold State.serves; decide +kernel

theorem witness_image_registers :
    State.reset.serves .rest .img ∧
    (State.reset.chains = [] ∧ State.reset.tbl.cmd = none ∧ State.reset.ctx.cmdBusy = false ∧ State.reset.num.cmd = none ∧
      State.reset.img.cmd = none) ∧
    (withChain (chainOf .armed 0)).chains ≠ [] ∧ (0xFFF : Word).toNat % 4096 ≠ 0 ∧ (0 : Word).toNat % 4096 = 0 ∧
    State.reset.img.st = .normal ∧ ImgState.filling ≠ .normal ∧ ImgState.filling ≠ .awaiting ∧ (64 : Word).toNat % 64 = 0 ∧
    (63 : Word).toNat % 64 ≠ 0 := by unfold State.serves; decide +kernel

theorem witness_arbitration :
    State.reset.serves .rest .eval ∧ State.reset.serves .rest .port ∧ State.reset.chn.pinnae.length = 40 ∧
    (State.reset.chn.pinnae.getD 39 {}).creditChn = 0 ∧ (State.reset.chn.pinnae.getD 39 {}).creditLane = 0 := by
  unfold State.serves; decide +kernel

theorem witness_calibration :
    let s0 : State := { State.reset with cal := { State.reset.cal with loaded := false } }
    let put := fun (s : State) (o : Nat) (v : Word) => (s.cal.put o v).isSome
    (s0.cal.loaded = false ∧ put s0 0x050 600 = true) ∧ State.reset.serves .rest .cal ∧ State.reset.cal.loaded = true ∧
    (locked.hdr .cal).lock = true ∧ (State.reset.hdr .cal).lock = false ∧
    ((State.reset.cal.put 0x050 600).getD {}).guardsFall = false ∧ ((State.reset.cal.put 0x05C 600).getD {}).guardsFall = true ∧
    (small.variant = .d4m ∧ put small 0x0C0 1 = true ∧ put State.reset 0x0BC 1 = true) := by
  unfold State.serves; decide +kernel

/-- Reset with the debug page on, naming the last entry of a bank. -/
def debugging (space : BitVec 2) : State :=
  { State.reset with dbg := { en := true, space := space, index := 0x7FFF } }

theorem witness_debug_registers :
    State.reset.serves .rest .dbg ∧ State.reset.dbg.en = false ∧ (0x044 : BitVec 12).toNat % 4 = 0 ∧
    (debugging 2).serves .rest .dbg ∧ (debugging 2).dbg.en = true ∧ (debugging 1).dbg.space.toNat < 2 ∧
    (debugging 1).dbg.index.toNat < (debugging 1).bankEntries ∧ ((95 : Word).extractLsb' 0 7).toNat < 96 ∧
    (locked.hdr .dbg).lock = true ∧ locked.serves .rest .dbg ∧ (State.reset.hdr .dbg).lock = false := by
  unfold State.serves; decide +kernel

theorem witness_ram :
    (true, 5) ≠ ((false, 5) : Bool × Nat) ∧ State.reset.tbl.bank0.wf = true ∧ State.reset.tbl.bank1.wf = true := by decide +kernel

theorem witness_performs : ∀ p : Page, State.reset.performs .rest p ∧ State.reset.performs (.core 15) p := by
  intro p; cases p <;> (unfold State.performs; decide +kernel)

/-- Reset with the table unit changed. -/
def withTbl (f : TblUnit → TblUnit) : State := { State.reset with tbl := f State.reset.tbl }
/-- A chain admitted to the shadow bank. -/
def pinned : State := withChain { chainOf .admitted 1 with bank := true }

theorem witness_table_loads :
    (let s := withTbl (fun t => { t with loadSrc := 0x7FFFFFF0, loadFirst := 0x7FFF, loadCount := 1 })
     s.tbl.cmd = none ∧ s.bankPinned (!s.tbl.active) = false ∧ s.tbl.loadFirst.toNat + s.tbl.loadCount.toNat ≤ s.bankEntries ∧
     s.tbl.loadSrc.toNat % 16 = 0 ∧ s.tbl.loadSrc.toNat + 16 * s.tbl.loadCount.toNat ≤ 2 ^ 31) ∧
    State.reset.tbl.loadCount.toNat = 0 ∧ State.reset.tbl.cmd = none ∧ State.reset.bankPinned true = false := by decide +kernel

theorem witness_table_commands :
    (withTbl (fun t => { t with cmd := some { op := 1 } })).tbl.cmd.isSome = true ∧
    (pinned.tbl.cmd = none ∧ pinned.bankPinned (!pinned.tbl.active) = true) ∧
    (let s := withTbl (fun t => { t with loadFirst := 1024 }); s.tbl.cmd = none ∧ 1024 ≤ s.tbl.loadFirst.toNat) ∧
    (let s := withTbl (fun t => { t with loadFirst := 1023 }); s.tbl.loadFirst.toNat % 4 = 3) ∧
    (let s := withTbl (fun t => { t with loadFirst := 1022 })
     s.tbl.loadFirst.toNat < 1024 ∧ s.tbl.loadFirst.toNat % 4 ≠ 3 ∧
     mapKind ((s.tbl.bank s.tbl.active).mapWord s.tbl.loadFirst.toNat) = 0) ∧
    (let s := withTbl (fun t => { t with loadFirst := 0x04 })
     mapKind ((s.tbl.bank s.tbl.active).mapWord s.tbl.loadFirst.toNat) ≠ 0) := by decide +kernel

theorem witness_epoch_switch :
    (let s := withTbl (fun t => { t with switchPending := true })
     s.fclkRuns = true ∧ s.tbl.switchPending = true ∧ (s.tbl.bank (!s.tbl.active)).sealed = false) ∧
    (let s := withTbl (fun t => { t with switchPending := true, bank1 := { sealed := true, fault := true } })
     (s.tbl.bank (!s.tbl.active)).sealed = true ∧
     ((s.tbl.bank (!s.tbl.active)).quarantine || (s.tbl.bank (!s.tbl.active)).fault) = true) ∧
    (let s := withTbl (fun t => { t with switchPending := true, bank1 := { sealed := true } })
     (s.tbl.bank (!s.tbl.active)).sealed = true ∧
     ((s.tbl.bank (!s.tbl.active)).quarantine || (s.tbl.bank (!s.tbl.active)).fault) = false) := by decide +kernel

/-- Ten contexts, a command over some of them from context 0. -/
def ctxFor (n : BitVec 21) : State := { tenContexts with ctx := { tenContexts.ctx with drainCount := n } }

theorem witness_context_commands :
    ({ State.reset with ctx := { State.reset.ctx with cmdBusy := true } } : State).ctx.cmdBusy = true ∧
    (∀ n, (ctxFor n).fclkRuns = State.reset.fclkRuns) ∧
    ((ctxFor 11).ctx.cmdBusy = false ∧ (ctxFor 11).ctx.limit.toNat < 0 + (ctxFor 11).ctx.drainCount.toNat) ∧
    ((0 : Nat) + (ctxFor 0).ctx.drainCount.toNat ≤ (ctxFor 0).ctx.limit.toNat ∧ (ctxFor 0).ctx.drainCount.toNat = 0) ∧
    ((0 : Nat) + (ctxFor 10).ctx.drainCount.toNat ≤ (ctxFor 10).ctx.limit.toNat ∧ (ctxFor 10).ctx.drainCount.toNat ≠ 0) ∧
    (((0x80000000 : Word).extractLsb' 30 2).toNat = 2 ∧ ((0 : Word).extractLsb' 30 2).toNat ≠ 2 ∧ 0 ≤ 9 ∧ 9 < 0 + 10 ∧ 0 + 10 ≤ 10) :=
  ⟨rfl, fun _ => rfl, by decide +kernel, by decide +kernel, by decide +kernel, by decide +kernel⟩

theorem witness_registry_commands :
    ({ State.reset with num := { State.reset.num with cmd := some { rq := .rest, v := 0, op := 1, next := 0, left := 1 } } } : State).num.cmd.isSome
      = true ∧
    (let s : State := { State.reset with num := { State.reset.num with cmdCount := 65536 } }
     s.num.cmd = none ∧ 65536 < ((1 : Word).extractLsb' 0 16).toNat + s.num.cmdCount.toNat ∧
     ((0 : Word).extractLsb' 0 16).toNat + s.num.cmdCount.toNat ≤ 65536) ∧
    (let c : TenCmd := { rq := .rest, v := 0, op := 1, next := 5, left := 0, finished := true }
     let s : State := { State.reset with num := { State.reset.num with cmd := some c } }
     s.fclkRuns = true ∧ s.num.cmd = some c ∧ c.finished = true ∧ c.left = 0) := by decide +kernel

/-- Reset with the image unit changed. -/
def withImg (f : ImgUnit → ImgUnit) (s : State := State.reset) : State := { s with img := f s.img }
/-- Step 5 in progress, checked up to step 3, with one step retained. -/
def retaining (w : Word) : State :=
  withImg (fun i => { i with checked := 3, argStep := w, retained := [{ step := 4, seed := 0, groups := [] }] })
    { State.reset with step := 5 }

theorem witness_image_commands :
    (withImg (fun i => { i with cmd := some { op := 3 } })).img.cmd.isSome = true ∧
    (let s := withImg (fun i => { i with st := .awaiting }); s.img.cmd = none ∧ s.img.st ≠ .normal) ∧
    (stepBelow 2 (retaining 2).img.checked = true ∧ stepAbove 6 (retaining 6).step = true) ∧
    (stepBelow 3 (retaining 3).img.checked = false ∧ stepAbove 3 (retaining 3).step = false ∧
      stepBelow 5 (retaining 5).img.checked = false ∧ stepAbove 5 (retaining 5).step = false) ∧
    pinned.chains ≠ [] ∧
    ((retaining 4).chains = [] ∧ (retaining 4).tbl.cmd = none ∧ (retaining 4).ctx.cmdBusy = false ∧ (retaining 4).num.cmd = none) ∧
    (¬ ∃ c ∈ (retaining 5).img.retained, c.step = 5) ∧ (∃ c ∈ (retaining 4).img.retained, c.step = 4) ∧
    (stepAbove 4 (retaining 4).step = false ∧ stepAbove 4 (retaining 4).img.checked = true) ∧
    (State.reset.img.addr.toNat % 32 = 0 ∧ 4096 ≤ State.reset.img.frag.toNat ∧ State.reset.img.frag.toNat ≤ 1048576 ∧
      State.reset.img.frag.toNat = 2 ^ Nat.log2 State.reset.img.frag.toNat) ∧
    ((4097 : Nat) ≠ 2 ^ Nat.log2 4097 ∧ (31 : Nat) % 32 ≠ 0) ∧ tenContexts.ctxOpen ≠ 0 ∧ State.reset.ctxOpen = 0 ∧
    (let s := withImg (fun i => { i with st := .applying }); s.img.cmd = none ∧ s.img.st = .applying) ∧
    (withImg (fun i => { i with st := .resumable })).img.st = .resumable ∧
    (withImg (fun i => { i with st := .filling })).img.st = .filling := by decide +kernel

theorem witness_commands_end :
    (let c : TblCmd := { op := 5, finished := true }
     let s := withTbl (fun t => { t with cmd := some c })
     s.fclkRuns = true ∧ s.tbl.cmd = some c ∧ c.op ≤ 5 ∧ c.finished = true ∧ c.code = 0) ∧
    (let c : TblCmd := { op := 4, code := 6, finished := true }; c.op ≠ 5 ∧ c.op ≤ 5 ∧ c.finished = true) ∧
    (let c : CtxCmd := { v := 0, op := 0, gen := 0, first := 0, count := 1, code := 3, finished := true }
     let s : State := { State.reset with ctx := { State.reset.ctx with cmd := some c } }
     s.fclkRuns = true ∧ s.ctx.cmd = some c ∧ c.finished = true) ∧
    (let c : ImgCmd := { op := 1, finished := true }
     let s := withImg (fun i => { i with cmd := some c })
     s.fclkRuns = true ∧ s.img.cmd = some c ∧ c.finished = true) ∧
    (let c : ImgCmd := { op := 3, step := 4 }
     let s := withImg (fun i => { i with cmd := some c }) (withChain { chainOf .admitted 1 with step := 4 })
     s.fclkRuns = true ∧ s.img.cmd = some c ∧ c.op = 3 ∧ c.stage = 0 ∧ c.finished = false ∧
     (∀ h ∈ s.chains, h.admitted = true → stepBelow h.step c.step = false) ∧
     (∀ w ∈ s.num.windows, w.closable = true → stepBelow w.step c.step = false)) := by decide +kernel

/-- A fill of one fragment whose copy is made, and one whose image is being checked. -/
def filled (i : ImgUnit) : ImgUnit := { i with st := .filling, count := 1, accepted := [0], copied := [0] }
def badImage : State := withImg (fun i => { filled i with checking := true, checkData := true, staged := [1] })

/-- A Derlith-4M that has read back a whole image of step 4. -/
def goodImage : State :=
  let s : State := { small with img := { small.img with retained := [{ step := 4, seed := 0, groups := small.sch.copyWords }] } }
  let bytes := s.imageBytes { op := 3, step := 4 }
  withImg (fun i => { filled i with
    checking := true, checkData := true, staged := bytes, stagedEnd := bytes.length, fillStep := 4 }) s

theorem witness_image_checks :
    goodImage.img.allCopied = true ∧ goodImage.img.checking = true ∧ goodImage.img.checkData = true ∧
    goodImage.imageFault goodImage.img.staged = 0 := by decide +kernel

theorem witness_image_fill :
    (let f : FragIn := { addr := 0, copying := some 0, copied := true }
     let s := withImg (fun i => { i with st := .filling, count := 1, accepted := [0], fragQ := [f] })
     s.fclkRuns = true ∧ s.img.fragQ = [f] ∧ f.copying = some 0 ∧ f.copied = true ∧ 0 ∈ s.img.accepted) ∧
    (let s := withImg filled; s.img.allCopied = true ∧ s.img.checking = false) ∧
    (badImage.img.allCopied = true ∧ badImage.img.checking = true ∧ badImage.img.checkData = true ∧
      badImage.imageFault badImage.img.staged ≠ 0) ∧
    (let s := withImg (fun i => { i with st := .applying, applyLeft := [], fillStep := 7 })
     s.fclkRuns = true ∧ s.img.st = .applying ∧ s.img.applyLeft = [] ∧ (∀ w ∈ s.p0.writes, w.tag ≠ .imgApply) ∧ s.img.tokens = [] ∧
     s.tree.held = []) := by decide +kernel

/-- Reset with the counters in a state of the freeze. -/
def counting (st : CntState) : State := { State.reset with cnt := { State.reset.cnt with st := st } }

theorem witness_counter_freeze :
    State.reset.cnt.st = .idle ∧ (counting .frozen).cnt.st = .frozen ∧ (counting (.armed (some 4) true)).cnt.st = .armed (some 4) true ∧
    (counting .copying).cnt.st = .copying ∧ (counting .copying).fclkRuns = true ∧
    (some (4 : Word) = some 4) ∧ stepAbove 5 4 = true ∧ (some (4 : Word) ≠ none ∧ some (4 : Word) ≠ some 3 ∧ stepAbove 3 4 = false) := by
  decide +kernel

/-- Reset with groups that are held with an η formed, or without. -/
def heldGroups (formed : Option Word) : State :=
  { State.reset with sch := { State.reset.sch with groups := State.reset.sch.groups.map (fun g => { g with
      gstat := 0x10000000, formed := formed }) } }
/-- Reset with group 0 snapshotted: its CFG, and the φ that has come. -/
def windowed (cfg : Word) (phi : Option Word) : State :=
  { State.reset with sch := { State.reset.sch with groups := State.reset.sch.groups.set 0 {
      snap := some [cfg, 0x3A000000, 0x38800000, 0, 2000, 100000, 0, 1000], phi := phi } } }

theorem witness_schedule_engine :
    State.reset.sch.groups.length = 64 ∧
    (let s := heldGroups (some one32)
     s.sch.groups.length = 64 ∧ ∀ k, k < 64 → ((s.group k).held && (false || (s.group k).formed.isSome)) = true) ∧
    (let s := heldGroups none
     ((s.group 63).held && (false || (s.group 63).formed.isSome)) = false ∧ ((0x3F : Word).extractLsb' 0 6).toNat = 63) ∧
    (let ok := fun (s : State) => s.fclkRuns && (s.group 0).snap.isSome && !(s.group 0).ready && !(s.group 0).held &&
       (s.group 0).etab.isNone && !(s.group 0).waitClip
     ok (windowed 0x00000003 none) = true ∧ ((windowed 0x00000003 none).group 0).conf.bad = true ∧
     ok (windowed 0x00000005 none) = true ∧
     (let c := ((windowed 0x00000005 none).group 0).conf; c.bad = false ∧ c.clip = 0 ∧ c.check = false) ∧
     ok (windowed 0x00040005 none) = true ∧
     (let c := ((windowed 0x00040005 none).group 0).conf; c.bad = false ∧ c.clip = 0 ∧ c.check = true) ∧
     ok (windowed 0x00000405 none) = true ∧
     (let c := ((windowed 0x00000405 none).group 0).conf; c.bad = false ∧ c.clip ≠ 0 ∧ c.check = false) ∧
     ok (windowed 0x00040405 (some 0x3ECCCCCD)) = true ∧ nonFin32 0x3ECCCCCD = false ∧
     ((windowed 0x00040405 (some 0x3ECCCCCD)).group 0).conf.check = true ∧
     ok (windowed 0x00000405 (some nan32)) = true ∧ nonFin32 nan32 = true) := by decide +kernel

/-- Reset with the lifetime unit busy, and arguments. -/
def living (op : Nat) (args : List Word) : State :=
  { State.reset with life := { State.reset.life with busy := some op, args := args } }
/-- A lifetime record of a Derlith-4 that counts nothing but its header, as a RESTORE reads it. -/
def lifeArgs : List Word :=
  let tail := [0x00000001] ++ List.replicate 61 (0 : Word)
  0x444C4C52 :: BitVec.ofNat 32 (crc32c (tail.flatMap wordBytes)).toNat :: tail

theorem witness_lifetime :
    State.reset.serves .rest .life ∧ State.reset.life.busy = none ∧ (living 1 []).life.busy.isSome = true ∧
    (living 1 []).serves .rest .life ∧ State.reset.inReset = false ∧ (living 1 []).life.busy = some 1 ∧
    (living 2 []).life.busy = some 2 ∧ fieldAt ([] : List Byte) 0 4 ≠ 0x444C4C52 ∧
    (let bytes := lifeArgs.flatMap wordBytes
     (living 2 lifeArgs).life.seeded = false ∧ fieldAt bytes 0 4 = 0x444C4C52 ∧
     fieldAt bytes 4 4 = (crc32c (bytes.drop 8)).toNat ∧ fieldAt bytes 8 2 = 1 ∧ fieldAt bytes 10 1 = 0) := by
  unfold State.serves; decide +kernel

/-! ### Chains and messages -/

/-- Reset with submissions in the queue. -/
def queued (q : List Submission) : State := { State.reset with chn := { State.reset.chn with queue := q } }
/-- The bytes of the descriptor of Table 17.2, and with its reserved chain 0. -/
def descBytes (w0 : Word) : List Byte :=
  ([w0, 0x7F000000, 0x100, 0, 0, 0x00020000, 0, 0, 0, 0, 0, 0x3E000000, 0, 0, 0, 0x0B010101] : List Word).flatMap wordBytes
/-- A CH_ELEM descriptor of one row and one tile, from 0x4000 to 0x8000: SIGMOID, FP32 to FP32. -/
def elemDesc : List Byte :=
  ([0x40000008, 0, 128, 0, 0, 0x00010000, 0x8000, 0, 0x00080000, 0, 0, 0, 0, 0, 0xF000, 0x00010000] : List Word).flatMap wordBytes

theorem witness_submit_and_cancel :
    (withImg (fun i => { i with st := .awaiting })).img.st ≠ .normal ∧ State.reset.img.st = .normal ∧
    16 ≤ (queued (List.replicate 16 { addr := 0 })).chn.queue.length ∧ (queued []).chn.queue = [] ∧
    ((0x7FFFFFC0 : Word).toNat % 64 = 0 ∧ (0x7FFFFFC0 : Word).toNat + 64 ≤ 2 ^ 31) ∧
    ((0x7FFFFFC1 : Word).toNat % 64 ≠ 0 ∧ 2 ^ 31 < (0x80000000 : Word).toNat + 64) ∧
    ((queued (List.replicate 15 { addr := 0, reading := true })).chn.queue.length < 16) ∧
    State.reset.chainAt 0x1000 = none ∧ (withChain (chainOf .armed 0)).chainAt 0x1000 = some (chainOf .armed 0) ∧
    State.reset.fclkRuns = true ∧
    (let q : Submission := { addr := 0x1000, data := some none }
     (queued [q]).chn.queue = [q] ∧ q.data = some none ∧ q.addr.toNat % 64 = 0 ∧ q.addr.toNat + 64 ≤ 2 ^ 31) ∧
    (let q : Submission := { addr := 0x1000, reading := true }; q.data = none ∧ q.reading = true) ∧
    (let d := parseChain (wordsOf 16 (descBytes 0x004C4000)); State.reset.submissionCode 0x1000 d ≠ 0 ∧ d.doneAddr % 8 = 0) ∧
    (State.reset.submissionCode 0x1000 (parseChain (wordsOf 16 elemDesc)) = 0 ∧
      State.reset.chn.slots.findIdx? (·.isNone) = some 0) := by decide +kernel

/-- Reset with a P3 queue. -/
def arrived (q : List (Bool × PortMsg)) (s : State := State.reset) : State := { s with port := { s.port with p3 := q } }
/-- Reset with the words of DL_ARV_RING below the last. -/
def ringing (w0 : Word) : State := { State.reset with chn := { State.reset.chn with ring := [w0, 0, 0] } }

theorem witness_ingress :
    (hType (BitVec.ofNat 128 0x40000000) = 4 ∧ hType (BitVec.ofNat 128 0x10000000) = 1) ∧
    (let s := arrived (List.replicate 32 (false, .p3 (hdrOf 1)))
     classPlaces (.p3 (hdrOf 1)) ≤ s.placesUsed (p3HeaderClass (hdrOf 1)) 0) ∧
    (let s := arrived (List.replicate 31 (false, .p3 (hdrOf 1)))
     s.placesUsed (p3HeaderClass (hdrOf 1)) 0 < classPlaces (.p3 (hdrOf 1))) ∧
    (State.reset.inReset = false ∧ State.reset.port.inited = true ∧ State.reset.port.recallSt.running = false) ∧
    msgClass (.p3 (hdrOf 1)) = some (3, p3HeaderClass (hdrOf 1), 0) ∧ (msgClass (.lane 7 { hdr := 0, mask := 0, ops := 0 })).isSome = true ∧
    ({ State.reset with inReset := true } : State).inReset = true ∧
    ({ State.reset with port := { State.reset.port with inited := false } } : State).port.recallSt.done = false := by decide +kernel

/-- A check message of id 0x10 from child 1 of level 1 of the instance tree. -/
def checkMsg : TreeMsg := { hdr := BitVec.ofNat 256 (3 + 1 * 2 ^ 8 + 1 * 2 ^ 12 + 0x10 * 2 ^ 24 + 0xFFFFFFFF * 2 ^ 32), payload := List.replicate 32 0 }
/-- Reset with that message at the head of P4, beside a check. -/
def checking (c : CheckSt) : State :=
  { State.reset with port := { State.reset.port with p4 := [checkMsg] }, tree := { State.reset.tree with checks := [c], imask := 1 } }
def gathered : CheckSt :=
  { id := 0x10, step := 0xFFFFFFFF, scope := 1, ops := [((false, 1, 1), (0, 0))] }

theorem witness_tree_checks :
    (let s : State := { State.reset with tree := { State.reset.tree with fwBusy := true } }; s.tree.fwBusy = true) ∧
    (State.reset.scopeConfigured 1 = false ∧ ((0x110 : Word).extractLsb' 8 2).toNat = 1) ∧
    (((0x10F : Word).extractLsb' 0 8).toNat < 0x10 ∨ ((0x00F : Word).extractLsb' 0 8).toNat < 0x10) ∧
    (let s := checking { gathered with ops := [] }
     s.scopeConfigured 1 = true ∧ s.tree.fwBusy = false ∧ ((0x110 : Word).extractLsb' 0 8).toNat = 0x10 ∧
     ∀ c ∈ s.tree.checks, ¬ (c.id = 0x10 ∧ c.step = s.step ∧ c.own.isSome = true)) ∧
    treeFront (checking gathered) .p4 checkMsg ∧ TreeMsgF.child checkMsg ≠ 0 ∧
    (checking gathered).checkOf (TreeMsgF.checkId checkMsg) (TreeMsgF.step checkMsg) = some gathered ∧
    (∃ o ∈ gathered.ops, o.1 = (TreeMsgF.tree checkMsg, TreeMsgF.level checkMsg, TreeMsgF.child checkMsg)) ∧
    (gathered.own = none ∧ ∀ o ∈ ({ gathered with ops := [] } : CheckSt).ops, o.1 ≠ (false, 1, 1)) ∧
    (let c : CheckSt := { gathered with own := some 7, ops := [] }
     c.own = some 7 ∧ c.sent = false ∧ (checking c).operands c.scope = []) := by unfold treeFront; decide +kernel

theorem witness_power_requests :
    (∀ p : PwrState, p ≠ .dormant → p ≠ .waking → (inPower p).serves .rest .pwr) ∧ (inPower .dormant).serves .rest .pwr ∧
    (inPower .waking).serves .rest .pwr ∧
    (State.reset.pwr.st = .ready ∧ State.reset.occupied = false ∧ (queued [{ addr := 0 }]).occupied = true) ∧
    (let s := inPower .resting; s.pwr.st = .resting ∧ s.pwr.rising = false ∧ s.occupied = false) ∧
    (let s := inPower .resting; ({ s with pwr := { s.pwr with rising := true } } : State).pwr.rising = true) ∧
    (inPower .entering .toResting).pwr.entering = .toResting ∧
    (inPower .entering (.toDormant false false)).pwr.entering = .toDormant false false ∧
    (inPower .entering (.toDormant true false)).pwr.entering = .toDormant true false ∧
    (inPower .entering (.toDormant false true)).pwr.entering = .toDormant false true ∧
    (let s : State := { State.reset with pwr := { State.reset.pwr with idleRest := 1 } }
     s.isReady = true ∧ s.pwr.idleRest ≠ 0 ∧ s.itemReady = false ∧ s.chn.flights = []) := by
  refine ⟨?_, ?_⟩
  · intro p h1 h2; cases p <;> simp at h1 h2 <;> (unfold State.serves; decide +kernel)
  · unfold State.serves; decide +kernel

/-- On the way to Dormant, with a recall whose waiting classes are given. -/
def recalling (waiting : List (Nat × Nat)) (late : Option Bool := none) : State :=
  let s := inPower .entering (.toDormant false true)
  { s with port := { s.port with recallSt := { waiting := waiting, running := true } }, pwr := { s.pwr with lateWake := late } }

theorem witness_power_entries :
    (let s := inPower .entering .toResting
     s.pwr.st = .entering ∧ s.inReset = false ∧ s.pwr.entering = .toResting ∧ s.itemReady = false ∧ s.chn.flights = [] ∧
     s.commandBusy = false ∧ s.p0.reads = [] ∧ s.p0.writes = [] ∧ s.port.p3 = [] ∧ s.port.p1 = [] ∧ s.port.p4 = []) ∧
    (let s := inPower .entering (.toDormant true false)
     s.pwr.entering = .toDormant true false ∧ s.p0.writes = [] ∧ s.occupied = false) ∧
    (let s := { inPower .entering (.toDormant true false) with chn := (queued [{ addr := 0 }]).chn }; State.occupied s = true) ∧
    (cwClass 0x48000000 = 8 ∧ cwOp 0x48000000 = 4 ∧ (8, cwStream 0x48000000) ∈ (recalling [(8, 0)]).port.recallSt.waiting) ∧
    (cwClass 0x40000000 = 0 ∧ (recalling [(8, 0), (0, 7)]).port.recallSt.waiting.find? (fun q => q.1 == 0) = some (0, 7)) ∧
    (let s := recalling []
     s.pwr.entering = .toDormant false true ∧ s.port.recallSt.running = true ∧ s.port.recallSt.waiting = [] ∧ s.port.p3 = [] ∧
     s.port.p1 = [] ∧ s.port.p4 = [] ∧ s.p0.reads = [] ∧ s.p0.writes = [] ∧ s.lanesBusy = false ∧ s.pwr.lateWake = none) ∧
    (recalling [] (some true)).pwr.lateWake = some true := by decide +kernel

/-- DORMANT with a wake that waits. -/
def waking (loaded ok : Bool) : State :=
  let s := inPower .dormant
  { s with pwr := { s.pwr with wakeHeld := true, vddOk := ok }, cal := { s.cal with loaded := loaded } }

theorem witness_power_exits :
    State.reset.pwr.st ≠ .dormant ∧
    ((waking true false).inReset = false ∧ (waking true false).pwr.st = .dormant ∧ (waking true false).pwr.wakeHeld = true ∧
      (waking true false).cal.loaded = true) ∧
    ((inPower .waking).pwr.st = .waking ∧ (inPower .waking).pwr.vddOk = true) ∧
    (let s := inPower .resting
     let t : State := { s with pwr := { s.pwr with rising := true } }
     t.inReset = false ∧ t.pwr.st = .resting ∧ t.pwr.rising = true) ∧
    (waking false true).cal.loaded = false ∧ (waking true true).pwr.vddOk = true := by decide +kernel

/-- Reset in a guard band, or with a grant. -/
def drooping (b : Nat) : State := { State.reset with pwr := { State.reset.pwr with guardBand := b } }
def granted (n : Nat) : State :=
  { State.reset with pwr := { State.reset.pwr with grant := some { id := 1, rate := 16, duration := n } } }

/-- Reset with E fixed `e` sixteenths of an ampere from the end of the plan on, and the value last sent. -/
def planned (e sent : Nat) : State :=
  { State.reset with env := { plan := List.replicate 256 0 ++ [e * 65536] }, pwr := { State.reset.pwr with lastSent := BitVec.ofNat 10 sent } }

theorem witness_supply_and_grants :
    State.reset.fclkRuns = true ∧
    (let b := fun (mV : Nat) => (State.reset.cal.guard.map (fun g => decide (mV < g.toNat)))
     b 640 = [false, false, false, false] ∧ b 639 = [true, false, false, false] ∧ b 589 = [true, true, true, true]) ∧
    (drooping 4).pwr.guardBand = 4 ∧
    (let f := frameOf 6 0 0 0 0; frameGood f = true ∧ frameType f = 6 ∧ (frameData f).extractLsb' 24 8 = 0) ∧
    (let f := frameOf 6 0 0 0 0x01A10001; frameGood f = true ∧ frameType f = 6 ∧ (frameData f).extractLsb' 24 8 ≠ 0) ∧
    (State.reset.pwr.grant = none ∧ (granted 0).pwr.grant.isSome = true ∧ (granted 1).pwr.grant = some ⟨1, 16, 1⟩) ∧
    (let diff := fun (s : State) => let a := s.env.plan.getLastD 0 / 65536
       if a < s.pwr.lastSent.toNat then s.pwr.lastSent.toNat - a else a - s.pwr.lastSent.toNat
     let s := planned 1 0
     (¬ s.pwr.deadband.toNat ≤ diff s ∧ s.pwr.st = .ready ∧ ¬ 16 ≤ s.pwr.slots + 1) ∧
     (planned 4 0).pwr.deadband.toNat ≤ diff (planned 4 0) ∧ (planned 0 4).pwr.deadband.toNat ≤ diff (planned 0 4) ∧
     16 ≤ ({ s with pwr := { s.pwr with slots := 15 } } : State).pwr.slots + 1) := by decide +kernel

/-- Reset with REST reads that wait. -/
def waitingReads (n : Nat) : State :=
  { State.reset with port := { State.reset.port with
      waits := (List.range n).map (fun k => { rq := .rest, frame := frameOf 1 k 0 0 0, shadow := true }) } }

theorem witness_frames_and_credits :
    (let bad := frameOf 1 5 0x10 0 0 ^^^ 1; bad.extractLsb' 0 8 ≠ frameCrc (bad.extractLsb' 8 72)) ∧
    (let f := fun (ty seq : Nat) => frameOf ty seq 0x10 0 3
     (∀ ty, ty < 16 → (f ty 5).extractLsb' 0 8 = frameCrc ((f ty 5).extractLsb' 8 72)) ∧
     ((f 1 0).extractLsb' 76 4).toNat = 1 ∧ ((f 2 0).extractLsb' 76 4).toNat = 2 ∧ ((f 5 0).extractLsb' 76 4).toNat = 5 ∧
     ((f 15 0).extractLsb' 76 4).toNat = 15 ∧ (f 5 0).extractLsb' 8 2 = 3 ∧ (frameOf 5 0 0 0 2).extractLsb' 8 2 = 2 ∧
     (∃ w ∈ (waitingReads 1).port.waits, frameSeq w.frame = ((f 1 0).extractLsb' 72 4).toNat) ∧
     (¬ ∃ w ∈ (waitingReads 4).port.waits, frameSeq w.frame = ((f 1 4).extractLsb' 72 4).toNat) ∧
     4 ≤ ((waitingReads 4).port.waits.filter (fun w => decide (w.rq = .rest))).length ∧
     ((waitingReads 3).port.waits.filter (fun w => decide (w.rq = .rest))).length < 4) ∧
    State.reset.inReset = false ∧
    (((0x08000000 : Word).extractLsb' 28 4).toNat = 0 ∧ ((0x50000000 : Word).extractLsb' 28 4).toNat = 5 ∧
      ((0x19000000 : Word).extractLsb' 24 4).toNat = 9 ∧ ((0x13000100 : Word).extractLsb' 24 4).toNat = 3 ∧
      ((0x38000000 : Word).extractLsb' 24 4).toNat = 8) := by decide +kernel

theorem witness_resets :
    State.reset.hdrs.length = 20 ∧ State.reset.serves .rest .glb ∧ (0xA4 : Word) ≠ 0xA5 ∧
    (let s : State := { State.reset with inReset := true }; s.inReset = true ∧ s.resetCause ≠ 0 ∧ s.pwr.vddOk = true) ∧
    (let s : State := { State.reset with inReset := true, resetCause := 0 }; s.inReset = true ∧ s.resetCause = 0) := by
  unfold State.serves; decide +kernel

/-- Reset with an event ring of two slots, and held events. -/
def ringOn (wr : Word) (mask : Word) (held : List Event) : State :=
  { State.reset with log := { State.reset.log with
      en := true, base := 0x1000, size := 64, wr := wr, mask := mask :: List.replicate 7 0, held := held } }
def anEvent : Event := { code := 1, page := .arv, step := 0, fc := 0 }

theorem witness_event_ring :
    ((inPower .resting).p0Usable = false ∧ (inPower .resting).log.held.length < 16) ∧
    (let s : State := { inPower .resting with log := { State.reset.log with held := List.replicate 16 anEvent } }
     s.p0Usable = false ∧ 16 ≤ s.log.held.length) ∧
    ((ringOn 0 0 []).p0Usable = true ∧ (ringOn 0 0 []).log.held = [] ∧ (ringOn 0 0 []).log.pend = [] ∧
      (ringOn 0 0 []).log.writing = false ∧ (ringOn 0 2 []).log.masked 1 = true ∧ (ringOn 0 0 []).log.masked 1 = false) ∧
    ((ringOn 1 0 []).log.en = true ∧ (ringOn 1 0 []).log.slots ≠ 0 ∧
      ((ringOn 1 0 []).log.wr - (ringOn 1 0 []).log.rd).toNat ≠ (ringOn 1 0 []).log.slots) ∧
    ((ringOn 2 0 []).log.wr - (ringOn 2 0 []).log.rd).toNat = (ringOn 2 0 []).log.slots ∧
    (State.reset.log.water = 0 ∧ State.reset.log.en = false) ∧
    (let s := ringOn 0 0 [anEvent]
     s.inReset = false ∧ s.pwr.st = .ready ∧ s.log.en = true ∧ s.log.slots ≠ 0 ∧ s.log.held ≠ []) := by decide +kernel

/-- A doorbell for the chain at 0x1000. -/
def bell (kind ord ctx : Nat) : Header := BitVec.ofNat 128 (2 ^ 28 + kind * 2 ^ 25 + ctx + ord * 2 ^ 48 + 0x1000 * 2 ^ 96)
/-- A chain in slot 0, and a doorbell at the head of P3. -/
def rung (c : Chain) (h : Header) : State := arrived [(false, .p3 h)] (withChain c)
def elemChain (st : ChainSt) (admitNo : Nat) (func : Nat := 8) : Chain :=
  chainOf st admitNo { parseChain (wordsOf 16 elemDesc) with func := func }

theorem witness_doorbells :
    (let s := arrived [(true, .p3 (bell 0 0 0))]
     s.takes = true ∧ s.port.p3.head? = some (true, .p3 (bell 0 0 0)) ∧ s.chainAt ((bell 0 0 0).extractLsb' 96 32) = none) ∧
    (let c := chainOf (.ending 0x12) 0
     (rung c (bell 0 0 0)).chainAt 0x1000 = some c ∧ c.running = false) ∧
    (let c := chainOf .admitted 1
     let h := bell 0 2 0
     (rung c h).takes = true ∧ (rung c h).port.p3.head? = some (false, .p3 h) ∧ (rung c h).chainAt (h.extractLsb' 96 32) = some c ∧
     c.running = true ∧ c.d.ntiles ≤ (h.extractLsb' 48 16).toNat) ∧
    (let c := { chainOf .admitted 1 with arrivals := [{ kind := false, ord := 1, addr := 0, itid := 0, rows := none }] }
     ¬ c.d.ntiles ≤ 1 ∧ (c.arrival false 1).isSome = true) ∧
    (let c := chainOf .admitted 1
     ((bell 0 1 1).extractLsb' 0 20).toNat ≠ c.d.ctxFirst ∧ c.d.hasStat = true ∧ (c.arrival false 1).isSome = false) ∧
    (let c := chainOf .admitted 1
     c.admitted = true ∧ (c.d.hasStat && !(bell 0 1 0).getLsbD 25) = true ∧ (c.d.hasStat && !(bell 1 1 0).getLsbD 25) = false ∧
     c.d.usesKind1 = true ∧ ((bell 0 1 0).extractLsb' 0 20).toNat = c.d.ctxFirst ∧ (bell 0 1 0).extractLsb' 20 4 = c.d.gen) ∧
    (let c := elemChain .armed 0
     let s := rung c (bell 0 0 0)
     let u := p3Taken s (bell 0 0 0) false
     c.admitted = false ∧ ((u.admitChain c).chainOf c.uid).map Chain.running = some true) ∧
    (let c := elemChain .armed 0 0xFF
     let u := p3Taken (rung c (bell 0 0 0)) (bell 0 0 0) false
     (u.admissionCode c.d).1 ≠ 0 ∧ ((u.admitChain c).chainOf c.uid).map Chain.running = some false) := by decide +kernel

/-- A step token of a step. -/
def token (w : Nat) : Header := BitVec.ofNat 128 (2 * 2 ^ 28 + w * 2 ^ 32)
/-- A chip-tree message of level 1, child 1, from REMOTE, and the doorbell of its tile. -/
def remoteUp : HeldMsg :=
  { down := false, tree := true, level := 1, child := 1, step := 7, ctx := 0, gen := 0, recs := [], remote := true }
def tileBell : Header := BitVec.ofNat 128 (5 * 2 ^ 28 + 1 * 2 ^ 32 + 1 * 2 ^ 36 + 7 * 2 ^ 96)

theorem witness_control_messages :
    (let s := arrived [(false, .p3 (token 0xFFFFFFFF))]
     s.takes = true ∧ s.port.p3.head? = some (false, .p3 (token 0xFFFFFFFF)) ∧ s.img.st = .normal ∧ s.rollingBack = false ∧
     (token 0xFFFFFFFF).extractLsb' 32 32 = s.step) ∧
    ((token 3).extractLsb' 32 32 ≠ State.reset.step ∧ State.reset.img.expect = none ∧
      (withImg (fun i => { i with expect := some 3 })).img.expect = some 3) ∧
    (withImg (fun i => { i with cmd := some { op := 2 } })).rollingBack = true ∧
    (withImg (fun i => { i with st := .applying })).img.st = .applying ∧ (withImg (fun i => { i with st := .filling })).img.st = .filling ∧
    (let s := withImg (fun i => { i with st := .resumable, fillStep := 3 })
     s.img.st = .resumable ∧ (token 3).extractLsb' 32 32 = s.img.fillStep ∧ (token 4).extractLsb' 32 32 ≠ s.img.fillStep) ∧
    (let s : State := { State.reset with tree := { State.reset.tree with held := [remoteUp] } }
     s.tree.held.find? (fun m => m.stage == 0 && m.remote && !m.tile && m.key == treeTileKey tileBell) = some remoteUp) := by
  decide +kernel

/-- An UP message on P4, and the node of a tree-scoped chain. -/
def upMsg : TreeMsg := { hdr := BitVec.ofNat 256 (1 + 2 ^ 8 + 2 ^ 12), payload := List.replicate 2048 0 }
def treeDesc : ChainDesc := { desc with scope := 2, opt := 0 }
def local7 : HeldMsg := { remoteUp with remote := false, tree := false }
/-- A chain in the tree whose leaf is formed; configured as the lower, then as the higher, of two instances. -/
def nodeChain : Chain := { chainOf .admitted 1 treeDesc with step := 7, leaf := true }
def inTree (inst : BitVec 8) (imask : BitVec 16) (held : List HeldMsg) (used : List MsgKey := []) : State :=
  let s := withChain nodeChain
  { s with inst := inst, tree := { s.tree with imask := imask, valid := true, held := held, used := used } }

theorem witness_tree_messages :
    treeFront { State.reset with port := { State.reset.port with p4 := [upMsg] } } .p4 upMsg ∧
    treeFront (arrived [(false, .tree .remote upMsg)]) .remote upMsg ∧
    (remoteUp.stage = 0 ∧ State.reset.blockChain remoteUp.ctx remoteUp.gen = none ∧ stepBelow remoteUp.step State.reset.step = false ∧
      stepBelow remoteUp.step 8 = true) ∧
    ((inTree 0 3 []).blockChain 0 0 = some nodeChain ∧ nodeChain.d.mergesTiles = false ∧ nodeChain.admitted = true) ∧
    ({ desc with scope := 2 } : ChainDesc).mergesTiles = true ∧
    (nodeChain.step ≠ ({ local7 with step := 6 } : HeldMsg).step ∧ nodeChain.step = local7.step ∧
      local7.key ∈ (inTree 0 3 [] [local7.key]).tree.used ∧ local7.key ∉ (inTree 0 3 []).tree.used) ∧
    (let s := inTree 0 3 []
     s.fclkRuns = true ∧ s.chainIn 0 = some nodeChain ∧ State.chainOf s nodeChain.uid = some nodeChain ∧ nodeChain.running = true ∧
     nodeChain.leaf = true ∧ nodeChain.final = false ∧ nodeChain.d.treeScoped = true ∧
     (s.operands nodeChain.d.scope).drop nodeChain.nodePos ≠ [] ∧
     s.nextOperands nodeChain ((s.operands nodeChain.d.scope).drop nodeChain.nodePos) = none) ∧
    (let m := { local7 with stage := 2, rows := [] }
     let s := inTree 0 3 [m]
     s.nextOperands nodeChain ((s.operands nodeChain.d.scope).drop nodeChain.nodePos) = some [m]) ∧
    (let s := inTree 1 3 []
     (s.operands nodeChain.d.scope).drop nodeChain.nodePos = [] ∧ s.scopeRoot nodeChain.d.scope = false ∧ nodeChain.sentUp = false ∧
     nodeChain.writes = 0 ∧ s.sendsBefore nodeChain = false) := by unfold treeFront; decide +kernel

/-- A lane request for a function, with a header's other fields and its active lanes. -/
def laneReq (func other : Nat) (mask : BitVec 128) : LaneReq := { hdr := BitVec.ofNat 128 (func + other), mask := mask, ops := 0 }
def asking (r : LaneReq) (s : State := State.reset) : State := { s with port := { s.port with p1 := [(7, r)] } }

theorem witness_lane_requests :
    (let r := laneReq 8 (3 * 2 ^ 10) 1
     let s := asking r
     s.takes = true ∧ lType r.hdr ≠ 1 ∧ s.port.p1.find? (fun p => p.1 == (7 : Fin 8)) = some ((7 : Fin 8), r) ∧ 2 < lFmt r.hdr) ∧
    (let r := laneReq 0xFF 0 1
     lType r.hdr = 0 ∧ lFmt r.hdr ≤ 2 ∧ lGrade r.hdr ≠ 3 ∧ State.reset.resolve State.reset.activeBank (lFunc r.hdr) (State.reset.laneGrade r.hdr) = none) ∧
    (let r := laneReq 8 0 (1 <<< 127)
     State.reset.resolve State.reset.activeBank (lFunc r.hdr) (State.reset.laneGrade r.hdr) = some (.native 8 .Q) ∧
     State.reset.usesRam (.native 8 .Q) = false ∧ (List.range 128).filter (fun k => r.mask.getLsbD k) = [127]) ∧
    (let s := withTbl (fun t => { t with bank0 := { t.bank0 with map := [(4 * 0x40, 0x4000)], quarantine := true } })
     s.resolve s.activeBank 0x40 .Q = some (.table false 0 0x40 .Q) ∧ (s.tbl.bank s.activeBank).quarantine = true ∧
     s.usesRam (.table false 0 0x40 .Q) = true) ∧
    (let h : Header := BitVec.ofNat 128 (2 ^ 14 + 63 * 2 ^ 32)
     let r : LaneReq := { hdr := h, mask := 0, ops := 0 }
     lType h = 1 ∧ (asking r small).port.p1.find? (fun p => p.1 == (7 : Fin 8)) = some ((7 : Fin 8), r) ∧ (asking r small).variant = .d4m) := by
  decide +kernel

/-- Reset with a read of two pieces, the second held by a write. -/
def reading : State :=
  { State.reset with p0 := { nextId := 3, reads := [{ tag := .tblLoad, out := [(0, 0x100, 2), (1, 0x200, 1)] }],
                             writes := [{ id := 2, addr := 0x200, tag := .logRec, bytes := [0x200] }],
                             held := [(1, 0x200, 1)] } }
/-- Its last piece out. -/
def readingLast : State := { reading with p0 := { reading.p0 with reads := [{ tag := .tblLoad, out := [(0, 0x100, 2)] }], held := [] } }

theorem witness_scratchpad_answers :
    (∃ j, reading.p0.reads.find? (fun j => j.out.any (fun o => o.1 == 0)) = some j ∧
      j.out.find? (fun o => o.1 == 0) = some (0, 0x100, 2) ∧ j.out.filter (fun q => q.1 != 0) ≠ []) ∧
    (∃ j, readingLast.p0.reads.find? (fun j => j.out.any (fun o => o.1 == 0)) = some j ∧
      j.out.find? (fun o => o.1 == 0) = some (0, 0x100, 2) ∧ j.out.filter (fun q => q.1 != 0) = []) ∧
    reading.p0.held.any (fun h => h.1 == 0) = false ∧ readingLast.p0.held.any (fun h => h.1 == 0) = false ∧
    reading.p0.held.any (fun h => h.1 == 1) = true ∧
    ([1, 2] : List Byte).length = 2 ∧ reading.p0.reads.find? (fun j => j.out.any (fun o => o.1 == 9)) = none ∧
    reading.p0.writes.find? (fun w => w.id == 2) = some { id := 2, addr := 0x200, tag := .logRec, bytes := [0x200] } ∧
    reading.p0.writes.find? (fun w => w.id == 0) = none ∧
    (∃ w ∈ reading.p0.writes, ∃ b ∈ w.bytes, 0x1C1 ≤ b ∧ b < 0x1C1 + 64) ∧
    (∀ w ∈ reading.p0.writes, ∀ b ∈ w.bytes, ¬(0x1C0 ≤ b ∧ b < 0x1C0 + 64)) ∧
    readingLast.sendHeld.p0.held = [] ∧ reading.sendHeld.p0.held = [(1, 0x200, 1)] :=
  ⟨⟨{ tag := .tblLoad, out := [(0, 0x100, 2), (1, 0x200, 1)] }, by decide +kernel⟩,
   ⟨{ tag := .tblLoad, out := [(0, 0x100, 2)] }, by decide +kernel⟩, by decide +kernel⟩

/-- R256: a read of bytes that an own write covers goes out after the acknowledgement. -/
theorem test_read_waits_for_write :
    (reading.writeAnswer 2 false).out.contains (.p0Read 1 0x200 1) = true ∧ reading.out.contains (.p0Read 1 0x200 1) = false := by
  decide +kernel

/-- An admitted chain with one ready item that asks for one evaluation. -/
def oneEval : EvalReq := { pinna := 39, row := 0, col := 0, which := 0, how := .native 8 .Q, input := .x one32 }
def busyChain : Chain :=
  { elemChain .admitted 1 with items := [{ key := 0, ord := 0, pass := .completion, ready := true, todo := [oneEval] }] }
/-- A result that is due. -/
def flying : State :=
  { State.reset with
    chn := { State.reset.chn with flights := [{ id := 4, pinna := 0, chain := none, req := oneEval, bank := false }] } }

theorem witness_evaluations :
    (let s := debugging 0; s.fclkRuns = true ∧ s.dbg.en = true ∧
      ({ s with dbg := { s.dbg with halt := true } } : State).dbg.halt = true) ∧
    (let s := withChain busyChain
     s.halting = false ∧ s.chn.lanes = [] ∧ s.pwr.guardBand < 4 ∧ s.readyItems = [(0, 0, 0, 0)] ∧ State.chainOf s 0 = some busyChain ∧
     (busyChain.item 0).map (·.todo) = some [oneEval] ∧ oneEval.pinna < s.pinnaCount ∧
     (busyChain.item 0).map (s.storeAllows busyChain) = some true) ∧
    (flying.chn.flights.find? (fun f => f.id == 4)).map (·.refetched) = some false ∧
    (withTbl (fun t => { t with filling := some (.native 0) })).tbl.filling = some (.native 0) := by decide +kernel

/-- A user table whose entry 4 serves 1.0, in the sori, with copies that differ. -/
def userTable (copies : List ((Nat × Nat) × Entry)) : State :=
  withTbl (fun t => { t with
    bank0 := { t.bank0 with ram := [(4, withCheck 5)], descs := [(0, [0x800001FC, 0x08000000, 0, 0, 0, 0, 0, 0])] }
    resident := [{ key := .user false 0, blocks := [0], last := 0, copies := copies }] })

/-- A result whose looked-up entry is clean, and one whose copy of the entry in pinna 0 fails its check. -/
theorem witness_results :
    (let s := userTable []; s.badLooks 0 (s.evaluate 0 (.table false 0 0x40 .Q) (.x one32)) = ([], [])) ∧
    (let s := userTable [((0, 4), withCheck 5 ^^^ 3)]
     s.badLooks 0 (s.evaluate 0 (.table false 0 0x40 .Q) (.x one32)) = ([(.user false 0, 4)], [])) := by decide +kernel

/-- A chain whose ordinal 0 has one row to fold, into a context that is open and in the cache. -/
def foldChain : Chain :=
  { chainOf .admitted 1 { desc with rowsM1 := 0, opt := 0 } with
    arrivals := [{ kind := false, ord := 0, addr := 0, itid := 0, rows := some [true] }]
    parts := [{ ord := 0, parts := [some { rc := Rec.emptyOf 0 }] }] }
def folding (lines : List CtxLine) (states : Store CtxState) : State :=
  let s := withChain foldChain
  { s with ctx := { s.ctx with lines := lines, states := states } }
def emptyLine : CtxLine := { tile := 0, recs := List.replicate 128 (Rec.emptyOf 0), dirty := false, used := 0 }

theorem witness_row_blocks :
    (let s := folding [] []
     s.fclkRuns = true ∧ s.chainIn 0 = some foldChain ∧ foldChain.st = .admitted ∧
     foldChain.parts.find? (fun q => q.ord == foldChain.folded) = some { ord := 0, parts := [some { rc := Rec.emptyOf 0 }] } ∧
     ¬ (∀ p ∈ foldChain.foldRows { ord := 0, parts := [some { rc := Rec.emptyOf 0 }] },
       s.ctxTakes (foldChain.ctxOf p.1) foldChain.d.gen = true)) ∧
    (let s := folding [] [(0, { gen := 0 })]
     (∀ p ∈ foldChain.foldRows { ord := 0, parts := [some { rc := Rec.emptyOf 0 }] },
       s.ctxTakes (foldChain.ctxOf p.1) foldChain.d.gen = true) ∧ (s.needLines [0]).2 = false) ∧
    (let s := folding [emptyLine] [(0, { gen := 0 })]
     (s.needLines [0]).2 = true ∧ foldChain.d.mergesTiles = false ∧ s.ctxLine 0 = some emptyLine ∧ emptyLine.recs.length = 128) ∧
    (let c := { foldChain with parts := [] }; c.parts.find? (fun q => q.ord == c.folded) = none) ∧
    (let c := { foldChain with final := true }; c.final = true ∧ c.complete = false) ∧ foldChain.final = false := by decide +kernel

/-- Reset with a sample, or a self-test, or a window that can close. -/
def aSample : Sample :=
  { how := .native 8 .Q, bank := false, input := .x one32, out := one32, settled := true, entry := none, tail := none, cert := 0,
    quarEn := true, tag := 0, inWord := one32 }
def closing (opened : Bool) (lines : List RegLine) : State :=
  { State.reset with num := { State.reset.num with
      windows := [{ tid := 0xFFFF, step := 3, chains := [], later := true, opened := opened, wrote := opened, registered := opened }], lines := lines } }

/-- Bank 0 with one valid table of one entry at 0, and that entry. -/
def scrubbing (e : Entry) : State :=
  { State.reset with tbl := { State.reset.tbl with bank0 := { State.reset.tbl.bank0 with
      ram := [(0, e)], descs := [(0, [0x80800000, 0, 0, 0, 0, 0, 0, 0])] } } }
theorem scrub_head (e : Entry) : ∃ r, (scrubbing e).scrubRam false = 0 :: r := by
  have h : (scrubbing e).scrubRam false = (List.range 32768).filter (fun i =>
      (((scrubbing e).tbl.bank false).descs.map (fun p => parseDesc p.2)).filter (fun d => d.valid && !d.space) |>.any
        (fun d => decide (d.base ≤ i) && decide (i < d.base + d.entries))) := rfl
  rw [h, List.range_succ_eq_map (n := 32767), List.filter_cons_of_pos]
  · exact ⟨_, rfl⟩
  · rfl
theorem scrub_at (e : Entry) : (scrubbing e).scrubAt 0 = (0, 0) := by
  obtain ⟨r, hr⟩ := scrub_head e
  unfold State.scrubAt
  simp [hr]
theorem witness_scrubber (e : Entry) :
    (scrubbing e).fclkRuns = true ∧ (scrubbing e).scrubAt (scrubbing e).tbl.scrubPos = (0, 0) ∧ (scrubbing e).ramEntry false 0 = e :=
  ⟨by rfl, scrub_at e, rfl⟩

theorem witness_self_checks :
    (eccOf (withCheck 5) = .clean ∧ eccOf (withCheck 5 ^^^ 1) = .corr (withCheck 5) ∧ eccOf (withCheck 5 ^^^ 3) = .uncorr) ∧
    ({ State.reset with sen := { State.reset.sen with queue := [aSample] } } : State).sen.queue = [aSample] ∧
    ({ State.reset with sen := { State.reset.sen with testDue := true } } : State).sen.testDue = true ∧
    ((closing false []).num.windows.find? (fun w => w.tid == (0xFFFF : BitVec 16).toNat && w.closable &&
        !(closing false []).earlierPending (0xFFFF : BitVec 16).toNat w.step)).map (·.wrote) = some false ∧
    (let l : RegLine := { tid := 0xFFFF, e := {}, dirty := false, used := 0 }
     ((closing true [l]).regLine 0xFFFF) = some l ∧ l.e.cold = false) := by decide +kernel

/-- A cold entry whose sixteenth history value the close adds, and one with fewer. -/
def coldEntry (n : BitVec 5) : RegEntry := { cold := true, hcount := n, isOpen := true }
def cold (n : BitVec 5) : State := closing true [{ tid := 0xFFFF, e := coldEntry n, dirty := false, used := 0 }]
/-- The state that SelfChecks names for the close of a window. -/
def closed (n : BitVec 5) : State :=
  let e1 : RegEntry := { coldEntry n with hist := 0 :: (coldEntry n).hist.take 15, hcount := BitVec.ofNat 5 (Nat.min (n.toNat + 1) 16) }
  let e2 := { e1 with last := e1.cur, lstep := e1.wstep, cur := List.replicate 5 0, amax := 0, isOpen := false }
  ((((((cold n).needEntry 0xFFFF).1.keepTs 0xFFFF 3 (coldEntry n)).recordEntry 0xFFFF 3 (coldEntry n)).dropWindow 0xFFFF
    3).dormancy 0xFFFF e2)

theorem witness_window_close :
    (cold 15).num.windows.map (fun w => (w.wrote, w.registered, w.t)) = [(true, true, none)] ∧ (cold 15).gen3 = false ∧ ((cold 15).regLine 0xFFFF).isSome = true ∧
    (((closed 15).regLine 0xFFFF).map (fun q => q.e.cold) = some true ∧
      ((closed 15).regLine 0xFFFF).map (fun q => decide (16 ≤ q.e.hcount.toNat)) = some true) ∧
    ((closed 14).regLine 0xFFFF).map (fun q => decide (q.e.hcount.toNat < 16)) = some true := by decide +kernel

theorem witness_numbers :
    (Fmt.d3 ∈ encodings ∧ Fmt.fp32 ∈ encodings) ∧ Fmt.e4m3.maxCode < Fmt.e4m3.finalMag .rne 465 1 ∧
    Fmt.e4m3.finalMag .rne 464 1 ≤ Fmt.e4m3.maxCode ∧ Fmt.e4m3.exceeds 1 (2 ^ 20) = false ∧
    1 * (Fmt.e4m3.magVal (2 ^ 3)).2 < (Fmt.e4m3.magVal (2 ^ 3)).1 * 2 ^ 20 ∧
    (0x800007 < 2 * Fmt.fp32.signBit ∧ 0xFF7FFFFF % Fmt.fp32.signBit ≤ Fmt.fp32.maxCode) ∧
    (∀ c ∈ List.replicate 128 7, c < 2 ^ 3) ∧ (Rec.emptyOf 3).count ≤ countMax ∧ Val.nan.nonFinite = true ∧
    (List.replicate 2052 (0xFF : Byte)).getD (stringBytes 9 + 127 / blockSize 9) 0 = 0xFF ∧ (Rec.emptyOf 3).empty = true ∧
    ((f32 nan32).isNaN = true ∧ (f32 one32).isNaN = false ∧ Val.lt (f32 0) (f32 one32) = true) := by decide +kernel

/-! ### The other clauses of the register and command statements -/

theorem witness_plain_registers_out_of_range :
    ((1199 : Word).extractLsb' 0 12).toNat < 1200 ∧ 2600 < ((2601 : Word).extractLsb' 0 12).toNat := by decide

/-- The debug page on a sorus: pinna and index given, over a table that lies in block 0. -/
def onSorus (p : BitVec 6) (i : BitVec 16) : State :=
  { userTable [] with dbg := { en := true, space := 3, pinna := p, index := i } }

theorem witness_debug_sorus :
    ((onSorus 39 4095).dbg.pinna.toNat < (onSorus 39 4095).pinnaCount ∧ (onSorus 39 4095).dbg.index.toNat < 4096 ∧
      ((95 : Word).extractLsb' 0 7).toNat < 96 ∧ (onSorus 39 4095).sorusAt 4095 = none) ∧
    (onSorus 0 0).sorusAt (onSorus 0 0).dbg.index.toNat = some (.user false 0, 0) ∧
    96 ≤ ((96 : Word).extractLsb' 0 7).toNat ∧ (onSorus 40 0).pinnaCount ≤ (onSorus 40 0).dbg.pinna.toNat ∧
    4096 ≤ (onSorus 0 4096).dbg.index.toNat ∧
    (let s : State := { State.reset with dbg := { en := true, space := 1, index := 0x8000 } }
     s.bankEntries ≤ s.dbg.index.toNat ∧ s.dbg.space.toNat < 2 ∧ s.dbg.space ≠ 2) := by decide +kernel

/-- A table load of one item at the end of its store, or past it. -/
def loading (src : Word) (first count : BitVec 16) : State :=
  withTbl (fun t => { t with loadSrc := src, loadFirst := first, loadCount := count })

theorem witness_table_ranges :
    (((opWord 0).extractLsb' 28 4).toNat = 0 ∧ 7 ≤ ((opWord 7).extractLsb' 28 4).toNat) ∧
    ((loading 0 255 2).tbl.cmd = none ∧ (loading 0 255 2).bankPinned (!(loading 0 255 2).tbl.active) = false ∧
      (loading 0 255 2).tbl.loadCount.toNat ≠ 0 ∧
      256 < (loading 0 255 2).tbl.loadFirst.toNat + (loading 0 255 2).tbl.loadCount.toNat) ∧
    ((loading 8 0xFFFF 0).tbl.loadCount.toNat = 0 ∧ (loading 8 0xFFFF 0).tbl.loadSrc.toNat % 16 ≠ 0) ∧
    ((loading 8 255 1).tbl.loadFirst.toNat + (loading 8 255 1).tbl.loadCount.toNat ≤ 256) ∧
    (let s := loading 0x7FFFFFF0 0 2
     s.tbl.loadCount.toNat ≠ 0 ∧ s.tbl.loadFirst.toNat + s.tbl.loadCount.toNat ≤ s.bankEntries ∧ s.tbl.loadSrc.toNat % 16 = 0 ∧
     2 ^ 31 < s.tbl.loadSrc.toNat + 16 * s.tbl.loadCount.toNat) := by decide +kernel

/-- A bank whose descriptor 0 is valid and has the reserved grade: the seal reports it. -/
def badDesc : State := withTbl (fun t => { t with bank1 := { t.bank1 with descs := [(0, [0x86000000, 0, 0, 0, 0, 0, 0, 0])] } })
theorem witness_seal_verdict : (badDesc.tbl.bank true).wf = true ∧ SealVerdict badDesc true 5 3 0 := by
  refine ⟨by decide +kernel, .inl ⟨.inl ⟨rfl, rfl, by decide +kernel, by decide +kernel⟩, ?_⟩⟩
  intro code item i h
  rcases h with h | h | h | h | h | h | h | h <;> (obtain ⟨rfl, h⟩ := h) <;> first | (left; decide) | skip
  obtain ⟨rfl, _⟩ := h
  exact .inr ⟨rfl, .inr ⟨rfl, Nat.zero_le _⟩⟩

/-- The shadow bank after reset: nothing fails. -/
theorem witness_seal_clean : SealVerdict State.reset true 0 0 0 := by
  refine .inr ⟨?_, rfl, rfl, rfl⟩
  have h0 : (parseDesc (List.replicate 8 0)).valid = false := by decide +kernel
  have hd : ∀ i, ((State.reset.tbl.bank true).desc i).valid = false := fun _ => h0
  have h1 : crzValid (crzDefault.headD 0) = false := by decide +kernel
  have hc : ∀ i, crzValid (((State.reset.tbl.bank true).crozier i).headD 0) = false := fun _ => h1
  have hw : (List.range 1024).all (fun i =>
      let w := (State.reset.tbl.bank true).mapWord i
      let kind := (w.extractLsb' 14 2).toNat
      (i % 4 != 3 || w == 0) && (i % 4 == 3 || ((w.extractLsb' 9 5).toNat == 0 && (kind == 0 || kind == 3) &&
        (w.extractLsb' 0 9).toNat == 0 && (kind == 0 || builtinExists (i / 4))))) = true := by decide +kernel
  have hm : ∀ i < 1024, SealMap (State.reset.tbl.bank true) i := by
    intro i hi
    have h := List.all_eq_true.mp hw i (List.mem_range.mpr hi)
    revert h
    unfold SealMap
    generalize (State.reset.tbl.bank true).mapWord i = w
    intro h
    simp only [Bool.and_eq_true, Bool.or_eq_true, bne_iff_ne, beq_iff_eq] at h
    refine ⟨fun h3 => h.1.resolve_left (fun hn => hn h3), fun h3 => ?_⟩
    obtain ⟨⟨⟨h9, hk⟩, h0⟩, hb⟩ := h.2.resolve_left h3
    refine ⟨h9, fun _ hf => ?_, fun _ => h0, fun hk3 => ⟨h0, ?_⟩, fun h1 => ?_, fun h2 => ?_⟩
    · rcases hb with h | h
      · exact h
      · rw [hf] at h; exact absurd h (by decide)
    · rcases hb with h | h
      · rw [h] at hk3; exact absurd hk3 (by decide)
      · exact h
    · rcases hk with h | h <;> (rw [h] at h1; exact absurd h1 (by decide))
    · rcases hk with h | h <;> (rw [h] at h2; exact absurd h2 (by decide))
  intro code item i h
  rcases h with ⟨_, _, h, _⟩ | ⟨_, _, h, _⟩ | ⟨_, j, h, _⟩ | ⟨_, j, h, _⟩ | ⟨_, j, _, h, _⟩ | ⟨_, j, _, h, _⟩ | ⟨_, _, hi, h⟩ | ⟨_, _, h, _⟩
  · simp [hd] at h
  · simp [hd] at h
  · simp [hd] at h
  · simp [hd] at h
  · simp [hd] at h
  · simp [hd] at h
  · exact h (hm i hi)
  · rw [hc] at h; exact absurd h (by decide)

theorem witness_context_begin :
    (tenContexts.ctx.waits = [] ∧ tenContexts.ctx.cmdBusy = false) ∧ ((0xC0000000 : Word).extractLsb' 30 2).toNat = 3 ∧
    (tenContexts.ctx.cmd = none ∧ tenContexts.ctxState 9 = some { gen := 3 } ∧ tenContexts.ctxState 0 = none) ∧
    (((0x40000000 : Word).extractLsb' 30 2).toNat = 1 ∧ ((0x40000000 : Word).extractLsb' 0 20).toNat ≤ 0 ∧ 9 < 0 + 10) := by
  decide +kernel

/-- An entry on chip for an id, with what it holds. -/
def entryHere (tid : Nat) (e : RegEntry) (dirty : Bool := false) : State :=
  { State.reset with num := { State.reset.num with cmdCount := 1, lines := [{ tid := tid, e := e, dirty := dirty, used := 0 }] } }
/-- A chain whose output is registered under an id. -/
def naming (tid : Nat) : State :=
  withChain (chainOf .armed 0 { parseChain (wordsOf 16 elemDesc) with tid := BitVec.ofNat 16 tid }) { State.reset with num := { State.reset.num with cmdCount := 1 } }

theorem witness_registry_entries :
    (((opWord 0).extractLsb' 28 4).toNat = 0 ∧ 5 ≤ ((opWord 5).extractLsb' 28 4).toNat) ∧
    (let s := naming 0xFFFF
     s.num.cmd = none ∧ ((0xFFFF : Word).extractLsb' 0 16).toNat + s.num.cmdCount.toNat ≤ 65536 ∧ s.num.cmdCount.toNat = 1 ∧
     s.tidNamed 0xFFFF = true) ∧
    (∀ d : Bool, let s := entryHere 0xFFFF {} d
     s.num.cmd = none ∧ s.num.cmdCount.toNat = 1 ∧ s.tidNamed 0xFFFF = false ∧ s.earlierPending 0xFFFF 0 = false ∧
     (s.regLine 0xFFFF).map (·.dirty) = some d) := by decide +kernel

/-- An answer of `tenEntry` is that an entry is done: the one entry of a command is on chip, so each of the four is done. -/
theorem witness_registry_done : ∃ t : Nat → Word → State, ∀ op w, 1 ≤ op → op ≤ 4 →
    let s := entryHere 0xFFFF {}
    let c : TenCmd := { rq := .rest, v := w, op := op, step := s.step, next := 0xFFFF, left := 1 }
    (s.setTenCmd c).tenEntry c 0xFFFF = .done (t op w) := by
  refine ⟨fun op w =>
    let s := entryHere 0xFFFF {}
    let c : TenCmd := { rq := .rest, v := w, op := op, step := s.step, next := 0xFFFF, left := 1 }
    match (s.setTenCmd c).tenEntry c 0xFFFF with | .done t => t | _ => s, ?_⟩
  intro op w h1 h4
  have : op = 1 ∨ op = 2 ∨ op = 3 ∨ op = 4 := by omega
  rcases this with rfl | rfl | rfl | rfl <;> rfl

theorem witness_recipe :
    (match f32 one32 with | .fin false n d => n ≠ 0 ∧ n = d | _ => False) ∧ one32.toNat < 0x7F800000 ∧
    (let s := fun (kind : BitVec 3) (cold : Bool) => entryHere 0xFFFF { kind := kind, cold := cold }
     (∀ k c, (s k c).gen3 = false ∧ (s k c).earlierPending 0xFFFF 7 = false ∧ (s k c).fixedT 0xFFFF 7 = none) ∧
     hasTensorScale 0xA = true ∧ (∀ k c, ((s k c).regLine 0xFFFF).map (fun l => (l.e.kind, l.e.cold)) = some (k, c)) ∧
     ¬(1 ≤ (0 : BitVec 3).toNat ∧ (0 : BitVec 3).toNat ≤ 5) ∧ ¬(1 ≤ (6 : BitVec 3).toNat ∧ (6 : BitVec 3).toNat ≤ 5) ∧
     (1 ≤ (1 : BitVec 3).toNat ∧ (1 : BitVec 3).toNat ≤ 5) ∧ (1 ≤ (5 : BitVec 3).toNat ∧ (5 : BitVec 3).toNat ≤ 5)) :=
  have h1 : f32 one32 = .fin false (2 ^ 23) (2 ^ 23) := by decide +kernel
  ⟨by rw [h1]; decide, by decide, fun _ _ => ⟨rfl, rfl, rfl⟩, by decide +kernel, fun _ _ => rfl, by decide, by decide,
   by decide, by decide⟩

theorem witness_image_reserved :
    (((opWord 0).extractLsb' 28 4).toNat = 0 ∧ 8 ≤ ((opWord 8).extractLsb' 28 4).toNat) ∧
    (let within := fun (s : State) => (s.img.argStep = s.img.checked ∨ stepAbove s.img.argStep s.img.checked = true) ∧
       (s.img.argStep = s.step ∨ stepBelow s.img.argStep s.step = true)
     within (retaining 3) ∧ within (retaining 5) ∧ ¬ within (retaining 2) ∧ ¬ within (retaining 6) ∧
     ¬ within (retaining 0x80000003)) ∧ State.reset.img.st = .normal := by decide +kernel

theorem witness_preload_ends :
    let c : TblCmd := { op := 6, first := 0x40 }
    let s := withTbl (fun t => { t with cmd := some c })
    s.fclkRuns = true ∧ s.tbl.cmd = some c ∧
      ∀ k ∈ s.preloadTables (decide (c.src = 1)) c.first, s.tbl.filling ≠ some k ∧ k ∉ s.tbl.fillQ := by decide +kernel

/-! ### The other clauses of the statements about units and messages -/

/-- The CH_ELEM descriptor, and the CH_ATTN descriptor with the contexts it names inside the limit. -/
def ed : ChainDesc := parseChain (wordsOf 16 elemDesc)
def attnRoom (s : State := State.reset) : State := { s with ctx := { s.ctx with limit := 128 } }

/-- Table 7.8: each code, from a descriptor whose first failing check it is. -/
theorem test_submission_codes :
    let two := withChain (chainOf .armed 0) (attnRoom)
    let full := { State.reset with chn := { State.reset.chn with
      slots := List.replicate 64 (some (chainOf .armed 0 ed)) } }
    [State.reset.submissionCode 0 ed, (withChain (chainOf .armed 0 ed)).submissionCode 0x1000 ed,
     State.reset.submissionCode 0 { ed with chain := 0 }, State.reset.submissionCode 0 { ed with chain := 9 },
     State.reset.submissionCode 0 { ed with mask := 1 }, State.reset.submissionCode 0 { ed with outFmt := 0xC },
     small.submissionCode 0 { ed with inFmt := 0xB }, State.reset.submissionCode 0 { ed with func := 0x0F },
     State.reset.submissionCode 0 desc, State.reset.submissionCode 0 { ed with ctxFirst := 1 },
     two.submissionCode 0 desc, State.reset.submissionCode 0 { ed with ntiles := 0 },
     State.reset.submissionCode 0 { ed with wsSlots := 1 }, (attnRoom).submissionCode 0 { desc with scope := 1 },
     full.submissionCode 0 ed, ({ State.reset with gen3 := true } : State).submissionCode 0 ed] =
    [0, 2, 3, 3, 4, 5, 6, 7, 8, 8, 9, 0xB, 0xC, 0xD, 0xE, 0xF] := by decide +kernel

theorem witness_counter_reserved :
    ((opWord 0).extractLsb' 28 4).toNat = 0 ∧ 4 ≤ ((opWord 4).extractLsb' 28 4).toNat := by decide

/-- A group that is not held, with an enable bit and what a token finds. -/
def idleGroups (gen : DWord) (load : Option Word) (released : Bool) : State :=
  { State.reset with sch := { State.reset.sch with gen := gen, groups := State.reset.sch.groups.map (fun g => { g with
      load := load, released := released }) } }

theorem witness_schedule_tokens :
    (((opWord 0).extractLsb' 28 4).toNat = 0 ∧ 3 ≤ ((opWord 3).extractLsb' 28 4).toNat) ∧
    ((heldGroups none).variant = .d4 ∧ 63 < (heldGroups none).sch.groups.length ∧ ((heldGroups none).group 63).held = true) ∧
    (∀ r, ((idleGroups 0 (some 5) r).group 63).held = false) ∧ (idleGroups 0 none true).sch.gen.getLsbD 63 = false ∧
    (idleGroups 0x8000000000000000 none true).sch.gen.getLsbD 63 = true ∧
    (((windowed 5 none).group 1).snap = none ∧ ({ group3 5 with gstat := 0x80000000 } : SchGroup).ready = true ∧
      ((heldGroups none).group 0).held = true ∧ ({ group3 5 with etab := some 0 } : SchGroup).etab.isSome = true) := by decide +kernel

/-- A group's configuration: CFG and ITER, with 10 iterations of warm-up and cycles of 3. -/
def confOf (cfg : Word) (iter : Nat) : SchCfg :=
  { cfg := cfg, peak := one32, floor := 0, init := 0, warm := 10, len := 3, lfact := 0xBF800000, iter := iter }

theorem witness_schedule_values :
    ((confOf 1 9).warmKind = 1 ∧ (confOf 1 9).iter < (confOf 1 9).warm) ∧ (1 < (confOf 2 0).warmKind ∧ (confOf 2 0).iter < (confOf 2 0).warm) ∧
    ((confOf 1 10).warm ≤ (confOf 1 10).iter ∧ (confOf 0 0).warmKind = 0) ∧
    ((List.range 6).map (fun k => (confOf (BitVec.ofNat 32 (4 * k)) 0).decay) = List.range 6) ∧
    ((confOf 0x00 0).restart = false ∧ (confOf 0x60 0).restart = true ∧ (confOf 0x60 0).mult = 1 ∧ (confOf 0xA0 9).mult = 2 ∧
      (confOf 0xA0 9).len ≠ 0 ∧ (confOf 0xA0 9).place 9 = (0, 12)) ∧
    ((confOf 0x03 0).bad = true ∧ (confOf 0x18 0).bad = true ∧ (confOf 0xC00 0).bad = true ∧ (confOf 0x00 0).bad = false ∧
      ({ confOf 0 0 with lfact := one32 } : SchCfg).bad = true ∧ ({ confOf 1 0 with warm := 0 } : SchCfg).bad = true ∧
      ({ confOf 4 0 with len := 0 } : SchCfg).bad = true ∧ ({ confOf 0 0 with init := 0xBF800000 } : SchCfg).bad = true) ∧
    ((0 : DWord) = 0 ∧ (0 : DWord) ≠ 1) := by decide +kernel

theorem witness_lifetime_reserved :
    ((opWord 0).extractLsb' 28 4).toNat = 0 ∧ 3 ≤ ((opWord 3).extractLsb' 28 4).toNat := by decide

/-- A recall of class 1 that runs, with the credits left to its sender. -/
def recallOf (waiting : List (Nat × Nat)) (left : Nat) : State :=
  { State.reset with port := { State.reset.port with recallSt := { waiting := waiting, running := true, left := [((1, 0), left)] } } }
theorem witness_ingress_recall :
    (let s := recallOf [(1, 0)] 0
     s.inReset = false ∧ s.port.inited = true ∧ s.port.recallSt.running = true ∧ msgClass (.p3 (hdrOf 1)) = some (3, 1, 0) ∧
     (lookupKey (1, 0) s.port.recallSt.left).getD 0 = 0) ∧
    ((1, 0) ∈ (recallOf [(1, 0)] 1).port.recallSt.waiting ∧ (lookupKey (1, 0) (recallOf [(1, 0)] 1).port.recallSt.left).getD 0 ≠ 0) ∧
    (1, 0) ∉ (recallOf [] 1).port.recallSt.waiting ∧
    msgClass (.tree .p4 (treeMsg 0 0)) = none ∧ msgClass (.tree .remote (treeMsg 4 0)) = none := by decide +kernel

theorem witness_tree_checks_new :
    (let s := { checking gathered with tree := { (checking gathered).tree with checks := [] } }
     treeFront s .p4 checkMsg ∧ State.checkOf s (TreeMsgF.checkId checkMsg) (TreeMsgF.step checkMsg) = none ∧
     stepBelow (TreeMsgF.step checkMsg) s.step = false ∧ (∀ c ∈ s.tree.checks, ¬ (c.id = 0x10 ∧ c.own.isSome = true ∧ c.concluded = false)) ∧
     stepBelow (TreeMsgF.step checkMsg) ({ s with step := 0 } : State).step = true) ∧
    (let c : CheckSt := { gathered with own := some 7, step := 5 }
     let s := checking c
     treeFront s .p4 checkMsg ∧ State.checkOf s (TreeMsgF.checkId checkMsg) (TreeMsgF.step checkMsg) = none ∧
     s.tree.checks.find? (fun c => decide (c.id = TreeMsgF.checkId checkMsg ∧ c.own.isSome = true ∧ c.concluded = false)) = some c) ∧
    (let c : CheckSt := { gathered with own := some 7 }
     c.own = some 7 ∧ c.sent = false ∧ (∀ k ∈ (checking c).operands c.scope, ∃ o ∈ c.ops, o.1 = k) ∧
     (checking c).scopeRoot c.scope = true) ∧
    (checking { gathered with concluded := true }).tree.checks.map (·.concluded) = [true] := by unfold treeFront; decide +kernel

theorem witness_power_held :
    ((inPower .resting).serves .rest .tbl ∧ (inPower .resting).serves (.core 3) .tree ∧ (inPower .resting).pwr.st = .resting ∧
      (0x80000000 : Word).getLsbD 31 = true) ∧
    ((inPower .entering (.toDormant false true)).serves .rest .tbl ∧ (inPower .entering (.toDormant false true)).serves .rest .chn) ∧
    (1 : Word).extractLsb' 0 2 = 1 ∧ ((inPower .entering .toResting).occupied = false ∧
      ({ inPower .entering .toResting with chn := (queued [{ addr := 0 }]).chn } : State).occupied = true) := by
  unfold State.serves; decide +kernel

/-- On the way to Dormant with a registry entry that was written since. -/
def dirtied : State :=
  let s := inPower .entering (.toDormant false false)
  { s with num := { s.num with lines := [{ tid := 0, e := {}, dirty := true, used := 0 }] } }
theorem witness_power_entries_rest :
    (dirtied.pwr.entering = .toDormant false false ∧ dirtied.p0.writes = [] ∧ ∃ l ∈ dirtied.num.lines, l.dirty = true) ∧
    (let s := recalling []
     s.chn.flights = [] ∧ s.chn.lanes = [] ∧ s.port.treeOut = [] ∧ ∀ e ∈ s.env.plan, e ≤ 9 * 65536) ∧
    (∀ e ∈ (inPower .entering .toResting).env.plan, e ≤ 9 * 65536) ∧
    (∃ e ∈ ({ planned 10 0 with pwr := (inPower .entering .toResting).pwr } : State).env.plan, 9 * 65536 < e) ∧
    (((0x50000000 : Word).extractLsb' 28 4).toNat = 5 ∧ ((0x49000000 : Word).extractLsb' 24 4).toNat = 9 ∧
      ((0x40000000 : Word).extractLsb' 24 4).toNat = 0 ∧ ((0x45000000 : Word).extractLsb' 24 4).toNat = 5 ∧
      ((0x46000000 : Word).extractLsb' 24 4).toNat = 6 ∧ ((0x48000000 : Word).extractLsb' 24 4).toNat = 8) := by decide +kernel

theorem witness_power_exits_rest :
    (let s := inPower .waking
     ({ s with pwr := { s.pwr with wakeReady := true } } : State).pwr.wakeReady = true ∧ ({ s with pwr := { s.pwr with wakeReady := false } } : State).pwr.wakeReady = false ∧
     s.pwr.vddOk = true ∧ ({ s with pwr := { s.pwr with rising := true } } : State).pwr.rising = true) ∧
    (let s := waking true true
     s.pwr.st = .dormant ∧ s.inReset = false ∧ s.pwr.wakeHeld = true ∧ s.cal.loaded = true ∧ s.pwr.vddOk = true) := by decide +kernel

/-- Reads of core 2 that wait, and accesses that wait behind them. -/
def coreWaits (behind : Nat) : State :=
  { State.reset with port := { State.reset.port with
      waits := [{ rq := .core 2, frame := frameOf 1 0 0 0 0, shadow := true }]
      behind := List.replicate behind { a := { rq := .core 2, page := 0, off := 0 } } } }
theorem witness_frames_behind :
    (let out := fun (s : State) => (s.port.waits.filter (fun w => w.rq == .core 2)).map WaitRead.access ++
       (s.port.behind.filter (fun b => b.a.rq == .core 2)).map (·.a)
     out State.reset = [] ∧ out (coreWaits 0) ≠ [] ∧ (out (coreWaits 6)).length < 8) ∧
    (let out := fun (s : State) => (s.port.waits.filter (fun w => w.rq == .rest)).map WaitRead.access ++
       (s.port.behind.filter (fun b => b.a.rq == .rest)).map (·.a)
     out State.reset = [] ∧ out (waitingReads 3) ≠ [] ∧ (out (waitingReads 3)).length < 4 ∧ 4 ≤ (out (waitingReads 4)).length ∧
     (∃ w ∈ out (waitingReads 1), w.seq = 0) ∧ ¬ ∃ w ∈ out (waitingReads 3), w.seq = 15) := by decide +kernel

theorem witness_resets_rest :
    State.reset.port.behind = [] ∧ State.reset.tbl.tornEntry = none ∧ (true = !State.reset.tbl.active) ∧
    (let s := withTbl (fun t => { t with cmd := some { op := 1, first := 7, count := 2 } }); s.tbl.tornEntry ≠ some 9) := by decide +kernel

theorem witness_event_ring_rest :
    (let s := ringOn 0 0 []
     s.log.pend = [] ∧ s.log.held = [] ∧ (s.log.water ≠ 0 ∨ s.log.water = 0)) ∧
    (let s := ringOn 0 0 []
     let t : State := { s with log := { s.log with water := 1 } }
     t.log.water ≠ 0 ∧ t.log.water.toNat ≤ (t.log.wr + 1 - t.log.rd).toNat) ∧
    ((inPower .resting).pwr.st ≠ .ready ∧ (ringOn 0 0 []).log.slots ≠ 0 ∧ State.reset.log.slots = 0) ∧
    (let s := ringOn 1 0 [anEvent]
     s.log.writing = false ∧ s.log.masked anEvent.code = false ∧ (s.log.wr - s.log.rd).toNat ≠ s.log.slots) := by decide +kernel

/-! ### The other clauses of the statements about messages and work -/

theorem witness_spawn :
    (let c := chainOf .admitted 1 { desc with chain := 2, opt := 0 }
     let a : Arrival := { kind := false, ord := 1, addr := 0, itid := 0, rows := some [] }
     let c1 := { c with arrivals := [a] }
     let s := withChain c1
     State.chainOf s c.uid = some c1 ∧ c1.st = .admitted ∧ c.d.outOf .first = none ∧ State.openOrds s c1 .first = [1] ∧
     (Pass.first, false, 1) ∉ c1.begun ∧ (Pass.first, false, 1) ∈ ({ c1 with begun := [(.first, false, 1)] } : Chain).begun) ∧
    ChainSt.armed ≠ .admitted ∧
    (let c := { chainOf .admitted 1 with complete := true, items := [] }
     c.d.mergesTiles = true ∧ (withChain c).tileRoot c = true ∧ c.writes = 0 ∧ (withChain c).openOrds c .completion = [0]) := by
  decide +kernel

theorem witness_tokens_queued :
    (let s := withImg (fun i => { i with cmd := some { op := 2, step := 5 } })
     s.img.st = .normal ∧ s.rollingBack = true ∧ s.rollbackStep = 4) ∧
    (withImg (fun i => { i with st := .awaiting })).img.st = .awaiting := by decide +kernel

/-- Group 63 with an η for step 7, its group enabled as the last token read it. -/
def answering (given : Bool) : State :=
  { State.reset with sch := { State.reset.sch with
      live := 0x8000000000000000
      groups := State.reset.sch.groups.set 63 { gstep := 7, eta := one32, given := given } } }
theorem witness_fetches :
    (State.reset.groupOn 63 = false ∧ (answering true).groupOn 63 = true ∧ stepAbove ((answering true).group 63).gstep 6 = true) ∧
    (stepAbove ((answering true).group 63).gstep 7 = false ∧ ((answering true).group 63).gstep = 7 ∧ ((answering true).group 63).given = true) ∧
    (stepAbove ((answering true).group 63).gstep 8 = false ∧ ((answering true).group 63).gstep ≠ 8 ∧ ((answering false).group 63).given = false) ∧
    (let l : LaneWork := {
       no := 0, group := 7, req := { hdr := laneHdr 1, mask := 0, ops := 0 }, bank := false, fetch := some (63, 7) }
     let s : State := { answering true with chn := { State.reset.chn with lanes := [l] } }
     (∀ m ∈ s.chn.lanes, m.returned = none ∧ m.fetch = some (63, 7)) ∧ State.fetchAnswer s 63 7 = some (one32, false) ∧
     State.fetchAnswer s 63 8 = none ∧ State.fetchAnswer s 63 6 = some (nan32, true)) := by decide +kernel

/-- A read of two pieces that has ended in an error, one of them still out. -/
def deadRead : ReadJob := { tag := .tblLoad, out := [(0, 0x100, 2)], dead := true }
theorem witness_dead_reads :
    (let s : State := { reading with p0 := { reading.p0 with reads := [deadRead] } }
     s.p0.reads.find? (fun j => j.out.any (fun o => o.1 == 0)) = some deadRead ∧ deadRead.dead = true) ∧
    (∃ o ∈ deadRead.out, (0 : Nat) = o.1) ∧
    (deadRead.out.filter (fun o => !([] : List (Nat × Nat × Nat)).any (fun h => h.1 == o.1)) ≠ []) ∧
    (deadRead.out.filter (fun o => !([(0, 0x100, 2)] : List (Nat × Nat × Nat)).any (fun h => h.1 == o.1)) = []) ∧
    ([1, 2, 3] : List Byte).length ≠ 2 := by decide +kernel

/-- A Grade L BINADE descriptor of binades -1 to 0 in two segments each, with tails of 1.0; SPEC_PZ passes. -/
def binadeDesc (front : Nat) (w2 : Word := 0) (w3 : Word := 0) : Desc :=
  parseDesc [0xA00401FF ||| BitVec.ofNat 32 (front * 2 ^ 24), 0x02000000, w2, w3, one32, one32, one32, 0]
theorem witness_table_values :
    (let d := binadeDesc 0
     (d.front, d.signed, d.k, d.emin, d.nbin) = (0, false, 1, -1, 2) ∧ binadeOf 0x3F000000 = (-1, 2 ^ 23) ∧ binadeOf one32 = (0, 2 ^ 23) ∧
     binadeOf 0x3EFFFFFF = (-2, 0xFFFFFF) ∧ binadeOf 0x40000000 = (1, 2 ^ 23) ∧ specVal 0 = none ∧
     (d.specPZ, d.specNZ, d.specPI, d.specNI, d.specNeg) = (0, 0, 0, 0, false)) ∧
    ((binadeDesc 0 0x38000000).specPZ = 7 ∧ specVal 7 = some .nan ∧ (binadeDesc 0 0 8).specNeg = true) ∧
    ((nan32.extractLsb' 23 8 = 0xFF ∧ nan32.extractLsb' 0 23 ≠ 0) ∧ (0xFF800000 : Word).extractLsb' 0 23 = 0) ∧
    (List.range 11).map (fun f => (binadeDesc f).front) = List.range 11 ∧
    (match f32 0x43000000 with | .fin false n d => decide (128 * (d : Int) ≤ n) | _ => false) = true ∧
    (match f32 0xC3160000 with | .fin true n d => decide (Val.signed true n ≤ -150 * (d : Int)) | _ => false) = true ∧
    (3 * 2 ^ 22 ≤ (binadeOf 0x3F400000).2 ∧ ¬ 3 * 2 ^ 22 ≤ (binadeOf 0).2) ∧
    (let u := fun (F : Nat) => let q := F / 2 ^ 30; if q % 2 = 1 then 2 ^ 30 - F % 2 ^ 30 else F % 2 ^ 30
     u (2 ^ 30) = 2 ^ 30 ∧ u (2 ^ 32 - 1) = 1) := by decide +kernel

/-- The example values of Table 4.3 and of the composites: at +0 and at both infinities, and the range of GELU's branches. -/
theorem witness_builtin_values :
    ((0x41800000 : Word).msb = false ∧ (0x41800000 : Word) ≤ 0x41800000 ∧ (0xC1800000 : Word) ≤ 0xC1800000) ∧
    (0x417FFFFF : Word) < 0x41800000 ∧ ((0xC17FFFFF : Word).msb = true ∧ (0xC17FFFFF : Word) < 0xC1800000) ∧
    (one32.extractLsb' 23 8 ≠ 0xFF ∧ one32.extractLsb' 0 31 ≠ 0) ∧ (0x80000001 : Word).msb = true := by decide

theorem witness_issue :
    (let s := withChain busyChain { State.reset with cal := { State.reset.cal with coef := [] } }
     s.pwr.guardBand = 0 ∧ s.admitsNew = true ∧ oneEval.paid = 0 ∧ State.fclkRuns s = true ∧ State.halting s = false ∧ s.chn.lanes = [] ∧
     State.readyItems s = [(0, 0, 0, 0)] ∧ State.chainOf s 0 = some busyChain ∧ (busyChain.item 0).map (·.todo) = some [oneEval] ∧
     oneEval.pinna < State.pinnaCount s ∧ (busyChain.item 0).map (State.storeAllows s busyChain) = some true ∧
     (let k := s.slotCharge busyChain 0 oneEval
      1 ≤ k.2 ∧ k.2 ≤ 8 * k.1.perEvaluator ∧ (s.cal.coef.getD (k.1.code + 1) 0).toNat * k.2 ≤ s.envRoom)) ∧
    (eccOf (withCheck 5) = .clean ∧ eccOf (withCheck 5 ^^^ 1) = .corr (withCheck 5) ∧ eccOf (withCheck 5 ^^^ 3) = .uncorr) ∧
    (let s := userTable [((0, 4), withCheck 5 ^^^ 3)]
     let q : EvalReq := { oneEval with pinna := 0, how := .table false 0 0x40 .Q }
     let f : Flight := { id := 4, pinna := 0, chain := none, bank := false, req := q }
     let t : State := { s with chn := { s.chn with flights := [f] } }
     t.chn.flights.find? (fun f => f.id == 4) = some f ∧ f.refetched = false ∧
     State.badLooks t 0 (State.evaluate t 0 f.req.how f.req.input) = ([(.user false 0, 4)], [])) := by decide +kernel

/-- The chain of `foldChain` with its final records, and with every item ended. -/
def finalChain (declLen count : Nat) : Chain :=
  { foldChain with final := true, live := [true], rowRecs := [{ Rec.emptyOf 0 with count := count, empty := false }]
                   d := { foldChain.d with declLen := declLen } }
/-- A CH_ELEM chain of one tile registered under id 0xFFFF in E4M3, with what it has written. -/
def widening (kind : BitVec 3) (sat : Nat) : State :=
  { entryHere 0xFFFF { kind := kind } with num := { (entryHere 0xFFFF { kind := kind }).num with lastValid := decide (sat = 2) } }
def widenChain (sat : Nat) : Chain :=
  { elemChain .admitted 1 with
    d := { ed with tid := 0xFFFF, outFmt := 0xA }, count1 := { elems := 127, sat := sat }, limSat := 7, limUfl := 0 }
theorem witness_row_blocks_end :
    (let c := finalChain 256 128
     c.final = true ∧ c.complete = false ∧ c.d.declLen ≠ 0 ∧ c.d.declLen ≤ 16777215 ∧ (c.rowRec 0).boundLost = false ∧
     (c.rowRec 0).count ≠ c.d.declLen) ∧
    (finalChain 0 0).d.declLen = 0 ∧
    (let c := { elemChain .admitted 1 with ended := [] }
     (withChain c).chains = [c] ∧ (withChain c).chainFinished c = false) ∧
    (let c := { elemChain .admitted 1 with d := { ed with ntiles := 0 } }
     (withChain c).chains = [c] ∧ (withChain c).chainFinished c = true) ∧
    (∀ n < 3, let s := widening 1 n
     s.gen3 = false ∧ (widenChain n).d.outIds = [(1, 0xFFFF, 0xA)] ∧ (s.regLine 0xFFFF).isSome = true ∧ rungOf 0xA = some 1 ∧ rungOf 3 = some 3) ∧
    (triggers (widenChain 1).count1 (widenLimit (widenChain 1).limSat 1) (widenLimit (widenChain 1).limUfl 1) = true ∧
     triggers (widenChain 0).count1 (widenLimit (widenChain 0).limSat 1) (widenLimit (widenChain 0).limUfl 1) = false) := by
  decide +kernel

/-- A sample from a RAM table, and the states in which it counts and acts. -/
def ramSample : Sample := { aSample with how := .table false 0 0x40 .Q, entry := some (.user false 0, 4), settled := false }
theorem witness_sentinel :
    (aSample.settled = true ∧ ramSample.settled = false ∧ ramSample.how.composite = false ∧ ramSample.entry ≠ none) ∧
    (State.reset.sampleRam aSample = none ∧ State.reset.sampleRam ramSample = some false) ∧
    (let acts := fun (s : State) => decide (max 1 (s.cal.thr.getD 1 0).toNat ≤ s.sen.viol0 + 1) && ramSample.quarEn && !s.sen.barred &&
       !(s.tbl.bank false).quarantine
     acts ({ State.reset with cal := { State.reset.cal with thr := [0, 1, 0, 0] } } : State) = true ∧
     acts ({ State.reset with cal := { State.reset.cal with thr := [0, 2, 0, 0] } } : State) = false) ∧
    (let s : State := { State.reset with sen := { State.reset.sen with testDue := true } }; s.sen.testDue = true) ∧
    State.reset.pwr.st = .ready ∧ (inPower .entering .toResting).pwr.st ≠ .ready := by decide +kernel

/-- The dormancy of an entry: what the last window counted, the windows in a row, and whether it is dormant. -/
def lastCounts (elems zeros : Nat) (run : BitVec 16) (dormant : Bool) : RegEntry :=
  { kind := 1, last := [BitVec.ofNat 32 elems, BitVec.ofNat 32 zeros, 0, 0, 0], dormRun := run, dormant := dormant }
theorem witness_dormancy :
    (let s : State := { State.reset with num := { State.reset.num with dormN := 3, kmask := 0x1F } }
     let alarm := fun (e : RegEntry) (run : Nat) => e.dormant == false && decide (max 1 s.num.dormN.toNat ≤ run) &&
       decide (1 ≤ e.kind.toNat ∧ e.kind.toNat ≤ 5) && s.num.kmask.getLsbD (e.kind.toNat - 1)
     alarm (lastCounts 8 8 2 false) 3 = true ∧ alarm (lastCounts 8 8 1 false) 2 = false ∧ alarm (lastCounts 8 7 2 true) 0 = false) ∧
    ((lastCounts 8 7 9 true).dormant = true ∧ ((lastCounts 8 7 9 true).last.getD 1 0).toNat < ((lastCounts 8 7 9 true).last.getD 0 0).toNat) ∧
    ((lastCounts 0 0 0 false).last.getD 0 0).toNat = 0 ∧ ((entryHere 0xFFFF {}).regLine 0xFFFF).isSome = true := by decide +kernel

/-! ### Numbers -/

theorem witness_blocks :
    (let xs := List.replicate 32 (Val.fin true 3 2)
     (∀ x ∈ xs, x = Val.fin true 3 2) ∧ (∃ x ∈ xs, (Val.pow2 (0 + 0)).le x.abs = true) ∧ (∀ x ∈ xs, x.abs.lt (Val.pow2 (0 + 1 + 0)) = true)) ∧
    (∀ x ∈ List.replicate 32 Val.zero, x.abs.lt (Val.pow2 (-126 + 8)) = true) ∧ (Val.pow2 (127 + 8)).le (Val.pow2 200).abs = true ∧
    (let xs := Val.ofNat 8 :: List.replicate 15 Val.one
     let six := fun (c : Nat) => (Fmt.e4m3.decode c).mul ((Val.ofNat 6).mul Val.one)
     (∀ j < xs.length, (xs.getD j Val.zero).abs.le (xs.getD 0 Val.zero).abs = true) ∧
     (∀ j < xs.length, j ≠ 0 → (xs.getD j Val.zero).abs.le (six 0x23) = true) ∧
     ¬ (∀ j < xs.length, j ≠ 0 → (xs.getD j Val.zero).abs.le (six 0x22) = true)) ∧
    (let xs := List.replicate 16 (Val.ofNat 4096)
     ¬ (∀ j < xs.length, j ≠ 0 → (xs.getD j Val.zero).abs.le ((Fmt.e4m3.decode 0x7E).mul ((Val.ofNat 6).mul Val.one)) = true)) ∧
    ((List.replicate 84 (0xFF : Byte)).getD (64 + 127 / 16) 0 = 0xFF ∧ (List.replicate 84 (0 : Byte)).getD (stringBytes 0xB + 127 / 16) 0 ≠ 0xFF) ∧
    ((0 : Nat) % 16 = (List.replicate 84 (0 : Byte)).getD 80 0 ∧ 127 % 16 ≠ 0) := by decide +kernel

theorem witness_merges :
    (let a := { Rec.emptyOf 0 with empty := false, max := one32 }
     a.empty = false ∧ nonFin32 (fmax a.max a.max) = false ∧ nonFin32 (fmax nan32 a.max) = true ∧ (Rec.emptyOf 0).empty = true) ∧
    (nonFin32 (fmul 0x7F000000 0x7F000000) = true ∧ nonFin32 (fmul 0x3F000000 one32) = false ∧ (0x3F000000 : Word) ≠ 0x3F800000) ∧
    (nonFin32 0x7F800000 = true ∧ nonFin32 (fadd one32 one32) = false) ∧
    ((List.replicate 64 one32).length = 2 * 32 ∧ 1 ≤ (List.replicate 32 one32).length ∧ (List.replicate 16 one32).length ≤ 16) := by
  decide +kernel

/-- Reset with E planned at `a` sixteenths of an ampere from 256 fc ahead, and `n` slots gone. -/
def slotsGone (a n : Nat) : State :=
  { State.reset with
      env := { State.reset.env with plan := List.replicate 256 0 ++ [a * 65536] }
      pwr := { State.reset.pwr with slots := n } }

theorem witness_forecasts :
    (slotsGone 0 0).fclkRuns = true ∧
    (let due := fun (s : State) => s.pwr.deadband.toNat ≤ s.env.plan.getLastD 0 / 65536 - s.pwr.lastSent.toNat ∨
       (s.pwr.st = .ready ∧ 16 ≤ s.pwr.slots + 1)
     ¬ due (slotsGone 0 0) ∧ ¬ due (slotsGone 0 14) ∧ due (slotsGone 0 15) ∧ due (slotsGone 1000 0)) := by decide +kernel

theorem test_forecast_slots :
    (∃ t, exec (.forecast true false) (slotsGone 0 15) = .next t ∧ t.pwr.slots = 16) ∧
    (∃ t, exec (.forecast false false) (slotsGone 0 15) = .next t ∧ t.pwr.slots = 0 ∧ t.out.length = 1) := by
  exact ⟨⟨_, rfl, by decide +kernel⟩, ⟨_, rfl, by decide +kernel⟩⟩

end Sys2Proof.Tests
end

/-! PROOFS. Chapter 0, the register window: absent pages (R3, R10), width (R8) and refused accesses (R11). -/
namespace Sys2Proof.Machine

/-! ## Headers -/

theorem Page.bit_lt (p : Page) : p.bit < 20 := by cases p <;> decide

theorem Page.all_getElem_bit (p : Page) : Page.all[p.bit]? = some p := by cases p <;> rfl

theorem Page.bit_injective : Function.Injective Page.bit := by
  intro p q h
  have hq := q.all_getElem_bit
  rw [← h, p.all_getElem_bit] at hq
  exact Option.some.inj hq

/-- The header of a page after one is put in place; beyond the list nothing is put. -/
theorem State.hdr_setHdr (s : State) (p q : Page) (x : PageHdr) :
    (s.setHdr p x).hdr q = if p = q ∧ p.bit < s.hdrs.length then x else s.hdr q := by
  simp only [State.hdr, State.setHdr, List.getD_eq_getElem?_getD, List.getElem?_set, Page.bit_injective.eq_iff]
  by_cases hpq : p = q
  · subst hpq
    by_cases hb : p.bit < s.hdrs.length
    · simp [hb]
    · simp [hb]
  · simp [hpq]

theorem State.hdr_setHdr_self {s : State} (hl : s.hdrs.length = 20) (p : Page) (x : PageHdr) : (s.setHdr p x).hdr p = x := by
  rw [State.hdr_setHdr, if_pos ⟨rfl, hl ▸ p.bit_lt⟩]

/-- A header put in place of itself. -/
theorem State.setHdr_hdr {s : State} (hl : s.hdrs.length = 20) (p : Page) : s.setHdr p (s.hdr p) = s := by
  have hb : p.bit < s.hdrs.length := hl ▸ p.bit_lt
  unfold State.setHdr State.hdr
  rw [List.getD_eq_getElem _ _ hb, List.set_getElem_self]

/-! ## The two raw access commands, with no earlier access that waits -/

/-- A P2 read of any width comes to its port as the access of its address, as wide as it is. -/
theorem exec_refusedRead {s : State} {core : Fin 16} (r : RawAccess) (h : s.clearFor (.core core)) :
    exec (.refusedRead core r) s = .next (s.busRead { rawAccess core r with bytes := r.bytes }) :=
  congrArg _ (State.portAccess_clear (b := { a := { rawAccess core r with bytes := r.bytes } }) h)

/-- A write of any width comes to its port as its access. -/
theorem exec_registerWrite_clear {s : State} {rq : Requester} (r : RegAddr) (v : Word) (h : s.clearFor rq) :
    exec (.registerWrite rq r v) s = .next (s.busWrite (regAccess rq r) v) :=
  congrArg _ (State.portAccess_clear (b := { a := regAccess rq r, v := some v }) h)

/-- The answer to a read does not show the width of the access. -/
theorem State.answerRead_bytes (s : State) (a : Access) (n : Nat) (v : Word) (st : Nat) :
    s.answerRead { a with bytes := n } v st = s.answerRead a v st := rfl

/-! ## Offsets that hold no page (R3, R10) -/

theorem pageOf_eq_none {n : Nat} (h : ∀ p : Page, p.number ≠ n) : pageOf n = none := by
  unfold pageOf
  exact List.find?_eq_none.2 fun p _ => by simpa using h p

/-- No page of the variant answers at a page number: the map lacks it, or the variant lacks the unit. -/
def State.noPage (s : State) (n : Nat) : Prop := ∀ p, pageOf n = some p → s.pagePresent p = false

theorem State.noPage_of_unmapped {s : State} {n : Nat} (h : ∀ p : Page, p.number ≠ n) : s.noPage n := by
  intro p hp
  rw [pageOf_eq_none h] at hp
  cases hp

theorem State.noPage_of_absentUnit {s : State} {p : Page} (hv : s.variant = .d4m) (hp : p = .sch ∨ p = .sen) :
    s.noPage p.number := by
  intro q hq
  rw [pageOf_number] at hq
  cases hq
  rcases hp with rfl | rfl <;> simp [State.pagePresent, State.isD4, hv]

theorem State.busRead_noPage {s : State} {a : Access} (h : s.noPage a.page) (hr : s.refuses a.rq a.page = false) :
    s.busRead a = s.answerRead a 0 := by
  unfold State.busRead
  rw [hr]
  cases hp : pageOf a.page with
  | none => rfl
  | some p => simp [h p hp, State.readReg]

theorem State.busWrite_noPage {s : State} {a : Access} (h : s.noPage a.page) (hr : s.refuses a.rq a.page = false)
    (v : Word) : s.busWrite a v = s.answerWrite a := by
  unfold State.busWrite State.access
  rw [hr]
  cases hp : pageOf a.page with
  | none => rfl
  | some p => simp [h p hp]

/-- A P2 read where there is no page is answered with zero. -/
theorem exec_refusedRead_noPage {s : State} {core : Fin 16} {r : RawAccess} (h : s.noPage (r.addr.toNat / 4096))
    (hr : s.refuses (.core core) (r.addr.toNat / 4096) = false) (hc : s.clearFor (.core core)) :
    exec (.refusedRead core r) s = .next (s.answerRead (rawAccess core r) 0) := by
  rw [exec_refusedRead r hc, State.busRead_noPage h hr, State.answerRead_bytes]

/-- A write where there is no page is acknowledged. -/
theorem exec_registerWrite_noPage {s : State} {rq : Requester} {r : RegAddr} (h : s.noPage r.page.toNat)
    (hr : s.refuses rq r.page.toNat = false) (hc : s.clearFor rq) (v : Word) :
    exec (.registerWrite rq r v) s = .next (s.answerWrite (regAccess rq r)) := by
  rw [exec_registerWrite_clear r v hc, State.busWrite_noPage h hr]

/-- Settles O7: a unit that Derlith-4M lacks has no page, and no page answers zero and discards. -/
theorem absentUnit : Obligations.AbsentUnit := by
  intro s p hv hp
  have hn : s.noPage p.number := State.noPage_of_absentUnit hv hp
  refine ⟨fun a ha hr => ?_, fun core r ha hr hc => ?_, fun rq r v ha hr hc => ?_⟩
  · rw [← ha] at hn
    exact ⟨State.busRead_noPage hn hr, State.busWrite_noPage hn hr⟩
  · rw [← ha] at hn hr
    exact exec_refusedRead_noPage hn hr hc
  · rw [← ha] at hn hr
    exact exec_registerWrite_noPage hn hr hc v

/-- Settles O8: a page number that the map lacks has no page either. -/
theorem absentPageNumber : Obligations.AbsentPageNumber := by
  intro s
  refine ⟨fun a hm hr => ?_, fun core r hm hr hc => ?_, fun rq r v hm hr hc => ?_⟩
  · have hn : s.noPage a.page := State.noPage_of_unmapped hm
    exact ⟨State.busRead_noPage hn hr, State.busWrite_noPage hn hr⟩
  · exact exec_refusedRead_noPage (State.noPage_of_unmapped hm) hr hc
  · exact exec_registerWrite_noPage (State.noPage_of_unmapped hm) hr hc v

/-! ## Accesses of another width or alignment (R8) -/

theorem State.busRead_width {s : State} {a : Access} {p : Page} (hp : a.page = p.number)
    (hr : s.refuses a.rq a.page = false) (hpp : s.pagePresent p = true) (hw : a.off % 4 ≠ 0 ∨ a.bytes ≠ 4) :
    s.busRead a = (s.recordFault p .width a.rq a.waddr).answerRead a 0 := by
  have hpo : pageOf a.page = some p := by rw [hp, pageOf_number]
  unfold State.busRead
  simp [hr, hpo, hpp, hw]

theorem State.busWrite_width {s : State} {a : Access} {p : Page} (hp : a.page = p.number)
    (hr : s.refuses a.rq a.page = false) (hpp : s.pagePresent p = true) (hw : a.off % 4 ≠ 0 ∨ a.bytes ≠ 4) (v : Word) :
    s.busWrite a v = (s.recordFault p .width a.rq a.waddr).answerWrite a := by
  have hpo : pageOf a.page = some p := by rw [hp, pageOf_number]
  unfold State.busWrite State.access
  simp [hr, hpo, hpp, hw]

/-- Settles O9: `busRead` and `busWrite` judge the width and the offset before they come to a register. -/
theorem widthFault : Obligations.WidthFault := by
  intro s p
  refine ⟨fun core r ⟨hc, hr, hpp⟩ hp hw => ?_, fun rq r v ⟨hc, hr, hpp⟩ hp hw => ?_⟩
  · have hoff : r.addr.toNat % 4096 % 4 ≠ 0 ∨ r.bytes ≠ 4 := by omega
    rw [← hp] at hr
    rw [exec_refusedRead r hc, State.busRead_width hp hr hpp hoff, State.answerRead_bytes]
    rfl
  · rw [← hp] at hr
    rw [exec_registerWrite_clear r v hc, State.busWrite_width hp hr hpp hw.symm]
    rfl

/-! ## Refused accesses (R11, R299) -/

theorem Page.number_le_three_of_alwaysOn {p : Page} (h : p.alwaysOn = true) : p.number ≤ 3 := by
  cases p <;> simp [Page.alwaysOn] at h <;> decide

theorem State.pagePresent_of_alwaysOn (s : State) {p : Page} (h : p.alwaysOn = true) : s.pagePresent p = true := by
  cases p <;> simp [Page.alwaysOn] at h <;> simp [State.pagePresent]

/-- In DORMANT and WAKING every access is refused but those of REST to the first four pages. -/
theorem State.refuses_iff_asleep {s : State} (hi : s.inReset = false) (hs : s.pwr.st = .dormant ∨ s.pwr.st = .waking)
    (rq : Requester) (n : Nat) : s.refuses rq n = true ↔ rq ≠ .rest ∨ 3 < n := by
  have hst : (s.pwr.st == .dormant || s.pwr.st == .waking) = true := by simpa using hs
  unfold State.refuses
  cases rq <;> simp [hi, hst]

theorem State.busRead_refused {s : State} {a : Access} (h : s.refuses a.rq a.page = true) : s.busRead a = s.refuseRead a := by
  simp [State.busRead, h]

theorem State.busWrite_refused {s : State} {a : Access} (h : s.refuses a.rq a.page = true) (v : Word) :
    s.busWrite a v = s.refuseWrite a := by
  simp [State.busWrite, State.access, h]

theorem Cause.code_ne_zero (c : Cause) : BitVec.ofNat 4 c.code ≠ 0 := by cases c <;> decide

/-- A fault leaves a cause in PG_ERR_INFO and PG_EVENT.ERR set (R295). -/
theorem State.recordFault_shows {s : State} (hl : s.hdrs.length = 20) (p : Page) (c : Cause) (rq : Requester) (w : BitVec 18) :
    ((s.recordFault p c rq w).hdr p).err.cause ≠ 0 ∧ ((s.recordFault p c rq w).hdr p).event.getLsbD 0 = true := by
  unfold State.recordFault
  dsimp only
  rw [State.hdr_setHdr_self hl]
  refine ⟨?_, by simp⟩
  by_cases h0 : (s.hdr p).err.cause = 0
  · simpa [h0] using c.code_ne_zero
  · rw [if_neg h0]
    exact h0

/-- A performed read over a port that does not wait, whatever waits at it. -/
theorem State.busRead_performed {s : State} {rq : Requester} {p : Page} {off : Nat} (hr : s.refuses rq p.number = false)
    (hp : s.pagePresent p = true) (ho : off % 4 = 0) (hw : s.readWaits p off = false) :
    s.busRead (accessOf rq p off) = (s.readReg rq p off).1.answerRead (accessOf rq p off) (s.readReg rq p off).2 := by
  simp [State.busRead, accessOf, hr, hp, ho, hw]

theorem State.busWrite_performed {s : State} {rq : Requester} {p : Page} {off : Nat} (hr : s.refuses rq p.number = false)
    (hp : s.pagePresent p = true) (ho : off % 4 = 0) (v : Word) :
    s.busWrite (accessOf rq p off) v = (s.writeReg rq p off v).answerWrite (accessOf rq p off) := by
  simp [State.busWrite, State.access, accessOf, hr, hp, ho]

theorem State.readWaits_alwaysOn (s : State) {p : Page} (h : p.alwaysOn = true) (off : Nat) : s.readWaits p off = false := by
  cases p <;> simp [Page.alwaysOn] at h <;> rfl

/-- Settles O10: asleep, `refuses` is true but for REST at the first four pages, and those accesses are performed. -/
theorem refusedAccess : Obligations.RefusedAccess := by
  intro s hi hs
  have href := State.refuses_iff_asleep hi hs
  refine ⟨fun a ha => ?_, fun core r hc => ?_, fun rq r v ha hc => ?_, fun p off v hp ho => ?_⟩
  · have hra := (href a.rq a.page).2 ha
    rw [State.busRead_refused hra]
    refine ⟨?_, fun v => ?_, fun hl => State.recordFault_shows hl _ _ _ _⟩
    · simp [State.refuseRead, State.refuseAccess, hi, satAdd]
    · rw [State.busWrite_refused hra]
      simp [State.refuseWrite, State.refuseAccess, hi, satAdd]
  · have hra : s.refuses (.core core) (r.addr.toNat / 4096) = true := (href _ _).2 (Or.inl nofun)
    rw [exec_refusedRead r hc, State.busRead_refused hra]
    rfl
  · rw [exec_registerWrite_clear r v hc, State.busWrite_refused ((href _ _).2 ha)]
  · have hnr : s.refuses .rest p.number = false := by
      rw [Bool.eq_false_iff, Ne, href]
      have := Page.number_le_three_of_alwaysOn hp
      simp
      omega
    have hpp := s.pagePresent_of_alwaysOn hp
    exact ⟨State.busRead_performed hnr hpp ho (s.readWaits_alwaysOn hp off), State.busWrite_performed hnr hpp ho v⟩

end Sys2Proof.Machine

/-! PROOFS. Chapter 0, register pairs (R14). -/
namespace Sys2Proof.Machine

/-! ## Association lists -/

section
variable {κ α : Type} [BEq κ] [LawfulBEq κ]

theorem lookupKey_setKey_self (k : κ) (a : α) (l : List (κ × α)) : lookupKey k (setKey k a l) = some a := by
  induction l with
  | nil => simp [setKey, lookupKey]
  | cons q r ih =>
    by_cases hk : k = q.1
    · simp [setKey, lookupKey, hk]
    · simp [setKey, lookupKey, hk, ih]

theorem lookupKey_setKey_other {k j : κ} (h : j ≠ k) (a : α) (l : List (κ × α)) :
    lookupKey j (setKey k a l) = lookupKey j l := by
  induction l with
  | nil => simp [setKey, lookupKey, h]
  | cons q r ih =>
    by_cases hk : k = q.1
    · subst hk
      simp [setKey, lookupKey, h]
    · simp [setKey, lookupKey, hk, ih]

theorem lookupKey_dropKey_other {k j : κ} (h : j ≠ k) (l : List (κ × α)) :
    lookupKey j (dropKey k l) = lookupKey j l := by
  induction l with
  | nil => rfl
  | cons q r ih =>
    by_cases hk : q.1 = k
    · have hd : dropKey k (q :: r) = dropKey k r := by simp [dropKey, hk]
      simp [hd, ih, lookupKey, hk, h]
    · have hd : dropKey k (q :: r) = q :: dropKey k r := by simp [dropKey, hk]
      simp [hd, ih, lookupKey]

end

/-! ## Reads of a half of a pair -/

theorem pairAt_aligned {p : Page} {off : Nat} {r : PairId × Bool} (h : pairAt p off = some r) : off % 4 = 0 := by
  unfold pairAt at h
  split at h
  case h_25 => cases h
  all_goals rfl

/-- No upper half is left to wait. -/
theorem State.readWaits_pairHi (s : State) {p : Page} {off : Nat} {pid : PairId} (h : pairAt p off = some (pid, true)) :
    s.readWaits p off = false := by
  unfold State.readWaits
  split
  · cases h
  · cases h
  · rfl

/-- After a read of a lower half: its requester has captured the upper half, and the pair clears where it is RC. -/
def State.afterLo (s : State) (rq : Requester) (pid : PairId) : State :=
  ({ s with pairs := { s.pairs with captured := setKey (rq, pid) ((s.pairValue pid).extractLsb' 32 32) s.pairs.captured } } :
    State).clearPair pid

theorem State.reads_pairLo {s : State} {rq : Requester} {p : Page} {off : Nat} {pid : PairId} (h : s.serves rq p)
    (hp : pairAt p off = some (pid, false)) (hw : s.readWaits p off = false) :
    s.reads rq p off =
      .next ((s.afterLo rq pid).answerRead (accessOf rq p off) ((s.pairValue pid).extractLsb' 0 32)) := by
  rw [State.reads_serves h (pairAt_aligned hp) hw, State.readReg_pair h.2.2 hp]
  rfl

theorem State.readPair_hi_captured {s : State} {rq : Requester} {pid : PairId} {w : Word}
    (h : lookupKey (rq, pid) s.pairs.captured = some w) :
    s.readPair rq pid true =
      (({ s with pairs := { s.pairs with captured := dropKey (rq, pid) s.pairs.captured } } : State), w) := by
  simp [State.readPair, State.pairHi, h]

theorem State.readPair_hi_current {s : State} {rq : Requester} {pid : PairId}
    (h : lookupKey (rq, pid) s.pairs.captured = none) :
    s.readPair rq pid true = (s.clearPair pid, (s.pairValue pid).extractLsb' 32 32) := by
  simp [State.readPair, State.pairHi, h, hi32]

/-- The lower half of a capture pair is its low word. -/
theorem Capture.dword_lo (c : Capture) : c.dword.extractLsb' 0 32 = c.lo := by
  unfold Capture.dword join64
  rw [BitVec.extractLsb'_append_eq_right]

theorem pairAt_rdPairAt (k : RdPair) : pairAt (rdPairAt k).1 (rdPairAt k).2 = some (rdPairId k, false) := by
  cases k <;> rfl

theorem State.readWaits_rdPairAt (s : State) (k : RdPair) : s.readWaits (rdPairAt k).1 (rdPairAt k).2 = false := by
  cases k <;> rfl

/-- Settles O14: each lower half is a read of `reads_pairLo`, an upper half spends a capture or reads the current value, and
the captures are an association list. -/
theorem pairReads : Obligations.PairReads := by
  intro s rq
  refine ⟨fun k h => State.reads_pairLo h (pairAt_rdPairAt k) (s.readWaits_rdPairAt k),
    fun h => State.reads_pairLo h rfl rfl, fun h => State.reads_pairLo h rfl rfl,
    fun h hr => State.reads_pairLo h rfl (by simp [State.readWaits, hr]), fun h => ?_, fun h => ?_,
    fun p off pid hp h => ?_, fun pid pid' rq' w hne => ?_⟩
  · have hlo := State.reads_pairLo (off := 0x04C) h rfl rfl
    rwa [show s.pairValue .chnRefuse = s.chn.refuse.dword from rfl, Capture.dword_lo] at hlo
  · have hlo := State.reads_pairLo (off := 0x054) h rfl rfl
    rwa [show s.pairValue .arvDrop = s.chn.drop.dword from rfl, Capture.dword_lo] at hlo
  · have hread := State.busRead_serves h (pairAt_aligned hp) (s.readWaits_pairHi hp)
    rw [State.readReg_pair h.2.2 hp] at hread
    refine ⟨fun w hw => ?_, fun hn => ?_⟩
    · rw [hread, State.readPair_hi_captured hw]
    · rw [hread, State.readPair_hi_current hn]
  · exact ⟨lookupKey_setKey_other hne _ _, lookupKey_dropKey_other hne _, lookupKey_setKey_self _ _ _⟩

/-! ## Writes of a half of a pair -/

/-- A pair's quantity replaced. -/
def State.setPair (k : WrPair) (s : State) (d : DWord) : State :=
  match k with
  | .lifeAnchor => s.setAnchor d
  | .treeChkVal => { s with tree := { s.tree with chkVal := d } }
  | .numSeed => { s with num := { s.num with seed := d } }
  | .schGen => { s with sch := { s.sch with gen := d } }

theorem State.writeReg_pairLo (s : State) (rq : Requester) (k : WrPair) (v : Word) :
    s.writeReg rq (wrPairAt k).1 (wrPairAt k).2 v = s.holdLo rq (wrPairId k) v := by
  cases k <;> rfl

theorem State.writeReg_pairHi (s : State) (rq : Requester) (k : WrPair) (v : Word) :
    s.writeReg rq (wrPairAt k).1 ((wrPairAt k).2 + 4) v = s.rwPair rq (wrPairAt k).1 (wrPairId k) v (State.setPair k) := by
  cases k <;> rfl

theorem wrPairAt_aligned (k : WrPair) : (wrPairAt k).2 % 4 = 0 := by cases k <;> rfl

theorem exec_pairLoWrite {s : State} {rq : Requester} {k : WrPair} (h : s.serves rq (wrPairAt k).1) (v : Word) :
    exec (.pairLoWrite rq k v) s =
      .next ((s.holdLo rq (wrPairId k) v).answerWrite (accessOf rq (wrPairAt k).1 (wrPairAt k).2)) := by
  rw [← State.writeReg_pairLo]
  exact State.writes_serves h (wrPairAt_aligned k) v

theorem exec_pairHiWrite {s : State} {rq : Requester} {k : WrPair} (h : s.serves rq (wrPairAt k).1) (v : Word) :
    exec (.pairHiWrite rq k v) s =
      .next ((s.rwPair rq (wrPairAt k).1 (wrPairId k) v (State.setPair k)).answerWrite
        (accessOf rq (wrPairAt k).1 ((wrPairAt k).2 + 4))) := by
  rw [← State.writeReg_pairHi]
  have := wrPairAt_aligned k
  exact State.writes_serves h (by omega) v

/-- Settles O15: a lower half is held, and `rwPair` joins an upper half to it; the rows of DL_NUM_SEED_HI and
DL_LIFE_ANCHOR_HI are that write of their pair. -/
theorem pairWrites : Obligations.PairWrites := by
  intro s rq k v h
  have hhi := exec_pairHiWrite h v
  cases k with
  | lifeAnchor => exact ⟨exec_pairLoWrite h v, hhi, nofun, fun _ => hhi⟩
  | treeChkVal => exact ⟨exec_pairLoWrite h v, hhi, nofun, nofun⟩
  | numSeed => exact ⟨exec_pairLoWrite h v, hhi, fun _ => hhi, nofun⟩
  | schGen => exact ⟨exec_pairLoWrite h v, hhi, nofun, nofun⟩

end Sys2Proof.Machine

/-! PROOFS. Chapter 0, LOCK (R12): what a register write keeps, what follows a block reset, and every command. -/
namespace Sys2Proof.Machine

/-! ## LOCK along an operation (R12) -/

/-- Every LOCK that `s` has set is set in `t`. -/
def State.LocksKept (s t : State) : Prop := ∀ p, (s.hdr p).lock = true → (t.hdr p).lock = true

theorem State.LocksKept.refl (s : State) : s.LocksKept s := fun _ h => h

theorem State.LocksKept.trans {s t u : State} (h1 : s.LocksKept t) (h2 : t.LocksKept u) : s.LocksKept u :=
  fun p h => h2 p (h1 p h)

theorem State.LocksKept.of_hdrs {s t : State} (h : t.hdrs = s.hdrs) : s.LocksKept t := by
  intro p hp
  simpa [State.hdr, h] using hp

theorem State.lock_eq_map (s : State) (p : Page) :
    (s.hdr p).lock = ((s.settings.headers[p.bit]?).map (·.1)).getD false := by
  simp only [State.hdr, State.settings, List.getD_eq_getElem?_getD, List.getElem?_map]
  cases s.hdrs[p.bit]? <;> rfl

/-- LOCK is a setting: what keeps the settings keeps every LOCK. -/
theorem State.LocksKept.of_settings {s t : State} (h : t.Keeps s.settings) : s.LocksKept t := by
  intro p hp
  have hs : t.settings = s.settings := h
  rwa [State.lock_eq_map, hs, ← State.lock_eq_map]

/-- A header put in place of one whose LOCK it has. -/
theorem State.LocksKept.setHdr (s : State) {p : Page} {x : PageHdr} (hx : (s.hdr p).lock = true → x.lock = true) :
    s.LocksKept (s.setHdr p x) := by
  intro q hq
  rw [State.hdr_setHdr]
  split
  · rename_i h
    exact hx (h.1 ▸ hq)
  · exact hq

theorem State.bumpSeq_locksKept (s : State) (p : Page) : s.LocksKept (s.bumpSeq p) := .setHdr s fun h => h

theorem State.recordFault_locksKept (s : State) (p : Page) (c : Cause) (rq : Requester) (w : BitVec 18) :
    s.LocksKept (s.recordFault p c rq w) := .setHdr s fun h => h

/-- A write of RW fields keeps every LOCK where the fields' update does. -/
theorem State.LocksKept.rw {s t : State} {p : Page} {off : Nat} (h : s.LocksKept t) : s.LocksKept (s.rw p off t) := by
  unfold State.rw
  split
  · exact h
  · exact h.trans (t.bumpSeq_locksKept p)

theorem State.LocksKept.rwPair {s : State} {rq : Requester} {p : Page} {pid : PairId} {v : Word} {f : State → DWord → State}
    (hf : ∀ u d, (f u d).hdrs = u.hdrs) : s.LocksKept (s.rwPair rq p pid v f) := by
  have ht : s.LocksKept (f (s.joinHi rq pid (s.pairValue pid) v).1 (s.joinHi rq pid (s.pairValue pid) v).2) :=
    .of_hdrs (hf _ _)
  unfold State.rwPair
  dsimp only
  split
  · exact ht
  · exact ht.trans (State.bumpSeq_locksKept _ p)

theorem State.LocksKept.regFault {s t : State} {p : Page} {c : Cause} {rq : Requester} {off : Nat} (h : s.LocksKept t) :
    s.LocksKept (t.regFault p c rq off) := h.trans (t.recordFault_locksKept p c rq _)

theorem State.LocksKept.send {s t : State} {m : OutMsg} (h : s.LocksKept t) : s.LocksKept (t.send m) := h

theorem State.LocksKept.ite {s t u : State} {b : Prop} [Decidable b] (ht : s.LocksKept t) (hu : s.LocksKept u) :
    s.LocksKept (if b then t else u) := by
  split
  · exact ht
  · exact hu

/-! ## A register write keeps LOCK -/

theorem State.writeHeader_locksKept (s : State) (p : Page) (off : Nat) (v : Word) : s.LocksKept (s.writeHeader p off v) := by
  unfold State.writeHeader
  dsimp only
  split
  · exact .setHdr s fun h => by simp [h]
  · exact .setHdr s fun h => h
  · exact .setHdr s fun h => h
  · exact .refl s

theorem State.requestDormant_keeps {c : Settings} {s : State} (h : s.Keeps c) : s.requestDormant.Keeps c := by
  unfold State.requestDormant
  extract_lets go
  have hgo : ∀ fromResting, (go s fromResting).Keeps c := by
    intro b
    dsimp only [go]
    split
    · exact State.refuseDormant_keeps h
    · exact State.writeBacks_keeps (State.setPwr_keeps _ h)
  split
  · exact hgo false
  · split
    · exact h
    · exact hgo true
  · exact hgo false
  · exact h

theorem State.pwrRequest_keeps {c : Settings} {s : State} (target : BitVec 2) (h : s.Keeps c) :
    (s.pwrRequest target).Keeps c := by
  unfold State.pwrRequest
  dsimp only
  split
  · exact State.requestDormant_keeps h
  · exact h
  · exact State.requestResting_keeps h
  · exact State.wake_keeps _ h

theorem State.writePwr_locksKept (s : State) (rq : Requester) (off : Nat) (v : Word) : s.LocksKept (s.writePwr rq off v) := by
  unfold State.writePwr
  split
  · have h : s.LocksKept (s.pwrRequest (v.extractLsb' 0 2)) := .of_settings (State.pwrRequest_keeps _ rfl)
    exact .ite h (h.trans (State.bumpSeq_locksKept _ _))
  · exact .rw (.of_hdrs rfl)
  · exact .rw (.of_hdrs rfl)
  · exact .ite (.rw (.of_hdrs rfl)) (.regFault (.refl s))
  · exact .refl s

theorem State.writeLife_locksKept (s : State) (rq : Requester) (off : Nat) (v : Word) :
    s.LocksKept (s.writeLife rq off v) := by
  have command : s.LocksKept (s.lifeCommand rq (bitsOf v 31 28)) := .of_settings (State.lifeCommand_keeps _ _ rfl)
  unfold State.writeLife
  exact .ite (.ite command (.regFault (.refl s)))
    (.ite (.of_hdrs rfl) (.ite (.rwPair fun _ _ => rfl) (.ite (.rw (.of_hdrs rfl)) (.refl s))))

theorem State.writeCal_locksKept (s : State) (rq : Requester) (off : Nat) (v : Word) : s.LocksKept (s.writeCal rq off v) := by
  unfold State.writeCal
  split
  · exact .refl s
  · exact .ite (.regFault (.refl s)) (.ite (.refl s) (.ite (.regFault (.refl s)) (.ite (.regFault (.refl s))
      (.send (.rw (.of_hdrs rfl))))))

/-- Releasing retained steps (R229). -/
theorem State.releaseAll_locksKept (s : State) (l : List Word) :
    s.LocksKept (l.foldl (fun u w => if stepAbove w u.img.checked then u.releaseStep w else u.freeStep w) s) := by
  refine .of_settings (foldl_keeps (fun u w hu => ?_) l rfl)
  split
  · exact State.releaseStep_keeps _ hu
  · exact State.freeStep_keeps _ hu

theorem State.writeImgLog_locksKept (s : State) (rq : Requester) (size : Bool) (v : Word) :
    s.LocksKept (s.writeImgLog rq size v) := by
  have released := s.releaseAll_locksKept (s.img.retained.map (·.step))
  unfold State.writeImgLog
  exact .ite (.regFault (.refl s)) (.ite (.regFault (.refl s)) (.rw
    (.ite (released.trans (.of_hdrs rfl)) (released.trans (.of_hdrs rfl)))))

theorem State.writeStage_locksKept (s : State) (rq : Requester) (size : Bool) (v : Word) :
    s.LocksKept (s.writeStage rq size v) := by
  unfold State.writeStage
  exact .ite (.regFault (.refl s)) (.ite (.rw (.of_hdrs rfl)) (.ite (.regFault (.refl s)) (.rw (.of_hdrs rfl))))

theorem State.writeImg_locksKept (s : State) (rq : Requester) (off : Nat) (v : Word) : s.LocksKept (s.writeImg rq off v) := by
  unfold State.writeImg
  split
  case h_1 => exact .of_hdrs rfl
  case h_4 => exact s.writeImgLog_locksKept _ _ _
  case h_5 => exact s.writeImgLog_locksKept _ _ _
  case h_9 => exact s.writeStage_locksKept _ _ _
  case h_10 => exact s.writeStage_locksKept _ _ _
  case h_11 => exact .refl s
  all_goals exact .rw (.of_hdrs rfl)

theorem State.inject_locksKept (s : State) (rq : Requester) (v : Word) : s.LocksKept (s.inject rq v) := by
  unfold State.inject
  exact .ite (.refl s) (.ite (.of_settings (State.flipBit_keeps _ _ rfl)) (.regFault (.refl s)))

theorem State.writeDbg_locksKept (s : State) (rq : Requester) (off : Nat) (v : Word) : s.LocksKept (s.writeDbg rq off v) := by
  unfold State.writeDbg
  split
  · exact .ite (.regFault (.rw (.of_hdrs rfl))) (.rw (.of_hdrs rfl))
  · exact .ite (.rw (.of_hdrs rfl)) (.refl s)
  · exact s.inject_locksKept rq v
  · exact .refl s

theorem State.writeCtxRegion_locksKept (s : State) (rq : Requester) (limit : Bool) (v : Word) :
    s.LocksKept (s.writeCtxRegion rq limit v) := by
  unfold State.writeCtxRegion
  exact .ite (.regFault (.refl s)) (.ite (.regFault (.refl s)) (.rw (.ite (.of_hdrs rfl) (.of_hdrs rfl))))

theorem State.writeCtx_locksKept (s : State) (rq : Requester) (off : Nat) (v : Word) : s.LocksKept (s.writeCtx rq off v) := by
  unfold State.writeCtx
  split
  · exact s.writeCtxRegion_locksKept _ _ _
  · exact s.writeCtxRegion_locksKept _ _ _
  · exact .rw (.of_hdrs rfl)
  · exact .rw (.of_hdrs rfl)
  · exact .refl s

theorem State.writeTreeCfg_locksKept (s : State) (rq : Requester) (imask : Bool) (v : Word) :
    s.LocksKept (s.writeTreeCfg rq imask v) := by
  unfold State.writeTreeCfg
  exact .ite (.regFault (.refl s)) (.rw (.ite (.of_hdrs rfl) (.of_hdrs rfl)))

theorem State.writeTree_locksKept (s : State) (rq : Requester) (off : Nat) (v : Word) :
    s.LocksKept (s.writeTree rq off v) := by
  unfold State.writeTree
  split
  · exact s.writeTreeCfg_locksKept _ _ _
  · exact s.writeTreeCfg_locksKept _ _ _
  · exact .of_hdrs rfl
  · exact .rwPair fun _ _ => rfl
  · exact .of_hdrs rfl
  · exact .refl s

theorem State.writeNum_locksKept (s : State) (rq : Requester) (off : Nat) (v : Word) : s.LocksKept (s.writeNum rq off v) := by
  unfold State.writeNum
  split
  · exact .of_hdrs rfl
  · exact .rwPair fun _ _ => rfl
  · exact .rw (.of_hdrs rfl)
  · exact .rw (.of_hdrs rfl)
  · exact .refl s

theorem State.writeTenBase_locksKept (s : State) (rq : Requester) (v : Word) : s.LocksKept (s.writeTenBase rq v) := by
  unfold State.writeTenBase
  exact .ite (.regFault (.refl s)) (.ite (.regFault (.refl s)) (.rw (.of_hdrs rfl)))

theorem State.writeTen_locksKept (s : State) (rq : Requester) (off : Nat) (v : Word) : s.LocksKept (s.writeTen rq off v) := by
  unfold State.writeTen
  split
  · exact s.writeTenBase_locksKept rq v
  · exact .rw (.of_hdrs rfl)
  · exact .rw (.of_hdrs rfl)
  · exact .refl s

theorem State.writeLogCtrl_locksKept (s : State) (v : Word) : s.LocksKept (s.writeLogCtrl v) := by
  unfold State.writeLogCtrl
  refine State.LocksKept.trans (.rw ?_) (.of_settings (State.pumpLog_keeps rfl))
  exact .of_hdrs rfl

theorem State.writeLogRing_locksKept (s : State) (rq : Requester) (size : Bool) (v : Word) :
    s.LocksKept (s.writeLogRing rq size v) := by
  unfold State.writeLogRing
  exact .ite (.regFault (.refl s)) (.ite (.regFault (.refl s)) (.rw (.ite (.of_hdrs rfl) (.of_hdrs rfl))))

theorem State.writeLogRd_locksKept (s : State) (rq : Requester) (v : Word) : s.LocksKept (s.writeLogRd rq v) := by
  unfold State.writeLogRd
  exact .ite (.regFault (.refl s)) (.rw (.of_hdrs rfl))

theorem State.writeLog_locksKept (s : State) (rq : Requester) (off : Nat) (v : Word) : s.LocksKept (s.writeLog rq off v) := by
  unfold State.writeLog
  split
  · exact s.writeLogCtrl_locksKept v
  · exact s.writeLogRing_locksKept _ _ _
  · exact s.writeLogRing_locksKept _ _ _
  · exact s.writeLogRd_locksKept _ _
  · exact .rw (.of_hdrs rfl)
  · exact .ite (.rw (.of_hdrs rfl)) (.refl s)

theorem State.writeSch_locksKept (s : State) (rq : Requester) (off : Nat) (v : Word) : s.LocksKept (s.writeSch rq off v) := by
  unfold State.writeSch
  split_ifs
  · exact .of_hdrs rfl
  · exact .rwPair fun _ _ => rfl
  · exact .rw (.of_hdrs rfl)
  · exact .rw (.of_hdrs rfl)
  · exact .of_hdrs rfl
  · exact .rw (.of_hdrs rfl)
  · exact .refl s

theorem State.writeSen_locksKept (s : State) (off : Nat) (v : Word) : s.LocksKept (s.writeSen off v) := by
  unfold State.writeSen
  split
  · exact .rw (.of_hdrs rfl)
  · exact .of_hdrs rfl
  · exact .refl s

theorem State.writeCnt_locksKept (s : State) (off : Nat) (v : Word) : s.LocksKept (s.writeCnt off v) := by
  unfold State.writeCnt
  split
  · exact .rw (.of_hdrs rfl)
  · exact .rw (.of_hdrs rfl)
  · exact .refl s

theorem State.writeTbl_locksKept (s : State) (off : Nat) (v : Word) : s.LocksKept (s.writeTbl off v) := by
  unfold State.writeTbl
  split
  · exact .rw (.of_hdrs rfl)
  · exact .rw (.of_hdrs rfl)
  · exact .rw (.of_hdrs rfl)
  · exact .refl s

theorem State.writePort_locksKept (s : State) (off : Nat) (v : Word) : s.LocksKept (s.writePort off v) := by
  unfold State.writePort
  exact .ite (.rw (.of_hdrs rfl)) (.refl s)

theorem State.writeEval_locksKept (s : State) (off : Nat) (v : Word) : s.LocksKept (s.writeEval off v) := by
  unfold State.writeEval
  exact .ite (.rw (.of_hdrs rfl)) (.refl s)

theorem State.writeCrz_locksKept (s : State) (off : Nat) (v : Word) : s.LocksKept (s.writeCrz off v) := by
  unfold State.writeCrz
  exact .ite (.rw (.of_hdrs rfl)) (.refl s)

theorem State.writeChn_locksKept (s : State) (off : Nat) (v : Word) : s.LocksKept (s.writeChn off v) := by
  unfold State.writeChn
  exact .ite (.of_hdrs rfl) (.refl s)

theorem State.writeArv_locksKept (s : State) (off : Nat) (v : Word) : s.LocksKept (s.writeArv off v) := by
  unfold State.writeArv
  exact .ite (.rw (.of_hdrs rfl)) (.ite (.of_hdrs rfl) (.refl s))

/-! ## A block reset, and what is performed during it -/

/-- From `s` to `t` a LOCK stays set, but for a block reset that `t` is still in. -/
def State.LocksStay (s t : State) : Prop := t.inReset = false → s.LocksKept t

theorem State.LocksKept.stay {s t : State} (h : s.LocksKept t) : s.LocksStay t := fun _ => h

theorem State.LocksStay.of_inReset {s t : State} (h : t.inReset = true) : s.LocksStay t := fun h2 => absurd h (by simp [h2])

/-- `t` follows `s` with LOCK kept, and a reset that has begun goes on. -/
structure State.GoesOn (s t : State) : Prop where
  reset : s.inReset = true → t.inReset = true
  locks : s.LocksStay t

theorem State.GoesOn.refl (s : State) : s.GoesOn s := ⟨id, (State.LocksKept.refl s).stay⟩

theorem State.LocksStay.trans {s t u : State} (h1 : s.LocksStay t) (h2 : t.GoesOn u) : s.LocksStay u := by
  intro hu
  have ht : t.inReset = false := by
    rw [Bool.eq_false_iff]
    intro ht
    simp [h2.reset ht] at hu
  exact (h1 ht).trans (h2.locks hu)

theorem State.GoesOn.trans {s t u : State} (h1 : s.GoesOn t) (h2 : t.GoesOn u) : s.GoesOn u :=
  ⟨fun h => h2.reset (h1.reset h), h1.locks.trans h2⟩

@[simp] theorem State.answerRead_inReset (s : State) (a : Access) (v : Word) (st : Nat) :
    (s.answerRead a v st).inReset = s.inReset := by
  unfold State.answerRead
  split <;> rfl

@[simp] theorem State.answerWrite_inReset (s : State) (a : Access) (st : Nat) :
    (s.answerWrite a st).inReset = s.inReset := by
  unfold State.answerWrite
  split <;> rfl

@[simp] theorem State.answerWrite_hdrs (s : State) (a : Access) (st : Nat) : (s.answerWrite a st).hdrs = s.hdrs := by
  unfold State.answerWrite
  split <;> rfl

/-- An access refused in a reset starts no wake (log entry 63). -/
theorem State.refuseAccess_inReset {s : State} (h : s.inReset = true) (a : Access) : (s.refuseAccess a).inReset = true := by
  have hw : (s.pwr.autowake && !s.inReset) = false := by simp [h]
  simp only [State.refuseAccess, hw, Bool.false_eq_true, if_false]
  exact h

theorem State.refuseRead_inReset {s : State} (h : s.inReset = true) (a : Access) : (s.refuseRead a).inReset = true := by
  simp [State.refuseRead, State.refuseAccess_inReset h]

theorem State.refuseWrite_inReset {s : State} (h : s.inReset = true) (a : Access) : (s.refuseWrite a).inReset = true := by
  simp [State.refuseWrite, State.refuseAccess_inReset h]

theorem State.startReset_inReset (s : State) (cause : BitVec 2) : (s.startReset cause).inReset = true := by
  unfold State.startReset
  refine List.foldlRecOn (motive := fun u : State => u.inReset = true) _ _ rfl fun u hu w _ => ?_
  exact State.refuseRead_inReset hu _

theorem State.powerOn_inReset (s : State) : s.powerOn.inReset = true := State.startReset_inReset _ _

/-- In a reset GLB alone is served (R300). -/
theorem Page.eq_glb_of_served {s : State} (h : s.inReset = true) {rq : Requester} {n : Nat} (hr : ¬ s.refuses rq n = true)
    {p : Page} (hp : pageOf n = some p) : p = .glb := by
  have hn : n = 0 := by simpa [State.refuses, h] using hr
  subst hn
  have hg : pageOf 0 = some .glb := rfl
  rw [hg] at hp
  cases hp
  rfl

theorem State.writeGlb_locksStay (s : State) (rq : Requester) (off : Nat) (v : Word) : s.LocksStay (s.writeGlb rq off v) := by
  unfold State.writeGlb
  split
  · split
    · exact .of_inReset (s.startReset_inReset 2)
    · exact (State.LocksKept.regFault (.refl s)).stay
  · exact (State.LocksKept.refl s).stay

theorem State.writeReg_locksStay (s : State) (rq : Requester) (p : Page) (off : Nat) (v : Word) :
    s.LocksStay (s.writeReg rq p off v) := by
  unfold State.writeReg
  split
  · exact (s.writeHeader_locksKept _ _ _).stay
  · split
    · exact (State.LocksKept.of_settings (State.commandWrite_keeps _ _ _ _ rfl)).stay
    · cases p with
      | glb => exact s.writeGlb_locksStay _ _ _
      | pwr => exact (s.writePwr_locksKept _ _ _).stay
      | life => exact (s.writeLife_locksKept _ _ _).stay
      | cal => exact (s.writeCal_locksKept _ _ _).stay
      | port => exact (s.writePort_locksKept _ _).stay
      | eval => exact (s.writeEval_locksKept _ _).stay
      | tbl => exact (s.writeTbl_locksKept _ _).stay
      | crz => exact (s.writeCrz_locksKept _ _).stay
      | chn => exact (s.writeChn_locksKept _ _).stay
      | arv => exact (s.writeArv_locksKept _ _).stay
      | ctx => exact (s.writeCtx_locksKept _ _ _).stay
      | tree => exact (s.writeTree_locksKept _ _ _).stay
      | num => exact (s.writeNum_locksKept _ _ _).stay
      | ten => exact (s.writeTen_locksKept _ _ _).stay
      | log => exact (s.writeLog_locksKept _ _ _).stay
      | sch => exact (s.writeSch_locksKept _ _ _).stay
      | sen => exact (s.writeSen_locksKept _ _).stay
      | img => exact (s.writeImg_locksKept _ _ _).stay
      | cnt => exact (s.writeCnt_locksKept _ _).stay
      | dbg => exact (s.writeDbg_locksKept _ _ _).stay

theorem State.writeHeader_inReset (s : State) (p : Page) (off : Nat) (v : Word) :
    (s.writeHeader p off v).inReset = s.inReset := by
  unfold State.writeHeader
  dsimp only
  split <;> rfl

theorem State.writeReg_glb_inReset {s : State} (h : s.inReset = true) (rq : Requester) (off : Nat) (v : Word) :
    (s.writeReg rq .glb off v).inReset = true := by
  unfold State.writeReg
  split
  · rw [State.writeHeader_inReset, h]
  · change (s.writeGlb rq off v).inReset = true
    unfold State.writeGlb
    split
    · split
      · exact s.startReset_inReset 2
      · exact h
    · exact h

theorem State.readReg_glb_inReset {s : State} (h : s.inReset = true) (rq : Requester) (off : Nat) :
    (s.readReg rq .glb off).1.inReset = true := by
  have hp : s.pagePresent .glb = true := s.pagePresent_of_alwaysOn rfl
  have hc : (s.clearRead .glb off).inReset = true := by
    unfold State.clearRead
    split
    · exact h
    · exact h
  simpa [State.readReg, hp, pairAt] using hc

theorem State.busRead_inReset {s : State} (h : s.inReset = true) (a : Access) : (s.busRead a).inReset = true := by
  unfold State.busRead
  split
  · exact State.refuseRead_inReset h a
  · rename_i hr
    split
    · simpa using h
    · rename_i p hp
      cases Page.eq_glb_of_served h hr hp
      have hg := State.readReg_glb_inReset h a.rq a.off
      have hpp : s.pagePresent .glb = true := s.pagePresent_of_alwaysOn rfl
      have hw := s.readWaits_alwaysOn (p := .glb) rfl a.off
      rw [hpp, hw]
      split
      · rw [State.answerRead_inReset]
        exact h
      · simpa using hg

theorem State.busWrite_inReset {s : State} (h : s.inReset = true) (a : Access) (v : Word) :
    (s.busWrite a v).inReset = true := by
  unfold State.busWrite State.access
  split
  · exact State.refuseWrite_inReset h a
  · rename_i hr
    rw [State.answerWrite_inReset]
    split
    · exact h
    · rename_i p hp
      cases Page.eq_glb_of_served h hr hp
      split
      · exact h
      · split
        · exact h
        · exact State.writeReg_glb_inReset h _ _ _

theorem State.busWrite_locksStay (s : State) (a : Access) (v : Word) : s.LocksStay (s.busWrite a v) := by
  have answer : ∀ t : State, s.LocksStay t → s.LocksStay (t.answerWrite a) := by
    intro t ht hr
    rw [State.answerWrite_inReset] at hr
    exact (ht hr).trans (.of_hdrs (State.answerWrite_hdrs _ _ _))
  unfold State.busWrite State.access
  split
  · exact (State.LocksKept.of_settings (State.refuseWrite_keeps _ rfl)).stay
  · refine answer _ ?_
    split
    · exact (State.LocksKept.refl s).stay
    · split
      · exact (State.LocksKept.refl s).stay
      · split
        · exact (s.recordFault_locksKept _ _ _ _).stay
        · exact s.writeReg_locksStay _ _ _ _

/-! ## Accesses in order -/

theorem State.perform_goesOn (s : State) (b : BusReq) : s.GoesOn (s.perform b) := by
  unfold State.perform
  split
  · exact ⟨fun h => State.busRead_inReset h _, (State.LocksKept.of_settings (State.busRead_keeps _ rfl)).stay⟩
  · exact ⟨fun h => State.busWrite_inReset h _ _, s.busWrite_locksStay _ _⟩

theorem State.drainBus_goesOn (n : Nat) (s : State) : s.GoesOn (s.drainBus n) := by
  induction n generalizing s with
  | zero => exact .refl s
  | succ n ih =>
    rw [State.drainBus]
    split
    · exact .refl s
    · rename_i b _
      have taken : s.GoesOn { s with port := { s.port with behind := s.port.behind.erase b } } := ⟨id, fun _ _ h => h⟩
      exact taken.trans ((State.perform_goesOn _ b).trans (ih _))

theorem State.busGo_goesOn (s : State) : s.GoesOn s.busGo := s.drainBus_goesOn _

theorem State.portAccess_goesOn (s : State) (b : BusReq) : s.GoesOn (s.portAccess b) := by
  unfold State.portAccess
  split
  · split
    · exact s.perform_goesOn b
    · exact (s.perform_goesOn b).trans (State.busGo_goesOn _)
  · split
    · exact .refl s
    · exact ⟨id, fun _ _ h => h⟩

/-- Nothing settles in a reset. -/
theorem State.settle_goesOn (s : State) : s.GoesOn s.settle :=
  ⟨fun h => by simp [State.settle, h], (State.LocksKept.of_settings (State.settle_keeps rfl)).stay⟩

/-! ## Commands -/

/-- An answer in which every LOCK of `s` stays set, but for a block reset. -/
def State.AnswersLocked (s : State) (a : Answer) : Prop := ∀ t, a = .next t → s.LocksStay t

namespace State.AnswersLocked

variable {s t u : State}

theorem next (h : s.LocksStay t) : s.AnswersLocked (.next t) := by
  rintro _ ⟨⟩
  exact h

theorem keeps (h : t.Keeps s.settings) : s.AnswersLocked (.next t) := next (State.LocksKept.of_settings h).stay

theorem access (b : BusReq) : s.AnswersLocked (.next (s.portAccess b)) := next (s.portAccess_goesOn b).locks

/-- What keeps the settings, and then the accesses that waited. -/
theorem keepsThen (h : u.Keeps s.settings) (hg : u.GoesOn t) : s.AnswersLocked (.next t) :=
  next ((State.LocksKept.of_settings h).stay.trans hg)

theorem clocked {act : State → State} (h : s.LocksStay (act s)) : s.AnswersLocked (s.clocked act) := by
  refine next ?_
  split
  · exact h.trans (State.settle_goesOn _)
  · exact (State.LocksKept.refl s).stay

theorem clockedKeeps {act : State → State} (h : ∀ c u, u.Keeps c → (act u).Keeps c) : s.AnswersLocked (s.clocked act) :=
  clocked (State.LocksKept.of_settings (h _ _ rfl)).stay

theorem taken {h : Header} {act : State → State} (ha : ∀ c u, u.Keeps c → (act u).Keeps c) :
    s.AnswersLocked (s.taken h act) :=
  keeps (State.takeP3_keeps _ _ rfl fun _ _ hu => State.settle_keeps (ha _ _ (State.returnP3_keeps _ _ hu)))

theorem treeTaken {via : TreeVia} {m : TreeMsg} {act : State → State} (ha : ∀ c u, u.Keeps c → (act u).Keeps c) :
    s.AnswersLocked (s.treeTaken via m act) := by
  refine keeps ?_
  cases via with
  | p4 => exact State.takeP4_keeps _ _ rfl fun _ hu => State.settle_keeps (ha _ _ hu)
  | remote => exact State.takeP3_keeps _ _ rfl fun _ _ hu => State.settle_keeps (ha _ _ hu)

end State.AnswersLocked

theorem State.wakeFrame_keeps {c : Settings} {s : State} (f : BitVec 80) (h : s.Keeps c) : (s.wakeFrame f).Keeps c := by
  unfold State.wakeFrame
  split
  · exact h
  · split
    · split
      · exact h
      · exact State.wake_keeps _ h
    · exact State.wake_keeps _ h
    · exact h

theorem State.grantFrame_keeps {c : Settings} {s : State} (f : BitVec 80) (h : s.Keeps c) : (s.grantFrame f).Keeps c := by
  unfold State.grantFrame State.grantWord
  dsimp only
  split
  · exact h
  · split
    · split
      · exact State.setGrant_keeps _ h
      · exact h
    · exact State.setGrant_keeps _ h

theorem State.restRequest_locksStay (s : State) (f : BitVec 80) (v : Option Word) : s.LocksStay (s.restRequest f v) := by
  unfold State.restRequest
  dsimp only
  split
  · exact (State.LocksKept.refl s).stay
  · split
    · exact (State.LocksKept.of_settings (State.restDrop_keeps _ rfl)).stay
    · exact (s.portAccess_goesOn _).locks

theorem State.restFrame_locksStay (s : State) (f : BitVec 80) : s.LocksStay (s.restFrame f) := by
  have drop : s.LocksStay (s.restDrop f) := (State.LocksKept.of_settings (State.restDrop_keeps _ rfl)).stay
  unfold State.restFrame
  split
  · exact drop
  · split
    · exact s.restRequest_locksStay _ _
    · exact s.restRequest_locksStay _ _
    · exact (State.LocksKept.of_settings (State.wakeFrame_keeps _ rfl)).stay
    · exact (State.LocksKept.of_settings (State.grantFrame_keeps _ rfl)).stay
    · exact drop

/-- An image that is resumed writes settings, and no header but the events of IMG. -/
theorem State.resume_locksKept (s : State) : s.LocksKept s.resume := by
  unfold State.resume
  dsimp only
  split
  · refine .trans ?_ (.of_settings (State.takeTokens_keeps (State.pageEvent_keeps _ _ (State.logEvent_keeps _ _ _ _ _ _ _
      (State.scheduleToken_keeps (State.judgeAll_keeps (State.ageChecks_keeps (State.sentinelToken_keeps rfl))))))))
    exact .of_hdrs rfl
  · exact .refl s

theorem State.loadCal_locksKept (s : State) (trim : BitVec 9) (guard : List (BitVec 10)) (coef thr : List (BitVec 16)) :
    s.LocksKept (s.loadCal trim guard coef thr) := by
  unfold State.loadCal
  refine .trans ?_ (.of_settings (State.startHeldWake_keeps rfl))
  exact .of_hdrs rfl

/-! The commands that do more than one operation. -/

theorem execTreeCheck_locked (via : TreeVia) (m : TreeMsg) (s : State) : s.AnswersLocked (execTreeCheck via m s) := by
  unfold execTreeCheck
  refine .treeTaken fun c u hu => ?_
  have hc := State.takeCheck_keeps m hu
  dsimp only
  split
  · exact State.skewResult_keeps _ _ _ hc
  · exact hc

theorem execScrubRead_locked (s : State) : s.AnswersLocked (execScrubRead s) := by
  unfold execScrubRead
  refine .clockedKeeps fun c u hu => ?_
  split
  · exact State.scrub_keeps hu
  · exact hu

theorem execLifeCmdDone_locked (s : State) : s.AnswersLocked (execLifeCmdDone s) := by
  refine .keeps ?_
  split
  · rfl
  · exact State.lifeDone_keeps rfl

theorem execEventQueueFlush_locked (s : State) : s.AnswersLocked (execEventQueueFlush s) := by
  refine .keeps ?_
  split
  · rfl
  · exact State.pumpLog_keeps rfl

/-- The copy ends, and the accesses behind the reads that waited for it go on. -/
theorem execCntFrozen_locked (s : State) : s.AnswersLocked (execCntFrozen s) := by
  unfold execCntFrozen
  exact .clocked ((State.LocksKept.of_settings (State.frozen_keeps rfl)).stay.trans (State.busGo_goesOn _))

theorem execImgResumed_locked (s : State) : s.AnswersLocked (execImgResumed s) := by
  unfold execImgResumed
  exact .clocked s.resume_locksKept.stay

/-- Every command leaves LOCK set, but for a block reset that it begins. The commands that are not named are each one
register access. -/
theorem exec_locked (c : Instr) (s : State) : s.AnswersLocked (exec c s) := by
  cases c with
  | doorbell h => exact .taken fun _ _ => State.takeBell_keeps _
  | step h => exact .taken fun _ _ => State.stepToken_keeps _
  | imgFrag h => exact .taken fun _ _ => State.fragBell_keeps _
  | fault h => exact .taken fun _ _ => State.faultNotice_keeps _ _
  | treeTile h => exact .taken fun _ _ => State.pairTile_keeps _
  | arvBadType h => exact .taken fun _ _ => State.takeBad_keeps _
  | treeUp via m => exact .treeTaken fun _ _ => State.takeHeld_keeps _ _
  | treeDown via m => exact .treeTaken fun _ _ => State.takeHeld_keeps _ _
  | treeCheck via m => exact execTreeCheck_locked via m s
  | treeNodeMerge slot => exact .clockedKeeps fun _ _ => State.treeNode_keeps _
  | laneRequestEval g r => exact .keeps (State.settle_keeps (State.takeLane_keeps _ _ rfl))
  | laneRequestFetch g h => exact .keeps (State.settle_keeps (State.takeLane_keeps _ _ rfl))
  | spadReadData id data => exact .keepsThen (State.readAnswer_keeps _ _ rfl) (State.busGo_goesOn _)
  | spadWriteAck id err => exact .keeps (State.writeAnswer_keeps _ _ rfl)
  | submissionCheck => exact .clockedKeeps fun _ _ => State.submissionStep_keeps
  | workItemIssue n => exact .clockedKeeps fun _ _ => State.issue_keeps _
  | evaluationResult id => exact .clockedKeeps fun _ _ => State.evalResult_keeps _
  | sorusRefetch id => exact .clockedKeeps fun _ _ => State.sorusRefetch_keeps _
  | partialCapsuleFold slot => exact .clockedKeeps fun _ _ => State.fold_keeps _
  | rowBlockComplete slot => exact .clockedKeeps fun _ _ => State.rowBlock_keeps _
  | residencyFillDone => exact .clockedKeeps fun _ _ => State.fillDone_keeps
  | tensorWindowClose tid => exact .clockedKeeps fun _ _ => State.closeWindow_keeps _
  | etaFormed g => exact .clockedKeeps fun _ _ => State.formEta_keeps _
  | scrubRead => exact execScrubRead_locked s
  | sentinelJudge => exact .clockedKeeps fun _ _ => State.judgeSample_keeps
  | senSelftest => exact .clockedKeeps fun _ _ => State.selfTest_keeps
  | tblCmdDone => exact .clockedKeeps fun _ _ => State.tblCmdDone_keeps
  | epochSwitchAccept => exact .clockedKeeps fun _ _ => State.switchAccept_keeps
  | ctxCmdDone => exact .clockedKeeps fun _ _ => State.ctxCmdDone_keeps
  | tenCmdDone => exact .clockedKeeps fun _ _ => State.tenCmdDone_keeps
  | exportBegin => exact .clockedKeeps fun _ _ => State.exportBegin_keeps
  | imgCmdDone => exact .clockedKeeps fun _ _ => State.imgCmdDone_keeps
  | fragmentCopyDone => exact .clockedKeeps fun _ _ => State.fragCopyDone_keeps
  | imageChecks => exact .clockedKeeps fun _ _ => State.imageChecks_keeps
  | imgResumed => exact execImgResumed_locked s
  | cntFrozen => exact execCntFrozen_locked s
  | lifeCmdDone => exact execLifeCmdDone_locked s
  | eventQueueFlush => exact execEventQueueFlush_locked s
  | idleRest => exact .keeps (State.idleExpires_keeps rfl)
  | enterResting => exact .keeps (State.enterResting_keeps rfl)
  | dormantSecondCheck => exact .keeps (State.secondCheck_keeps rfl)
  | recallAck via w => exact .keeps (State.recallAnswer_keeps _ _ rfl)
  | dormantEntry => exact .keeps (State.enterDormant_keeps rfl)
  | wakingDone => exact .keeps (State.wakingDone_keeps rfl)
  | restingToReady => exact .keeps (State.nowReady_keeps rfl)
  | vddOk ok => exact .keeps (State.vddReport_keeps _ rfl)
  | guardBandEntry mV => exact .keeps (State.guardEntry_keeps _ rfl)
  | guardBandRelease mV => exact .keeps (State.guardRelease_keeps _ rfl)
  | grantExpiry => exact .keeps (State.grantExpires_keeps rfl)
  | forecast f r => exact .keeps (State.forecastSlot_keeps _ rfl)
  | ballastHoldEnd => exact .keeps (State.holdEnds_keeps rfl)
  | outboundCreditWord g => exact .keeps (State.creditIn_keeps _ _ rfl)
  | blockResetEnd => exact .keeps (State.endReset_keeps rfl)
  | lifetimeSecond mV temp => exact .keeps (State.second_keeps _ _ rfl)
  | portMessageAccepted m => exact .keeps (State.ingress_keeps _ rfl)
  | grant f | wake f | restRd f | restWr f => exact .next (s.restFrame_locksStay f)
  | hostChipReset => exact .next (State.LocksStay.trans (.of_inReset (s.startReset_inReset 1)) (State.busGo_goesOn _))
  | alwaysOnPowerOn => exact .next (.of_inReset s.powerOn_inReset)
  | calibrationLoad trim guard coef thr => exact .next (s.loadCal_locksKept _ _ _ _).stay
  | gwdCompat3Change level => exact .next (State.LocksKept.of_hdrs (s.strapLevel_hdrs level)).stay
  | _ => exact .access _

/-- A write of PG_CTRL without LOCK changes nothing (R12). -/
theorem State.writeReg_lock_zero {s : State} (hl : s.hdrs.length = 20) (rq : Requester) (p : Page) {v : Word}
    (hv : v.getLsbD 31 = false) : s.writeReg rq p 0x008 v = s := by
  have hb : bitOf v 31 = false := hv
  calc s.writeReg rq p 0x008 v = s.setHdr p { s.hdr p with lock := (s.hdr p).lock || bitOf v 31 } := rfl
    _ = s.setHdr p (s.hdr p) := by rw [hb, Bool.or_false]
    _ = s := State.setHdr_hdr hl p

/-- Settles O11: `exec_locked` for every command, and a write of 0 to LOCK puts a header in place of itself. -/
theorem lockStays : Obligations.LockStays := by
  refine ⟨fun c s t p he hr hp => exec_locked c s t he hr p hp, fun s p rq v hs hl hv => ?_⟩
  have hw := (exec_registerWrite s rq p 0x008 v).trans (congrArg _ (State.portAccess_clear hs.1))
  rw [show s.perform { a := accessOf rq p (0x008 : BitVec 12).toNat, v := some v } = s.busWrite (accessOf rq p 0x008) v from rfl,
    State.busWrite_serves hs rfl, State.writeReg_lock_zero hl rq p hv] at hw
  exact hw

end Sys2Proof.Machine

/-! PROOFS. Chapter 1, settings: a write of a command register that comes behind a read of its requester (R261) does not act,
but joins the writes that wait, and those are settings. -/
namespace Sys2Proof.Machine

/-- An access whose requester waits for a read joins the accesses behind, while fewer than 8 are taken (R261, R268). -/
theorem State.portAccess_behind {s : State} {b : BusReq} (hw : s.readHeld b.a.rq = true) (hl : (s.busTaken b.a.rq).length < 8) :
    s.portAccess b = { s with port := { s.port with behind := s.port.behind ++ [b] } } := by
  have hne : s.busTaken b.a.rq ≠ [] := by
    obtain ⟨w, hmem, hrq⟩ := List.any_eq_true.1 hw
    refine List.ne_nil_of_mem (a := w.access) (List.mem_append_left _ (List.mem_map_of_mem ?_))
    exact List.mem_filter.2 ⟨hmem, hrq⟩
  unfold State.portAccess
  split
  · contradiction
  · rw [if_neg (by omega)]

/-- A write that joins the accesses behind is one setting more. -/
theorem State.settings_portAccess_behind {s : State} {b : BusReq} (hv : b.v.isSome = true) (hw : s.readHeld b.a.rq = true)
    (hl : (s.busTaken b.a.rq).length < 8) : (s.portAccess b).settings.writes = s.settings.writes ++ [b] := by
  rw [State.portAccess_behind hw hl]
  simp [State.settings, hv]

theorem State.settings_ne_of_behind {s : State} {b : BusReq} (hv : b.v.isSome = true) (hw : s.readHeld b.a.rq = true)
    (hl : (s.busTaken b.a.rq).length < 8) : (s.portAccess b).settings ≠ s.settings := by
  intro h
  have hwrites := State.settings_portAccess_behind hv hw hl
  simp [h] at hwrites

/-- An answer is a next state of which `p` is true. -/
def Answer.meets (p : State → Bool) : Answer → Bool
  | .next s => p s
  | .fault _ | .refused _ => false

theorem Answer.exists_of_meets {p : State → Bool} {a : Answer} (h : a.meets p = true) : ∃ s, a = .next s ∧ p s = true := by
  cases a with
  | next s => exact ⟨s, rfl, h⟩
  | fault r => cases h
  | refused r => cases h

/-- From reset: core 2 arms a freeze (NEXT), a STEP token starts the copy, and the core reads DL_CNT_SHADOW_LO before
counter 0 is in the shadow (R305). -/
def shadowReadEarly : Answer :=
  Sys2Proof.core.run 3 { State.reset with
    pending := [.next (.core 2) 0x20000000, .step (2 <<< 28), .dlCntShadowLoRead (.core 2)] }

/-- The read waits alone: nothing is behind it. -/
theorem shadowReadEarly_waits :
    ∃ s, shadowReadEarly = .next s ∧ s.readHeld (.core 2) = true ∧ s.port.behind = [] ∧ (s.busTaken (.core 2)).length = 1 := by
  have h : shadowReadEarly.meets
      (fun s => s.readHeld (.core 2) && s.port.behind.isEmpty && (s.busTaken (.core 2)).length == 1) = true := by
    decide +kernel
  obtain ⟨s, hs, hp⟩ := Answer.exists_of_meets h
  simp only [Bool.and_eq_true, List.isEmpty_iff, beq_iff_eq] at hp
  obtain ⟨⟨hw, hb⟩, hl⟩ := hp
  exact ⟨s, hs, hw, hb, hl⟩

/-- What LOAD_ENTRIES of core 2 puts at its port. -/
def loadEntriesWrite : BusReq := { a := accessOf (.core 2) .tbl 0x044, v := some (setBits 0x10000000 31 28 1) }

/-- Refutes O6, in its first clause: LOAD_ENTRIES of core 2 while a read of that core waits and nothing is behind it. No
write waits before the command, as the hypothesis asks; after it the command's own write waits. -/
theorem not_happeningsKeepSettings : ¬ Obligations.HappeningsKeepSettings := by
  unfold Obligations.HappeningsKeepSettings
  rintro ⟨hkeep, -⟩
  obtain ⟨s, -, hw, hb, hl⟩ := shadowReadEarly_waits
  have hkept : (s.portAccess loadEntriesWrite).settings = s.settings :=
    hkeep (.loadEntries (.core 2) 0x10000000) s _ rfl (by simp [hb]) rfl
  have hplace : (s.busTaken loadEntriesWrite.a.rq).length < 8 := hl.trans_lt (by decide)
  exact State.settings_ne_of_behind rfl hw hplace hkept

end Sys2Proof.Machine

/-! PROOFS. Chapter 2, rounding: the value of a code, where a quotient lies between two codes (R25, R43), and exact values
(R35). -/
namespace Sys2Proof.Machine

/-! ## Powers of two -/

/-- A quotient times a power of two, as `roundUnits` and `gePow2` form it from naturals. -/
theorem natPow_div_eq_zpow (n d : Nat) (k : Int) :
    (n : ℚ) / d / 2 ^ k = if k ≥ 0 then (n : ℚ) / (d * 2 ^ k.toNat : Nat) else ((n * 2 ^ (-k).toNat : Nat) : ℚ) / d := by
  split
  · obtain ⟨m, rfl⟩ := Int.eq_ofNat_of_zero_le (by assumption)
    simp [div_div]
  · obtain ⟨m, hm⟩ := Int.eq_ofNat_of_zero_le (show 0 ≤ -k by omega)
    obtain rfl : k = -(m : Int) := by omega
    simp [div_eq_mul_inv]
    ring

theorem gePow2_iff {n d : Nat} (hd : 0 < d) (k : Int) : gePow2 n d k = true ↔ (2 : ℚ) ^ k ≤ n / d := by
  have hd' : (0 : ℚ) < d := by exact_mod_cast hd
  rw [← one_le_div (by positivity), natPow_div_eq_zpow]
  unfold gePow2
  split
  · rw [one_le_div (by positivity), decide_eq_true_iff, Nat.cast_le]
  · rw [one_le_div hd', decide_eq_true_iff, Nat.cast_le]

/-- `log2` of a natural, as the integer logarithm of a quotient over 1. -/
theorem zpow_log2_bounds {n : Nat} (hn : 0 < n) : (2 : ℚ) ^ (n.log2 : Int) ≤ n ∧ (n : ℚ) < 2 ^ ((n.log2 : Int) + 1) := by
  have h1 : 2 ^ n.log2 ≤ n := Nat.log2_self_le hn.ne'
  have h2 : n < 2 ^ (n.log2 + 1) := Nat.lt_log2_self
  constructor
  · exact_mod_cast h1
  · exact_mod_cast h2

theorem floorLog2_eq_log {n d : Nat} (hn : 0 < n) (hd : 0 < d) : floorLog2 n d = Int.log 2 ((n : ℚ) / d) := by
  obtain ⟨hn1, hn2⟩ := zpow_log2_bounds hn
  obtain ⟨hd1, hd2⟩ := zpow_log2_bounds hd
  have hd0 : (0 : ℚ) < d := by exact_mod_cast hd
  have hx : (0 : ℚ) < (n : ℚ) / d := by positivity
  have hlo : (2 : ℚ) ^ ((n.log2 : Int) - d.log2 - 1) ≤ n / d := by
    rw [le_div_iff₀ hd0]
    calc (2 : ℚ) ^ ((n.log2 : Int) - d.log2 - 1) * d
        ≤ 2 ^ ((n.log2 : Int) - d.log2 - 1) * 2 ^ ((d.log2 : Int) + 1) := by gcongr
      _ = 2 ^ (n.log2 : Int) := by rw [← zpow_add₀ (by norm_num)]; congr 1; ring
      _ ≤ n := hn1
  have hhi : (n : ℚ) / d < 2 ^ ((n.log2 : Int) - d.log2 + 1) := by
    rw [div_lt_iff₀ hd0]
    calc (n : ℚ) < 2 ^ ((n.log2 : Int) + 1) := hn2
      _ = 2 ^ ((n.log2 : Int) - d.log2 + 1) * 2 ^ (d.log2 : Int) := by rw [← zpow_add₀ (by norm_num)]; congr 1; ring
      _ ≤ _ := by gcongr
  have hlo' := (Int.zpow_le_iff_le_log (by norm_num) hx).1 hlo
  have hhi' := (Int.lt_zpow_iff_log_lt (by norm_num) hx).1 hhi
  have hk := (gePow2_iff (n := n) hd ((n.log2 : Int) - d.log2)).trans (Int.zpow_le_iff_le_log (by norm_num) hx)
  push_cast at hlo' hhi' hk
  simp only [floorLog2, hk]
  split <;> omega

/-! ## Rounding to units -/

/-- `roundUnits` rounds one quotient, whatever the mode. -/
theorem roundUnits_eq (n : Nat) {d : Nat} (hd : 0 < d) (k : Int) :
    ∃ N D : Nat, 0 < D ∧ (N : ℚ) / D = n / d / 2 ^ k ∧ ∀ md, roundUnits md n d k = divRound md N D := by
  by_cases hk : k ≥ 0
  · exact ⟨n, d * 2 ^ k.toNat, by positivity, by rw [natPow_div_eq_zpow, if_pos hk], fun md => by rw [roundUnits, if_pos hk]⟩
  · exact ⟨n * 2 ^ (-k).toNat, d, hd, by rw [natPow_div_eq_zpow, if_neg hk], fun md => by rw [roundUnits, if_neg hk]⟩

/-- Equal quotients are truncated alike. -/
theorem div_eq_of_cast_div_eq {N D M E : Nat} (h : (N : ℚ) / D = (M : ℚ) / E) : N / D = M / E := by
  rw [← Nat.floor_div_eq_div (K := ℚ), ← Nat.floor_div_eq_div (K := ℚ), h]

/-! ## The value of a magnitude code (Table 2.2) -/

/-- A magnitude code's value. -/
def Fmt.val (f : Fmt) (c : Nat) : ℚ := (f.magVal c).1 / (f.magVal c).2

/-- A number of units of 2^k, as the quotient that `Fmt.magVal` forms. -/
theorem unitsPair_eq (m : Nat) (k : Int) :
    let p : Nat × Nat := if k ≥ 0 then (m * 2 ^ k.toNat, 1) else (m, 2 ^ (-k).toNat)
    0 < p.2 ∧ (p.1 : ℚ) / p.2 = m * 2 ^ k := by
  split
  · obtain ⟨j, rfl⟩ := Int.eq_ofNat_of_zero_le (by assumption)
    simp
  · obtain ⟨j, hj⟩ := Int.eq_ofNat_of_zero_le (show 0 ≤ -k by omega)
    obtain rfl : k = -(j : Int) := by omega
    simp [div_eq_mul_inv]

theorem Fmt.magVal_den_pos (f : Fmt) (c : Nat) : 0 < (f.magVal c).2 := (unitsPair_eq _ _).1

theorem Fmt.val_subnormal (f : Fmt) {c : Nat} (h : c < 2 ^ f.fbits) : f.val c = c * 2 ^ (f.emin - f.fbits) := by
  have hp := (unitsPair_eq c (f.emin - f.fbits)).2
  simpa [Fmt.val, Fmt.magVal, Nat.div_eq_of_lt h] using hp

theorem Fmt.val_normal (f : Fmt) (i : Nat) {m : Nat} (h : m < 2 ^ f.fbits) :
    f.val ((i + 1) * 2 ^ f.fbits + m) = (2 ^ f.fbits + m : Nat) * 2 ^ (i + f.emin - f.fbits) := by
  have hq : ((i + 1) * 2 ^ f.fbits + m) / 2 ^ f.fbits = i + 1 := by
    rw [mul_comm, Nat.mul_add_div (by positivity), Nat.div_eq_of_lt h, add_zero]
  have hr : ((i + 1) * 2 ^ f.fbits + m) % 2 ^ f.fbits = m := by
    rw [Nat.mul_add_mod_self_right, Nat.mod_eq_of_lt h]
  have hp := (unitsPair_eq (2 ^ f.fbits + m) (i + f.emin - f.fbits)).2
  simpa [Fmt.val, Fmt.magVal, hq, hr] using hp

/-- A code is a number of units, 2^i times the smallest: at most 2^(fbits + 1) of them, and no fewer than 2^fbits past the
first binade. -/
theorem Fmt.val_units (f : Fmt) {i q : Nat} (hq : q ≤ 2 ^ (f.fbits + 1)) (hi : i = 0 ∨ 2 ^ f.fbits ≤ q) :
    f.val (i * 2 ^ f.fbits + q) = q * 2 ^ (i + f.emin - f.fbits) := by
  have hpow : 2 ^ (f.fbits + 1) = 2 * 2 ^ f.fbits := pow_succ' 2 f.fbits
  rcases Nat.lt_or_ge q (2 ^ f.fbits) with hs | hn
  · obtain rfl : i = 0 := hi.resolve_right hs.not_ge
    simpa using f.val_subnormal hs
  rcases hq.lt_or_eq with hl | rfl
  · have hc : i * 2 ^ f.fbits + q = (i + 1) * 2 ^ f.fbits + (q - 2 ^ f.fbits) := by rw [add_mul]; omega
    rw [hc, f.val_normal i (by omega)]
    congr 2
    omega
  · have hc : i * 2 ^ f.fbits + 2 ^ (f.fbits + 1) = (i + 1 + 1) * 2 ^ f.fbits + 0 := by rw [hpow]; ring
    have hz : (((i + 1 : Nat) : Int) + f.emin - f.fbits) = (i + f.emin - f.fbits) + 1 := by push_cast; ring
    rw [hc, f.val_normal (i + 1) (by positivity), hz, zpow_add_one₀ (by norm_num)]
    push_cast
    ring

/-- Every code is such a number of units, and so is the next one. -/
theorem Fmt.exists_units (f : Fmt) (c : Nat) :
    ∃ i q : Nat, c = i * 2 ^ f.fbits + q ∧ q < 2 ^ (f.fbits + 1) ∧ (i = 0 ∨ 2 ^ f.fbits ≤ q) := by
  have hpow : 2 ^ (f.fbits + 1) = 2 * 2 ^ f.fbits := pow_succ' 2 f.fbits
  have hdm := Nat.div_add_mod' c (2 ^ f.fbits)
  have hm := Nat.mod_lt c (show 0 < 2 ^ f.fbits by positivity)
  cases he : c / 2 ^ f.fbits with
  | zero => exact ⟨0, c, by simp, by rw [he] at hdm; omega, .inl rfl⟩
  | succ i => exact ⟨i, 2 ^ f.fbits + c % 2 ^ f.fbits, by rw [he, add_mul] at hdm; omega, by omega, .inr (by omega)⟩

theorem Fmt.val_strictMono (f : Fmt) : StrictMono f.val := by
  refine strictMono_nat_of_lt_succ fun c => ?_
  obtain ⟨i, q, rfl, hq, hi⟩ := f.exists_units c
  rw [add_assoc, f.val_units hq.le hi, f.val_units hq (hi.imp_right fun h => h.trans q.le_succ)]
  have : (q : ℚ) < (q + 1 : Nat) := by exact_mod_cast q.lt_succ_self
  gcongr

@[simp] theorem Fmt.val_zero (f : Fmt) : f.val 0 = 0 := by
  simpa using f.val_subnormal (c := 0) (by positivity)

theorem Fmt.magVal_num_eq_zero_iff (f : Fmt) (c : Nat) : (f.magVal c).1 = 0 ↔ c = 0 := by
  have hd : ((f.magVal c).2 : ℚ) ≠ 0 := by exact_mod_cast (f.magVal_den_pos c).ne'
  have h0 : f.val c = 0 ↔ (f.magVal c).1 = 0 := by rw [Fmt.val, div_eq_zero_iff, or_iff_left hd, Nat.cast_eq_zero]
  rw [← h0, ← f.val_zero, f.val_strictMono.injective.eq_iff]

/-- The smallest normal is 2^emin. -/
theorem Fmt.val_smallestNormal (f : Fmt) : f.val (2 ^ f.fbits) = 2 ^ f.emin := by
  have h := f.val_units (i := 0) (q := 2 ^ f.fbits) (Nat.pow_le_pow_right (by norm_num) f.fbits.le_succ) (.inl rfl)
  rw [zero_mul, zero_add] at h
  rw [h]
  push_cast
  rw [← zpow_natCast, ← zpow_add₀ (by norm_num)]
  congr 1
  ring

/-! ## The code of a quotient (R25, R43) -/

/-- What `Fmt.magCode` and `Fmt.srThreshold` make of n / d: it is N / D units, 2^i times the smallest; a code is the rounded
number of units past i binades, and the threshold the fraction of a unit that truncation leaves, in units of 2^-32. -/
theorem Fmt.magCode_units (f : Fmt) {n d : Nat} (hn : 0 < n) (hd : 0 < d) :
    ∃ i N D : Nat, 0 < D ∧ (n : ℚ) / d = N / D * 2 ^ (i + f.emin - f.fbits) ∧
      N / D < 2 ^ (f.fbits + 1) ∧ (i = 0 ∨ 2 ^ f.fbits ≤ N / D) ∧
      (∀ md, f.magCode md n d = i * 2 ^ f.fbits + divRound md N D) ∧ f.srThreshold n d = 2 ^ 32 * (N % D) / D := by
  have hx : (0 : ℚ) < (n : ℚ) / d := by positivity
  have hlog := floorLog2_eq_log hn hd
  obtain ⟨i, hi⟩ := Int.eq_ofNat_of_zero_le (show 0 ≤ Max.max (floorLog2 n d) f.emin - f.emin by omega)
  have he : Max.max (floorLog2 n d) f.emin = i + f.emin := by omega
  obtain ⟨N, D, hD, hND, hround⟩ := roundUnits_eq n hd (i + f.emin - f.fbits)
  obtain ⟨M, E, hE, hME, hdown⟩ := roundUnits_eq n hd (i + f.emin - f.fbits - 32)
  have hD' : (0 : ℚ) < D := by exact_mod_cast hD
  have hval : (n : ℚ) / d = N / D * 2 ^ (i + f.emin - f.fbits) := by rw [hND]; field_simp
  have hlow : (n : ℚ) / d < 2 ^ ((i + f.emin - f.fbits) + ((f.fbits + 1 : Nat) : Int)) := by
    refine (Int.lt_zpow_iff_log_lt (by norm_num) hx).2 ?_
    push_cast
    omega
  have hlarge : i = 0 ∨ (2 : ℚ) ^ ((i + f.emin - f.fbits) + (f.fbits : Int)) ≤ n / d := by
    refine or_iff_not_imp_left.2 fun h0 => (Int.zpow_le_iff_le_log (by norm_num) hx).2 ?_
    push_cast
    omega
  have hfine : (M : ℚ) / E = ((2 ^ 32 * N : Nat) : ℚ) / D := by
    rw [hME, zpow_sub₀ (by norm_num), hval]
    push_cast
    field_simp
  refine ⟨i, N, D, hD, hval, ?_, hlarge.imp_right fun h => ?_, fun md => ?_, ?_⟩
  · rw [zpow_add₀ (by norm_num), hval, mul_comm, mul_lt_mul_iff_right₀ (by positivity), div_lt_iff₀ hD', zpow_natCast]
      at hlow
    rw [Nat.div_lt_iff_lt_mul hD]
    exact_mod_cast hlow
  · rw [zpow_add₀ (by norm_num), hval, mul_comm, mul_le_mul_iff_left₀ (by positivity), le_div_iff₀ hD', zpow_natCast] at h
    rw [Nat.le_div_iff_mul_le hD]
    exact_mod_cast h
  · simp [Fmt.magCode, hn.ne', he, hround]
  · simp only [Fmt.srThreshold, he, hdown, divRound]
    rw [ div_eq_of_cast_div_eq hfine]
    have hlt : 2 ^ 32 * (N % D) / D < 2 ^ 32 := by
      rw [Nat.div_lt_iff_lt_mul hD]
      exact Nat.mul_lt_mul_of_pos_left (Nat.mod_lt N hD) (by norm_num)
    have hsplit : 2 ^ 32 * N = 2 ^ 32 * (N % D) + D * (2 ^ 32 * (N / D)) := by
      conv_lhs => rw [← Nat.mod_add_div N D]
      ring
    rw [hsplit, Nat.add_mul_div_left _ _ hD, Nat.add_mul_mod_self_left, Nat.mod_eq_of_lt hlt]

/-- Where n / d lies between the truncated code and its successor: r / D of the way, and what each rounding and the stochastic
threshold make of that fraction. -/
theorem Fmt.magCode_between (f : Fmt) (hf : 1 ≤ f.fbits) {n d : Nat} (hn : 0 < n) (hd : 0 < d) :
    let a := f.magCode .down n d
    ∃ (s : ℚ) (r D : Nat), 0 < s ∧ r < D ∧ f.val (a + 1) = f.val a + s ∧ (n : ℚ) / d = f.val a + r / D * s ∧
      f.magCode .up n d = (if r = 0 then a else a + 1) ∧
      f.magCode .even n d = (if 2 * r < D then a else if D < 2 * r then a + 1 else a + a % 2) ∧
      f.magCode .away n d = (if 2 * r < D then a else a + 1) ∧
      f.srThreshold n d = 2 ^ 32 * r / D := by
  obtain ⟨i, N, D, hD, hx, hq, hi, hmd, hsr⟩ := f.magCode_units hn hd
  have hN : (N : ℚ) = D * (N / D : Nat) + (N % D : Nat) := by exact_mod_cast (Nat.div_add_mod N D).symm
  have hD' : (D : ℚ) ≠ 0 := by exact_mod_cast hD.ne'
  have heven : 2 ∣ i * 2 ^ f.fbits := (dvd_pow_self 2 (by omega)).mul_left i
  have hparity : (i * 2 ^ f.fbits + N / D) % 2 = N / D % 2 := by omega
  refine ⟨2 ^ (i + f.emin - f.fbits), N % D, D, by positivity, Nat.mod_lt N hD, ?_, ?_, ?_, ?_, ?_, hsr⟩ <;>
    simp only [hmd, divRound]
  · rw [add_assoc, f.val_units hq.le hi, f.val_units hq (hi.imp_right fun h => h.trans (Nat.le_succ _))]
    push_cast
    ring
  · rw [f.val_units hq.le hi, hx, hN]
    field_simp
  · split <;> rfl
  · rw [hparity]
    split_ifs
    exacts [rfl, rfl, (Nat.add_assoc _ _ _).symm]
  · split <;> rfl

section
variable {f : Fmt} (hf : 1 ≤ f.fbits) {n d : Nat} (hn : 0 < n) (hd : 0 < d)
include hf hn hd

/-- The truncated code and its successor bracket the value. -/
theorem Fmt.magCode_down_bracket :
    f.val (f.magCode .down n d) ≤ (n : ℚ) / d ∧ (n : ℚ) / d < f.val (f.magCode .down n d + 1) := by
  obtain ⟨s, r, D, hs, hr, hB, hx, -⟩ := f.magCode_between hf hn hd
  have hD : (0 : ℚ) < D := by exact_mod_cast Nat.zero_lt_of_lt hr
  have hlt : (r : ℚ) / D < 1 := (div_lt_one hD).2 (by exact_mod_cast hr)
  rw [hx, hB]
  exact ⟨le_add_of_nonneg_right (by positivity), by gcongr; exact mul_lt_of_lt_one_left hs hlt⟩

/-- A code whose value is n / d is what truncation gives. -/
theorem Fmt.magCode_down_of_val {c : Nat} (h : (n : ℚ) / d = f.val c) : f.magCode .down n d = c := by
  obtain ⟨h1, h2⟩ := Fmt.magCode_down_bracket hf hn hd
  rw [h] at h1 h2
  have h1 := f.val_strictMono.le_iff_le.1 h1
  have h2 := f.val_strictMono.lt_iff_lt.1 h2
  omega

/-- A draw below the threshold: the distance from the truncated value, against the distance to its successor. -/
theorem Fmt.lt_srThreshold_iff (u : Nat) :
    u < f.srThreshold n d ↔ ((u : ℚ) + 1) * (f.val (f.magCode .down n d + 1) - f.val (f.magCode .down n d)) ≤
      2 ^ 32 * (n / d - f.val (f.magCode .down n d)) := by
  obtain ⟨s, r, D, hs, hr, hB, hx, -, -, -, hsr⟩ := f.magCode_between hf hn hd
  have hD : (0 : ℚ) < D := by exact_mod_cast Nat.zero_lt_of_lt hr
  have hnat : u + 1 ≤ 2 ^ 32 * r / D ↔ ((u : ℚ) + 1) * D ≤ 2 ^ 32 * r := by
    rw [Nat.le_div_iff_mul_le (by exact_mod_cast hD)]
    exact_mod_cast Iff.rfl
  rw [hsr, hx, hB, ← Nat.add_one_le_iff, hnat, add_sub_cancel_left, add_sub_cancel_left, ← mul_assoc,
    mul_le_mul_iff_left₀ hs, mul_div_assoc', le_div_iff₀ hD]

/-- The value against the midpoint of the truncated code and its successor, as `s`, `r` and `D` of `magCode_between` say it. -/
theorem Fmt.magCode_nearest :
    let a := f.magCode .down n d
    let mid := f.val a + f.val (a + 1)
    f.magCode .even n d = (if 2 * ((n : ℚ) / d) < mid then a else if mid < 2 * ((n : ℚ) / d) then a + 1 else a + a % 2) ∧
    f.magCode .away n d = (if 2 * ((n : ℚ) / d) < mid then a else a + 1) := by
  obtain ⟨s, r, D, hs, hr, hB, hx, -, heven, haway, -⟩ := f.magCode_between hf hn hd
  have hD : (0 : ℚ) < D := by exact_mod_cast Nat.zero_lt_of_lt hr
  intro a mid
  have hdiff : 2 * ((n : ℚ) / d) - mid = (2 * r - D) * (s / D) := by
    simp only [mid, a, hB, hx]
    field_simp
    ring
  have hsD : 0 < s / D := by positivity
  have hlt : 2 * ((n : ℚ) / d) < mid ↔ 2 * r < D := by
    rw [← sub_pos, ← neg_sub, hdiff, ← neg_mul, mul_pos_iff_of_pos_right hsD, neg_pos, sub_neg]
    exact_mod_cast Iff.rfl
  have hgt : mid < 2 * ((n : ℚ) / d) ↔ D < 2 * r := by
    rw [← sub_pos, hdiff, mul_pos_iff_of_pos_right hsD, sub_pos]
    exact_mod_cast Iff.rfl
  simp only [hlt, hgt]
  exact ⟨heven, haway⟩

end

/-- Rounding up gives the least code that the value does not pass. -/
theorem Fmt.magCode_up_le_iff {f : Fmt} (hf : 1 ≤ f.fbits) (n : Nat) {d : Nat} (hd : 0 < d) (c : Nat) :
    f.magCode .up n d ≤ c ↔ (n : ℚ) / d ≤ f.val c := by
  rcases Nat.eq_zero_or_pos n with rfl | hn
  · have h0 : 0 ≤ f.val c := f.val_zero ▸ f.val_strictMono.monotone c.zero_le
    simp [Fmt.magCode, h0]
  obtain ⟨s, r, D, hs, hr, hB, hx, hup, -⟩ := f.magCode_between hf hn hd
  obtain ⟨h1, h2⟩ := Fmt.magCode_down_bracket hf hn hd
  have hD : (0 : ℚ) < D := by exact_mod_cast Nat.zero_lt_of_lt hr
  rw [hup]
  split
  case isTrue h0 =>
    rw [hx, h0]
    simp [f.val_strictMono.le_iff_le]
  case isFalse h0 =>
    have hr0 : 0 < r := Nat.pos_of_ne_zero h0
    have hpast : f.val (f.magCode .down n d) < (n : ℚ) / d := by rw [hx]; exact lt_add_of_pos_right _ (by positivity)
    exact ⟨fun h => h2.le.trans (f.val_strictMono.monotone h), fun h => f.val_strictMono.lt_iff_lt.1 (hpast.trans_le h)⟩

/-! ## Comparisons of naturals that speak of values -/

section
variable (f : Fmt) {n d : Nat} (hd : 0 < d)
include hd

theorem Fmt.val_le_iff (c : Nat) : f.val c ≤ (n : ℚ) / d ↔ (f.magVal c).1 * d ≤ n * (f.magVal c).2 := by
  have hc : (0 : ℚ) < (f.magVal c).2 := by exact_mod_cast f.magVal_den_pos c
  have hd' : (0 : ℚ) < d := by exact_mod_cast hd
  rw [Fmt.val, div_le_div_iff₀ hc hd']
  exact_mod_cast Iff.rfl

theorem Fmt.lt_val_iff (c : Nat) : (n : ℚ) / d < f.val c ↔ n * (f.magVal c).2 < (f.magVal c).1 * d := by
  simpa only [not_le] using (f.val_le_iff (n := n) hd c).not

theorem Fmt.exceeds_iff : f.exceeds n d = true ↔ f.val f.maxCode < (n : ℚ) / d := by
  have hc : (0 : ℚ) < (f.magVal f.maxCode).2 := by exact_mod_cast f.magVal_den_pos f.maxCode
  have hd' : (0 : ℚ) < d := by exact_mod_cast hd
  rw [Fmt.val, div_lt_div_iff₀ hc hd']
  simp only [Fmt.exceeds, decide_eq_true_iff]
  exact_mod_cast Iff.rfl

/-- Twice the value and twice the midpoint of two codes, both over the product of the three denominators. -/
theorem Fmt.twice_eq_and_mid_eq (a b : Nat) :
    let A := f.magVal a
    let B := f.magVal b
    let K : ℚ := d * A.2 * B.2
    0 < K ∧ ((2 * n * A.2 * B.2 : Nat) : ℚ) = 2 * (n / d) * K ∧
      ((d * (A.1 * B.2 + B.1 * A.2) : Nat) : ℚ) = (f.val a + f.val b) * K := by
  have ha : (0 : ℚ) < (f.magVal a).2 := by exact_mod_cast f.magVal_den_pos a
  have hb : (0 : ℚ) < (f.magVal b).2 := by exact_mod_cast f.magVal_den_pos b
  have hd' : (0 : ℚ) < d := by exact_mod_cast hd
  refine ⟨by positivity, ?_, ?_⟩
  · push_cast
    field_simp
  · rw [Fmt.val, Fmt.val]
    push_cast
    field_simp

/-- R43's threshold test, over the product of the three denominators. -/
theorem Fmt.draw_le_iff (a b u : Nat) (hab : f.val a ≤ f.val b) (hx : f.val a ≤ (n : ℚ) / d) :
    let A := f.magVal a
    let B := f.magVal b
    (u + 1) * d * (B.1 * A.2 - A.1 * B.2) ≤ 2 ^ 32 * (n * A.2 - A.1 * d) * B.2 ↔
      ((u : ℚ) + 1) * (f.val b - f.val a) ≤ 2 ^ 32 * (n / d - f.val a) := by
  have ha : (0 : ℚ) < (f.magVal a).2 := by exact_mod_cast f.magVal_den_pos a
  have hb : (0 : ℚ) < (f.magVal b).2 := by exact_mod_cast f.magVal_den_pos b
  have hd' : (0 : ℚ) < d := by exact_mod_cast hd
  have hAB : (f.magVal a).1 * (f.magVal b).2 ≤ (f.magVal b).1 * (f.magVal a).2 := by
    have h := hab
    rw [Fmt.val, Fmt.val, div_le_div_iff₀ ha hb] at h
    exact_mod_cast h
  have hK : (0 : ℚ) < d * (f.magVal a).2 * (f.magVal b).2 := by positivity
  dsimp only
  rw [← mul_le_mul_iff_left₀ hK, ← Nat.cast_le (α := ℚ)]
  push_cast [Nat.cast_sub hAB, Nat.cast_sub ((f.val_le_iff hd a).1 hx)]
  refine iff_of_eq (congrArg₂ _ ?_ ?_)
  · simp only [Fmt.val]
    field_simp
  · simp only [Fmt.val]
    field_simp
    ring

end

/-! ## The final rounding -/

section
variable {f : Fmt} {n d : Nat} (hn : 0 < n) (hd : 0 < d)

theorem Fmt.finalMag_sr (f : Fmt) (u n d : Nat) :
    f.finalMag (.sr u) n d = if u < f.srThreshold n d then f.magCode .down n d + 1 else f.magCode .down n d := by
  simp only [Fmt.finalMag]
  split <;> rfl

include hn in
/-- Without a flush and outside of step 1 of R43, the code is that of the final rounding, or an overflow. -/
theorem Fmt.round_fin (f : Fmt) {md : Final} (hmd : ∀ u, md = .sr u → f.exceeds n d = false) (s : Bool) :
    f.round md false (.fin s n d) = if f.finalMag md n d ≤ f.maxCode then
      { code := f.signed s (f.finalMag md n d), unf := decide (f.finalMag md n d = 0) } else f.overflow s := by
  cases md with
  | rne | rna =>
    simp only [Fmt.round, hn.ne', Bool.false_and, Bool.false_eq_true, if_false, gt_iff_lt, ← not_le, ite_not]
    rfl
  | sr u =>
    simp only [Fmt.round, hn.ne', hmd u rfl, Bool.false_and, Bool.false_eq_true, if_false, gt_iff_lt, ← not_le, ite_not]
    rfl

include hn hd in
/-- The flush of R36, for a value that step 1 of R43 leaves. -/
theorem Fmt.round_flush (f : Fmt) (md : Final) (s : Bool) (hx : f.exceeds n d = false)
    (hsmall : (n : ℚ) / d < f.val (2 ^ f.fbits)) : f.round md true (.fin s n d) = { code := f.signed s 0, unf := true } := by
  have hpow : gePow2 n d f.emin = false := by
    rw [Bool.eq_false_iff, ne_eq, gePow2_iff hd, not_le, ← f.val_smallestNormal]
    exact hsmall
  cases md <;> simp [Fmt.round, hn.ne', hx, hpow]

end

theorem one_le_fbits {f : Fmt} (hf : f ∈ encodings) : 1 ≤ f.fbits := by
  have : ∀ f ∈ encodings, 1 ≤ f.fbits := by decide
  exact this f hf

/-- Table 2.4: FP32, BF16 and FP16 overflow to the infinity, whose code follows the largest finite one. -/
theorem Fmt.overflow_eq {f : Fmt} (hf : f ∈ encodings) (s : Bool) :
    f.overflow s = if f = .fp32 ∨ f = .bf16 ∨ f = .fp16 then { code := f.signed s (f.maxCode + 1), nonfin := true }
      else { code := f.signed s f.maxCode, sat := true } := by
  have : ∀ f ∈ encodings, ∀ s, f.overflow s =
      if f = .fp32 ∨ f = .bf16 ∨ f = .fp16 then { code := f.signed s (f.maxCode + 1), nonfin := true }
      else { code := f.signed s f.maxCode, sat := true } := by decide
  exact this f hf s

/-- Settles O57: the value lies between the truncated code and its successor (`magCode_between`), and each rounding compares
its place there. Every overflow of an encoding without an infinity, and of E5M2, is `sat` in `Fmt.overflow`; that a block element
is clamped without an event (Table 2.4) is `Fmt.roundElem`. -/
theorem rounding : Obligations.Rounding := by
  intro f hf n d hn hd a A B mid twice
  have hfb := one_le_fbits hf
  obtain ⟨hlo, hhi⟩ := Fmt.magCode_down_bracket hfb hn hd
  obtain ⟨heven, haway⟩ := Fmt.magCode_nearest hfb hn hd
  obtain ⟨hK, htwice, hmid⟩ := f.twice_eq_and_mid_eq (n := n) hd a (a + 1)
  have hlt : twice < mid ↔ 2 * ((n : ℚ) / d) < f.val a + f.val (a + 1) := by
    rw [← Nat.cast_lt (α := ℚ), htwice, hmid, mul_lt_mul_iff_left₀ hK]
  have hgt : mid < twice ↔ f.val a + f.val (a + 1) < 2 * ((n : ℚ) / d) := by
    rw [← Nat.cast_lt (α := ℚ), htwice, hmid, mul_lt_mul_iff_left₀ hK]
  refine ⟨⟨(f.val_le_iff hd a).1 hlo, (f.lt_val_iff hd (a + 1)).1 hhi⟩, ?_, ?_, fun u _ => ?_, fun s => ⟨?_, ?_, ?_⟩⟩
  · simp only [hlt, hgt]
    exact heven
  · simp only [hlt]
    exact haway
  · rw [f.finalMag_sr, if_congr (Fmt.lt_srThreshold_iff hfb hn hd u) rfl rfl]
    exact if_congr (f.draw_le_iff hd a (a + 1) u (hlo.trans hhi.le) hlo).symm rfl rfl
  · intro h
    rw [f.round_fin hn (by simp), if_pos h]
  · intro h
    rw [f.round_fin hn (by simp), if_neg h.not_ge, Fmt.overflow_eq hf]
  · exact fun md hx hsmall => f.round_flush hn hd md s hx ((f.lt_val_iff hd _).2 hsmall)

/-! ## Exact values (R35) -/

section
variable {f : Fmt} (hf : 1 ≤ f.fbits) {n d : Nat} (hn : 0 < n) (hd : 0 < d)
include hf hn hd

/-- A value exact in the target is its own code under every final rounding. -/
theorem Fmt.finalMag_of_val {c : Nat} (h : (n : ℚ) / d = f.val c) (md : Final) : f.finalMag md n d = c := by
  have hdown := Fmt.magCode_down_of_val hf hn hd h
  obtain ⟨heven, haway⟩ := Fmt.magCode_nearest hf hn hd
  have hsr := Fmt.lt_srThreshold_iff hf hn hd
  have hlt := f.val_strictMono c.lt_succ_self
  have hbelow : 2 * f.val c < f.val c + f.val (c + 1) := by linarith
  simp only [hdown, h, if_pos hbelow, sub_self, mul_zero] at heven haway hsr
  cases md with
  | rne => exact heven
  | rna => exact haway
  | sr u =>
    have hpos : 0 < ((u : ℚ) + 1) * (f.val (c + 1) - f.val c) := mul_pos (by positivity) (sub_pos.2 hlt)
    rw [f.finalMag_sr, if_neg (by rw [hsr u, not_le]; exact hpos), hdown]

end

theorem Fmt.decode_of_finite {f : Fmt} {c : Nat} (h : c % f.signBit ≤ f.maxCode) :
    f.decode c = .fin (decide (c / f.signBit % 2 = 1)) (f.magVal (c % f.signBit)).1 (f.magVal (c % f.signBit)).2 :=
  if_pos h

/-- A code is its sign and its magnitude. -/
theorem Fmt.signed_mod {f : Fmt} {c : Nat} (hc : c < 2 * f.signBit) :
    f.signed (decide (c / f.signBit % 2 = 1)) (c % f.signBit) = c := by
  have hdm := Nat.div_add_mod c f.signBit
  have hq : c / f.signBit < 2 := Nat.div_lt_of_lt_mul (by omega)
  rcases Nat.le_one_iff_eq_zero_or_eq_one.1 (Nat.le_of_lt_succ hq) with h | h <;>
    simp [Fmt.signed, h] at hdm ⊢ <;> exact hdm

/-- The value of a finite code rounds to that code, with either sign. -/
theorem Fmt.round_magVal {f : Fmt} (hf : 1 ≤ f.fbits) {m : Nat} (hm : m ≤ f.maxCode) (s : Bool) (md : Final) :
    f.round md false (.fin s (f.magVal m).1 (f.magVal m).2) = { code := f.signed s m } ∧
      f.roundElem md (.fin s (f.magVal m).1 (f.magVal m).2) = { code := f.signed s m } := by
  rcases Nat.eq_zero_or_pos m with rfl | hpos
  · have h0 := (f.magVal_num_eq_zero_iff 0).2 rfl
    simp [Fmt.round, Fmt.roundElem, h0]
  have hn : 0 < (f.magVal m).1 := Nat.pos_of_ne_zero (mt (f.magVal_num_eq_zero_iff m).1 hpos.ne')
  have hd := f.magVal_den_pos m
  have hmag := fun md => Fmt.finalMag_of_val hf hn hd (c := m) rfl md
  have hx : f.exceeds (f.magVal m).1 (f.magVal m).2 = false := by
    rw [Bool.eq_false_iff, ne_eq, f.exceeds_iff hd, not_lt]
    exact f.val_strictMono.monotone hm
  constructor
  · rw [f.round_fin hn (fun _ _ => hx), hmag, if_pos hm]
    simp [hpos.ne']
  · cases md <;> simp [Fmt.roundElem, hn.ne', hx, hmag, hm, hpos.ne']

/-- Settles O58: a finite code decodes to its sign and `magVal`, which `round_magVal` gives back. -/
theorem exactCodesReturn : Obligations.ExactCodesReturn := by
  intro f hf c md hc hm
  have h := Fmt.round_magVal (one_le_fbits hf) hm (decide (c / f.signBit % 2 = 1)) md
  rw [Fmt.signed_mod hc] at h
  rwa [Fmt.decode_of_finite hm]

end Sys2Proof.Machine

/-! PROOFS. Chapter 2, layouts and blocks: the element string (R28), capsule records (R110), the block encodings (R29 to R34)
and KS-6 (R46). -/
namespace Sys2Proof.Machine

/-! ## Little-endian byte strings (R7) -/

@[simp] theorem length_leBytes (n v : Nat) : (leBytes n v).length = n := by
  induction n generalizing v with
  | zero => rfl
  | succ n ih => simp [leBytes, ih]

theorem leNat_leBytes (n v : Nat) : leNat (leBytes n v) = v % 256 ^ n := by
  induction n generalizing v with
  | zero => simp [leBytes, leNat, Nat.mod_one]
  | succ n ih =>
    rw [leBytes, leNat, ih, BitVec.toNat_ofNat, pow_succ' 256 n]
    exact Nat.mod_mul.symm

theorem drop_leBytes (k n v : Nat) : (leBytes n v).drop k = leBytes (n - k) (v / 256 ^ k) := by
  induction k generalizing n v with
  | zero => simp
  | succ k ih =>
    cases n with
    | zero => simp [leBytes]
    | succ n => rw [leBytes, List.drop_succ_cons, ih, Nat.add_sub_add_right, Nat.div_div_eq_div_mul, pow_succ']

theorem take_leBytes (k n v : Nat) : (leBytes n v).take k = leBytes (min k n) v := by
  induction k generalizing n v with
  | zero => simp [leBytes]
  | succ k ih =>
    cases n with
    | zero => simp [leBytes]
    | succ n => rw [leBytes, List.take_succ_cons, ih, Nat.add_min_add_right, leBytes]

/-! ## The element string (R28) -/

/-- A field of `w` bits at bit `w * j`, read from the bytes that hold it. -/
theorem elemCode_leBytes {w k j : Nat} (v : Nat) (h : w * (j + 1) ≤ 8 * k) :
    elemCode w (leBytes k v) j = v / 2 ^ (w * j) % 2 ^ w := by
  have hwj : w * (j + 1) = w * j + w := by ring
  have hpow : ∀ m, 256 ^ m = 2 ^ (8 * m) := fun m => (pow_mul 2 8 m).symm
  have hfit : w * j % 8 + w ≤ 8 * min (w / 8 + 2) (k - w * j / 8) := by omega
  obtain ⟨t, ht⟩ := Nat.exists_eq_add_of_le hfit
  have hlow : v / 2 ^ (8 * (w * j / 8)) / 2 ^ (w * j % 8) = v / 2 ^ (w * j) := by
    rw [Nat.div_div_eq_div_mul, ← pow_add, Nat.div_add_mod]
  rw [elemCode, drop_leBytes, take_leBytes, leNat_leBytes, Nat.shiftRight_eq_div_pow, hpow, hpow, ht, pow_add, pow_add,
    mul_assoc, Nat.mod_mul_right_div_self, Nat.mod_mul_right_mod, hlow]

/-- The packed number holds a code in each of its fields. -/
theorem packCodes_field (w : Nat) (codes : List Nat) (j : Nat) :
    packCodes w codes / 2 ^ (w * j) % 2 ^ w = codes.getD j 0 % 2 ^ w := by
  have hw : 0 < 2 ^ w := by positivity
  have hcons : ∀ c cs, packCodes w (c :: cs) = c % 2 ^ w + 2 ^ w * packCodes w cs := fun _ _ => rfl
  induction codes generalizing j with
  | nil => simp [packCodes]
  | cons c cs ih =>
    rw [hcons]
    cases j with
    | zero => simp
    | succ j =>
      rw [mul_add, mul_one, add_comm (w * j), pow_add, ← Nat.div_div_eq_div_mul, Nat.add_mul_div_left _ _ hw,
        Nat.div_eq_of_lt (Nat.mod_lt c hw), zero_add, ih, List.getD_cons_succ]

/-- An element reads back as its code. -/
theorem elemCode_packCodes {w : Nat} {codes : List Nat} (hc : ∀ c ∈ codes, c < 2 ^ w) {j : Nat} (hj : j < 128) :
    elemCode w (leBytes (w * 16) (packCodes w codes)) j = codes.getD j 0 := by
  rw [elemCode_leBytes _ (by have : w * (j + 1) ≤ w * 128 := Nat.mul_le_mul_left w hj; omega), packCodes_field]
  refine Nat.mod_eq_of_lt ?_
  rcases Nat.lt_or_ge j codes.length with h | h
  · rw [List.getD_eq_getElem _ _ h]
    exact hc _ (List.getElem_mem h)
  · rw [List.getD_eq_default _ _ h]
    positivity

/-- A 4-bit field of a byte string (the outlier positions of D4K, R32). -/
theorem elemCode_four (bytes : List Byte) (b : Nat) :
    elemCode 4 bytes b = (bytes.getD (b / 2) 0).toNat / 16 ^ (b % 2) % 16 := by
  have hlo : 4 * b / 8 = b / 2 := by omega
  have hsh : 4 * b % 8 = 4 * (b % 2) := by omega
  have hpow : (2 : Nat) ^ (4 * (b % 2)) = 16 ^ (b % 2) := pow_mul 2 4 _
  rw [elemCode, hlo, hsh, Nat.shiftRight_eq_div_pow, hpow, List.getD_eq_getElem?_getD, ← List.head?_drop]
  cases bytes.drop (b / 2) with
  | nil => rfl
  | cons x xs =>
    obtain ⟨y, hy⟩ : ∃ y, leNat ((x :: xs).take (4 / 8 + 2)) = x.toNat + 256 * y := ⟨_, rfl⟩
    rw [hy]
    rcases Nat.mod_two_eq_zero_or_one b with h | h <;> simp only [h, List.head?_cons, Option.getD_some] <;> omega

/-! ## Capsule records (R110) -/

@[simp] theorem length_wordBytes (w : Word) : (wordBytes w).length = 4 := length_leBytes 4 _

@[simp] theorem leNat_wordBytes (w : Word) : leNat (wordBytes w) = w.toNat := by
  rw [wordBytes, leNat_leBytes]
  exact Nat.mod_eq_of_lt w.isLt

/-- The words of a byte string that begins with a word's bytes. -/
theorem wordsOf_wordBytes_append (n : Nat) (w : Word) (bs : List Byte) :
    wordsOf (n + 1) (wordBytes w ++ bs) = w :: wordsOf n bs := by
  rw [wordsOf, List.take_left' (length_wordBytes w), List.drop_left' (length_wordBytes w), leNat_wordBytes,
    BitVec.ofNat_toNat, BitVec.setWidth_eq]

theorem Rec.length_bytes (r : Rec) : r.bytes.length = 16 := by simp [Rec.bytes]

theorem Rec.ofBytes_bytes_words (r : Rec) : Rec.ofBytes r.bytes = .ofWords r.max r.sum r.comp r.word3 := by
  have h : wordsOf 4 r.bytes = [r.max, r.sum, r.comp, r.word3] := by
    rw [Rec.bytes, List.append_assoc, List.append_assoc, ← List.append_nil (wordBytes r.word3)]
    simp only [wordsOf_wordBytes_append]
    rfl
  rw [Rec.ofBytes, h]
  rfl

theorem b2n_le_one (b : Bool) : b2n b ≤ 1 := by cases b <;> decide

theorem decide_b2n (b : Bool) : decide (b2n b = 1) = b := by cases b <;> decide

/-- Word 3 as the sum of its fields. -/
theorem Rec.word3_toNat {r : Rec} (h : r.count ≤ countMax) :
    r.word3.toNat = r.count + r.gen.toNat * 2 ^ 24 + b2n r.empty * 2 ^ 28 + b2n r.boundLost * 2 ^ 29 +
      b2n r.nonfinite * 2 ^ 30 + b2n r.saturated * 2 ^ 31 := by
  have hg := r.gen.isLt
  have he := b2n_le_one r.empty
  have hb := b2n_le_one r.boundLost
  have hn := b2n_le_one r.nonfinite
  have hs := b2n_le_one r.saturated
  rw [countMax] at h
  rw [Rec.word3, BitVec.toNat_ofNat]
  omega

theorem getLsbD_eq_decide_of {w : Word} {i : Nat} {b : Bool} (h : w.toNat / 2 ^ i % 2 = b2n b) : w.getLsbD i = b := by
  rw [BitVec.getLsbD, Nat.testBit_eq_decide_div_mod_eq, h, decide_b2n]

/-- A capsule record reads back from its 16 bytes. -/
theorem Rec.ofBytes_bytes {r : Rec} (h : r.count ≤ countMax) : Rec.ofBytes r.bytes = r := by
  have hw := Rec.word3_toNat h
  have hg := r.gen.isLt
  have he := b2n_le_one r.empty
  have hb := b2n_le_one r.boundLost
  have hn := b2n_le_one r.nonfinite
  have hs := b2n_le_one r.saturated
  rw [countMax] at h
  have hcount : bitsOf r.word3 23 0 = r.count := by
    rw [bitsOf, hw, Nat.shiftRight_eq_div_pow]
    omega
  have hgen : r.word3.extractLsb' 24 4 = r.gen := by
    apply BitVec.eq_of_toNat_eq
    rw [BitVec.extractLsb'_toNat, hw, Nat.shiftRight_eq_div_pow]
    omega
  have hempty : r.word3.getLsbD 28 = r.empty := getLsbD_eq_decide_of (by rw [hw]; omega)
  have hlost : r.word3.getLsbD 29 = r.boundLost := getLsbD_eq_decide_of (by rw [hw]; omega)
  have hnonfin : r.word3.getLsbD 30 = r.nonfinite := getLsbD_eq_decide_of (by rw [hw]; omega)
  have hsat : r.word3.getLsbD 31 = r.saturated := getLsbD_eq_decide_of (by rw [hw]; omega)
  rw [Rec.ofBytes_bytes_words]
  simp only [Rec.ofWords, bitOf, hcount, hgen, hempty, hlost, hnonfin, hsat]

/-! ## Decoding by scale bytes (R31, R33) -/

/-- An MX or D3 element: its block's scale byte poisons it or gives X. -/
theorem decodeElem_mx {c : Nat} (hc : c ∈ [5, 6, 7, 8, 9, 0xB]) (T : Val) (bytes : List Byte) (j : Nat) :
    decodeElem c T bytes j =
      let x := (bytes.getD (stringBytes c + j / blockSize c) 0).toNat
      if x = 0xFF then nan32
      else rne32 (((elemFmt c).1.decode (elemCode (elemWidth c) bytes j)).mul (Val.pow2 ((x : Int) - 127))) := by
  have hs : scalarFmt c = none ∧ c ≠ 0xA := by
    have : ∀ c ∈ [5, 6, 7, 8, 9, 0xB], scalarFmt c = none ∧ c ≠ 0xA := by decide
    exact this c hc
  simp only [decodeElem, hs.1, if_neg hs.2]

/-- D4K: scale bytes at 64, outlier bytes at 72, outlier positions at 80. -/
theorem decodeElem_d4k (T : Val) (bytes : List Byte) (j : Nat) :
    decodeElem 0xA T bytes j =
      let s := (bytes.getD (64 + j / 16) 0).toNat
      let o := (bytes.getD (72 + j / 16) 0).toNat
      if s ≥ 0x7F || o % 128 = 0x7F then nan32
      else if j % 16 = (bytes.getD (80 + j / 32) 0).toNat / 16 ^ (j / 16 % 2) % 16 then rne32 ((Fmt.e4m3.decode o).mul T)
      else rne32 (((Fmt.e2m1.decode (elemCode 4 bytes j)).mul (Fmt.e4m3.decode s)).mul T) := by
  have hp : elemCode 4 (bytes.drop 80) (j / 16) = (bytes.getD (80 + j / 32) 0).toNat / 16 ^ (j / 16 % 2) % 16 := by
    rw [elemCode_four, Nat.div_div_eq_div_mul]
    simp only [List.getD_eq_getElem?_getD, List.getElem?_drop]
  rw [← hp]
  rfl

/-- R33: the codes that poison a D4K block. -/
theorem poisoned_iff {s o : Byte} :
    (decide (s.toNat ≥ 0x7F) || decide (o.toNat % 128 = 0x7F)) = true ↔
      s.toNat = 0x7F ∨ s.toNat = 0xFF ∨ o.toNat = 0x7F ∨ o.toNat = 0xFF ∨ 128 ≤ s.toNat := by
  have := o.isLt
  rw [Bool.or_eq_true, decide_eq_true_iff, decide_eq_true_iff]
  omega

/-! ## KS-6 (R46) and the draw's counter (R44) -/

/-- The constants of Table 2.11 are the multiples that the rounds form. -/
theorem ks6_eq_ks6Spec (c0 c1 c2 c3 : Word) (seed : DWord) : ks6 c0 c1 c2 c3 seed = ks6Spec c0 c1 c2 c3 seed := rfl

/-- The words c1 and c2 of Table 2.10. -/
theorem ks6Draw_counter (seed : DWord) (step : Word) (tid : BitVec 16) (i : BitVec 48) :
    ks6Draw seed step tid i.toNat = (ks6 0 (i.extractLsb' 0 32) (tid ++ i.extractLsb' 32 16) step seed).toNat := by
  have hi := i.isLt
  have h1 : BitVec.ofNat 32 i.toNat = i.extractLsb' 0 32 := by
    apply BitVec.eq_of_toNat_eq
    simp
  have h2 : BitVec.ofNat 32 (tid.toNat * 65536 + i.toNat / 2 ^ 32) = tid ++ i.extractLsb' 32 16 := by
    apply BitVec.eq_of_toNat_eq
    have ht := tid.isLt
    rw [BitVec.toNat_append, BitVec.extractLsb'_toNat, BitVec.toNat_ofNat, Nat.shiftRight_eq_div_pow,
      ← Nat.shiftLeft_add_eq_or_of_lt (by omega), Nat.shiftLeft_eq]
    omega
  simp only [ks6Draw, Nat.mod_eq_of_lt hi, h1, h2]

/-! ## Health counts (R205) -/

theorem healthOf_eq_countP (outs : List ElemOut) (n : Nat) :
    healthOf outs n = [outs.length, outs.countP (fun o => o.zero && !o.nonfin), outs.countP (·.unf),
      outs.countP (·.sat) + n, outs.countP (·.nonfin)] := by
  simp only [healthOf, List.countP_eq_length_filter]

/-! ## Magnitudes -/

/-- The magnitude of a finite value. -/
def Val.mag : Val → ℚ
  | .fin _ n d => n / d
  | _ => 0

/-- A finite value that is not negative and whose quotient has a denominator. -/
def Val.IsMag (v : Val) : Prop := ∃ n d, v = .fin false n d ∧ 0 < d

/-- A finite value whose quotient has a denominator. -/
def Val.IsFin (v : Val) : Prop := ∃ s n d, v = .fin s n d ∧ 0 < d

theorem Val.IsFin.abs {v : Val} (h : v.IsFin) : v.abs.IsMag := by
  obtain ⟨s, n, d, rfl, hd⟩ := h
  exact ⟨n, d, rfl, hd⟩

@[simp] theorem Val.isMag_zero : Val.zero.IsMag := ⟨0, 1, rfl, one_pos⟩

theorem Val.mag_nonneg (v : Val) : 0 ≤ v.mag := by
  cases v with
  | fin s n d => exact div_nonneg n.cast_nonneg d.cast_nonneg
  | _ => exact le_rfl

theorem Val.lt_iff_mag {a b : Val} (ha : a.IsMag) (hb : b.IsMag) : a.lt b = true ↔ a.mag < b.mag := by
  obtain ⟨n, d, rfl, hd⟩ := ha
  obtain ⟨m, e, rfl, he⟩ := hb
  have hd' : (0 : ℚ) < d := by exact_mod_cast hd
  have he' : (0 : ℚ) < e := by exact_mod_cast he
  simp only [Val.lt, Val.signed, Val.mag, decide_eq_true_iff, Bool.false_eq_true, if_false, div_lt_div_iff₀ hd' he']
  norm_cast

theorem Val.eq_iff_mag {a b : Val} (ha : a.IsMag) (hb : b.IsMag) : a.eq b = true ↔ a.mag = b.mag := by
  obtain ⟨n, d, rfl, hd⟩ := ha
  obtain ⟨m, e, rfl, he⟩ := hb
  have hd' : (d : ℚ) ≠ 0 := by exact_mod_cast hd.ne'
  have he' : (e : ℚ) ≠ 0 := by exact_mod_cast he.ne'
  simp only [Val.eq, Val.signed, Val.mag, decide_eq_true_iff, Bool.false_eq_true, if_false, div_eq_div_iff hd' he']
  norm_cast

theorem Val.le_iff_mag {a b : Val} (ha : a.IsMag) (hb : b.IsMag) : a.le b = true ↔ a.mag ≤ b.mag := by
  rw [Val.le, Bool.or_eq_true, Val.lt_iff_mag ha hb, Val.eq_iff_mag ha hb, le_iff_lt_or_eq]

theorem Val.isMag_pow2 (k : Int) : (Val.pow2 k).IsMag := by
  unfold Val.pow2
  split
  · exact ⟨_, _, rfl, one_pos⟩
  · exact ⟨_, _, rfl, by positivity⟩

@[simp] theorem Val.mag_pow2 (k : Int) : (Val.pow2 k).mag = 2 ^ k := by
  have h := (unitsPair_eq 1 k).2
  unfold Val.pow2
  split at h <;> split <;> simp_all [Val.mag]

/-! ## The largest magnitude of a block -/

section
variable {xs : List Val} (hx : ∀ x ∈ xs, x.IsFin)

/-- The step of `amaxOf`. -/
def amaxStep (a x : Val) : Val := if a.lt x.abs then x.abs else a

theorem amaxOf_eq_foldl (xs : List Val) : amaxOf xs = xs.foldl amaxStep Val.zero := rfl

/-- It keeps the larger magnitude. -/
theorem amaxStep_mag {a x : Val} (ha : a.IsMag) (hx : x.IsFin) :
    (amaxStep a x).IsMag ∧ (amaxStep a x).mag = Max.max a.mag x.abs.mag := by
  have hlt := Val.lt_iff_mag ha hx.abs
  unfold amaxStep
  split
  case isTrue h => exact ⟨hx.abs, (max_eq_right (hlt.1 h).le).symm⟩
  case isFalse h => exact ⟨ha, (max_eq_left (not_lt.1 fun h' => h (hlt.2 h'))).symm⟩

include hx in
theorem amaxFold_mag {a : Val} (ha : a.IsMag) :
    (xs.foldl amaxStep a).IsMag ∧ (xs.foldl amaxStep a).mag = (xs.map fun x => x.abs.mag).foldl Max.max a.mag := by
  induction xs generalizing a with
  | nil => exact ⟨ha, rfl⟩
  | cons x xs ih =>
    obtain ⟨hmag, hval⟩ := amaxStep_mag ha (hx x List.mem_cons_self)
    obtain ⟨ih1, ih2⟩ := ih (fun y hy => hx y (List.mem_cons_of_mem _ hy)) hmag
    exact ⟨ih1, ih2.trans (by rw [hval]; rfl)⟩

include hx in
theorem amaxOf_isMag : (amaxOf xs).IsMag := amaxOf_eq_foldl xs ▸ (amaxFold_mag hx Val.isMag_zero).1

include hx in
theorem amaxOf_mag : (amaxOf xs).mag = (xs.map fun x => x.abs.mag).foldl Max.max 0 := by
  have h := (amaxFold_mag hx Val.isMag_zero).2
  rwa [← amaxOf_eq_foldl, show Val.zero.mag = 0 by simp [Val.zero, Val.mag]] at h

theorem foldl_max_le_iff {l : List ℚ} {a q : ℚ} : l.foldl Max.max a ≤ q ↔ a ≤ q ∧ ∀ x ∈ l, x ≤ q := by
  induction l generalizing a with
  | nil => simp
  | cons x l ih => simp [ih, and_assoc]

theorem foldl_max_lt_iff {l : List ℚ} {a q : ℚ} : l.foldl Max.max a < q ↔ a < q ∧ ∀ x ∈ l, x < q := by
  induction l generalizing a with
  | nil => simp
  | cons x l ih => simp [ih, and_assoc]

include hx in
theorem amaxOf_mag_lt_iff {q : Val} (hq : q.IsMag) (h0 : 0 < q.mag) :
    (amaxOf xs).mag < q.mag ↔ ∀ x ∈ xs, x.abs.lt q = true := by
  rw [amaxOf_mag hx, foldl_max_lt_iff, List.forall_mem_map]
  simp only [h0, true_and]
  exact forall₂_congr fun x h => (Val.lt_iff_mag (hx x h).abs hq).symm

include hx in
theorem amaxOf_mag_le_iff {q : Val} (hq : q.IsMag) : (amaxOf xs).mag ≤ q.mag ↔ ∀ x ∈ xs, x.abs.le q = true := by
  rw [amaxOf_mag hx, foldl_max_le_iff, List.forall_mem_map]
  simp only [q.mag_nonneg, true_and]
  exact forall₂_congr fun x h => (Val.le_iff_mag (hx x h).abs hq).symm

include hx in
theorem abs_mag_le_amaxOf {x : Val} (h : x ∈ xs) : x.abs.mag ≤ (amaxOf xs).mag :=
  (Val.le_iff_mag (hx x h).abs (amaxOf_isMag hx)).1 ((amaxOf_mag_le_iff hx (amaxOf_isMag hx)).1 le_rfl x h)

/-! ## MX and D3 blocks (R29, R30, R34) -/

theorem Val.IsFin.nonFinite {v : Val} (h : v.IsFin) : v.nonFinite = false := by
  obtain ⟨s, n, d, rfl, -⟩ := h
  rfl

include hx in
theorem any_nonFinite_of_isFin : xs.any Val.nonFinite = false := by
  rw [List.any_eq_false]
  exact fun x h => by simp [(hx x h).nonFinite]

theorem any_nonFinite_of_exists {xs : List Val} (h : ∃ x ∈ xs, x.nonFinite = true) : xs.any Val.nonFinite = true :=
  List.any_eq_true.2 h

include hx in
/-- R29 for finite values: the exponent of a largest magnitude that is not zero, less emax, held to -127 to 127. -/
theorem sharedExp_eq (emax : Int) :
    sharedExp emax xs = if (amaxOf xs).mag = 0 then -127
      else Max.max (-127) (Min.min 127 (Int.log 2 (amaxOf xs).mag - emax)) := by
  obtain ⟨n, d, h, hd⟩ := amaxOf_isMag hx
  have hd' : (d : ℚ) ≠ 0 := by exact_mod_cast hd.ne'
  simp only [sharedExp, h, Val.mag, div_eq_zero_iff, hd', or_false, Nat.cast_eq_zero]
  split
  · rfl
  · rw [floorLog2_eq_log (by omega) hd]

include hx in
/-- R29, for the exponent X that the largest magnitude lies at, or beyond which it lies at the ends of the range. -/
theorem sharedExp_eq_of {emax X : Int} (hX : -127 ≤ X ∧ X ≤ 127)
    (hlo : X = -127 ∨ (2 : ℚ) ^ (X + emax) ≤ (amaxOf xs).mag)
    (hhi : X = 127 ∨ (amaxOf xs).mag < (2 : ℚ) ^ (X + 1 + emax)) : sharedExp emax xs = X := by
  rw [sharedExp_eq hx]
  split
  case isTrue h0 =>
    rcases hlo with rfl | hlo
    · rfl
    · exact absurd (h0 ▸ hlo) (not_le.2 (by positivity))
  case isFalse h0 =>
    have hpos : 0 < (amaxOf xs).mag := lt_of_le_of_ne (Val.mag_nonneg _) (Ne.symm h0)
    have hlo' : X = -127 ∨ X + emax ≤ Int.log 2 (amaxOf xs).mag :=
      hlo.imp_right (Int.zpow_le_iff_le_log (by norm_num) hpos).1
    have hhi' : X = 127 ∨ Int.log 2 (amaxOf xs).mag < X + 1 + emax :=
      hhi.imp_right (Int.lt_zpow_iff_log_lt (by norm_num) hpos).1
    omega

include hx in
/-- The block of finite values whose shared exponent is X. -/
theorem encodeMX_of_sharedExp (f : Fmt) {emax X : Int} (md : Nat → Final) (h : sharedExp emax xs = X) :
    let rs := xs.zipIdx.map (fun xj => f.roundElem (md xj.2) (xj.1.mul (Val.pow2 (-X))))
    encodeMX f emax md xs = { codes := rs.map (·.code), scale := (X + 127).toNat, outs := rs.map (fun r =>
      { zero := decide (r.code % f.signBit = 0), unf := r.unf, sat := false, nonfin := false }) } := by
  unfold encodeMX
  rw [if_neg (by simp [any_nonFinite_of_isFin hx]), h]
  rfl

end

theorem blockMX_holds : blockMX := by
  intro f emax md xs hx o is
  have his : ∀ X : Int, sharedExp emax xs = X → is X := fun X h => by
    have ho := encodeMX_of_sharedExp hx f md h
    exact ⟨congrArg _ ho, congrArg _ ho, congrArg _ ho⟩
  have hle : ∀ k : Int, (∃ x ∈ xs, (Val.pow2 k).le x.abs = true) → (2 : ℚ) ^ k ≤ (amaxOf xs).mag := by
    rintro k ⟨x, hmem, h⟩
    rw [Val.le_iff_mag (Val.isMag_pow2 _) (Val.IsFin.abs (hx x hmem)), Val.mag_pow2] at h
    exact h.trans (abs_mag_le_amaxOf hx hmem)
  have hlt : ∀ k : Int, (∀ x ∈ xs, x.abs.lt (Val.pow2 k) = true) → (amaxOf xs).mag < (2 : ℚ) ^ k := by
    intro k h
    have := (amaxOf_mag_lt_iff hx (Val.isMag_pow2 k) (by rw [Val.mag_pow2]; positivity)).2 h
    rwa [Val.mag_pow2] at this
  refine ⟨fun h => his _ ?_, fun h => his _ ?_, fun X h1 h2 hlo hhi => his _ ?_⟩
  · exact sharedExp_eq_of hx (by norm_num) (.inl rfl) (.inr (hlt _ h))
  · exact sharedExp_eq_of hx (by norm_num) (.inr (hle _ h)) (.inl rfl)
  · exact sharedExp_eq_of hx ⟨h1, h2⟩ (.inr (hle _ hlo)) (.inr (hlt _ hhi))

/-! ## The outlier's place (R32) -/

/-- The step of `argmaxOf`. -/
def argmaxStep (p : Nat × Val) (xi : Val × Nat) : Nat × Val := if p.2.lt xi.1.abs then (xi.2, xi.1.abs) else p

theorem argmaxOf_eq_foldl (xs : List Val) :
    argmaxOf xs = (xs.zipIdx.foldl argmaxStep (0, (xs.head?.getD Val.zero).abs)).1 := rfl

/-- Nothing of a list that is not larger is taken. -/
theorem foldl_argmaxStep_eq {l : List (Val × Nat)} {p : Nat × Val} (h : ∀ xi ∈ l, p.2.lt xi.1.abs = false) :
    l.foldl argmaxStep p = p := by
  induction l with
  | nil => rfl
  | cons xi l ih =>
    rw [List.foldl_cons, argmaxStep, if_neg (by simp [h xi List.mem_cons_self])]
    exact ih fun y hy => h y (List.mem_cons_of_mem _ hy)

/-- What is below a magnitude stays below it. -/
theorem foldl_argmaxStep_lt {m : Val} {l : List (Val × Nat)} {p : Nat × Val} (hp : p.2.lt m = true)
    (h : ∀ xi ∈ l, xi.1.abs.lt m = true) : (l.foldl argmaxStep p).2.lt m = true := by
  induction l generalizing p with
  | nil => exact hp
  | cons xi l ih =>
    refine ih ?_ fun y hy => h y (List.mem_cons_of_mem _ hy)
    unfold argmaxStep
    split
    · exact h xi List.mem_cons_self
    · exact hp

/-- The outlier is the first of the largest: what comes before is smaller, what comes after is not larger. -/
theorem argmaxOf_append {pre post : List Val} {y : Val} (hpre : ∀ x ∈ pre, x.abs.lt y.abs = true)
    (hy : y.abs.lt y.abs = false) (hpost : ∀ x ∈ post, y.abs.lt x.abs = false) :
    argmaxOf (pre ++ y :: post) = pre.length := by
  have hrest : ∀ xi ∈ post.zipIdx (pre.length + 1), y.abs.lt xi.1.abs = false := fun xi h =>
    hpost _ (List.fst_mem_of_mem_zipIdx h)
  have hstep : argmaxStep ((pre.zipIdx).foldl argmaxStep (0, ((pre ++ y :: post).head?.getD Val.zero).abs)) (y, pre.length) =
      (pre.length, y.abs) := by
    cases pre with
    | nil => simp [argmaxStep, hy]
    | cons x pre =>
      have hlt := foldl_argmaxStep_lt (m := y.abs) (l := (x :: pre).zipIdx) (p := (0, x.abs)) (hpre x List.mem_cons_self)
        fun xi h => hpre _ (List.fst_mem_of_mem_zipIdx h)
      rw [argmaxStep, List.cons_append, List.head?_cons, Option.getD_some, if_pos hlt]
  rw [argmaxOf_eq_foldl, List.zipIdx_append, List.foldl_append, List.zipIdx_cons, List.foldl_cons, Nat.zero_add, hstep,
    foldl_argmaxStep_eq hrest]

/-- The same, by positions. -/
theorem argmaxOf_eq {xs : List Val} (hx : ∀ x ∈ xs, x.IsFin) {p : Nat} (hp : p < xs.length)
    (hmax : ∀ j < xs.length, (xs.getD j Val.zero).abs.le (xs.getD p Val.zero).abs = true)
    (hfirst : ∀ j < p, (xs.getD j Val.zero).abs.lt (xs.getD p Val.zero).abs = true) : argmaxOf xs = p := by
  have hy : xs.getD p Val.zero = xs[p] := List.getD_eq_getElem _ _ hp
  have hnot : ∀ x ∈ xs, xs[p].abs.lt x.abs = false := by
    intro x h
    obtain ⟨j, hj, rfl⟩ := List.getElem_of_mem h
    have hle := hmax j hj
    rw [hy, List.getD_eq_getElem _ _ hj, Val.le_iff_mag (hx _ h).abs (hx _ (List.getElem_mem hp)).abs] at hle
    rw [Bool.eq_false_iff, ne_eq, Val.lt_iff_mag (hx _ (List.getElem_mem hp)).abs (hx _ h).abs, not_lt]
    exact hle
  have hsplit : xs.take p ++ xs[p] :: xs.drop (p + 1) = xs := by simp
  have h := argmaxOf_append (pre := xs.take p) (post := xs.drop (p + 1)) (y := xs[p]) (fun x h => ?_)
    (hnot _ (List.getElem_mem hp)) (fun x h => hnot x (List.mem_of_mem_drop h))
  · rw [hsplit, List.length_take_of_le hp.le] at h
    exact h
  · obtain ⟨j, hj, rfl⟩ := List.getElem_of_mem h
    have hj' : j < p := by simpa [hp.le] using hj
    simpa [hp, hj'.trans hp] using hfirst j hj'

/-! ## The block scale of D4K (R32) -/

theorem Val.IsMag.mul {a b : Val} (ha : a.IsMag) (hb : b.IsMag) : (a.mul b).IsMag ∧ (a.mul b).mag = a.mag * b.mag := by
  obtain ⟨n, d, rfl, hd⟩ := ha
  obtain ⟨m, e, rfl, he⟩ := hb
  refine ⟨⟨n * m, d * e, rfl, by positivity⟩, ?_⟩
  simp only [Val.mul, Val.mag]
  push_cast
  rw [div_mul_div_comm]

theorem Val.IsMag.div {a b : Val} (ha : a.IsMag) (hb : b.IsMag) (h0 : 0 < b.mag) :
    (a.div b).IsMag ∧ (a.div b).mag = a.mag / b.mag := by
  obtain ⟨n, d, rfl, hd⟩ := ha
  obtain ⟨m, e, rfl, he⟩ := hb
  have hm : 0 < m := by
    rcases Nat.eq_zero_or_pos m with rfl | h
    · simp [Val.mag] at h0
    · exact h
  simp only [Val.div, hm.ne', if_false, Val.mag]
  refine ⟨⟨n * e, d * m, rfl, by positivity⟩, ?_⟩
  push_cast
  rw [div_div_div_eq]

/-- A block without the outlier. -/
def d4kOthers (p : Nat) (xs : List Val) : List Val :=
  xs.zipIdx.filterMap (fun xj => if xj.2 = p then none else some xj.1)

theorem mem_d4kOthers {p : Nat} {xs : List Val} {x : Val} :
    x ∈ d4kOthers p xs ↔ ∃ j < xs.length, j ≠ p ∧ xs.getD j Val.zero = x := by
  simp only [d4kOthers, List.mem_filterMap, Prod.exists, List.mem_zipIdx_iff_getElem?]
  constructor
  · rintro ⟨y, j, hj, h⟩
    obtain ⟨hlt, rfl⟩ := List.getElem?_eq_some_iff.1 hj
    split at h
    · cases h
    · exact ⟨j, hlt, by assumption, by simpa [hlt] using h⟩
  · rintro ⟨j, hlt, hne, rfl⟩
    exact ⟨xs[j], j, List.getElem?_eq_getElem hlt, by simp [hne, hlt]⟩

/-- The block scale of D4K and its saturations, from the largest magnitude beside the outlier and six times the tensor scale. -/
def d4kScale (a q : Val) : Nat × Nat :=
  match a.div q with
  | .fin _ n d => if Fmt.e4m3.magCode .up n d > 0x7E then (0x7E, 1) else (Fmt.e4m3.magCode .up n d, 0)
  | _ => (0, 0)

/-- It is the least code k that the largest magnitude does not pass q times of, or 448. -/
theorem d4kScale_eq {a q : Val} (ha : a.IsMag) (hq : q.IsMag) (h0 : 0 < q.mag) :
    ∃ k, (∀ c, k ≤ c ↔ a.mag ≤ Fmt.e4m3.val c * q.mag) ∧ d4kScale a q = if k ≤ 0x7E then (k, 0) else (0x7E, 1) := by
  obtain ⟨⟨n, d, h, hd⟩, hmag⟩ := ha.div hq h0
  refine ⟨Fmt.e4m3.magCode .up n d, fun c => ?_, ?_⟩
  · rw [h] at hmag
    rw [Fmt.magCode_up_le_iff (by decide) n hd, ← div_le_iff₀ h0, ← hmag]
    rfl
  · simp only [d4kScale, h, gt_iff_lt, ← not_le, ite_not]

/-- A finite E4M3 scale code, as a value. -/
theorem e4m3_decode_isMag {c : Nat} (hc : c ≤ 0x7E) :
    (Fmt.e4m3.decode c).IsMag ∧ (Fmt.e4m3.decode c).mag = Fmt.e4m3.val c := by
  have hs : Fmt.e4m3.signBit = 128 := rfl
  have hm : c % Fmt.e4m3.signBit = c := Nat.mod_eq_of_lt (by omega)
  have hq : c / Fmt.e4m3.signBit = 0 := Nat.div_eq_of_lt (by omega)
  have h : Fmt.e4m3.decode c = .fin false (Fmt.e4m3.magVal c).1 (Fmt.e4m3.magVal c).2 := by
    rw [Fmt.decode_of_finite (by rw [hm]; exact hc), hm, hq]
    rfl
  rw [h]
  exact ⟨⟨_, _, rfl, Fmt.magVal_den_pos _ _⟩, rfl⟩

/-! ## D4K blocks -/

/-- An element of a D4K block whose outlier is at p and whose scale code is s. -/
def d4kElem (T : Val) (md : Nat → Final) (p s : Nat) (xj : Val × Nat) : Rounded :=
  if xj.2 = p then { code := 0 }
  else if s = 0 then { code := Fmt.e2m1.signed xj.1.sign 0 }
  else Fmt.e2m1.roundElem (md xj.2) (xj.1.div ((Fmt.e4m3.decode s).mul T))

/-- The parts of an encoded block of finite values. -/
theorem encodeD4K_of_isFin {xs : List Val} (hx : ∀ x ∈ xs, x.IsFin) (T : Val) (md : Nat → Final) :
    let o := encodeD4K T md xs
    let p := argmaxOf xs
    o.pos = p ∧ o.outlier = (Fmt.e4m3.round (md p) false ((xs.getD p Val.zero).div T)).code ∧
    (o.scale, o.scaleSat) = d4kScale (amaxOf (d4kOthers p xs)) ((Val.ofNat 6).mul T) ∧
    o.codes = xs.zipIdx.map (fun xj => (d4kElem T md p o.scale xj).code) := by
  have hany : ¬ xs.any Val.nonFinite = true := by simp [any_nonFinite_of_isFin hx]
  unfold encodeD4K
  rw [if_neg hany]
  exact ⟨rfl, rfl, rfl, List.map_map⟩

theorem getD_map_zipIdx (g : Val × Nat → Nat) {xs : List Val} {j : Nat} (hj : j < xs.length) :
    (xs.zipIdx.map g).getD j 0 = g (xs.getD j Val.zero, j) := by
  simp [hj]

theorem d4kOthers_isFin {xs : List Val} (hx : ∀ x ∈ xs, x.IsFin) (p : Nat) : ∀ y ∈ d4kOthers p xs, y.IsFin := by
  intro y h
  obtain ⟨j, hj, -, rfl⟩ := mem_d4kOthers.1 h
  rw [List.getD_eq_getElem _ _ hj]
  exact hx _ (List.getElem_mem hj)

/-- The scale in the terms of `blockD4K`: the least code k of which no value beside position p passes six times under T, or
448. -/
theorem d4kScale_d4kOthers {xs : List Val} (hx : ∀ x ∈ xs, x.IsFin) (p : Nat) {T : Val} (hT : T.IsMag) (hT0 : 0 < T.mag) :
    ∃ k, (∀ c ≤ 0x7E, (∀ j < xs.length, j ≠ p → (xs.getD j Val.zero).abs.le
        ((Fmt.e4m3.decode c).mul ((Val.ofNat 6).mul T)) = true) ↔ k ≤ c) ∧
      d4kScale (amaxOf (d4kOthers p xs)) ((Val.ofNat 6).mul T) = if k ≤ 0x7E then (k, 0) else (0x7E, 1) := by
  have hox := d4kOthers_isFin hx p
  obtain ⟨hq, hqmag⟩ := (show (Val.ofNat 6).IsMag from ⟨6, 1, rfl, one_pos⟩).mul hT
  have hq0 : 0 < ((Val.ofNat 6).mul T).mag := by
    rw [hqmag]
    exact mul_pos (by norm_num [Val.mag, Val.ofNat]) hT0
  obtain ⟨k, hk, hscale⟩ := d4kScale_eq (amaxOf_isMag hox) hq hq0
  refine ⟨k, fun c hc => ?_, hscale⟩
  obtain ⟨hc1, hc2⟩ := e4m3_decode_isMag hc
  obtain ⟨hs1, hs2⟩ := hc1.mul hq
  rw [hk c, ← hc2, ← hs2, amaxOf_mag_le_iff hox hs1]
  constructor
  · intro h y hy
    obtain ⟨j, hj, hne, rfl⟩ := mem_d4kOthers.1 hy
    exact h j hj hne
  · exact fun h j hj hne => h _ (mem_d4kOthers.2 ⟨j, hj, hne, rfl⟩)

theorem blockD4K_holds : blockD4K := by
  intro md xs p tn td htn htd hp hx T o x six hmax hfirst others
  have hT0 : 0 < T.mag := div_pos (by exact_mod_cast htn) (by exact_mod_cast htd)
  obtain ⟨hpos, hout, hscale, hcodes⟩ := encodeD4K_of_isFin hx T md
  rw [argmaxOf_eq hx hp hmax hfirst] at hpos hout hscale hcodes
  obtain ⟨k, hothers, hk⟩ := d4kScale_d4kOthers hx p ⟨tn, td, rfl, htd⟩ hT0
  rw [hk] at hscale
  refine ⟨hpos, hout, fun c hc h1 h2 => ?_, fun h => ?_, ?_, ?_, fun j hj hne => ?_⟩
  · have hkc : k ≤ c := (hothers c hc).1 h1
    have hck : c ≤ k := by
      rcases h2 with rfl | h2
      · exact k.zero_le
      · have := mt (hothers (c - 1) (by omega)).2 h2
        omega
    rw [if_pos (hkc.trans hc), le_antisymm hkc hck] at hscale
    exact Prod.mk.inj hscale
  · rw [if_neg (mt (hothers 0x7E le_rfl).2 h)] at hscale
    exact Prod.mk.inj hscale
  · rw [hcodes]
    simp
  · rw [hcodes, getD_map_zipIdx _ hp, d4kElem, if_pos rfl]
  · rw [hcodes, getD_map_zipIdx _ hj, d4kElem, if_neg hne]
    split <;> rfl

/-- Settles O59, from the layouts, the two block encodings, the decoders, KS-6 and the counts above. That the outlier of D4K
is rounded as any element is, stochastically too, is the model's choice (log entry 26). -/
theorem recordLayouts : Obligations.RecordLayouts := by
  refine ⟨fun w codes _ _ hc => ⟨by rw [length_leBytes, mul_comm], fun j hj => elemCode_packCodes hc hj⟩,
    fun r h => ⟨r.length_bytes, Rec.ofBytes_bytes h⟩,
    fun f emax md xs h => if_pos (any_nonFinite_of_exists h), fun T md xs h => if_pos (any_nonFinite_of_exists h),
    blockMX_holds, blockD4K_holds, rfl, rfl, ?mx, ?d4k, ks6_eq_ks6Spec, fun seed step tid i => ?draw, healthOf_eq_countP⟩
  case mx =>
    intro c T bytes j hc _ x
    rw [decodeElem_mx hc]
    exact ⟨fun h => if_pos h, fun h => if_neg h⟩
  case d4k =>
    intro T bytes j _ s o p poisoned
    rw [decodeElem_d4k, if_congr poisoned_iff rfl rfl]
    exact ⟨fun h => if_pos h, fun h hp => (if_neg h).trans (if_pos hp), fun h hp => (if_neg h).trans (if_neg hp)⟩
  case draw => rw [ks6Draw_counter, ks6_eq_ks6Spec]

end Sys2Proof.Machine

/-! PROOFS. Chapter 5, the rhizome RAM (R94), what a write of DL_TBL_CMD comes to (R95, R96, R106), and the ends of the
commands of three units (R97, R128, R239, R247). -/
namespace Sys2Proof.Machine

/-! ## Fields of words -/

/-- A field of a word, as the statements write it. -/
theorem bitsOf_eq_toNat_extractLsb' {n : Nat} (w : BitVec n) {hi lo len : Nat} (h : hi + 1 - lo = len) :
    bitsOf w hi lo = (w.extractLsb' lo len).toNat := by
  rw [bitsOf, BitVec.extractLsb'_toNat, h]

/-- A field that is put into a word reads back. -/
theorem bitsOf_setBits (w : Word) {hi lo : Nat} (h : hi < 32) (v : Nat) :
    bitsOf (setBits w hi lo v) hi lo = v % 2 ^ (hi + 1 - lo) := by
  apply Nat.eq_of_testBit_eq
  intro i
  rw [bitsOf, Nat.testBit_mod_two_pow, Nat.testBit_mod_two_pow, Nat.testBit_shiftRight, BitVec.testBit_toNat]
  by_cases hi' : i < hi + 1 - lo
  · have h32 : lo + i < 32 := by omega
    simp [setBits, BitVec.getLsbD_or, BitVec.getLsbD_and, BitVec.getLsbD_not, BitVec.getLsbD_ofNat, h32, hi',
      Nat.testBit_mul_two_pow, Nat.testBit_two_pow_sub_one, -BitVec.getLsbD_eq_getElem]
  · simp [hi']

/-! ## Banks -/

@[simp] theorem TblUnit.bank_setBank_self (t : TblUnit) (b : Bool) (k : Bank) : (t.setBank b k).bank b = k := by
  cases b <;> rfl

theorem TblUnit.bank_setBank_other (t : TblUnit) {b c : Bool} (k : Bank) (h : c ≠ b) :
    (t.setBank b k).bank c = t.bank c := by
  obtain rfl := Bool.eq_not_of_ne h
  cases b <;> rfl

@[simp] theorem TblUnit.setBank_resident (t : TblUnit) (b : Bool) (k : Bank) : (t.setBank b k).resident = t.resident := by
  cases b <;> rfl

/-! ## RAM entries (R94) -/

/-- A bank after a RAM write: one entry of the bank written is replaced. -/
theorem State.bank_writeRam (s : State) (b c : Bool) (i : Nat) (e : Entry) :
    (s.writeRam b i e).tbl.bank c =
      if c = b then { s.tbl.bank b with ram := Store.insert (s.tbl.bank b).ram i e } else s.tbl.bank c := by
  by_cases hc : c = b
  · subst hc
    rw [if_pos rfl]
    exact TblUnit.bank_setBank_self ..
  · rw [if_neg hc]
    exact TblUnit.bank_setBank_other _ _ hc

/-- Every RAM entry after a write. -/
theorem State.ramEntry_writeRam (s : State) (b c : Bool) (i j : Nat) (e : Entry) :
    (s.writeRam b i e).ramEntry c j = if c = b ∧ j = i then e else s.ramEntry c j := by
  have hp : (s.writeRam b i e).powerOns = s.powerOns := rfl
  rw [State.ramEntry, hp, State.bank_writeRam, State.ramEntry]
  by_cases hc : c = b
  · subst hc
    by_cases hj : j = i
    · simp [Store.get, hj, Store.get?_insert_self]
    · simp [Store.get, hj, Store.get?_insert_other]
  · simp [hc]

/-- Settles O27: a RAM write is one insertion into the RAM store of one bank. -/
theorem ramReadsWhatIsWritten : Obligations.RamReadsWhatIsWritten := by
  intro s b i e
  refine ⟨by rw [State.ramEntry_writeRam, if_pos ⟨rfl, rfl⟩], fun c j h => ?_, fun h0 h1 => ?_⟩
  · rw [State.ramEntry_writeRam, if_neg fun ⟨hc, hj⟩ => h (by rw [hc, hj])]
  · obtain ⟨hram, hrest⟩ := (bank_wf_iff _).1 (bank_of b ⟨h0, h1⟩)
    exact setBank_banks b ⟨h0, h1⟩ ((bank_wf_iff _).2 ⟨Store.insert_wf _ _ hram, hrest⟩)

/-! ## A write of DL_TBL_CMD -/

/-- A table command that acts: what its operation does, and the answer to the write (R95, R277). -/
theorem State.writesOp_tbl {s : State} {rq : Requester} (h : s.performs rq .tbl) {op : Nat} (h1 : 1 ≤ op) (h6 : op ≤ 6)
    (v : Word) :
    s.writesOp rq .tbl 0x044 op v = .next (((s.tblCommand op).settle).answerWrite (accessOf rq .tbl 0x044)) := by
  have hop : bitsOf (setBits v 31 28 op) 31 28 = op := by
    rw [bitsOf_setBits v (by decide)]
    omega
  have hc : s.command rq .tbl 0x044 (setBits v 31 28 op) = s.tblCommand op := by
    show s.tblWrite rq _ = _
    rw [State.tblWrite, hop]
    exact if_pos ⟨h1, h6⟩
  rw [State.writesOp, State.writes_command h rfl (by decide) rfl, hc]

/-- A write of DL_TBL_CMD with a reserved OP is recorded as COMMAND. -/
theorem exec_tblReserved {s : State} {rq : Requester} (h : s.performs rq .tbl) {v : Word}
    (hv : (v.extractLsb' 28 4).toNat = 0 ∨ 7 ≤ (v.extractLsb' 28 4).toNat) :
    exec (.registerWrite rq (regAt .tbl 0x044) v) s =
      .next (((s.regFault .tbl .command rq 0x044).settle).answerWrite (accessOf rq .tbl 0x044)) := by
  have hc : s.command rq .tbl 0x044 v = s.regFault .tbl .command rq 0x044 := by
    show s.tblWrite rq v = _
    have hop := bitsOf_eq_toNat_extractLsb' v (hi := 31) (lo := 28) (len := 4) rfl
    rw [State.tblWrite, hop]
    exact if_neg (by omega)
  rw [exec_registerWrite, ← hc]
  exact State.writes_command h rfl (by decide) rfl

/-- BUSY comes before every other cause (R95). -/
theorem State.tblCommand_busy {s : State} (h : s.tbl.cmd.isSome = true) (op : Nat) :
    s.tblCommand op = s.tblReport op 1 0 0 := by
  rw [State.tblCommand, if_pos h]

/-- A SEAL is judged as it is written (R97; log entry 29). -/
theorem State.tblCommand_seal {s : State} (hc : s.tbl.cmd = none) :
    s.tblCommand 5 = { s with tbl := { s.tbl.setBank (!s.tbl.active) { s.tbl.bank (!s.tbl.active) with
        sealed := false, crzSteps := 0, crzCount := 0 } with
      cmd := some { op := 5, code := (s.sealResult (!s.tbl.active)).1, item := (s.sealResult (!s.tbl.active)).2.1
                    index := (s.sealResult (!s.tbl.active)).2.2, finished := true } } } := by
  simp [State.tblCommand, hc, State.shadowBank]

/-- The load that DL_TBL_LOAD_SRC, _FIRST and _COUNT ask for. -/
def State.loadAsked (s : State) (op : Nat) : TblCmd :=
  { op := op, src := s.tbl.loadSrc.toNat, first := s.tbl.loadFirst.toNat, count := s.tbl.loadCount.toNat }

/-- A bank whose flags and counts a load has cleared (R96). -/
def Bank.cleared (k : Bank) : Bank :=
  { k with sealed := false, quarantine := false, fault := false, crzSteps := 0, crzCount := 0 }

/-- The state in which a load has started and read nothing yet: the shadow bank's flags are clear and the sori have dropped
what they hold of it (R96; log entries 28 and 29). -/
def State.loadStarted (s : State) (op : Nat) : State :=
  { s with tbl := { s.tbl.setBank (!s.tbl.active) (s.tbl.bank (!s.tbl.active)).cleared with
      resident := s.tbl.resident.filter (fun r => match r.key with | .user b _ => b != !s.tbl.active | _ => true)
      cmd := some (s.loadAsked op) } }

/-- What a load comes to with no command busy: its refusals in their order, or its first reads (R95, R96). -/
theorem State.tblCommand_load {s : State} (hc : s.tbl.cmd = none) {op limit size item : Nat} (h5 : op ≠ 5) (h6 : op ≠ 6)
    (hshape : s.loadShape op = (limit, size, item)) :
    let first := s.tbl.loadFirst.toNat
    let count := s.tbl.loadCount.toNat
    let src := s.tbl.loadSrc.toNat
    s.tblCommand op =
      if s.bankPinned (!s.tbl.active) = true then s.tblReport op 2 item first
      else if count ≠ 0 ∧ limit < first + count then s.tblReport op 3 item (Nat.max first limit)
      else if src % 16 ≠ 0 then s.tblReport op 3 item first
      else if count ≠ 0 ∧ 2 ^ 31 < src + size * count then s.tblReport op 3 item (first + (2 ^ 31 - src) / size)
      else (s.loadStarted op).loadNext := by
  simp only [State.tblCommand, State.shadowBank, hc, h5, h6, hshape, Option.isSome_none, Bool.false_eq_true, if_false,
    Bool.and_eq_true, decide_eq_true_eq, TblUnit.setBank_resident]
  rfl

/-- The next reads of a load that has items left, and the end of one that has none. -/
theorem State.loadNext_of_cmd {s : State} {c : TblCmd} (hc : s.tbl.cmd = some c) (hop : c.op ≤ 4) (hf : c.finished = false) :
    s.loadNext =
      if c.done < c.count then
        s.issueRead .tblLoad [(c.src + (s.loadShape c.op).2.1 * c.done,
          (s.loadShape c.op).2.1 * Nat.min (loadGroup c.op) (c.count - c.done))]
      else { s with tbl := { s.tbl with cmd := some { c with finished := true } } } := by
  simp [State.loadNext, hc, hop, hf]

/-- Store, item bytes and ITEM of a load do not concern the table unit. -/
theorem State.loadShape_loadStarted (s : State) (op : Nat) : (s.loadStarted op).loadShape op = s.loadShape op := rfl

/-- A load that is performed reads its first items, or has nothing left to do. -/
theorem State.tblCommand_load_starts {s : State} (hc : s.tbl.cmd = none) {op limit size item : Nat} (hop : op ≤ 4)
    (hshape : s.loadShape op = (limit, size, item)) (hp : s.bankPinned (!s.tbl.active) = false)
    (hl : s.tbl.loadCount.toNat = 0 ∨ s.tbl.loadFirst.toNat + s.tbl.loadCount.toNat ≤ limit)
    (ha : s.tbl.loadSrc.toNat % 16 = 0)
    (hs : s.tbl.loadCount.toNat = 0 ∨ s.tbl.loadSrc.toNat + size * s.tbl.loadCount.toNat ≤ 2 ^ 31) :
    s.tblCommand op =
      if s.tbl.loadCount.toNat = 0 then
        { s.loadStarted op with tbl := { (s.loadStarted op).tbl with cmd := some { s.loadAsked op with finished := true } } }
      else (s.loadStarted op).issueRead .tblLoad
        [(s.tbl.loadSrc.toNat, size * Nat.min (loadGroup op) s.tbl.loadCount.toNat)] := by
  rw [State.tblCommand_load hc (by omega) (by omega) hshape, if_neg (Bool.eq_false_iff.1 hp), if_neg (by omega),
    if_neg (not_not.2 ha), if_neg (by omega), State.loadNext_of_cmd (c := s.loadAsked op) rfl hop rfl]
  show (if 0 < s.tbl.loadCount.toNat then (s.loadStarted op).issueRead .tblLoad
      [(s.tbl.loadSrc.toNat + ((s.loadStarted op).loadShape op).2.1 * 0,
        ((s.loadStarted op).loadShape op).2.1 * Nat.min (loadGroup op) (s.tbl.loadCount.toNat - 0))] else _) = _
  rw [State.loadShape_loadStarted, hshape, Nat.mul_zero, Nat.add_zero, Nat.sub_zero]
  by_cases h0 : s.tbl.loadCount.toNat = 0
  · rw [if_neg (by omega), if_pos h0]
  · rw [if_pos (by omega), if_neg h0]

/-- The command that writes a load which is performed. -/
theorem State.writesOp_load_starts {s : State} {rq : Requester} (h : s.performs rq .tbl) (hc : s.tbl.cmd = none) (v : Word)
    {op limit size item : Nat} (h1 : 1 ≤ op) (h4 : op ≤ 4) (hshape : s.loadShape op = (limit, size, item))
    (hp : s.bankPinned (!s.tbl.active) = false)
    (hl : s.tbl.loadCount.toNat = 0 ∨ s.tbl.loadFirst.toNat + s.tbl.loadCount.toNat ≤ limit)
    (ha : s.tbl.loadSrc.toNat % 16 = 0)
    (hs : s.tbl.loadCount.toNat = 0 ∨ s.tbl.loadSrc.toNat + size * s.tbl.loadCount.toNat ≤ 2 ^ 31) :
    s.writesOp rq .tbl 0x044 op v = .next (((if s.tbl.loadCount.toNat = 0 then
        { s.loadStarted op with tbl := { (s.loadStarted op).tbl with cmd := some { s.loadAsked op with finished := true } } }
      else (s.loadStarted op).issueRead .tblLoad
        [(s.tbl.loadSrc.toNat, size * Nat.min (loadGroup op) s.tbl.loadCount.toNat)]).settle).answerWrite
          (accessOf rq .tbl 0x044)) := by
  rw [State.writesOp_tbl h h1 (by omega), State.tblCommand_load_starts hc h4 hshape hp hl ha hs]

/-- Settles O28: each load is one case of `writesOp_load_starts`. -/
theorem tableLoads : Obligations.TableLoads := by
  intro s rq v h hc
  exact ⟨State.writesOp_load_starts h hc v (op := 1) (by decide) (by decide) rfl,
    State.writesOp_load_starts h hc v (op := 2) (by decide) (by decide) rfl,
    State.writesOp_load_starts h hc v (op := 3) (by decide) (by decide) rfl,
    State.writesOp_load_starts h hc v (op := 4) (by decide) (by decide) rfl⟩

/-! ## SEAL and PRELOAD -/

section
variable {s : State} (hc : s.tbl.cmd = none)
include hc

/-- A PRELOAD past the map, or at an index that no grade has (R106). -/
theorem State.tblCommand_preload_range (h : 1024 ≤ s.tbl.loadFirst.toNat ∨ s.tbl.loadFirst.toNat % 4 = 3) :
    s.tblCommand 6 = s.tblReport 6 3 4 s.tbl.loadFirst.toNat := by
  simp [State.tblCommand, hc, h]

variable (h1 : s.tbl.loadFirst.toNat < 1024) (h3 : s.tbl.loadFirst.toNat % 4 ≠ 3)
include h1 h3

/-- A PRELOAD of a function that is not defined (R106). -/
theorem State.tblCommand_preload_undefined
    (h : mapKind ((s.tbl.bank s.tbl.active).mapWord s.tbl.loadFirst.toNat) = 0) :
    s.tblCommand 6 = s.tblReport 6 0xF 4 s.tbl.loadFirst.toNat := by
  have hr : ¬ (1024 ≤ s.tbl.loadFirst.toNat ∨ s.tbl.loadFirst.toNat % 4 = 3) := by omega
  simp [State.tblCommand, State.activeBank, hc, hr, h]

end

theorem State.active_evictFor (f n : Nat) (s : State) : (State.evictFor f n s).tbl.active = s.tbl.active := by
  induction f generalizing s with
  | zero => rfl
  | succ f ih =>
    rw [State.evictFor]
    split
    · rfl
    · split
      · rfl
      · exact ih _

theorem State.active_startFill (s : State) : s.startFill.tbl.active = s.tbl.active := by
  unfold State.startFill
  split
  · dsimp only
    split <;> exact State.active_evictFor _ _ s
  · rfl

/-- Asking for tables does not switch the epoch. -/
theorem State.active_wantTables (s : State) (ws : List TableKey) : (s.wantTables ws).tbl.active = s.tbl.active :=
  State.active_startFill _

/-- A PRELOAD that runs asks for the tables of its function in the active bank (R106). -/
theorem State.tblCommand_preload_runs {s : State} (hc : s.tbl.cmd = none) (h1 : s.tbl.loadFirst.toNat < 1024)
    (h3 : s.tbl.loadFirst.toNat % 4 ≠ 3)
    (h : mapKind ((s.tbl.bank s.tbl.active).mapWord s.tbl.loadFirst.toNat) ≠ 0) :
    s.tblCommand 6 =
      let t := s.wantTables (s.preloadTables s.tbl.active s.tbl.loadFirst.toNat)
      { t with tbl := { t.tbl with
        cmd := some { op := 6, src := if s.tbl.active then 1 else 0, first := s.tbl.loadFirst.toNat } } } := by
  have hr : ¬ (1024 ≤ s.tbl.loadFirst.toNat ∨ s.tbl.loadFirst.toNat % 4 = 3) := by omega
  simp [State.tblCommand, State.activeBank, State.active_wantTables, b2n, hc, hr, h]

/-! ## The ends of commands -/

/-- What a happening inside the fast domain leaves while FCLK runs. -/
theorem State.clocked_of_eq {s t : State} {act : State → State} (hr : s.fclkRuns = true) (h : act s = t) :
    s.clocked act = .next t.settle := by
  rw [State.clocked_runs hr, h]

/-- The end of a table command that has nothing left to do (R95, R97, R313). -/
theorem State.tblCmdDone_finished {s : State} {c : TblCmd} (hc : s.tbl.cmd = some c) (hf : s.tblFinished = true) :
    s.tblCmdDone =
      let t : State := { s with tbl := { s.tbl with cmd := none } }
      let old := s.tbl.bank (!s.tbl.active)
      let new : Bank := { old with sealed := true, crzSteps := old.crzCounts.2, crzCount := old.crzCounts.1 }
      if c.op = 5 ∧ c.code = 0 then
        tblReported { t with tbl := t.tbl.setBank (!s.tbl.active) new } c.op c.code c.item c.index
      else tblReported t c.op c.code c.item c.index := by
  simp only [State.tblCmdDone, hc, hf, if_true, Bool.and_eq_true, decide_eq_true_eq]
  split <;> rfl

theorem State.tblFinished_of_finished {s : State} {c : TblCmd} (hc : s.tbl.cmd = some c) (hop : c.op ≠ 6)
    (hf : c.finished = true) : s.tblFinished = true := by
  simp [State.tblFinished, hc, hop, hf]

/-- A PRELOAD has nothing left to do once its tables are filled (R106). -/
theorem State.tblFinished_of_filled {s : State} {c : TblCmd} (hc : s.tbl.cmd = some c) (hop : c.op = 6)
    (hf : ∀ k ∈ s.preloadTables (decide (c.src = 1)) c.first, s.tbl.filling ≠ some k ∧ k ∉ s.tbl.fillQ) :
    s.tblFinished = true := by
  simpa [State.tblFinished, hc, hop] using hf

theorem State.ctxCmdDone_finished {s : State} {c : CtxCmd} (hc : s.ctx.cmd = some c) (hf : c.finished = true) :
    s.ctxCmdDone = ctxReported { s with ctx := { s.ctx with
      cmd := none, cmdBusy := false
      errIndex := if c.code = 3 then BitVec.ofNat 20 c.errIndex else s.ctx.errIndex } } c.v c.count c.code := by
  simp only [State.ctxCmdDone, hc, hf, if_true]
  rfl

theorem State.imgCmdDone_finished {s : State} {c : ImgCmd} (hc : s.img.cmd = some c) (hf : c.finished = true) :
    s.imgCmdDone = imgReported { s with img := { s.img with
      cmd := none, log := s.img.log.filter (fun r => s.img.retained.any (fun p => p.step == r.1)) } } c.op c.code := by
  simp only [State.imgCmdDone, hc, hf, if_true]
  rfl

/-- EXPORT_BEGIN: the entries are begun once no earlier chain and no earlier window is left (R239). -/
theorem State.exportBegin_ready {s : State} {c : ImgCmd} (hc : s.img.cmd = some c) (hop : c.op = 3) (hst : c.stage = 0)
    (hf : c.finished = false) (hch : ∀ h ∈ s.chains, h.admitted = true → stepBelow h.step c.step = false)
    (hw : ∀ w ∈ s.num.windows, w.closable = true → stepBelow w.step c.step = false) :
    s.exportBegin = { s with img := { s.img with cmd := some { c with stage := 1, left := List.range 4096 } } } := by
  have hch' : (s.chains.any fun h => h.admitted && stepBelow h.step c.step) = false := by simpa using hch
  have hw' : (s.num.windows.any fun w => w.closable && stepBelow w.step c.step) = false := by simpa using hw
  simp [State.exportBegin, hc, hop, hst, hf, hch', hw', State.setImgCmd]

/-- Settles O34: the four happenings, each from its condition. That a context command which succeeds keeps ERR_INDEX is the
model's choice (log entry 35). -/
theorem commandsEnd : Obligations.CommandsEnd := by
  refine ⟨fun s c hr hc hop hf => ⟨fun h => ?load, fun h5 h0 => ?sealed⟩, fun s c hr hc hop hk => ?preload,
    fun s c hr hc hf => State.clocked_of_eq hr (State.ctxCmdDone_finished hc hf),
    fun s c hr hc => ⟨fun hf => State.clocked_of_eq hr (State.imgCmdDone_finished hc hf),
      fun hop hst hf hch hw => State.clocked_of_eq hr (State.exportBegin_ready hc hop hst hf hch hw)⟩⟩
  case load =>
    have hd := State.tblCmdDone_finished hc (State.tblFinished_of_finished hc (by omega) hf)
    rw [if_neg (by omega)] at hd
    exact State.clocked_of_eq hr hd
  case sealed =>
    have hd := State.tblCmdDone_finished hc (State.tblFinished_of_finished hc (by omega) hf)
    rw [if_pos ⟨h5, h0⟩, h5, h0] at hd
    exact State.clocked_of_eq hr hd
  case preload =>
    have hd := State.tblCmdDone_finished hc (State.tblFinished_of_filled hc hop hk)
    rw [if_neg (by omega), hop] at hd
    exact State.clocked_of_eq hr hd

end Sys2Proof.Machine

/-! PROOFS. Chapter 5, the seal: the first failure of a list of checks, and what each check of Table 5.6 judges. -/
namespace Sys2Proof.Machine

/-! ## The first failure -/

/-- `o` is the least pair that fails, item before index, or nothing fails. -/
def FirstFail (F : Nat → Nat → Prop) : Option (Nat × Nat) → Prop
  | none => ∀ t i, ¬ F t i
  | some p => F p.1 p.2 ∧ ∀ t i, F t i → p.1 < t ∨ (p.1 = t ∧ p.2 ≤ i)

theorem FirstFail.congr {F G : Nat → Nat → Prop} {o : Option (Nat × Nat)} (h : FirstFail F o) (e : ∀ t i, G t i ↔ F t i) :
    FirstFail G o := by
  have hGF : G = F := funext fun t => funext fun i => propext (e t i)
  rwa [hGF]

/-- The first entry of a list with rising keys that is bad. -/
theorem firstFail_find? {α : Type} {l : List α} {key : α → Nat} (hl : l.Pairwise (fun a b => key a < key b)) (t : Nat)
    {bad : α → Bool} {o : Option α} (h : l.find? bad = o) :
    FirstFail (fun t' i => t' = t ∧ ∃ a ∈ l, key a = i ∧ bad a = true) (o.map fun a => (t, key a)) := by
  cases o with
  | none =>
    rintro t' i ⟨-, a, ha, -, hb⟩
    exact List.find?_eq_none.1 h a ha hb
  | some a =>
    obtain ⟨hb, before, after, rfl, hbefore⟩ := List.find?_eq_some_iff_append.1 h
    refine ⟨⟨rfl, a, by simp, rfl, hb⟩, ?_⟩
    rintro t' i ⟨rfl, a', ha', rfl, hb'⟩
    refine Or.inr ⟨rfl, ?_⟩
    rcases List.mem_append.1 ha' with ha' | ha'
    · have := hbefore a' ha'
      simp [hb'] at this
    · rcases List.mem_cons.1 ha' with rfl | ha'
      · exact le_rfl
      · exact Nat.le_of_lt ((List.pairwise_cons.1 (List.pairwise_append.1 hl).2.1).1 a' ha')

theorem firstFail_find?_range {n : Nat} (t : Nat) {bad : Nat → Bool} {o : Option Nat} (h : (List.range n).find? bad = o) :
    FirstFail (fun t' i => t' = t ∧ i < n ∧ bad i = true) (o.map fun i => (t, i)) :=
  (firstFail_find? (key := fun i => i) List.pairwise_lt_range t h).congr fun t' i => by simp

theorem leastOf_eq_min? (l : List Nat) : leastOf l = l.min? := by
  induction l with
  | nil => rfl
  | cons a r ih =>
    rw [leastOf, ih, List.min?_cons]
    cases r.min? <;> rfl

/-- The least bad entry, RAM (item 1) before ROM (item 2), as the seal reports it. -/
def leastBad (bad : Bool → List Nat) : Option (Nat × Nat) :=
  match leastOf (bad false) with
  | some a => some (1, a)
  | none => (leastOf (bad true)).map (fun a => (2, a))

theorem firstFail_leastBad {bad : Bool → List Nat} {o : Option (Nat × Nat)} (h : leastBad bad = o) :
    FirstFail (fun t i => ∃ rom, t = (if rom then 2 else 1) ∧ i ∈ bad rom) o := by
  subst h
  unfold leastBad
  rw [leastOf_eq_min?, leastOf_eq_min?]
  cases h0 : (bad false).min? with
  | some a =>
    obtain ⟨ha, hmin⟩ := List.min?_eq_some_iff.1 h0
    refine ⟨⟨false, rfl, ha⟩, ?_⟩
    rintro t i ⟨rom, rfl, hi⟩
    cases rom with
    | false => exact Or.inr ⟨rfl, hmin i hi⟩
    | true => exact Or.inl Nat.one_lt_two
  | none =>
    have hram := List.min?_eq_none_iff.1 h0
    cases h1 : (bad true).min? with
    | some a =>
      obtain ⟨ha, hmin⟩ := List.min?_eq_some_iff.1 h1
      refine ⟨⟨true, rfl, ha⟩, ?_⟩
      rintro t i ⟨rom, rfl, hi⟩
      cases rom with
      | false => simp [hram] at hi
      | true => exact Or.inr ⟨rfl, hmin i hi⟩
    | none =>
      rintro t i ⟨rom, -, hi⟩
      cases rom with
      | false => simp [hram] at hi
      | true => simp [List.min?_eq_none_iff.1 h1] at hi

/-- No check with a code below `n` fails. -/
def SealClean (s : State) (b : Bool) (n : Nat) : Prop := ∀ c, c < n → ∀ t i, ¬ SealFails s b c t i

theorem SealFails.code_range {s : State} {b : Bool} {c t i : Nat} (h : SealFails s b c t i) : 5 ≤ c ∧ c ≤ 12 := by
  unfold SealFails at h
  rcases h with ⟨rfl, -⟩ | ⟨rfl, -⟩ | ⟨rfl, -⟩ | ⟨rfl, -⟩ | ⟨rfl, -⟩ | ⟨rfl, -⟩ | ⟨rfl, -⟩ | ⟨rfl, -⟩ <;> decide

theorem sealClean_five (s : State) (b : Bool) : SealClean s b 5 := by
  intro c hc t i h
  have := SealFails.code_range h
  omega

theorem SealClean.succ {s : State} {b : Bool} {n : Nat} (h : SealClean s b n) (hn : FirstFail (SealFails s b n) none) :
    SealClean s b (n + 1) := by
  intro c hc
  rcases Nat.lt_succ_iff_lt_or_eq.1 hc with hc | rfl
  · exact h c hc
  · exact hn

/-- The first failure of the first check that fails is the verdict. -/
theorem SealClean.verdict {s : State} {b : Bool} {n : Nat} (h : SealClean s b n) {p : Nat × Nat}
    (hp : FirstFail (SealFails s b n) (some p)) : SealVerdict s b n p.1 p.2 := by
  refine Or.inl ⟨hp.1, fun c t i hf => ?_⟩
  rcases Nat.lt_trichotomy c n with hc | rfl | hc
  · exact absurd hf (h c hc t i)
  · exact Or.inr ⟨rfl, hp.2 t i hf⟩
  · exact Or.inl hc

theorem SealClean.verdict_none {s : State} {b : Bool} (h : SealClean s b 13) : SealVerdict s b 0 0 0 := by
  refine Or.inr ⟨fun c t i hf => h c ?_ t i hf, rfl, rfl, rfl⟩
  have := SealFails.code_range hf
  omega

/-- A seal has one verdict. -/
theorem SealVerdict.unique {s : State} {b : Bool} {c t i c' t' i' : Nat} (h : SealVerdict s b c t i)
    (h' : SealVerdict s b c' t' i') : c = c' ∧ t = t' ∧ i = i' := by
  rcases h with ⟨hf, hmin⟩ | ⟨hno, rfl, rfl, rfl⟩
  · rcases h' with ⟨hf', hmin'⟩ | ⟨hno', -⟩
    · have h1 := hmin _ _ _ hf'
      have h2 := hmin' _ _ _ hf
      omega
    · exact absurd hf (hno' _ _ _)
  · rcases h' with ⟨hf', -⟩ | ⟨-, rfl, rfl, rfl⟩
    · exact absurd hf' (hno _ _ _)
    · exact ⟨rfl, rfl, rfl⟩

/-! ## What a bank lists -/

theorem Store.get?_of_mem {α : Type} {s : Store α} (h : Store.rising s = true) {p : Nat × α} (hp : p ∈ s) :
    Store.get? s p.1 = some p.2 := by
  rw [Store.rising_iff] at h
  induction s with
  | nil => cases hp
  | cons q r ih =>
    obtain ⟨hq, hr⟩ := List.pairwise_cons.1 h
    rcases List.mem_cons.1 hp with rfl | hp
    · simp [Store.get?]
    · rw [Store.get?, if_neg (Nat.ne_of_lt (hq p hp)), ih hr hp]

/-- A listed address reads as it is listed. -/
theorem Store.get_of_mem {α : Type} {s : Store α} (h : Store.rising s = true) (d : Nat → α) {p : Nat × α} (hp : p ∈ s) :
    Store.get d s p.1 = p.2 := by
  rw [Store.get, Store.get?_of_mem h hp, Option.getD_some]

/-- An address that does not read as an unlisted one is listed. -/
theorem Store.mem_of_get_ne {α : Type} {s : Store α} {d : Nat → α} {i : Nat} (h : Store.get d s i ≠ d i) :
    (i, Store.get d s i) ∈ s := by
  unfold Store.get at h ⊢
  induction s with
  | nil => exact absurd rfl h
  | cons q r ih =>
    obtain ⟨k, a⟩ := q
    rw [Store.get?] at h ⊢
    by_cases hk : k = i
    · simp [hk]
    · rw [if_neg hk] at h ⊢
      exact List.mem_cons_of_mem _ (ih h)

/-- The addresses of a store in its canonical form rise. -/
theorem Store.rising_of_wf {α : Type} [DecidableEq α] {d : Nat → Option α} {s : Store α} (h : Store.wf d s = true) :
    Store.rising s = true := (Bool.and_eq_true_iff.1 h).1

/-- The valid descriptors of a bank with their indices, as the seal lists them. -/
def Bank.validDescs (k : Bank) : List (Nat × Desc) :=
  (k.descs.map (fun p => (p.1, parseDesc p.2))).filter (fun p => p.2.valid)

/-- The valid croziers of a bank with their indices, as the seal lists them. -/
def Bank.validCrz (k : Bank) : Store (List DWord) := k.crz.filter (fun p => crzValid (p.2.headD 0))

section
variable {k : Bank} (hk : k.wf = true)
include hk

theorem Bank.mem_validDescs {p : Nat × Desc} :
    p ∈ k.validDescs ↔ p.2 = k.desc p.1 ∧ (k.desc p.1).valid = true := by
  obtain ⟨-, hdescs, -⟩ := (bank_wf_iff k).1 hk
  have hrise := Store.rising_of_wf hdescs
  rw [Bank.validDescs, List.mem_filter, List.mem_map]
  constructor
  · rintro ⟨⟨q, hq, rfl⟩, hv⟩
    have hd : k.desc q.1 = parseDesc q.2 := congrArg parseDesc (Store.get_of_mem hrise _ hq)
    exact ⟨hd.symm, hd ▸ hv⟩
  · rintro ⟨hp, hv⟩
    have hne : k.descWords p.1 ≠ descDefault := fun h => by
      have : (parseDesc descDefault).valid = true := h ▸ hv
      exact absurd this (by decide)
    exact ⟨⟨_, Store.mem_of_get_ne (d := fun _ => descDefault) hne, Prod.ext rfl hp.symm⟩, hp ▸ hv⟩

theorem Bank.validDescs_rising : k.validDescs.Pairwise (fun p q => p.1 < q.1) := by
  obtain ⟨-, hdescs, -⟩ := (bank_wf_iff k).1 hk
  have hrise := (Store.rising_iff _).1 (Store.rising_of_wf hdescs)
  exact List.Pairwise.filter _ (List.Pairwise.map _ (fun _ _ h => h) hrise)

theorem Bank.mem_validCrz {p : Nat × List DWord} :
    p ∈ k.validCrz ↔ p.2 = k.crozier p.1 ∧ crzValid ((k.crozier p.1).headD 0) = true := by
  obtain ⟨-, -, -, hcrz⟩ := (bank_wf_iff k).1 hk
  rw [Bank.validCrz, List.mem_filter]
  constructor
  · rintro ⟨hp, hv⟩
    have hd : k.crozier p.1 = p.2 := Store.get_of_mem (Store.rising_of_wf hcrz) _ hp
    exact ⟨hd.symm, hd ▸ hv⟩
  · rintro ⟨hp, hv⟩
    have hne : k.crozier p.1 ≠ crzDefault := fun h => by
      have : crzValid (crzDefault.headD 0) = true := h ▸ hv
      exact absurd this (by decide)
    have hmem : (p.1, k.crozier p.1) ∈ k.crz := Store.mem_of_get_ne (d := fun _ => crzDefault) hne
    rw [← hp] at hmem hv
    exact ⟨hmem, hv⟩

theorem Bank.validCrz_rising : k.validCrz.Pairwise (fun p q => p.1 < q.1) := by
  obtain ⟨-, -, -, hcrz⟩ := (bank_wf_iff k).1 hk
  exact ((Store.rising_iff _).1 (Store.rising_of_wf hcrz)).filter _

end

end Sys2Proof.Machine

/-! PROOFS. Chapter 5, what each check of Table 5.6 asks: descriptors and entries, the rules of R99, map words (R92) and
croziers (R108). -/
namespace Sys2Proof.Machine

/-- A field is zero as a number or as bits. -/
theorem bitsOf_eq_zero_iff {n : Nat} (w : BitVec n) {hi lo len : Nat} (h : hi + 1 - lo = len) :
    bitsOf w hi lo = 0 ↔ w.extractLsb' lo len = 0 := by
  rw [bitsOf_eq_toNat_extractLsb' w h, ← BitVec.toNat_inj]
  rfl

/-! ## Descriptors and entries -/

theorem frontUniform_iff (f : Nat) : frontUniform f = true ↔ f = 2 ∨ f = 3 ∨ f = 9 ∨ f = 10 := by
  simp [frontUniform, or_assoc]

/-- DESC_FIELD. -/
theorem Desc.fieldsOk_iff (d : Desc) :
    d.fieldsOk = true ↔ d.grade ≠ 3 ∧ d.front ≤ 10 ∧ d.monoDecl ≠ 3 ∧
      (d.uniform = true ↔ d.front = 2 ∨ d.front = 3 ∨ d.front = 9 ∨ d.front = 10) ∧
      (d.uniform = true → d.k ≤ 8 ∧ d.signed = false) ∧
      (d.uniform = false → d.k ≤ 10 ∧ -149 ≤ d.emin ∧ d.emin ≤ 127 ∧ 1 ≤ d.nbin ∧ d.emin + d.nbin ≤ 128) ∧
      (d.grade ≠ 0 → d.sh2 = 0) ∧ d.reserved = false := by
  have hmode : (d.uniform == frontUniform d.front) = true ↔
      (d.uniform = true ↔ d.front = 2 ∨ d.front = 3 ∨ d.front = 9 ∨ d.front = 10) := by
    rw [beq_iff_eq, ← frontUniform_iff, Bool.eq_iff_iff]
  have hsh : (d.grade == 0 || d.sh2 == 0) = true ↔ (d.grade ≠ 0 → d.sh2 = 0) := by
    rw [Bool.or_eq_true, beq_iff_eq, beq_iff_eq, or_iff_not_imp_left]
  simp only [Desc.fieldsOk, Bool.and_eq_true, hmode, hsh]
  cases d.uniform <;> simp [and_assoc]

/-- DESC_SPAN (R85). -/
theorem Desc.spanOk_eq_false_iff (d : Desc) (top : Nat) :
    d.spanOk top = false ↔ (if d.space = true then 0x2A1C else top) < d.base + d.entries := by
  rw [Desc.spanOk, decide_eq_false_iff_not, Nat.not_le]
  rfl

/-- ENTRY_FIELD. -/
theorem entryFieldsOk_iff (g : Nat) (e : Entry) :
    entryFieldsOk g e = true ↔ e.extractLsb' 78 10 = 0 ∧ entMono e ≠ 3 ∧ (g = 2 → e.extractLsb' 60 2 = 0) ∧
      (g = 1 → e.extractLsb' 48 14 = 0) := by
  rw [← bitsOf_eq_zero_iff e (hi := 87) rfl, ← bitsOf_eq_zero_iff e (hi := 61) (lo := 60) rfl,
    ← bitsOf_eq_zero_iff e (hi := 61) (lo := 48) rfl]
  unfold entryFieldsOk
  split
  · simp [and_assoc]
  · simp [and_assoc]
  next h2 h1 => simp [show g ≠ 1 from h1, show g ≠ 2 from h2]

/-! ## The rules of R99 -/

theorem inOrder_iff (dir : Nat) (u v : Val) :
    inOrder dir u v = true ↔ if dir = 1 then u.le v = true else v.le u = true := by
  unfold inOrder
  split <;> rfl

theorem slopeOk_iff (dir : Nat) (v : Int) : slopeOk dir v = true ↔ if dir = 1 then 0 ≤ v else v ≤ 0 := by
  unfold slopeOk
  split <;> exact decide_eq_true_iff

/-- The sign rule of one entry. -/
theorem Desc.signOk_iff (d : Desc) (dir : Nat) (e : Entry) : d.signOk dir e = true ↔ SealSign d dir e := by
  unfold Desc.signOk SealSign
  simp only [Bool.and_eq_true, beq_iff_eq, ← slopeOk_iff]
  split
  next h => simp [h]
  next h => simp [h]
  next h2 h1 => simp [show d.grade ≠ 1 from h1, show d.grade ≠ 2 from h2]

theorem Desc.segAt_fst (d : Desc) (l : Nat) : (d.segAt l).1 = if d.grade = 2 then l / 2 else l := by
  unfold Desc.segAt
  split <;> rfl

/-- The runs of a table; the second one lies on the negative side. -/
theorem Desc.mem_runs_zipIdx (d : Desc) {dir lo hi n : Nat} :
    ((dir, lo, hi), n) ∈ d.runs.zipIdx ↔ n < 2 ∧ SealRun d (n == 1) dir lo hi := by
  unfold Desc.runs SealRun
  cases hu : d.uniform with
  | true => match n with | 0 | 1 | _ + 2 => simp
  | false =>
    cases hs : d.signed with
    | true => match n with | 0 | 1 | _ + 2 => simp
    | false => match n with | 0 | 1 | _ + 2 => simp

theorem Desc.mem_runs (d : Desc) {dir lo hi : Nat} : (dir, lo, hi) ∈ d.runs ↔ ∃ neg, SealRun d neg dir lo hi := by
  unfold Desc.runs SealRun
  cases hu : d.uniform with
  | true => simp
  | false => cases hs : d.signed <;> simp

/-- The entries at which the sign rule fails are those of some run's segments. -/
theorem Desc.mem_signFaults (d : Desc) (rd : Nat → Entry) (a : Nat) :
    a ∈ d.signFaults rd ↔ ∃ neg dir lo hi l, SealRun d neg dir lo hi ∧ lo ≤ l ∧ l ≤ hi ∧
      a = (if d.grade = 2 then l / 2 else l) ∧ ¬ SealSign d dir (rd a) := by
  simp only [Desc.signFaults, List.mem_flatMap, List.mem_filter, List.mem_map, List.mem_range, Prod.exists, d.mem_runs,
    Desc.segAt_fst, ← Desc.signOk_iff, Bool.not_eq_true', Bool.not_eq_true]
  constructor
  · rintro ⟨dir, lo, hi, ⟨neg, hrun⟩, ⟨i, hi', rfl⟩, hbad⟩
    exact ⟨neg, dir, lo, hi, lo + i, hrun, by omega, by omega, rfl, hbad⟩
  · rintro ⟨neg, dir, lo, hi, l, hrun, hlo, hhi, rfl, hbad⟩
    exact ⟨dir, lo, hi, ⟨neg, hrun⟩, ⟨l - lo, by omega, by rw [Nat.add_sub_cancel' hlo]⟩, hbad⟩

/-- A seam between two segments of a run breaks its order. -/
def SealInner (d : Desc) (rd : Nat → Entry) (dir lo hi a : Nat) : Prop :=
  ∃ l, lo ≤ l ∧ l < hi ∧ a = (d.segAt l).1 ∧ inOrder dir (d.segVals rd l).2 (d.segVals rd (l + 1)).1 = false

/-- The seams between segments, as the seal lists their faults. -/
def Desc.innerFaults (d : Desc) (rd : Nat → Entry) : List Nat :=
  d.runs.flatMap (fun (dir, lo, hi) =>
    ((List.range (hi - lo)).filter (fun i => !inOrder dir (d.segVals rd (lo + i)).2 (d.segVals rd (lo + i + 1)).1)).map
      (fun i => (d.segAt (lo + i)).1))

theorem Desc.mem_innerFaults (d : Desc) (rd : Nat → Entry) (a : Nat) :
    a ∈ d.innerFaults rd ↔ ∃ neg dir lo hi, SealRun d neg dir lo hi ∧ SealInner d rd dir lo hi a := by
  simp only [Desc.innerFaults, SealInner, List.mem_flatMap, List.mem_filter, List.mem_map, List.mem_range, Prod.exists,
    d.mem_runs, Bool.not_eq_true']
  constructor
  · rintro ⟨dir, lo, hi, ⟨neg, hrun⟩, i, ⟨hi', hbad⟩, rfl⟩
    exact ⟨neg, dir, lo, hi, hrun, lo + i, by omega, by omega, rfl, hbad⟩
  · rintro ⟨neg, dir, lo, hi, hrun, l, hlo, hhi, rfl, hbad⟩
    obtain ⟨i, rfl⟩ := Nat.exists_eq_add_of_le hlo
    exact ⟨dir, lo, hi, ⟨neg, hrun⟩, i, ⟨by omega, hbad⟩, rfl⟩

/-- The value of a run's HI tail at its limit. -/
def Desc.hiVal (d : Desc) (neg : Bool) : Val :=
  if neg then tailVal d.hinLin d.hinC (signedPow neg (d.emin + d.nbin))
  else tailVal d.hipLin d.hipC (signedPow neg (d.emin + d.nbin))

/-- The LO tail of a run breaks its order. -/
def SealLo (d : Desc) (rd : Nat → Entry) (neg : Bool) (dir lo a : Nat) : Prop :=
  tailMeets d.front neg true d.emin = true ∧ a = (d.segAt lo).1 ∧
    inOrder dir (tailVal d.loLin d.loC (signedPow neg d.emin)) (d.segVals rd lo).1 = false

/-- The HI tail of a run breaks its order. -/
def SealHi (d : Desc) (rd : Nat → Entry) (neg : Bool) (dir hi a : Nat) : Prop :=
  tailMeets d.front neg false (d.emin + d.nbin) = true ∧ a = (d.segAt hi).1 ∧
    inOrder dir (d.segVals rd hi).2 (d.hiVal neg) = false

/-- The tails, as the seal lists their faults. -/
def Desc.tailFaults (d : Desc) (rd : Nat → Entry) : List Nat :=
  if d.uniform then [] else d.runs.zipIdx.flatMap (fun ((dir, lo, hi), k) =>
    let neg := k == 1
    let e1 := d.emin
    let e2 := d.emin + d.nbin
    let loBad := tailMeets d.front neg true e1
      && !inOrder dir (tailVal d.loLin d.loC (signedPow neg e1)) (d.segVals rd lo).1
    let hiV := if neg then tailVal d.hinLin d.hinC (signedPow neg e2) else tailVal d.hipLin d.hipC (signedPow neg e2)
    let hiBad := tailMeets d.front neg false e2 && !inOrder dir (d.segVals rd hi).2 hiV
    (if loBad then [(d.segAt lo).1] else []) ++ (if hiBad then [(d.segAt hi).1] else []))

theorem mem_ite_and_not_singleton (m o : Bool) (a x : Nat) :
    a ∈ (if (m && !o) = true then [x] else []) ↔ m = true ∧ a = x ∧ o = false := by
  cases m <;> cases o <;> simp

theorem Desc.mem_tailFaults (d : Desc) (rd : Nat → Entry) (a : Nat) :
    a ∈ d.tailFaults rd ↔ ∃ neg dir lo hi, SealRun d neg dir lo hi ∧ d.uniform = false ∧
      (SealLo d rd neg dir lo a ∨ SealHi d rd neg dir hi a) := by
  unfold Desc.tailFaults
  split
  next hu => simp [hu]
  next hu =>
    simp only [List.mem_flatMap, Prod.exists, d.mem_runs_zipIdx, List.mem_append, mem_ite_and_not_singleton, and_assoc]
    constructor
    · rintro ⟨dir, lo, hi, n, -, hrun, h⟩
      exact ⟨n == 1, dir, lo, hi, hrun, Bool.eq_false_iff.2 hu, h⟩
    · rintro ⟨neg, dir, lo, hi, hrun, -, h⟩
      cases neg with
      | false => exact ⟨dir, lo, hi, 0, Nat.zero_lt_two, hrun, h⟩
      | true => exact ⟨dir, lo, hi, 1, Nat.one_lt_two, hrun, h⟩

/-- The wrap rule, as the seal lists its fault. -/
def Desc.wrapFaults (d : Desc) (rd : Nat → Entry) : List Nat :=
  match d.wrapVal rd, d.runs.head? with
    | some w, some (dir, _, hi) => if inOrder dir (d.segVals rd hi).2 w then [] else [(d.segAt hi).1]
    | _, _ => []

theorem Desc.wrapVal_eq_some_iff (d : Desc) (rd : Nat → Entry) (w : Val) : d.wrapVal rd = some w ↔ SealWrap d rd w := by
  unfold Desc.wrapVal SealWrap
  split
  case h_8 h | h_9 h =>
    rw [h]
    cases indexBinade d (.fin true 1 4) <;> simp [eq_comm]
  case h_10 => simp_all
  all_goals simp [*, eq_comm]

theorem Desc.head?_runs (d : Desc) {dir lo hi : Nat} :
    d.runs.head? = some (dir, lo, hi) ↔ SealRun d false dir lo hi := by
  unfold Desc.runs SealRun
  cases hu : d.uniform <;> simp [eq_comm (a := dir), eq_comm (a := lo), eq_comm (a := hi)]

theorem Desc.mem_wrapFaults (d : Desc) (rd : Nat → Entry) (a : Nat) :
    a ∈ d.wrapFaults rd ↔ ∃ dir lo hi w, SealRun d false dir lo hi ∧ SealWrap d rd w ∧ a = (d.segAt hi).1 ∧
      inOrder dir (d.segVals rd hi).2 w = false := by
  unfold Desc.wrapFaults
  split
  next w dir lo hi hw hr =>
    rw [List.mem_ite_nil_left, List.mem_singleton, Bool.not_eq_true]
    constructor
    · rintro ⟨hbad, rfl⟩
      exact ⟨dir, lo, hi, w, d.head?_runs.1 hr, (d.wrapVal_eq_some_iff rd w).1 hw, rfl, hbad⟩
    · rintro ⟨dir', lo', hi', w', hr', hw', rfl, hbad⟩
      obtain rfl : w = w' := Option.some.inj (hw.symm.trans ((d.wrapVal_eq_some_iff rd w').2 hw'))
      cases Option.some.inj (hr.symm.trans (d.head?_runs.2 hr'))
      exact ⟨hbad, rfl⟩
  next h =>
    constructor
    · intro ha
      cases ha
    · rintro ⟨dir, lo, hi, w, hr, hw, -⟩
      exact (h w dir lo hi ((d.wrapVal_eq_some_iff rd w).2 hw) (d.head?_runs.2 hr)).elim

theorem Desc.seamFaults_eq (d : Desc) (rd : Nat → Entry) :
    d.seamFaults rd = d.innerFaults rd ++ d.tailFaults rd ++ d.wrapFaults rd := rfl

/-- The entries at which a seam, tail or wrap rule fails. -/
theorem Desc.mem_seamFaults (d : Desc) (rd : Nat → Entry) (a : Nat) : a ∈ d.seamFaults rd ↔ SealSeam d rd a := by
  have hseam : SealSeam d rd a ↔ ∃ neg dir lo hi, SealRun d neg dir lo hi ∧ (SealInner d rd dir lo hi a ∨
      (d.uniform = false ∧ SealLo d rd neg dir lo a) ∨ (d.uniform = false ∧ SealHi d rd neg dir hi a) ∨
      (neg = false ∧ ∃ w, SealWrap d rd w ∧ a = (d.segAt hi).1 ∧ inOrder dir (d.segVals rd hi).2 w = false)) := by
    simp only [SealSeam, SealInner, SealLo, SealHi, Desc.segAt_fst, ← inOrder_iff, Bool.not_eq_true]
    rfl
  rw [hseam, Desc.seamFaults_eq, List.mem_append, List.mem_append, Desc.mem_innerFaults, Desc.mem_tailFaults,
    Desc.mem_wrapFaults]
  constructor
  · rintro ((⟨neg, dir, lo, hi, hrun, h⟩ | ⟨neg, dir, lo, hi, hrun, hu, h⟩) | ⟨dir, lo, hi, w, hrun, h⟩)
    · exact ⟨neg, dir, lo, hi, hrun, Or.inl h⟩
    · rcases h with h | h
      · exact ⟨neg, dir, lo, hi, hrun, Or.inr (Or.inl ⟨hu, h⟩)⟩
      · exact ⟨neg, dir, lo, hi, hrun, Or.inr (Or.inr (Or.inl ⟨hu, h⟩))⟩
    · exact ⟨false, dir, lo, hi, hrun, Or.inr (Or.inr (Or.inr ⟨rfl, w, h⟩))⟩
  · rintro ⟨neg, dir, lo, hi, hrun, h | ⟨hu, h⟩ | ⟨hu, h⟩ | ⟨rfl, w, h⟩⟩
    · exact Or.inl (Or.inl ⟨neg, dir, lo, hi, hrun, h⟩)
    · exact Or.inl (Or.inr ⟨neg, dir, lo, hi, hrun, hu, Or.inl h⟩)
    · exact Or.inl (Or.inr ⟨neg, dir, lo, hi, hrun, hu, Or.inr h⟩)
    · exact Or.inr ⟨dir, lo, hi, w, hrun, h⟩

/-! ## Map words (R92) -/

theorem isPosFn_eq_false_iff (f : Nat) : isPosFn f = false ↔ f ≠ 0x10 ∧ f ≠ 0x11 := by simp [isPosFn]

/-- FRONT of a table's descriptor goes with the position functions, and with no other. -/
theorem posFront_iff (f front : Nat) :
    (if f = 0x10 then front == 9 else if f = 0x11 then front == 10 else front != 9 && front != 10) = true ↔
      (front = 9 ↔ f = 0x10) ∧ (front = 10 ↔ f = 0x11) := by
  split
  · simp [*]
    omega
  · split <;> simp [*]
    omega

/-- A map word is KIND 0 where its function has no ID (R70, R92). -/
theorem reservedKind_iff (kind f : Nat) :
    (if (decide (f < 0x40) && !builtinExists f) = true then kind == 0 else true) = true ↔
      (f < 0x40 → builtinExists f = false → kind = 0) := by
  cases builtinExists f <;> by_cases h : f < 0x40 <;> simp [h]

/-- A map word as the seal judges it (R92), by its KIND. -/
theorem Bank.mapOk_iff (k : Bank) (i : Nat) : k.mapOk i = true ↔ SealMap k i := by
  have hkind := bitsOf_eq_toNat_extractLsb' (k.mapWord i) (hi := 15) (lo := 14) (len := 2) rfl
  have hindex := bitsOf_eq_toNat_extractLsb' (k.mapWord i) (hi := 8) (lo := 0) (len := 9) rfl
  have hzero := bitsOf_eq_toNat_extractLsb' (k.mapWord i) (hi := 13) (lo := 9) (len := 5) rfl
  have hlt := ((k.mapWord i).extractLsb' 14 2).isLt
  unfold Bank.mapOk SealMap mapKind mapIndex
  simp only [hkind, hindex, hzero]
  generalize ((k.mapWord i).extractLsb' 14 2).toNat = kind at hlt
  generalize ((k.mapWord i).extractLsb' 0 9).toNat = index
  by_cases hg : i % 4 = 3
  · simp [hg]
  · rw [if_neg hg, Bool.and_eq_true, Bool.and_eq_true, reservedKind_iff]
    obtain rfl | rfl | rfl | rfl : kind = 0 ∨ kind = 1 ∨ kind = 2 ∨ kind = 3 := by omega
    · simp [hg]
    · simp [hg, ← posFront_iff, and_assoc]
    · simp [hg, isPosFn_eq_false_iff, and_assoc]
    · simp [hg, and_assoc]

/-! ## Croziers (R108) -/

/-- OP and TIDX of a step word (Table 5.11). -/
def crzOp (w : DWord) : Nat := (w.extractLsb' 60 4).toNat
def crzTidx (w : DWord) : Nat := (w.extractLsb' 32 9).toNat

/-- A descriptor that a step of a crozier of grade `g` may name. -/
def Bank.crzNames (k : Bank) (g t : Nat) : Prop :=
  (k.desc t).valid = true ∧ (k.desc t).grade = g ∧ (k.desc t).front ≠ 9 ∧ (k.desc t).front ≠ 10

/-- One of the first `n` steps is an RRED of table `t`. -/
def CrzRred (w : Nat → DWord) (n t : Nat) : Prop := ∃ l, l < n ∧ crzOp (w l) = 1 ∧ crzTidx (w l) = t

/-- One of the first `n` steps is a LOOK, with no RRED after it. -/
def CrzLooked (w : Nat → DWord) (n : Nat) : Prop := ∃ l, l < n ∧ crzOp (w l) = 2 ∧ ∀ m, l < m → m < n → crzOp (w m) ≠ 1

theorem crzRred_succ (w : Nat → DWord) (n t : Nat) :
    CrzRred w (n + 1) t ↔ CrzRred w n t ∨ (crzOp (w n) = 1 ∧ crzTidx (w n) = t) := Nat.exists_lt_succ_right

theorem crzLooked_succ (w : Nat → DWord) (n : Nat) :
    CrzLooked w (n + 1) ↔ (crzOp (w n) ≠ 1 ∧ CrzLooked w n) ∨ crzOp (w n) = 2 := by
  constructor
  · rintro ⟨l, hl, hlook, hafter⟩
    rcases Nat.lt_succ_iff_lt_or_eq.1 hl with hl | rfl
    · exact Or.inl ⟨hafter n hl (by omega), l, hl, hlook, fun m h1 h2 => hafter m h1 (by omega)⟩
    · exact Or.inr hlook
  · rintro (⟨hn, l, hl, hlook, hafter⟩ | hn)
    · refine ⟨l, by omega, hlook, fun m h1 h2 => ?_⟩
      rcases Nat.lt_succ_iff_lt_or_eq.1 h2 with h2 | rfl
      · exact hafter m h1 h2
      · exact hn
    · exact ⟨n, by omega, hn, fun m h1 h2 => by omega⟩

/-- A step that R108 accepts: `named` says that an earlier RRED names its table, `looked` that a LOOK follows the last RRED. -/
def Bank.crzAccepts (k : Bank) (g : Nat) (w : DWord) (named looked : Prop) : Prop :=
  (1 ≤ crzOp w ∧ crzOp w ≤ 11) ∧ (crzOp w = 1 ∨ crzOp w = 2 → k.crzNames g (crzTidx w)) ∧ (crzOp w = 2 → named) ∧
  (crzOp w = 3 → looked) ∧ (crzOp w = 10 → w.getLsbD 44 = false)

/-- What the check carries past a step that it accepts. -/
def crzNext (st : List Nat × Bool) (w : DWord) : List Nat × Bool :=
  if crzOp w = 1 then (crzTidx w :: st.1, false) else if crzOp w = 2 then (st.1, true) else st

/-- One step of the check accepts what R108 accepts. -/
theorem Bank.crzStepOk_eq_some_iff (k : Bank) (g : Nat) (st st' : List Nat × Bool) (w : DWord) :
    k.crzStepOk g (some st) w = some st' ↔
      k.crzAccepts g w (crzTidx w ∈ st.1) (st.2 = true) ∧ crzNext st w = st' := by
  have hop : crzF w 63 60 = crzOp w := bitsOf_eq_toNat_extractLsb' w rfl
  have htidx : crzF w 40 32 = crzTidx w := bitsOf_eq_toNat_extractLsb' w rfl
  obtain ⟨ok, hdesc, hok⟩ : ∃ ok, ((k.desc (crzTidx w)).valid && (k.desc (crzTidx w)).grade == g &&
      (k.desc (crzTidx w)).front != 9 && (k.desc (crzTidx w)).front != 10) = ok ∧
      (k.crzNames g (crzTidx w) ↔ ok = true) := ⟨_, rfl, by simp [Bank.crzNames, and_assoc]⟩
  unfold Bank.crzStepOk Bank.crzAccepts crzNext
  simp only [hop, htidx, hdesc, hok]
  by_cases h1 : crzOp w = 1
  · simp [h1]
  by_cases h2 : crzOp w = 2
  · simp [h2, and_assoc]
  by_cases h3 : crzOp w = 3
  · simp [h3]
  by_cases h10 : crzOp w = 10
  · simp [h10, bitOf]
  · have hrange : (decide (crzOp w = 0) || decide (crzOp w ≥ 12)) = true ↔ ¬ (1 ≤ crzOp w ∧ crzOp w ≤ 11) := by
      rw [Bool.or_eq_true, decide_eq_true_iff, decide_eq_true_iff]
      omega
    by_cases hr : 1 ≤ crzOp w ∧ crzOp w ≤ 11 <;> simp [h1, h2, h3, h10, hrange, hr]

/-- What the check carries after `n` steps. -/
def CrzSeen (w : Nat → DWord) (n : Nat) (st : List Nat × Bool) : Prop :=
  (∀ t, t ∈ st.1 ↔ CrzRred w n t) ∧ (st.2 = true ↔ CrzLooked w n)

theorem CrzSeen.succ {w : Nat → DWord} {n : Nat} {st : List Nat × Bool} (h : CrzSeen w n st) :
    CrzSeen w (n + 1) (crzNext st (w n)) := by
  obtain ⟨hrred, hlook⟩ := h
  unfold CrzSeen
  simp only [crzRred_succ, crzLooked_succ, ← hrred, ← hlook, crzNext]
  by_cases h1 : crzOp (w n) = 1
  · simp [h1, or_comm, eq_comm (a := crzTidx (w n))]
  · by_cases h2 : crzOp (w n) = 2 <;> simp [h1, h2]

/-- The check after `n` steps. -/
def Bank.crzCheck (k : Bank) (g : Nat) (w : Nat → DWord) (n : Nat) : Option (List Nat × Bool) :=
  ((List.range n).map w).foldl (k.crzStepOk g) (some ([], false))

theorem Bank.crzCheck_succ (k : Bank) (g : Nat) (w : Nat → DWord) (n : Nat) :
    k.crzCheck g w (n + 1) = k.crzStepOk g (k.crzCheck g w n) (w n) := by
  simp [Bank.crzCheck, List.range_succ]

/-- Step `j` obeys R108, given the steps before it. -/
def Bank.crzLegal (k : Bank) (g : Nat) (w : Nat → DWord) (j : Nat) : Prop :=
  k.crzAccepts g (w j) (CrzRred w j (crzTidx (w j))) (CrzLooked w j)

/-- The check accepts the first `n` steps when each obeys R108, and then carries what it has seen. -/
theorem Bank.crzCheck_spec (k : Bank) (g : Nat) (w : Nat → DWord) (n : Nat) :
    (∀ st, k.crzCheck g w n = some st → CrzSeen w n st) ∧
      ((k.crzCheck g w n).isSome = true ↔ ∀ j, j < n → k.crzLegal g w j) := by
  induction n with
  | zero => 
    refine ⟨?_, by simp [Bank.crzCheck]⟩
    rintro st ⟨⟩
    simp [CrzSeen, CrzRred, CrzLooked]
  | succ n ih =>
    obtain ⟨hseen, hsome⟩ := ih
    rw [Bank.crzCheck_succ]
    cases h : k.crzCheck g w n with
    | none =>
      rw [h] at hsome
      exact ⟨nofun, ⟨nofun, fun hall => hsome.2 fun j hj => hall j (by omega)⟩⟩
    | some st =>
      have hst := hseen st h
      rw [h] at hsome
      have hlegal : k.crzAccepts g (w n) (crzTidx (w n) ∈ st.1) (st.2 = true) ↔ k.crzLegal g w n := by
        rw [Bank.crzLegal, hst.1, hst.2]
      rw [Nat.forall_lt_succ_right, Option.isSome_iff_exists]
      simp only [Bank.crzStepOk_eq_some_iff, hlegal]
      refine ⟨?_, ?_⟩
      · rintro st' ⟨-, rfl⟩
        exact hst.succ
      · exact ⟨fun ⟨_, hn, _⟩ => ⟨hsome.1 rfl, hn⟩, fun ⟨_, hn⟩ => ⟨_, hn, rfl⟩⟩

/-- The steps that a crozier's check goes through. -/
theorem take_drop_one_eq_map (c : List DWord) (n : Nat) :
    (c.drop 1).take n = (List.range (min n (c.length - 1))).map (fun j => c.getD (j + 1) 0) := by
  refine List.ext_getElem (by simp) fun i h1 h2 => ?_
  have hi : 1 + i < c.length := by
    simp only [List.length_take, List.length_drop] at h1
    omega
  rw [List.getElem_take, List.getElem_drop, List.getElem_map, List.getElem_range, Nat.add_comm i 1, List.getD_eq_getElem _ _ hi]

/-- A crozier as the seal judges it (R108). -/
theorem Bank.crzOk_iff (k : Bank) (i : Nat) : k.crzOk i = true ↔ SealCrozier k i := by
  let c := k.crozier i
  let h := c.headD 0
  have hzero : crzF h 63 28 = 0 ↔ h.extractLsb' 28 36 = 0 := bitsOf_eq_zero_iff h rfl
  have hgrade : crzGrade h = (h.extractLsb' 4 2).toNat := bitsOf_eq_toNat_extractLsb' h rfl
  have hnext : crzF h 7 6 = (h.extractLsb' 6 2).toNat := bitsOf_eq_toNat_extractLsb' h rfl
  have hsteps : (((c.drop 1).take (crzLen h)).foldl (k.crzStepOk (crzGrade h)) (some ([], false))).isSome = true ↔
      ∀ j, j < crzLen h → j + 1 < c.length → k.crzLegal (crzGrade h) (fun j => c.getD (j + 1) 0) j := by
    rw [take_drop_one_eq_map]
    refine (k.crzCheck_spec _ _ _).2.trans (forall_congr' fun j => ?_)
    rw [lt_min_iff, and_imp, Nat.lt_sub_iff_add_lt]
  calc k.crzOk i = true
      ↔ ((crzF h 63 28 = 0 ∧ crzGrade h ≠ 3) ∧ crzF h 7 6 ≠ 3) ∧
          (((c.drop 1).take (crzLen h)).foldl (k.crzStepOk (crzGrade h)) (some ([], false))).isSome = true := by
        simp only [Bank.crzOk, Bool.and_eq_true, beq_iff_eq, bne_iff_ne, c, h]
    _ ↔ SealCrozier k i := by
        rw [hsteps, hzero, hgrade, hnext, and_assoc, and_assoc, ← hgrade]
        rfl

end Sys2Proof.Machine

/-! PROOFS. Chapter 5, the seal as a whole (R97, R339), and the table commands that are not performed. -/
namespace Sys2Proof.Machine

/-! ## The entries that the seal judges -/

/-- The entries of a space that the valid descriptors address, each with its table's grade. -/
def Bank.spaceEntries (k : Bank) (rom : Bool) : List (Nat × Nat) :=
  (k.validDescs.filter (fun p => p.2.space == rom)).flatMap (fun p =>
    (List.range p.2.entries).map (fun i => (p.2.base + i, p.2.grade)))

/-- The entries of a space at which a rule of R99 fails, given the faults of a table above its BASE. -/
def Bank.shapeFaults (k : Bank) (faults : Bool → Desc → List Nat) (rom : Bool) : List Nat :=
  (k.validDescs.filter (fun p => p.2.space == rom && p.2.monoDecl != 0)).flatMap (fun p =>
    (faults rom p.2).map (fun i => p.2.base + i))

section
variable {k : Bank} (hk : k.wf = true)
include hk

/-- The descriptors that fail a check, as the seal finds them. -/
theorem Bank.exists_validDescs (bad : Desc → Bool) (i : Nat) :
    (∃ p ∈ k.validDescs, p.1 = i ∧ bad p.2 = true) ↔ (k.desc i).valid = true ∧ bad (k.desc i) = true := by
  constructor
  · rintro ⟨p, hp, rfl, hb⟩
    obtain ⟨hd, hv⟩ := (Bank.mem_validDescs hk).1 hp
    exact ⟨hv, hd ▸ hb⟩
  · rintro ⟨hv, hb⟩
    exact ⟨(i, k.desc i), (Bank.mem_validDescs hk).2 ⟨rfl, hv⟩, rfl, hb⟩

theorem Bank.mem_spaceEntries (bad : Bool → Nat × Nat → Bool) (t i : Nat) :
    (∃ rom : Bool, t = (if rom then 2 else 1) ∧ i ∈ ((k.spaceEntries rom).filter (bad rom)).map (·.1)) ↔
      ∃ j, (k.desc j).valid = true ∧ t = (if (k.desc j).space then 2 else 1) ∧ (k.desc j).base ≤ i ∧
        i < (k.desc j).base + (k.desc j).entries ∧ bad (k.desc j).space (i, (k.desc j).grade) = true := by
  simp only [Bank.spaceEntries, List.mem_map, List.mem_filter, List.mem_flatMap, List.mem_range, beq_iff_eq]
  constructor
  · rintro ⟨rom, rfl, q, ⟨⟨⟨j, d⟩, ⟨hp, rfl⟩, a, ha, rfl⟩, hb⟩, rfl⟩
    obtain ⟨hd, hv⟩ := (Bank.mem_validDescs hk).1 hp
    dsimp only at hd hv ⊢
    subst hd
    exact ⟨j, hv, rfl, Nat.le_add_right _ _, Nat.add_lt_add_left ha _, hb⟩
  · rintro ⟨j, hv, rfl, hlo, hhi, hb⟩
    obtain ⟨a, rfl⟩ := Nat.exists_eq_add_of_le hlo
    exact ⟨_, rfl, _, ⟨⟨(j, k.desc j), ⟨(Bank.mem_validDescs hk).2 ⟨rfl, hv⟩, rfl⟩, a,
      Nat.lt_of_add_lt_add_left hhi, rfl⟩, hb⟩, rfl⟩

theorem Bank.mem_shapeFaults (faults : Bool → Desc → List Nat) (t i : Nat) :
    (∃ rom : Bool, t = (if rom then 2 else 1) ∧ i ∈ k.shapeFaults faults rom) ↔
      ∃ j a, (k.desc j).valid = true ∧ t = (if (k.desc j).space then 2 else 1) ∧ (k.desc j).monoDecl ≠ 0 ∧
        i = (k.desc j).base + a ∧ a ∈ faults (k.desc j).space (k.desc j) := by
  simp only [Bank.shapeFaults, List.mem_map, List.mem_filter, List.mem_flatMap, Bool.and_eq_true, beq_iff_eq, bne_iff_ne]
  constructor
  · rintro ⟨rom, rfl, ⟨j, d⟩, ⟨hp, rfl, hm⟩, a, ha, rfl⟩
    obtain ⟨hd, hv⟩ := (Bank.mem_validDescs hk).1 hp
    dsimp only at hd hv ⊢
    subst hd
    exact ⟨j, a, hv, rfl, hm, rfl, ha⟩
  · rintro ⟨j, a, hv, rfl, hm, rfl, ha⟩
    exact ⟨_, rfl, (j, k.desc j), ⟨(Bank.mem_validDescs hk).2 ⟨rfl, hv⟩, rfl, hm⟩, a, ha, rfl⟩

end

/-! ## The checks of Table 5.6 -/

section
variable {s : State} {b : Bool} (hk : (s.tbl.bank b).wf = true)
include hk

/-- DESC_FIELD. -/
theorem firstFail_descField {o : Option (Nat × Desc)}
    (h : (s.tbl.bank b).validDescs.find? (fun p => !p.2.fieldsOk) = o) :
    FirstFail (SealFails s b 5) (o.map fun p => (3, p.1)) := by
  refine (firstFail_find? (Bank.validDescs_rising hk) 3 h).congr fun t i => ?_
  rw [Bank.exists_validDescs hk fun d => !d.fieldsOk, Bool.not_eq_true', ← Bool.not_eq_true, Desc.fieldsOk_iff]
  simp only [SealFails, Nat.reduceEqDiff, false_and, or_false, true_and]

/-- DESC_SPAN. -/
theorem firstFail_descSpan {o : Option (Nat × Desc)}
    (h : (s.tbl.bank b).validDescs.find? (fun p => !p.2.spanOk s.bankEntries) = o) :
    FirstFail (SealFails s b 6) (o.map fun p => (3, p.1)) := by
  refine (firstFail_find? (Bank.validDescs_rising hk) 3 h).congr fun t i => ?_
  rw [Bank.exists_validDescs hk fun d => !d.spanOk s.bankEntries, Bool.not_eq_true', Desc.spanOk_eq_false_iff]
  simp only [SealFails, Nat.reduceEqDiff, false_and, false_or, or_false, true_and]

/-- ENTRY_FIELD. -/
theorem firstFail_entryField {o : Option (Nat × Nat)} (h : leastBad (fun rom => (((s.tbl.bank b).spaceEntries rom).filter
    (fun ag => !entryFieldsOk ag.2 (sealEntry s b rom ag.1))).map (·.1)) = o) : FirstFail (SealFails s b 7) o := by
  refine (firstFail_leastBad h).congr fun t i => ?_
  rw [Bank.mem_spaceEntries hk fun rom ag => !entryFieldsOk ag.2 (sealEntry s b rom ag.1)]
  simp only [SealFails, Nat.reduceEqDiff, false_and, false_or, or_false, true_and,
    Bool.not_eq_true', ← Bool.not_eq_true, entryFieldsOk_iff]

/-- ENTRY_ECC. -/
theorem firstFail_entryEcc {o : Option (Nat × Nat)} (h : leastBad (fun rom => (((s.tbl.bank b).spaceEntries rom).filter
    (fun ag => eccOf (if rom then s.romAt ag.1 else s.ramEntry b ag.1) == .uncorr)).map (·.1)) = o) :
    FirstFail (SealFails s b 8) o := by
  refine (firstFail_leastBad h).congr fun t i => ?_
  rw [Bank.mem_spaceEntries hk fun rom ag => eccOf (if rom then s.romAt ag.1 else s.ramEntry b ag.1) == .uncorr]
  simp only [SealFails, Nat.reduceEqDiff, false_and, false_or, or_false, true_and, beq_iff_eq]

/-- The sign rule. -/
theorem firstFail_sign {o : Option (Nat × Nat)} (h : leastBad ((s.tbl.bank b).shapeFaults
    (fun rom d => d.signFaults (fun i => sealEntry s b rom (d.base + i)))) = o) : FirstFail (SealFails s b 9) o := by
  refine (firstFail_leastBad h).congr fun t i => ?_
  rw [Bank.mem_shapeFaults hk]
  simp only [SealFails, Desc.mem_signFaults, Nat.reduceEqDiff, false_and, false_or, or_false, true_and]

/-- The seam, tail and wrap rules. -/
theorem firstFail_seam {o : Option (Nat × Nat)} (h : leastBad ((s.tbl.bank b).shapeFaults
    (fun rom d => d.seamFaults (fun i => sealEntry s b rom (d.base + i)))) = o) : FirstFail (SealFails s b 10) o := by
  refine (firstFail_leastBad h).congr fun t i => ?_
  rw [Bank.mem_shapeFaults hk]
  simp only [SealFails, Desc.mem_seamFaults, Nat.reduceEqDiff, false_and, false_or, or_false, true_and]

omit hk in
/-- MAP. -/
theorem firstFail_map {o : Option Nat} (h : (List.range 1024).find? (fun i => !(s.tbl.bank b).mapOk i) = o) :
    FirstFail (SealFails s b 11) (o.map fun i => (4, i)) := by
  refine (firstFail_find?_range 4 h).congr fun t i => ?_
  simp only [SealFails, Nat.reduceEqDiff, false_and, false_or, or_false, true_and,
    Bool.not_eq_true', ← Bool.not_eq_true, Bank.mapOk_iff]

/-- CROZIER. -/
theorem firstFail_crozier {o : Option (Nat × List DWord)}
    (h : (s.tbl.bank b).validCrz.find? (fun p => !(s.tbl.bank b).crzOk p.1) = o) :
    FirstFail (SealFails s b 12) (o.map fun p => (5, p.1)) := by
  refine (firstFail_find? (Bank.validCrz_rising hk) 5 h).congr fun t i => ?_
  simp only [SealFails, Nat.reduceEqDiff, false_and, false_or, true_and]
  simp [← Bank.crzOk_iff, Bank.mem_validCrz hk]

/-! ## SEAL -/

/-- The seal reports its verdict (R97, R339): the first failure of the first check, in the order of Table 5.6, that fails. -/
theorem State.sealVerdict_sealResult : SealVerdict s b (s.sealResult b).1 (s.sealResult b).2.1 (s.sealResult b).2.2 := by
  unfold State.sealResult
  dsimp only
  have c5 := sealClean_five s b
  split
  next h => exact c5.verdict (firstFail_descField hk h)
  next h =>
  have c6 := c5.succ (firstFail_descField hk h)
  split
  next h => exact c6.verdict (firstFail_descSpan hk h)
  next h =>
  have c7 := c6.succ (firstFail_descSpan hk h)
  split
  next h => exact c7.verdict (firstFail_entryField hk h)
  next h =>
  have c8 := c7.succ (firstFail_entryField hk h)
  split
  next h => exact c8.verdict (firstFail_entryEcc hk h)
  next h =>
  have c9 := c8.succ (firstFail_entryEcc hk h)
  split
  next h => exact c9.verdict (firstFail_sign hk h)
  next h =>
  have c10 := c9.succ (firstFail_sign hk h)
  split
  next h => exact c10.verdict (firstFail_seam hk h)
  next h =>
  have c11 := c10.succ (firstFail_seam hk h)
  split
  next h => exact c11.verdict (firstFail_map h)
  next h =>
  have c12 := c11.succ (firstFail_map h)
  split
  next h => exact c12.verdict (firstFail_crozier hk h)
  next h => exact (c12.succ (firstFail_crozier hk h)).verdict_none

end

/-! ## Table commands that are not performed -/

section
variable {s : State} {rq : Requester} (h : s.performs rq .tbl)
include h

/-- A table command that acts, given what its operation does. -/
theorem State.writesOp_tbl_of_eq {op : Nat} {t : State} (v : Word) (h1 : 1 ≤ op) (h6 : op ≤ 6) (ht : s.tblCommand op = t) :
    s.writesOp rq .tbl 0x044 op v = .next ((t.settle).answerWrite (accessOf rq .tbl 0x044)) := by
  rw [State.writesOp_tbl h h1 h6, ht]

variable (hc : s.tbl.cmd = none) (v : Word) {op limit size item : Nat} (h1 : 1 ≤ op) (h4 : op ≤ 4)
  (hshape : s.loadShape op = (limit, size, item))
include hc h1 h4 hshape

/-- A load into a pinned bank ends with PINNED. -/
theorem State.writesOp_load_pinned (hp : s.bankPinned (!s.tbl.active) = true) :
    s.writesOp rq .tbl 0x044 op v = .next (((tblReported s op 2 item s.tbl.loadFirst.toNat).settle).answerWrite
      (accessOf rq .tbl 0x044)) := by
  refine State.writesOp_tbl_of_eq h v h1 (by omega) ?_
  rw [State.tblCommand_load hc (by omega) (by omega) hshape, if_pos hp]
  rfl

/-- The three ways in which a load ends with RANGE, and the index that each reports (log entry 28). -/
theorem State.writesOp_load_range (hp : s.bankPinned (!s.tbl.active) = false) :
    let first := s.tbl.loadFirst.toNat
    let count := s.tbl.loadCount.toNat
    let src := s.tbl.loadSrc.toNat
    let reports := fun (index : Nat) => s.writesOp rq .tbl 0x044 op v =
      .next (((tblReported s op 3 item index).settle).answerWrite (accessOf rq .tbl 0x044))
    (count ≠ 0 → limit < first + count → reports (Nat.max first limit)) ∧
    ((count = 0 ∨ first + count ≤ limit) → src % 16 ≠ 0 → reports first) ∧
    (count ≠ 0 → first + count ≤ limit → src % 16 = 0 → 2 ^ 31 < src + size * count →
      reports (first + (2 ^ 31 - src) / size)) := by
  have hcmd := State.tblCommand_load hc (op := op) (by omega) (by omega) hshape
  dsimp only at hcmd
  rw [if_neg (Bool.eq_false_iff.1 hp)] at hcmd
  have hop : ∀ {t}, s.tblCommand op = t → _ := State.writesOp_tbl_of_eq h v h1 (by omega)
  refine ⟨fun h0 hl => hop ?_, fun hl ha => hop ?_, fun h0 hl ha hs => hop ?_⟩
  · rw [hcmd, if_pos ⟨h0, hl⟩]
    rfl
  · rw [hcmd, if_neg (by omega), if_pos ha]
    rfl
  · rw [hcmd, if_neg (by omega), if_neg (not_not.2 ha), if_pos ⟨h0, hs⟩]
    rfl

end

/-- Settles O29: a load is `tblCommand_load`, a seal reports its verdict (`sealVerdict_sealResult`), which is one. That the
seal is judged as it is written, and that a tail is reached by finite arguments only, are the model's choices (log entries
29 and 81). -/
theorem tableCommands : Obligations.TableCommands := by
  intro s rq v h
  refine ⟨exec_tblReserved h, fun hb => ?busy, fun hc => ⟨fun hp => ?pinned, fun hp => ?range,
    fun hk code item i hv => ?verdict,
    fun hr => State.writesOp_tbl_of_eq h v (by decide) (by decide) (State.tblCommand_preload_range hc hr),
    fun h1 h3 hk => State.writesOp_tbl_of_eq h v (by decide) (by decide) (State.tblCommand_preload_undefined hc h1 h3 hk),
    fun h1 h3 hk => State.writesOp_tbl_of_eq h v (by decide) (by decide) (State.tblCommand_preload_runs hc h1 h3 hk)⟩⟩
  case busy =>
    have hbusy := fun op h1 h6 => State.writesOp_tbl_of_eq h v (op := op) h1 h6 (State.tblCommand_busy hb op)
    exact ⟨hbusy 1 (by decide) (by decide), hbusy 2 (by decide) (by decide), hbusy 3 (by decide) (by decide),
      hbusy 4 (by decide) (by decide), hbusy 5 (by decide) (by decide), hbusy 6 (by decide) (by decide)⟩
  case pinned =>
    exact ⟨State.writesOp_load_pinned h hc v (op := 1) (by decide) (by decide) rfl hp,
      State.writesOp_load_pinned h hc v (op := 2) (by decide) (by decide) rfl hp,
      State.writesOp_load_pinned h hc v (op := 3) (by decide) (by decide) rfl hp,
      State.writesOp_load_pinned h hc v (op := 4) (by decide) (by decide) rfl hp⟩
  case range =>
    exact ⟨State.writesOp_load_range h hc v (op := 1) (by decide) (by decide) rfl hp,
      State.writesOp_load_range h hc v (op := 2) (by decide) (by decide) rfl hp,
      State.writesOp_load_range h hc v (op := 3) (by decide) (by decide) rfl hp,
      State.writesOp_load_range h hc v (op := 4) (by decide) (by decide) rfl hp⟩
  case verdict =>
    obtain ⟨rfl, rfl, rfl⟩ := SealVerdict.unique hv (State.sealVerdict_sealResult hk)
    exact State.writesOp_tbl_of_eq h v (by decide) (by decide) (State.tblCommand_seal hc)

end Sys2Proof.Machine

/-! PROOFS. Chapters 6, 8 and 9, the registers that a unit in use keeps: DL_CTX_BASE and DL_CTX_LIMIT (R116), DL_TEN_BASE
(R195), DL_TREE_CFG and DL_TREE_IMASK (R175). -/
namespace Sys2Proof.Machine

/-! ## What each command writes -/

section
variable {s : State} {rq : Requester} (v : Word)

theorem State.writeReg_ctxRegion (limit : Bool) :
    s.writeReg rq .ctx (if limit then 0x044 else 0x040) v = s.writeCtxRegion rq limit v := by
  cases limit <;> rfl

theorem State.writeReg_tenBase : s.writeReg rq .ten 0x040 v = s.writeTenBase rq v := rfl

theorem State.writeReg_treeCfg (imask : Bool) :
    s.writeReg rq .tree (if imask then 0x044 else 0x040) v = s.writeTreeCfg rq imask v := by
  cases imask <;> simp [State.writeReg, isCommand, State.writeTree]

theorem exec_dlCtxBaseLimitWrite (h : s.serves rq .ctx) (limit : Bool) :
    exec (.dlCtxBaseLimitWrite rq limit v) s =
      .next ((s.writeCtxRegion rq limit v).answerWrite (accessOf rq .ctx (if limit then 0x044 else 0x040))) := by
  rw [← State.writeReg_ctxRegion]
  exact State.writes_serves h (by cases limit <;> rfl) v

theorem exec_dlTenBase (h : s.serves rq .ten) :
    exec (.dlTenBase rq v) s = .next ((s.writeTenBase rq v).answerWrite (accessOf rq .ten 0x040)) := by
  rw [← State.writeReg_tenBase]
  exact State.writes_serves h rfl v

theorem exec_dlTreeCfgWrite (h : s.serves rq .tree) (imask : Bool) :
    exec (.dlTreeCfgWrite rq imask v) s =
      .next ((s.writeTreeCfg rq imask v).answerWrite (accessOf rq .tree (if imask then 0x044 else 0x040))) := by
  rw [← State.writeReg_treeCfg]
  exact State.writes_serves h (by cases imask <;> rfl) v

end

/-! ## What each write comes to -/

section
variable {s : State} (rq : Requester) {v : Word}

/-- A refusal for what breaks the alignment or the range comes before one for the use of the contexts (log entries 36 and
73). -/
theorem State.writeCtxRegion_base_value (h : v.toNat % 2048 ≠ 0) :
    s.writeCtxRegion rq false v = s.regFault .ctx .value rq 0x040 :=
  if_pos h

theorem State.writeCtxRegion_base (h : v.toNat % 2048 = 0) :
    s.writeCtxRegion rq false v = if s.ctxOpen = 0 ∧ s.ctx.lines = [] then
        s.rw .ctx 0x040 { s with ctx := { s.ctx with base := v } }
      else s.regFault .ctx .state rq 0x040 := by
  refine (if_neg (not_not.2 h)).trans ?_
  rw [← ite_not]
  simp only [not_or, ne_eq, not_not]
  rfl

theorem State.writeCtxRegion_limit_value
    (h : (v.extractLsb' 0 21).toNat % 128 ≠ 0 ∨ s.maxContexts < (v.extractLsb' 0 21).toNat) :
    s.writeCtxRegion rq true v = s.regFault .ctx .value rq 0x044 := by
  rw [← bitsOf_eq_toNat_extractLsb' v (hi := 20) rfl] at h
  exact if_pos h

theorem State.writeCtxRegion_limit (ha : (v.extractLsb' 0 21).toNat % 128 = 0)
    (hm : (v.extractLsb' 0 21).toNat ≤ s.maxContexts) :
    s.writeCtxRegion rq true v = if s.ctxOpen = 0 ∧ s.ctx.lines = [] then
        s.rw .ctx 0x044 { s with ctx := { s.ctx with limit := v.extractLsb' 0 21 } }
      else s.regFault .ctx .state rq 0x044 := by
  have hv := bitsOf_eq_toNat_extractLsb' v (hi := 20) (lo := 0) (len := 21) rfl
  have hn : BitVec.ofNat 21 (bitsOf v 20 0) = v.extractLsb' 0 21 := by rw [hv, BitVec.ofNat_toNat, BitVec.setWidth_eq]
  rw [← hv] at ha hm
  refine (if_neg (by omega : ¬ (bitsOf v 20 0 % 128 ≠ 0 ∨ bitsOf v 20 0 > s.maxContexts))).trans ?_
  rw [← ite_not]
  simp only [not_or, ne_eq, not_not, hn]
  rfl

theorem State.writeTenBase_value (h : v.toNat % 4096 ≠ 0) : s.writeTenBase rq v = s.regFault .ten .value rq 0x040 := if_pos h

theorem State.anyChain_iff : s.anyChain = true ↔ s.chains ≠ [] := by simp [State.anyChain]

theorem State.writeTenBase_aligned (h : v.toNat % 4096 = 0) :
    s.writeTenBase rq v = if s.num.lines = [] ∧ s.chains = [] then s.rw .ten 0x040 { s with num := { s.num with base := v } }
      else s.regFault .ten .state rq 0x040 := by
  refine (if_neg (not_not.2 h)).trans ?_
  rw [← ite_not]
  simp only [not_or, State.anyChain_iff, ne_eq, not_not]

theorem State.writeTreeCfg_scoped (imask : Bool) (h : ∃ c ∈ s.chains, c.d.treeScoped = true) :
    s.writeTreeCfg rq imask v = s.regFault .tree .state rq (if imask then 0x044 else 0x040) :=
  if_pos (List.any_eq_true.2 h)

theorem State.writeTreeCfg_free (imask : Bool) (h : ∀ c ∈ s.chains, c.d.treeScoped = false) :
    s.writeTreeCfg rq imask v = s.rw .tree (if imask then 0x044 else 0x040) (if imask then
        { s with tree := { s.tree with imask := if s.isD4 then v.extractLsb' 0 16 else (v.extractLsb' 0 8).setWidth 16 } }
      else { s with tree := { s.tree with valid := bitOf v 31, nchipsM1 := v.extractLsb' 10 10
                                          rank := v.extractLsb' 0 10 } }) := by
  have hn : (s.chains.any fun c => c.d.treeScoped) = false := by simpa using h
  exact if_neg (Bool.eq_false_iff.1 hn)

end

/-- Settles O20: each write is performed or refused as its lemma above says. That VALUE comes before STATE is the model's
choice (log entries 36 and 73). -/
theorem regionRegisters : Obligations.RegionRegisters := by
  intro s rq v
  refine ⟨fun h ha => ?_, fun h ha => ?_, fun h ha hm => ?_, fun h hb => ?_, fun h ha => ?_, fun h ha => ?_,
    fun h hf => ⟨?_, ?_⟩, fun h hs => ⟨?_, ?_⟩⟩
  · rw [exec_dlCtxBaseLimitWrite v h, State.writeCtxRegion_base rq ha]
    rfl
  · rw [exec_dlCtxBaseLimitWrite v h, State.writeCtxRegion_base_value rq ha]
    rfl
  · rw [exec_dlCtxBaseLimitWrite v h, State.writeCtxRegion_limit rq ha hm]
    rfl
  · rw [exec_dlCtxBaseLimitWrite v h, State.writeCtxRegion_limit_value rq hb]
    rfl
  · rw [exec_dlTenBase v h, State.writeTenBase_aligned rq ha]
  · rw [exec_dlTenBase v h, State.writeTenBase_value rq ha]
  · rw [exec_dlTreeCfgWrite v h, State.writeTreeCfg_free rq false hf]
    rfl
  · rw [exec_dlTreeCfgWrite v h, State.writeTreeCfg_free rq true hf]
    unfold State.isD4
    cases s.variant <;> rfl
  · rw [exec_dlTreeCfgWrite v h, State.writeTreeCfg_scoped rq false hs]
    rfl
  · rw [exec_dlTreeCfgWrite v h, State.writeTreeCfg_scoped rq true hs]
    rfl

end Sys2Proof.Machine

/-! PROOFS. Chapter 6, the context commands: what a write of DL_CTX_DRAIN comes to (R128), and what an accepted command marks
(R129, R131, R132). -/
namespace Sys2Proof.Machine

/-! ## A write of DL_CTX_DRAIN (R128) -/

/-- A field that is put into a word leaves the fields below it. -/
theorem bitsOf_setBits_below (w : Word) {hi lo a b : Nat} (h : a < lo) (v : Nat) :
    bitsOf (setBits w hi lo v) a b = bitsOf w a b := by
  apply Nat.eq_of_testBit_eq
  intro i
  simp only [bitsOf, Nat.testBit_mod_two_pow, Nat.testBit_shiftRight, BitVec.testBit_toNat]
  by_cases hi' : i < a + 1 - b
  · have hb : ¬ lo ≤ b + i := by omega
    by_cases h32 : b + i < 32
    · simp [setBits, BitVec.getLsbD_or, BitVec.getLsbD_and, BitVec.getLsbD_not, BitVec.getLsbD_ofNat, h32, hi',
        Nat.testBit_mul_two_pow, hb, -BitVec.getLsbD_eq_getElem]
    · simp [BitVec.getLsbD_of_ge _ _ (Nat.not_lt.1 h32)]
  · simp [hi']

section
variable {s : State} {rq : Requester} (h : s.performs rq .ctx) (v : Word)
include h

theorem State.writes_ctx {op : Nat} (hop : op ≤ 2) :
    s.writes rq .ctx 0x048 (setBits v 31 30 op) =
      .next (((s.ctxCommand (setBits v 31 30 op)).settle).answerWrite (accessOf rq .ctx 0x048)) := by
  have hc : s.command rq .ctx 0x048 (setBits v 31 30 op) = s.ctxCommand (setBits v 31 30 op) := by
    have h3 : bitsOf (setBits v 31 30 op) 31 30 ≠ 3 := by
      rw [bitsOf_setBits v (by decide)]
      omega
    show (s.noteCommand rq .ctx 0x048 (reservedCause (decide (bitsOf (setBits v 31 30 op) 31 30 = 3)))).ctxCommand _ = _
    rw [decide_eq_false h3]
    rfl
  rw [State.writes_command h rfl (by decide) rfl, hc]

/-- DRAIN, CLEAR and ADOPT, where one argument covers the three. -/
theorem exec_ctxCommands {t : Nat → State} (ht : ∀ op, op ≤ 2 → s.ctxCommand (setBits v 31 30 op) = t op) :
    let answers := fun (c : Instr) (t : State) => exec c s = .next ((t.settle).answerWrite (accessOf rq .ctx 0x048))
    answers (.drain rq v) (t 0) ∧ answers (.clear rq v) (t 1) ∧ answers (.adopt rq v) (t 2) := by
  have hop : ∀ op, op ≤ 2 → s.writes rq .ctx 0x048 (setBits v 31 30 op) = _ :=
    fun op h2 => (State.writes_ctx h v h2).trans (by rw [ht op h2])
  exact ⟨hop 0 (by decide), hop 1 (by decide), hop 2 (by decide)⟩

/-- A write of DL_CTX_DRAIN with the reserved OP is recorded as COMMAND, and then judged. -/
theorem exec_ctxReserved (hv : bitsOf v 31 30 = 3) :
    exec (.registerWrite rq (regAt .ctx 0x048) v) s =
      .next ((((s.regFault .ctx .command rq 0x048).ctxCommand v).settle).answerWrite (accessOf rq .ctx 0x048)) := by
  have hc : s.command rq .ctx 0x048 v = (s.regFault .ctx .command rq 0x048).ctxCommand v := by
    show (s.noteCommand rq .ctx 0x048 (reservedCause (decide (bitsOf v 31 30 = 3)))).ctxCommand v = _
    rw [decide_eq_true hv]
    rfl
  rw [exec_registerWrite, ← hc]
  exact State.writes_command h rfl (by decide) rfl

end

section
variable {s : State} {w : Word}

theorem State.ctxCommand_refused {code : Nat} (hc : s.ctxRefusal w = some code) :
    s.ctxCommand w = ctxReported s w s.ctx.drainCount.toNat code := by
  rw [State.ctxCommand, hc]
  rfl

/-- Another command that is busy is judged first. -/
theorem State.ctxRefusal_reserved (h3 : bitsOf w 31 30 = 3) : s.ctxRefusal w = some (if s.ctx.cmdBusy then 1 else 2) := by
  cases hb : s.ctx.cmdBusy <;> simp [State.ctxRefusal, hb, h3]

theorem State.ctxRefusal_busy (hb : s.ctx.cmdBusy = true) : s.ctxRefusal w = some 1 := if_pos hb

variable (hb : s.ctx.cmdBusy = false)
include hb

theorem State.ctxRefusal_range (hr : s.ctx.limit.toNat < bitsOf w 19 0 + s.ctx.drainCount.toNat) : s.ctxRefusal w = some 2 := by
  simp [State.ctxRefusal, hb, hr]

variable (h3 : bitsOf w 31 30 ≠ 3) (hr : bitsOf w 19 0 + s.ctx.drainCount.toNat ≤ s.ctx.limit.toNat)
include h3 hr

/-- A command in its range is refused only where it has nothing to do. -/
theorem State.ctxRefusal_inRange : s.ctxRefusal w = if s.ctx.drainCount.toNat = 0 then some 0 else none := by
  have h0 : s.ctx.drainCount = 0 ↔ s.ctx.drainCount.toNat = 0 := by rw [← BitVec.toNat_inj]; rfl
  simp [State.ctxRefusal, hb, h3, Nat.not_lt.2 hr, ← h0]

variable (hn : s.ctx.drainCount.toNat ≠ 0)
include hn

theorem State.ctxCommand_waits : s.ctxCommand w = ({ s with ctx := { s.ctx with
    cmdBusy := true, waits := s.ctx.waits ++ [.command w s.ctx.drainCount.toNat] } } : State).pumpCtx := by
  rw [State.ctxCommand, State.ctxRefusal_inRange hb h3 hr, if_neg hn]

/-- Where nothing waits, the command is accepted at once. -/
theorem State.ctxCommand_accepted (hw : s.ctx.waits = []) : s.ctxCommand w =
    ((({ s with ctx := { s.ctx with cmdBusy := true } } : State).ctxBegin w s.ctx.drainCount.toNat).ctxGo).pumpCtxGo 1 := by
  rw [State.ctxCommand_waits hb h3 hr hn]
  simp [State.pumpCtx, State.pumpCtxGo, hw]

end

/-! ## What an accepted command marks (R129, R131, R132) -/

/-- A store whose values are mapped by address. -/
theorem Store.get?_map {α : Type} (f : Nat → α → α) (s : Store α) (i : Nat) :
    Store.get? (s.map fun p => (p.1, f p.1 p.2)) i = (Store.get? s i).map (f i) := by
  induction s with
  | nil => rfl
  | cons p r ih =>
    simp only [List.map_cons, Store.get?]
    split
    · subst_vars
      rfl
    · exact ih

/-- The context is in the range of a command. -/
def inCtxRange (first count i : Nat) : Bool := decide (first ≤ i) && decide (i < first + count)

theorem inCtxRange_iff {first count i : Nat} : inCtxRange first count i = true ↔ first ≤ i ∧ i < first + count := by
  simp [inCtxRange]

theorem inCtxRange_eq_false {first count i : Nat} (h : i < first ∨ first + count ≤ i) : inCtxRange first count i = false := by
  rw [← Bool.not_eq_true, inCtxRange_iff]
  omega

/-- What a DRAIN or a CLEAR of a range makes of a context that holds a generation. -/
def drainingIn (first count i : Nat) (c : CtxState) : CtxState :=
  if inCtxRange first count i then { c with draining := true } else c

/-- The tiles of a range begin with the one that holds its first context. -/
theorem ctxTiles_head (first : Nat) {count : Nat} (h : 0 < count) :
    ∃ r, (List.range ((first + count - 1) / 128 + 1 - first / 128)).map (· + first / 128) = first / 128 :: r := by
  obtain ⟨n, hn⟩ : ∃ n, (first + count - 1) / 128 + 1 - first / 128 = n + 1 :=
    Nat.exists_eq_succ_of_ne_zero (by omega)
  rw [hn, List.range_succ_eq_map, List.map_cons, Nat.zero_add]
  exact ⟨_, rfl⟩

section
variable (s : State) {v : Word} (count i : Nat)

theorem State.ctxBegin_states_adopt (h2 : bitsOf v 31 30 = 2) : (s.ctxBegin v count).ctx.states = s.ctx.states := if_pos h2

theorem State.ctxState_ctxBegin (h2 : bitsOf v 31 30 ≠ 2) :
    (s.ctxBegin v count).ctxState i = (s.ctxState i).map (drainingIn (bitsOf v 19 0) count i) := by
  have hs : (s.ctxBegin v count).ctx.states = s.ctx.states.map fun p => (p.1, drainingIn (bitsOf v 19 0) count p.1 p.2) := by
    refine (if_neg h2).trans (List.map_congr_left fun p _ => ?_)
    show (if inCtxRange _ count p.1 = true then _ else _) = _
    unfold drainingIn
    split <;> rfl
  rw [State.ctxState, hs, Store.get?_map]
  rfl

theorem State.ctxState_ctxBegin_outside (h : bitsOf v 31 30 = 2 ∨ inCtxRange (bitsOf v 19 0) count i = false) :
    (s.ctxBegin v count).ctxState i = s.ctxState i := by
  by_cases h2 : bitsOf v 31 30 = 2
  · rw [State.ctxState, State.ctxBegin_states_adopt s count h2]
    rfl
  · have hd : drainingIn (bitsOf v 19 0) count i = id := by
      funext c
      rw [drainingIn, h.resolve_left h2]
      rfl
    rw [State.ctxState_ctxBegin s count i h2, hd, Option.map_id, id]

theorem State.ctxState_ctxBegin_inRange (h2 : bitsOf v 31 30 ≠ 2) (hi : inCtxRange (bitsOf v 19 0) count i = true) :
    (s.ctxBegin v count).ctxState i = (s.ctxState i).map fun c => { c with draining := true } := by
  have hd : drainingIn (bitsOf v 19 0) count i = fun c => { c with draining := true } := funext fun c => if_pos hi
  rw [State.ctxState_ctxBegin s count i h2, hd]

/-- A CLEAR holds the contexts of its range from its acceptance on. -/
theorem State.clearing_ctxBegin_clear (h1 : bitsOf v 31 30 = 1) (hi : inCtxRange (bitsOf v 19 0) count i = true) :
    (s.ctxBegin v count).clearing i = some (v.extractLsb' 20 4) := by
  obtain ⟨hlo, hhi⟩ := inCtxRange_iff.1 hi
  obtain ⟨r, hr⟩ := ctxTiles_head (bitsOf v 19 0) (count := count) (by omega)
  have hk : bitsOf v 19 0 / 128 ≤ i / 128 := Nat.div_le_div_right hlo
  simp only [State.clearing, State.ctxBegin, hr, h1]
  simp [hk, hlo, hhi]

/-- No other command, and no CLEAR of another range, holds a context so. -/
theorem State.clearing_ctxBegin_other (h : bitsOf v 31 30 ≠ 1 ∨ inCtxRange (bitsOf v 19 0) count i = false) :
    (s.ctxBegin v count).clearing i = none := by
  have hc : ¬ (bitsOf v 31 30 = 1 ∧ bitsOf v 19 0 ≤ i ∧ i < bitsOf v 19 0 + count) := by
    rintro ⟨h1, hlo, hhi⟩
    simp [inCtxRange, h1, hlo, hhi] at h
  simp only [State.clearing, State.ctxBegin]
  split
  · refine if_neg fun hk => hc ?_
    simp only [Bool.and_eq_true, decide_eq_true_eq] at hk
    exact ⟨hk.1.1.1, hk.1.2, hk.2⟩
  · rfl

end

/-! ## What a query answers of a context (Table 15.7) -/

section
variable {s t : State} {i : Nat}

theorem State.clearing_of_idle (h : s.ctx.cmd = none) (i : Nat) : s.clearing i = none := by
  rw [State.clearing, h]

theorem State.ctxHeld_congr (hs : t.ctxState i = s.ctxState i) (hc : t.clearing i = s.clearing i)
    (hg : t.drainedGen i = s.drainedGen i) : t.ctxHeld i = s.ctxHeld i := by
  simp only [State.ctxHeld, State.ctxHeldBy, hs, hc, hg]

theorem State.ctxHeld_of_state {c : CtxState} (h : s.ctxState i = some c) :
    s.ctxHeld i = (if c.draining then 2 else 1, c.gen) := by
  simp only [State.ctxHeld, State.ctxHeldBy, h]

theorem State.ctxHeld_of_clearing {g : BitVec 4} (h : s.ctxState i = none) (hc : s.clearing i = some g) :
    s.ctxHeld i = (2, g) := by
  simp only [State.ctxHeld, State.ctxHeldBy, h, hc]

end

/-- Settles O31: a command is refused as `ctxRefusal` says or waits its turn, and its acceptance maps the states of its range.
That a count of 0 beyond the limit reports RANGE, and that a CLEAR shows its own generation, are the model's choices (log
entries 92 and 8). -/
theorem contextCommands : Obligations.ContextCommands := by
  refine ⟨fun s rq v h => ?written, fun s v count i => ?begun⟩
  case written =>
    have hfirst : ∀ op, bitsOf (setBits v 31 30 op) 19 0 = (v.extractLsb' 0 20).toNat := fun op =>
      (bitsOf_setBits_below v (by decide) op).trans (bitsOf_eq_toNat_extractLsb' v rfl)
    have hop : ∀ op, op ≤ 2 → bitsOf (setBits v 31 30 op) 31 30 ≠ 3 := fun op h2 => by
      rw [bitsOf_setBits v (by decide)]
      omega
    refine ⟨fun hb => ?busy, fun hb hr => ?range, fun hb hr hn => ?nothing, fun hb hr hn => ?waits,
      fun hb hr hn hw => ?accepted, fun h3 => ?reserved⟩
    case busy =>
      have ha := exec_ctxCommands h v fun op _ => State.ctxCommand_refused (State.ctxRefusal_busy hb)
      exact ha
    case range =>
      have ha := exec_ctxCommands h v fun op _ =>
        State.ctxCommand_refused (State.ctxRefusal_range hb (by rwa [hfirst op]))
      exact ha
    case nothing =>
      have ha := exec_ctxCommands h v fun op h2 => State.ctxCommand_refused
        ((State.ctxRefusal_inRange hb (hop op h2) (by rwa [hfirst op])).trans (if_pos hn))
      exact ha
    case waits =>
      have ha := exec_ctxCommands h v fun op h2 => State.ctxCommand_waits hb (hop op h2) (by rwa [hfirst op]) hn
      exact ha
    case accepted =>
      have ha := exec_ctxCommands h v fun op h2 => State.ctxCommand_accepted hb (hop op h2) (by rwa [hfirst op]) hn hw
      exact ha
    case reserved =>
      rw [← bitsOf_eq_toNat_extractLsb' v (hi := 31) rfl] at h3
      refine (exec_ctxReserved h v h3).trans ?_
      rw [State.ctxCommand_refused (State.ctxRefusal_reserved h3)]
      rfl
  case begun =>
    have hop := bitsOf_eq_toNat_extractLsb' v (hi := 31) (lo := 30) (len := 2) rfl
    have hfirst := bitsOf_eq_toNat_extractLsb' v (hi := 19) (lo := 0) (len := 20) rfl
    dsimp only
    rw [← hop, ← hfirst]
    refine ⟨rfl, fun h => s.ctxState_ctxBegin_outside count i (h.imp_right inCtxRange_eq_false),
      fun h2 hlo hhi => s.ctxState_ctxBegin_inRange count i h2 (inCtxRange_iff.2 ⟨hlo, hhi⟩), fun hc h => ?outside,
      fun h2 hlo hhi c hs => ?held, fun h0 hc hs => ?drained, fun h1 hlo hhi hs => ?cleared⟩
    case outside =>
      have ho := h.imp_right (inCtxRange_eq_false (first := bitsOf v 19 0) (count := count))
      refine State.ctxHeld_congr (s.ctxState_ctxBegin_outside count i ho) ?_ rfl
      rw [s.clearing_ctxBegin_other count i (ho.imp_left (by omega)), State.clearing_of_idle hc]
    case held =>
      have ht := s.ctxState_ctxBegin_inRange count i h2 (inCtxRange_iff.2 ⟨hlo, hhi⟩)
      rw [hs] at ht
      exact State.ctxHeld_of_state ht
    case drained =>
      have ht := s.ctxState_ctxBegin count i (v := v) (by omega)
      rw [hs] at ht
      refine State.ctxHeld_congr (ht.trans hs.symm) ?_ rfl
      rw [s.clearing_ctxBegin_other count i (.inl (by omega)), State.clearing_of_idle hc]
    case cleared =>
      have ht := s.ctxState_ctxBegin count i (v := v) (by omega)
      rw [hs] at ht
      exact State.ctxHeld_of_clearing ht (s.clearing_ctxBegin_clear count i h1 (inCtxRange_iff.2 ⟨hlo, hhi⟩))

end Sys2Proof.Machine

/-! PROOFS. Chapter 6, capsule records: the maximum (R114), the combination of two records (R112, R113, R121), the merge
(R170, R171) and a row's partial sum (R118). -/
namespace Sys2Proof.Machine

/-! ## What an FP32 word decodes to (R35, R37) -/

/-- A word is a NaN, an infinity, or its sign and the value of its magnitude code. -/
inductive F32Shape (w : Word) : Prop where
  | nan (h : f32 w = .nan)
  | inf (s : Bool) (h : f32 w = .inf s) (hw : Fmt.fp32.signed s 0x7F800000 = w.toNat)
  | fin (s : Bool) (m : Nat) (h : f32 w = .fin s (Fmt.fp32.magVal m).1 (Fmt.fp32.magVal m).2) (hm : m ≤ Fmt.fp32.maxCode)
      (hw : Fmt.fp32.signed s m = w.toNat)

theorem f32_shape (w : Word) : F32Shape w := by
  have hw := Fmt.signed_mod (f := .fp32) (c := w.toNat) w.isLt
  by_cases hm : w.toNat % Fmt.fp32.signBit ≤ Fmt.fp32.maxCode
  · exact .fin _ _ (Fmt.decode_of_finite hm) hm hw
  by_cases hi : Fmt.fp32.infCode = some (w.toNat % Fmt.fp32.signBit)
  · refine .inf _ ((if_neg hm).trans (if_pos hi)) ?_
    rwa [Option.some.inj hi]
  · exact .nan ((if_neg hm).trans (if_neg hi))

/-- A word that is no NaN rounds back to itself. -/
theorem rne32_f32 {w : Word} (h : (f32 w).isNaN = false) : rne32 (f32 w) = w := by
  cases f32_shape w with
  | nan hn => simp [hn, Val.isNaN] at h
  | inf s hi hw =>
    rw [rne32, hi]
    show BitVec.ofNat 32 (Fmt.fp32.signed s 0x7F800000) = w
    rw [hw, BitVec.ofNat_toNat, BitVec.setWidth_eq]
  | fin s m hf hm hw =>
    rw [rne32, hf, (Fmt.round_magVal (by decide) hm s .rne).1, hw, BitVec.ofNat_toNat, BitVec.setWidth_eq]

theorem canon32_of_finite {w : Word} (h : nonFin32 w = false) : canon32 w = w := by
  unfold nonFin32 at h
  cases hw : f32 w <;> simp_all [canon32, Val.nonFinite, Val.isNaN]

/-! ## The maximum (R114) -/

theorem Val.lt_asymm {x y : Val} (h : x.lt y = true) : y.lt x = false := by
  cases x <;> cases y <;> simp [Val.lt] at h ⊢
  case inf.inf => exact fun _ => h.1
  case inf.fin => exact h
  case fin.inf => exact h
  case fin.fin => exact h.le

theorem Val.signed_left_injective (s : Bool) : Function.Injective (Val.signed s) := by
  intro n m h
  cases s <;> simpa [Val.signed] using h

/-- Codes whose values are equal as quotients are one code. -/
theorem Fmt.eq_of_magVal_cross (f : Fmt) {m l : Nat} (h : (f.magVal m).1 * (f.magVal l).2 = (f.magVal l).1 * (f.magVal m).2) :
    m = l := by
  refine f.val_strictMono.injective (le_antisymm ?_ ?_)
  · exact (f.val_le_iff (f.magVal_den_pos l) m).2 h.le
  · exact (f.val_le_iff (f.magVal_den_pos m) l).2 h.ge

/-- Two words of one sign, neither below the other, decode to one value. -/
theorem f32_eq_of_not_lt {a b : Word} (ha : (f32 a).isNaN = false) (hb : (f32 b).isNaN = false)
    (hab : (f32 a).lt (f32 b) = false) (hba : (f32 b).lt (f32 a) = false) (hs : (f32 a).sign = (f32 b).sign) :
    f32 a = f32 b := by
  rcases f32_shape a with h | ⟨s, h, -⟩ | ⟨s, m, h, -, -⟩ <;> rcases f32_shape b with k | ⟨t, k, -⟩ | ⟨t, l, k, -, -⟩ <;>
    simp [h, k, Val.isNaN, Val.lt, Val.sign] at ha hb hab hba hs ⊢
  case inf.inf => exact hs
  case inf.fin => simp [hab] at hba
  case fin.inf => simp [hba] at hab
  case fin.fin =>
    subst hs
    obtain rfl := Fmt.eq_of_magVal_cross _ (Val.signed_left_injective s (le_antisymm hba hab))
    exact ⟨rfl, rfl, rfl⟩

theorem Val.max_of_lt {x y : Val} (hx : x.isNaN = false) (hy : y.isNaN = false) (h : x.lt y = true) :
    x.max y = y ∧ y.max x = y := by
  simp [Val.max, hx, hy, h, Val.lt_asymm h]

theorem Val.max_of_tie {x y : Val} (hx : x.isNaN = false) (hy : y.isNaN = false) (hxy : x.lt y = false)
    (hyx : y.lt x = false) : x.max y = if x.sign then y else x := by
  simp [Val.max, hx, hy, hxy, hyx]

/-- Words that tie are one value, or the two zeros, of which the one without a sign is taken. -/
theorem Val.max_f32_comm (a b : Word) : (f32 a).max (f32 b) = (f32 b).max (f32 a) := by
  by_cases hn : (f32 a).isNaN = true ∨ (f32 b).isNaN = true
  · rw [Val.max, Val.max, if_pos (by simpa using hn), if_pos (by simpa using hn.symm)]
  obtain ⟨ha, hb⟩ := not_or.1 hn
  rw [Bool.not_eq_true] at ha hb
  cases hab : (f32 a).lt (f32 b)
  case true =>
    obtain ⟨h1, h2⟩ := Val.max_of_lt ha hb hab
    rw [h1, h2]
  case false =>
    cases hba : (f32 b).lt (f32 a)
    case true =>
      obtain ⟨h1, h2⟩ := Val.max_of_lt hb ha hba
      rw [h1, h2]
    case false =>
      by_cases hs : (f32 b).sign = (f32 a).sign
      · rw [f32_eq_of_not_lt ha hb hab hba hs.symm]
      · rw [Val.max_of_tie ha hb hab hba, Val.max_of_tie hb ha hba hab, Bool.eq_not_of_ne hs]
        cases (f32 a).sign <;> rfl

theorem fmax_comm (a b : Word) : fmax a b = fmax b a := by rw [fmax, fmax, Val.max_f32_comm]

theorem fmax_of_isNaN {a : Word} (h : (f32 a).isNaN = true) (b : Word) : fmax a b = nan32 := by
  rw [fmax, Val.max, if_pos (by simp [h])]
  rfl

theorem fmax_of_lt {a b : Word} (ha : (f32 a).isNaN = false) (hb : (f32 b).isNaN = false) (h : (f32 b).lt (f32 a) = true) :
    fmax a b = a := by
  rw [fmax, (Val.max_of_lt hb ha h).2, rne32_f32 ha]

theorem fmax_self {a : Word} (ha : (f32 a).isNaN = false) : fmax a a = a := by
  have hm : (f32 a).max (f32 a) = f32 a := by simp [Val.max, ha]
  rw [fmax, hm, rne32_f32 ha]

/-! ## The combination of two records (R112, R113, R121) -/

/-- What a combination keeps of its sides, whatever MAX and pair it is given. -/
theorem combine_keeps (a b : Rec) (mx : Word) (p : Word × Word) (nf sat : Bool) :
    let r := combine a b mx p nf sat
    r.count = Nat.min (a.count + b.count) countMax ∧ r.gen = a.gen ∧ r.empty = (a.empty && b.empty) ∧
    r.boundLost = (a.boundLost || b.boundLost || decide (countMax < a.count + b.count)) ∧
    (a.nonfinite = true ∨ b.nonfinite = true → r.nonfinite = true) ∧
    (a.saturated = true ∨ b.saturated = true → r.saturated = true) := by
  refine ⟨rfl, rfl, rfl, rfl, ?_, ?_⟩ <;> rintro (h | h) <;> simp [combine, h]

theorem mergeMax_eq_combine (gen3 : Bool) (ex : ExpFn) (a b : Rec) :
    ∃ mx p nf sat, mergeMax gen3 ex a b = combine a b mx p nf sat := by
  unfold mergeMax
  split
  · exact ⟨_, _, _, _, rfl⟩
  · exact ⟨_, _, _, _, rfl⟩
  · exact ⟨_, _, _, _, rfl⟩
  · split <;> exact ⟨_, _, _, _, rfl⟩

/-- Every fold is a combination: what differs is MAX, the pair and what the addition saturated. -/
theorem foldPart_eq_combine (gen3 plain : Bool) (ex : ExpFn) (a : Rec) (p : Part) :
    ∃ mx q nf sat, foldPart gen3 plain ex a p = combine a p.rc mx q nf sat := by
  cases plain
  · exact mergeMax_eq_combine gen3 ex a p.rc
  · cases gen3 <;> exact ⟨_, _, _, _, rfl⟩

/-! ## The merge (R170, R171) -/

section
variable (gen3 : Bool) (ex : ExpFn) {a b : Rec}

theorem mergeHow_emptyLeft (ha : a.empty = true) : mergeHow ex a b = .takeB := if_pos ha

theorem mergeHow_emptyRight (ha : a.empty = false) (hb : b.empty = true) : mergeHow ex a b = .takeA := by
  simp [mergeHow, ha, hb]

theorem mergeHow_notFinite (ha : a.empty = false) (hb : b.empty = false) (hm : nonFin32 (fmax a.max b.max) = true) :
    mergeHow ex a b = .notFinite := by
  simp [mergeHow, ha, hb, hm]

theorem mergeHow_scaled (ha : a.empty = false) (hb : b.empty = false) (hm : nonFin32 (fmax a.max b.max) = false) :
    mergeHow ex a b = .scaled (ex (fsub a.max (fmax a.max b.max))) (ex (fsub b.max (fmax a.max b.max))) := by
  simp [mergeHow, ha, hb, hm]

theorem mergeMax_emptyLeft (ha : a.empty = true) : mergeMax gen3 ex a b = combine a b b.max b.pair false false := by
  rw [mergeMax, mergeHow_emptyLeft ex ha]

theorem mergeMax_emptyRight (ha : a.empty = false) (hb : b.empty = true) :
    mergeMax gen3 ex a b = combine a b a.max a.pair false false := by
  rw [mergeMax, mergeHow_emptyRight ex ha hb]

theorem mergeMax_notFinite (ha : a.empty = false) (hb : b.empty = false) (hm : nonFin32 (fmax a.max b.max) = true) :
    mergeMax gen3 ex a b = combine a b (fmax a.max b.max) (nan32, 0) true false := by
  rw [mergeMax, mergeHow_notFinite ex ha hb hm]

theorem mergeMax_scaled (ha : a.empty = false) (hb : b.empty = false) (hm : nonFin32 (fmax a.max b.max) = false) :
    let m := fmax a.max b.max
    let sum := pairAddSat (scalePair (ex (fsub a.max m)) a.pair) (scalePair (ex (fsub b.max m)) b.pair)
    mergeMax false ex a b = combine a b m sum.1 false sum.2 := by
  rw [mergeMax, mergeHow_scaled ex ha hb hm]
  rfl

end

/-! ## Pairs (R38) and a row's partial sum (R118) -/

theorem pairAdd_finite {p q : Word × Word} (hp : nonFin32 p.1 = false) (hq : nonFin32 q.1 = false)
    (hs : nonFin32 (twoSum p.1 q.1).1 = false) :
    let se := twoSum p.1 q.1
    let hl := twoSum se.1 (fadd (fadd p.2 q.2) se.2)
    pairAdd p q = if nonFin32 hl.1 then (hl.1, 0) else hl := by
  simp [pairAdd, hp, hq, hs]

/-- A list of whole blocks and one block more. -/
theorem blocksOf_append_block {α : Type} {k n : Nat} {xs ys : List α} (hx : xs.length = n * k) (hy : ys.length ≤ k) :
    blocksOf k (n + 1) (xs ++ ys) = blocksOf k n xs ++ [ys] := by
  induction n generalizing xs with
  | zero =>
    obtain rfl : xs = [] := List.length_eq_zero_iff.1 (by simpa using hx)
    simp [blocksOf, List.take_of_length_le hy]
  | succ n ih =>
    have hk : k ≤ xs.length := by rw [hx, Nat.succ_mul]; omega
    have hd : (xs.drop k).length = n * k := by rw [List.length_drop, hx, Nat.succ_mul]; omega
    rw [blocksOf, List.take_append_of_le_length hk, List.drop_append_of_le_length hk, ih hd, ← List.cons_append]
    rfl

/-- How many blocks a list takes: one more than its whole blocks. -/
theorem blockCount_append (n : Nat) {k m : Nat} (h1 : 1 ≤ m) (hm : m ≤ k) : (n * k + m + k - 1) / k = n + 1 := by
  rw [show n * k + m + k - 1 = m - 1 + k * (n + 1) by rw [Nat.mul_succ, Nat.mul_comm n k]; omega,
    Nat.add_mul_div_left _ _ (by omega), Nat.div_eq_of_lt (by omega), Nat.zero_add]

theorem blockCount_whole (n : Nat) {k : Nat} (hk : 0 < k) : (n * k + k - 1) / k = n := by
  rw [show n * k + k - 1 = k - 1 + k * n by rw [Nat.mul_comm n k]; omega,
    Nat.add_mul_div_left _ _ hk, Nat.div_eq_of_lt (by omega), Nat.zero_add]

/-- The chunk after whole chunks is promoted last. -/
theorem rowPartial_append (fast : Bool) {n : Nat} {xs ys : List Word} (hx : xs.length = n * (if fast then 16 else 32))
    (h1 : 1 ≤ ys.length) (hy : ys.length ≤ if fast then 16 else 32) :
    rowPartial fast (xs ++ ys) = promote fast (rowPartial fast xs) ys := by
  have hk : 0 < if fast = true then 16 else 32 := by split <;> decide
  simp only [rowPartial, List.length_append, hx]
  rw [blockCount_append n h1 hy, blockCount_whole n hk, blocksOf_append_block hx hy, List.foldl_append]
  rfl

theorem isInf32_iff (w : Word) : isInf32 w = true ↔ w = 0x7F800000 ∨ w = 0xFF800000 := by
  simp [isInf32, posInf32, negInf32]

theorem promote_snd_iff (fast : Bool) (acc : (Word × Word) × Bool) (ts : List Word) :
    (promote fast acc ts).2 = true ↔ acc.2 = true ∨
      (isInf32 (pairAdd acc.1 (chunkTotal fast ts, 0)).1 = true ∧ nonFin32 acc.1.1 = false ∧
        nonFin32 (chunkTotal fast ts) = false) ∨
      (isInf32 (chunkTotal fast ts) = true ∧ ∀ t ∈ ts, nonFin32 t = false) := by
  simp [promote, pairAddSat, or_assoc, and_assoc]

/-- Settles O60: a fold is one combination, a merge goes by `mergeHow`, the maximum is a word's own value given back by
`rne32_f32`, and a row's sum is `rowPartial_append`. -/
theorem recordsCombine : Obligations.RecordsCombine := by
  refine ⟨fun gen3 plain ex a p => ?fold, fun gen3 ex a b => ⟨fun ha => ?emptyLeft, fun ha hb => ?emptyRight⟩,
    fun ex a b oa ob ha hb => ⟨?maximum, fun hm => ?notFinite, fun hm => ?scaled⟩,
    fun ex a b oa ob hoa hob => ⟨fun ha => ?tileLeft, fun ha hb => ?tileRight⟩,
    fun r h l => ⟨fun hr => if_pos hr, fun hr hp => ?overflow, fun hr hp => ?scale⟩,
    fun h1 l1 h2 l2 => ⟨fun h => ?notFinitePair, fun hf1 hf2 hs => ?finitePair⟩,
    fun fast n xs ys => ⟨by cases fast <;> rfl, rfl, fun hx h1 hy => ?chunk⟩,
    fun a b => ⟨fmax_comm a b, fun h => fmax_of_isNaN h b, fmax_of_lt, fmax_self⟩, by decide⟩
  case fold =>
    obtain ⟨mx, q, nf, sat, h⟩ := foldPart_eq_combine gen3 plain ex a p
    rw [h]
    exact combine_keeps a p.rc mx q nf sat
  case emptyLeft =>
    rw [mergeMax_emptyLeft gen3 ex ha]
    exact ⟨rfl, rfl⟩
  case emptyRight =>
    rw [mergeMax_emptyRight gen3 ex ha hb]
    exact ⟨rfl, rfl⟩
  case maximum =>
    cases hm : nonFin32 (fmax a.max b.max)
    · rw [mergeMax_scaled ex ha hb hm]
      rfl
    · rw [mergeMax_notFinite false ex ha hb hm]
      rfl
  case notFinite =>
    rw [mergeMax_notFinite false ex ha hb hm, mergeHow_notFinite ex ha hb hm]
    exact ⟨rfl, by simp [combine], rfl⟩
  case scaled =>
    rw [mergeMax_scaled ex ha hb hm, mergeHow_scaled ex ha hb hm]
    exact ⟨rfl, rfl⟩
  case tileLeft =>
    rw [mergeHow_emptyLeft ex ha]
    exact canon32_of_finite hob
  case tileRight =>
    rw [mergeHow_emptyRight ex ha hb]
    exact canon32_of_finite hoa
  case overflow => exact (if_neg hr).trans (if_pos hp)
  case scale => exact (if_neg hr).trans (if_neg (Bool.eq_false_iff.1 hp))
  case notFinitePair => exact if_pos (by simpa using h)
  case finitePair => exact pairAdd_finite hf1 hf2 hs
  case chunk =>
    have hp := rowPartial_append fast hx h1 hy
    refine ⟨congrArg Prod.fst hp, ?_⟩
    rw [hp, promote_snd_iff]
    simp only [isInf32_iff]

end Sys2Proof.Machine

/-! PROOFS. Chapters 6 to 9, row-blocks: what logging and a merge's evaluations leave alone, the fold of a row (R113, R126,
R172), the completion of a row-block (R158, R160) and the widening check (R207, R208). -/
namespace Sys2Proof.Machine

/-! ## What logging and a merge's evaluations leave alone -/

/-- The contexts and the registry. -/
def State.rowUnits (s : State) : CtxUnit × NumUnit := (s.ctx, s.num)

theorem State.ctx_of_rowUnits {s t : State} (h : t.rowUnits = s.rowUnits) : t.ctx = s.ctx := congrArg Prod.fst h

theorem State.num_of_rowUnits {s t : State} (h : t.rowUnits = s.rowUnits) : t.num = s.num := congrArg Prod.snd h

theorem foldl_rowUnits {α : Type} {f : State → α → State} (hf : ∀ s a, (f s a).rowUnits = s.rowUnits) (l : List α)
    (s : State) :
    (l.foldl f s).rowUnits = s.rowUnits := by
  induction l generalizing s with
  | nil => rfl
  | cons a l ih => exact (ih (f s a)).trans (hf s a)

section
variable (s : State)

@[simp] theorem State.rowUnits_setHdr (p : Page) (h : PageHdr) : (s.setHdr p h).rowUnits = s.rowUnits := rfl

@[simp] theorem State.rowUnits_pageEvent (p : Page) (b : Nat) : (s.pageEvent p b).rowUnits = s.rowUnits := rfl

@[simp] theorem State.rowUnits_count (n k : Nat) : (s.count n k).rowUnits = s.rowUnits := by
  unfold State.count
  split <;> rfl

@[simp] theorem State.rowUnits_spend (k n : Nat) : (s.spend k n).rowUnits = s.rowUnits := rfl

@[simp] theorem State.rowUnits_issueWrite (tag : WriteTag) (cells : List (Nat × Byte)) :
    (s.issueWrite tag cells).rowUnits = s.rowUnits := rfl

@[simp] theorem State.rowUnits_loseRecord : s.loseRecord.rowUnits = s.rowUnits := rfl

@[simp] theorem State.rowUnits_pumpLogGo (n : Nat) : (s.pumpLogGo n).rowUnits = s.rowUnits := by
  induction n generalizing s with
  | zero => rfl
  | succ n ih =>
    rw [State.pumpLogGo]
    split
    · rfl
    split
    · rfl
    dsimp only
    split
    · exact ih _
    split
    · exact ih _
    · rfl

@[simp] theorem State.rowUnits_logEvent (code : Nat) (p : Page) (a0 a1 a2 a3 : Word) (tag : BitVec 16) :
    (s.logEvent code p a0 a1 a2 a3 tag).rowUnits = s.rowUnits := by
  have hc := s.rowUnits_count 32 1
  unfold State.logEvent
  dsimp only
  split
  · exact (State.rowUnits_pumpLogGo _ _).trans hc
  split
  · exact hc
  · exact hc

@[simp] theorem State.rowUnits_logEcc (uncorr : Bool) (space idx : Nat) (e : Entry) (scrub : Bool) (tag : BitVec 16) :
    (s.logEcc uncorr space idx e scrub tag).rowUnits = s.rowUnits := by
  unfold State.logEcc
  dsimp only
  split <;> simp

@[simp] theorem State.rowUnits_setFault (space : Nat) : (s.setFault space).rowUnits = s.rowUnits := by
  unfold State.setFault
  split <;> rfl

@[simp] theorem State.rowUnits_setCopy (k : TableKey) (p i : Nat) (e : Option Entry) :
    (s.setCopy k p i e).rowUnits = s.rowUnits := rfl

@[simp] theorem State.rowUnits_countEcc (space : Nat) : (s.countEcc space).rowUnits = s.rowUnits := rfl

@[simp] theorem State.rowUnits_refetch (tag : BitVec 16) (k : TableKey) (p i : Nat) (plc : Nat × Nat) (e c : Entry) :
    (s.refetch tag k p i plc e c).rowUnits = s.rowUnits := by
  unfold State.refetch
  dsimp only
  split
  · split <;> simp
  · simp
  · split <;> simp

@[simp] theorem State.rowUnits_refetchAll (tag : BitVec 16) (p : Nat) (bad : List (TblRef × Nat) × List Nat) :
    (s.refetchAll tag p bad).rowUnits = s.rowUnits := by
  unfold State.refetchAll
  exact (foldl_rowUnits (fun _ _ => State.rowUnits_refetch ..) _ _).trans
    (foldl_rowUnits (fun _ _ => State.rowUnits_refetch ..) _ _)

@[simp] theorem State.rowUnits_countSlots (p : Nat) (g : Grade) (k : Nat) : (s.countSlots p g k).rowUnits = s.rowUnits := by
  unfold State.countSlots
  split
  · rfl
  · exact (State.rowUnits_count _ _ _).trans (State.rowUnits_count _ _ _)

@[simp] theorem State.rowUnits_considerSample (taken : Nat) : (s.considerSample taken).1.rowUnits = s.rowUnits := by
  unfold State.considerSample
  dsimp only
  split
  · rfl
  split
  · rfl
  split
  · exact State.rowUnits_count _ _ _
  · rfl

@[simp] theorem State.rowUnits_addSample (p : Nat) (how : Resolved) (bank : Bool) (i : EvIn) (o : Outcome) (quarEn : Bool)
    (tag : BitVec 16) : (s.addSample p how bank i o quarEn tag).rowUnits = s.rowUnits := by
  cases i <;> rfl

/-- A fixed evaluation counts, samples and refetches, and leaves the contexts alone (R153). -/
@[simp] theorem State.rowUnits_ownUse (bank : Bool) (tag : BitVec 16) (p id : Nat) (x : Word) :
    (s.ownUse bank tag p id x).rowUnits = s.rowUnits := by
  unfold State.ownUse
  dsimp only
  split <;> simp

@[simp] theorem State.rowUnits_mergeUse (c : Chain) (r : Nat) (a b : Rec) : (s.mergeUse c r a b).rowUnits = s.rowUnits := by
  unfold State.mergeUse
  split
  · rfl
  · exact foldl_rowUnits (fun _ _ => State.rowUnits_ownUse ..) _ _

@[simp] theorem State.rowUnits_releaseStep (w : Word) : (s.releaseStep w).rowUnits = s.rowUnits :=
  State.rowUnits_logEvent _ _ _ _ _ _ _ _

@[simp] theorem State.rowUnits_makeRoom (n : Nat) : (s.makeRoom n).rowUnits = s.rowUnits := by
  induction n generalizing s with
  | zero => rfl
  | succ n ih =>
    rw [State.makeRoom]
    split
    · rfl
    split
    · exact (ih _).trans (s.rowUnits_releaseStep _)
    · exact State.rowUnits_logEvent _ _ _ _ _ _ _ _

/-- Recording an entry for a replay writes it out, and leaves the registry as it is (R229). -/
@[simp] theorem State.rowUnits_recordEntry (tid : Nat) (w : Word) (e : RegEntry) :
    (s.recordEntry tid w e).rowUnits = s.rowUnits := by
  unfold State.recordEntry
  split
  · rfl
  dsimp only
  split <;> exact s.rowUnits_makeRoom 5

end

/-! ## The fold of a row (R113, R126, R172) -/

theorem State.ctxLine_setCtxRec (s : State) (i : Nat) (r : Rec) (k : Nat) : (s.setCtxRec i r).ctxLine k =
    (s.ctxLine k).map fun l => if l.tile == i / 128 then { l with recs := l.recs.set (i % 128) r, dirty := true } else l := by
  unfold State.setCtxRec State.modLine State.ctxLine
  rw [List.find?_map]
  congr 2
  funext l
  simp only [Function.comp_apply]
  split <;> rfl

theorem State.tile_of_ctxLine {s : State} {k : Nat} {l : CtxLine} (h : s.ctxLine k = some l) : l.tile = k := by
  simpa using List.find?_some h

theorem State.ctxRec_setCtxRec_self {s : State} {i : Nat} {l : CtxLine} (h : s.ctxLine (i / 128) = some l)
    (hl : l.recs.length = 128) (r : Rec) : (s.setCtxRec i r).ctxRec i = r := by
  have hi : i % 128 < l.recs.length := by omega
  simp [State.ctxRec, State.ctxLine_setCtxRec, h, State.tile_of_ctxLine h, hi]

theorem State.ctxRec_setCtxRec_other (s : State) {i j : Nat} (h : j ≠ i) (r : Rec) :
    (s.setCtxRec i r).ctxRec j = s.ctxRec j := by
  unfold State.ctxRec
  rw [State.ctxLine_setCtxRec]
  cases hl : s.ctxLine (j / 128) with
  | none => rfl
  | some l =>
    by_cases ht : l.tile = i / 128
    · have hm : i % 128 ≠ j % 128 := by
        have := State.tile_of_ctxLine hl
        omega
      simp [ht, hm]
      rfl
    · simp [ht]
      rfl

theorem State.ctxRec_congr {s t : State} (hl : t.ctx.lines = s.ctx.lines) (hs : t.ctx.states = s.ctx.states) (j : Nat) :
    t.ctxRec j = s.ctxRec j := by
  simp only [State.ctxRec, State.ctxLine, State.ctxState, hl, hs]

theorem State.ctxRec_of_rowUnits {s t : State} (h : t.rowUnits = s.rowUnits) (j : Nat) : t.ctxRec j = s.ctxRec j :=
  have hc := State.ctx_of_rowUnits h
  State.ctxRec_congr (congrArg CtxUnit.lines hc) (congrArg CtxUnit.states hc) j

/-- CTX_BOUND_LOST is noted, and no record changes (R121). -/
theorem State.ctxRec_boundLost (s : State) (i : Nat) (tag : BitVec 16) (j : Nat) : (s.boundLost i tag).ctxRec j = s.ctxRec j := by
  unfold State.boundLost
  split
  case h_2 => rfl
  unfold State.noteOnce
  split
  case isTrue => rfl
  refine (State.ctxRec_of_rowUnits ((State.rowUnits_pageEvent ..).trans (State.rowUnits_logEvent ..)) j).trans ?_
  exact State.ctxRec_congr rfl rfl j

/-- A fold changes the record of its context alone. -/
theorem State.ctxRec_foldRow (s : State) (c : Chain) (r : Nat) (p : Part) (j : Nat) :
    (s.foldRow c r p).ctxRec j = (s.setCtxRec (c.ctxOf r) (foldPart s.gen3 c.d.plain (s.mergeExp (s.rowPinna r))
      (s.ctxRec (c.ctxOf r)) p)).ctxRec j := by
  have hm : ∀ u : State, ∀ a b, (u.mergeUse c r a b).ctxRec j = u.ctxRec j := fun u a b =>
    State.ctxRec_of_rowUnits (u.rowUnits_mergeUse c r a b) j
  unfold State.foldRow
  dsimp only
  split
  · rw [State.ctxRec_boundLost, hm]
  · rw [hm]

/-! ## The next ordinal (R126, R172) -/

section
variable {s : State} {slot : Nat} {c : Chain} (hc : s.chainIn slot = some c) (hst : c.st = .admitted)
include hc hst

theorem State.fold_unformed (hp : c.parts.find? (fun q => q.ord == c.folded) = none) : s.fold slot = s := by
  simp only [State.fold, hc, hst, hp]

section
variable {pr : PartRow} (hp : c.parts.find? (fun q => q.ord == c.folded) = some pr)
include hp

theorem State.fold_of_not_takes (h : ¬ ∀ p ∈ c.foldRows pr, s.ctxTakes (c.ctxOf p.1) c.d.gen = true) : s.fold slot = s := by
  rw [← List.all_eq_true, Bool.not_eq_true] at h
  simp only [State.fold, hc, hst, hp, h, Bool.not_false, if_true]

variable (ha : ∀ p ∈ c.foldRows pr, s.ctxTakes (c.ctxOf p.1) c.d.gen = true)
include ha

theorem State.fold_misses (hn : (s.needLines (((c.foldRows pr).map fun p => c.ctxOf p.1 / 128).eraseDups)).2 = false) :
    s.fold slot = (s.needLines (((c.foldRows pr).map fun p => c.ctxOf p.1 / 128).eraseDups)).1 := by
  rw [← List.all_eq_true] at ha
  simp only [State.fold, hc, hst, hp, ha, hn, Bool.not_true, Bool.not_false, if_true, Bool.false_eq_true, if_false]

theorem State.fold_folds (hn : (s.needLines (((c.foldRows pr).map fun p => c.ctxOf p.1 / 128).eraseDups)).2 = true)
    (hd : c.d.mergesTiles = false ∨ c.foldData.isSome = true) :
    s.fold slot = (s.needLines (((c.foldRows pr).map fun p => c.ctxOf p.1 / 128).eraseDups)).1.foldNow c pr (c.foldRows pr) := by
  rw [← List.all_eq_true] at ha
  have hd' : (!c.d.mergesTiles || c.foldData.isSome) = true := by simpa using hd
  simp only [State.fold, hc, hst, hp, ha, hn, hd', Bool.not_true, if_true, Bool.false_eq_true, if_false]

end

/-! ## The completion of a row-block (R158) -/

theorem State.rowBlock_completes (hf : c.final = true) (hn : c.complete = false) :
    let rows := (List.range c.d.rows).filter (fun r => c.live.getD r false)
    let t := (rows.foldl (fun (s : State) r => s.rowDone c r) s).statDone c rows
    s.rowBlock slot = ((t.modChain c.uid (fun c => { c with complete := true })).spawn c.uid).finishChains := by
  simp [State.rowBlock, hc, hst, hf, hn]

theorem State.rowBlock_waits (h : c.final = false ∨ c.complete = true) : s.rowBlock slot = s := by
  rcases h with h | h <;> simp [State.rowBlock, hc, hst, h]

end

section
variable (s : State) (c : Chain)

/-- COUNT is not the declared length, which CHN_LEN_MISMATCH logs (R158). -/
def Chain.lengthDiffers (c : Chain) (r : Nat) : Prop :=
  c.d.declLen ≠ 0 ∧ c.d.declLen ≤ countMax ∧ (c.rowRec r).boundLost = false ∧ (c.rowRec r).count ≠ c.d.declLen

theorem Chain.lengthDiffers_iff (c : Chain) (r : Nat) : c.lengthDiffers r ↔
    (decide (c.d.declLen ≠ 0) && decide (c.d.declLen ≤ countMax) && !(c.rowRec r).boundLost &&
      decide ((c.rowRec r).count ≠ c.d.declLen)) = true := by
  simp [Chain.lengthDiffers, and_assoc]

/-- The flags of the completion word that a row sets (R158). -/
def State.rowFlagged (s : State) (c : Chain) (r : Nat) : State :=
  s.modChain c.uid (fun d => { d with
    anyBoundLost := d.anyBoundLost || (c.rowRec r).boundLost, anyNonfinite := d.anyNonfinite || (c.rowRec r).nonfinite
    anyEmpty := d.anyEmpty || (c.rowRec r).empty })

theorem State.rowDone_same {r : Nat} (h : ¬ c.lengthDiffers r) : s.rowDone c r = s.rowFlagged c r :=
  if_neg (mt (c.lengthDiffers_iff r).2 h)

theorem State.rowDone_differs {r : Nat} (h : c.lengthDiffers r) : s.rowDone c r =
    ((((s.rowFlagged c r).modChain c.uid (fun c => { c with lenMismatch := true })).logEvent 0x31 .chn
      (BitVec.ofNat 32 (c.ctxOf r)) (BitVec.ofNat 32 (c.rowRec r).count) (BitVec.ofNat 32 c.d.declLen) 0 c.d.tag).pageEvent
      .chn 3) :=
  if_pos ((c.lengthDiffers_iff r).1 h)

theorem State.chainFinished_iff (hst : c.st = .admitted) : s.chainFinished c = true ↔
    c.endedCount .first false = c.d.ntiles ∧ (c.d.hasStat = true → c.complete = true ∧
      (c.d.secondPass = true → c.endedCount .second false = c.d.ntiles) ∧
      (c.d.mergesTiles = true → s.tileRoot c = true → c.endedCount .completion false = 1)) := by
  simp [State.chainFinished, hst, imp_iff_not_or, and_assoc, or_assoc]

theorem State.finishChains_single (h : s.chains = [c]) :
    s.finishChains = (if s.chainFinished c then s.modChain c.uid (fun c => { c with finished := true }) else s).issueWords := by
  simp only [State.finishChains, h, List.foldl_cons, List.foldl_nil]

end

/-! ## The widening check (R207, R208) -/

theorem triggers_iff (n : OutCount) (ls lu : Nat) : triggers n ls lu = true ↔
    (ls ≠ 0 ∧ n.elems < n.sat * 2 ^ ls) ∨ (lu ≠ 0 ∧ n.elems < n.ufl * 2 ^ lu) := by
  simp [triggers]

theorem widenLimit_eq (w : Word) {k : Nat} (hk : 1 ≤ k) : widenLimit w k = (w.extractLsb' (5 * k - 5) 5).toNat :=
  bitsOf_eq_toNat_extractLsb' w (by omega)

theorem RegEntry.registered_iff (e : RegEntry) : e.registered = true ↔ 1 ≤ e.kind.toNat ∧ e.kind.toNat ≤ 5 := by
  simp [RegEntry.registered]

/-- The counts of an output. -/
abbrev Chain.outCount (c : Chain) (o : Nat × Nat × Nat) : OutCount := if o.1 = 1 then c.count1 else c.count2

/-- An output under a registered id, on rungs 0 to 3, passes the limit of its kind (R207). -/
def Chain.widens (c : Chain) (e : RegEntry) (r : Nat) (n : OutCount) : Prop :=
  1 ≤ e.kind.toNat ∧ e.kind.toNat ≤ 5 ∧ r ≤ 3 ∧
    triggers n (widenLimit c.limSat e.kind.toNat) (widenLimit c.limUfl e.kind.toNat) = true

theorem Chain.widens_iff (c : Chain) (e : RegEntry) (r : Nat) (n : OutCount) : c.widens e r n ↔
    (e.registered && decide (r ≤ 3) &&
      triggers n (widenLimit c.limSat e.kind.toNat) (widenLimit c.limUfl e.kind.toNat)) = true := by
  simp only [Chain.widens, Bool.and_eq_true, RegEntry.registered_iff, decide_eq_true_eq, and_assoc]

section
variable {s : State} {c : Chain} {o : Nat × Nat × Nat} {l : RegLine} {r : Nat} (hg : s.gen3 = false) (ho : c.d.outIds = [o])
  (hl : s.regLine o.2.1 = some l) (hr : rungOf o.2.2 = some r)
include hg ho hl hr

theorem State.widenings_widens (h : c.widens l.e r (c.outCount o)) : s.widenings c = [(o.2.1, o.2.2, r, c.outCount o)] := by
  unfold State.widenings
  rw [if_neg (Bool.eq_false_iff.1 hg), ho, List.filterMap_cons, List.filterMap_nil, hl, hr]
  dsimp only
  rw [if_pos ((c.widens_iff l.e r _).1 h)]

theorem State.widenings_not_widens (h : ¬ c.widens l.e r (c.outCount o)) : s.widenings c = [] := by
  unfold State.widenings
  rw [if_neg (Bool.eq_false_iff.1 hg), ho, List.filterMap_cons, List.filterMap_nil, hl, hr]
  dsimp only
  rw [if_neg (mt (c.widens_iff l.e r _).2 h)]

theorem State.widen_not_widens (h : ¬ c.widens l.e r (c.outCount o)) : s.widen c = s := by
  rw [State.widen, State.widenings_not_widens hg ho hl hr h]
  rfl

/-- LEVEL rises to the rung above, the trigger is shown and logged (R208). -/
theorem State.widen_widens (h : c.widens l.e r (c.outCount o)) :
    let n := c.outCount o
    let t := (s.recordEntry o.2.1 c.step l.e).setEntry o.2.1 { l.e with level := BitVec.ofNat 3 (max l.e.level.toNat (r + 1)) }
    let u : State := { t with num := if s.num.lastValid then { t.num with lastOvf := true }
      else { t.num with lastValid := true, lastOvf := false, lastFmt := BitVec.ofNat 4 o.2.2, lastTid := BitVec.ofNat 16 o.2.1 } }
    s.widen c = (u.logEvent 0x48 .num (BitVec.ofNat 32 (o.2.1 * 2 ^ 16 + o.2.2)) (BitVec.ofNat 32 n.sat)
      (BitVec.ofNat 32 n.ufl) 0 c.d.tag).pageEvent .num 1 := by
  have hv : (s.recordEntry o.2.1 c.step l.e).num.lastValid = s.num.lastValid :=
    congrArg NumUnit.lastValid (State.num_of_rowUnits (s.rowUnits_recordEntry o.2.1 c.step l.e))
  rw [State.widen, State.widenings_widens hg ho hl hr h]
  simp only [List.foldl_cons, List.foldl_nil, hl, State.setEntry, hv]
  cases s.num.lastValid <;> rfl

end

/-! ## The two happenings -/

theorem exec_partialCapsuleFold {s t : State} (hr : s.fclkRuns = true) {slot : Fin 64} (h : s.fold slot.val = t) :
    exec (.partialCapsuleFold slot) s = .next t.settle :=
  State.clocked_of_eq (act := fun s => s.fold slot.val) hr h

theorem exec_rowBlockComplete {s t : State} (hr : s.fclkRuns = true) {slot : Fin 64} (h : s.rowBlock slot.val = t) :
    exec (.rowBlockComplete slot) s = .next t.settle :=
  State.clocked_of_eq (act := fun s => s.rowBlock slot.val) hr h

/-- Settles O55: the two happenings go by the lemmas on `fold` and `rowBlock`, a fold writes one record
(`State.ctxRec_foldRow`), and the widening of one output is `State.widen_widens`. That an ordinal folds as a whole, and that
a happening whose condition does not hold waits, are the model's choices (log entries 34 and 9). -/
theorem rowBlocks : Obligations.RowBlocks := by
  intro s slot c hrun hc hst
  refine ⟨fun pr hp => ⟨fun ha => exec_partialCapsuleFold hrun (State.fold_of_not_takes hc hst hp ha),
      fun ha hn => exec_partialCapsuleFold hrun (State.fold_misses hc hst hp ha hn),
      fun ha hn hd => exec_partialCapsuleFold hrun (State.fold_folds hc hst hp ha hn hd)⟩,
    fun hp => exec_partialCapsuleFold hrun (State.fold_unformed hc hst hp),
    fun r j p l hl h128 => ⟨?folded, fun hj => ?others⟩,
    fun hf hn => exec_rowBlockComplete hrun (State.rowBlock_completes hc hst hf hn),
    fun h => exec_rowBlockComplete hrun (State.rowBlock_waits hc hst h),
    fun r => ⟨s.rowDone_same c, s.rowDone_differs c⟩, s.chainFinished_iff c hst,
    fun hs => ⟨fun hf => ?finished, fun hf => ?unfinished⟩, triggers_iff, fun w => ?limits,
    fun o l r hg ho hl hr => ⟨State.widen_not_widens hg ho hl hr, State.widen_widens hg ho hl hr⟩⟩
  case folded =>
    rw [State.ctxRec_foldRow]
    exact State.ctxRec_setCtxRec_self hl h128 _
  case others =>
    rw [State.ctxRec_foldRow]
    exact s.ctxRec_setCtxRec_other hj _
  case finished => rw [s.finishChains_single c hs, if_pos hf]
  case unfinished => rw [s.finishChains_single c hs, if_neg (Bool.eq_false_iff.1 hf)]
  case limits => simp [widenLimit_eq]

end Sys2Proof.Machine

/-! PROOFS. Chapter 7, submissions and cancels: the checks of Table 7.8 marked S in their order, the submission queue (R154) and
what a cancel does (R161, R314). -/
namespace Sys2Proof.Machine

/-! ## The first check that fails -/

/-- `k` is the code of the first check of a list that fails, 0 where all pass. -/
def FirstCode : List (Prop × Nat) → Nat → Prop
  | [], k => k = 0
  | (p, c) :: r, k => (p → k = c) ∧ (¬ p → FirstCode r k)

section
variable {p q : Prop} {c k : Nat} {r l : List (Prop × Nat)}

theorem FirstCode.ite {b : Prop} [Decidable b] (hb : b ↔ p) (h : FirstCode r k) :
    FirstCode ((p, c) :: r) (if b then c else k) :=
  ⟨fun hp => if_pos (hb.2 hp), fun hp => (if_neg (mt hb.1 hp)).symm ▸ h⟩

/-- Two conditions in a row of one code are one check. -/
theorem FirstCode.ite_ite {a b : Prop} [Decidable a] [Decidable b] (ha : a ↔ p) (hb : b ↔ q) (h : FirstCode r k) :
    FirstCode ((p ∨ q, c) :: r) (if a then c else if b then c else k) := by
  rw [← ite_or]
  exact .ite (or_congr ha hb) h

theorem FirstCode.eq_of_fails (h : FirstCode l k) {i : Nat} (hi : (l.getD i (False, 0)).1)
    (hb : ∀ j, j < i → ¬ (l.getD j (False, 0)).1) : k = (l.getD i (False, 0)).2 := by
  induction l generalizing i with
  | nil => exact hi.elim
  | cons a l ih =>
    obtain ⟨hfail, hpass⟩ := h
    cases i with
    | zero => exact hfail hi
    | succ i => exact ih (hpass (hb 0 i.succ_pos)) hi fun j hj => hb (j + 1) (Nat.succ_lt_succ hj)

theorem FirstCode.eq_zero (h : FirstCode l k) (hp : ∀ j, j < l.length → ¬ (l.getD j (False, 0)).1) : k = 0 := by
  induction l with
  | nil => exact h
  | cons a l ih => exact ih (h.2 (hp 0 l.length.succ_pos)) fun j hj => hp (j + 1) (Nat.succ_lt_succ hj)

end

/-! ## Table 7.8 at submission -/

/-- A descriptor address that can be read (Table 7.8, DESC_READ). -/
abbrev DescUsable (a : Word) : Prop := a.toNat % 64 = 0 ∧ a.toNat + 64 ≤ 2 ^ 31

theorem descAddrOk_iff (a : Word) : descAddrOk a.toNat = true ↔ DescUsable a := by
  simp [descAddrOk, spadTop]

theorem not_descUsable_iff {a : Word} : ¬ DescUsable a ↔ a.toNat % 64 ≠ 0 ∨ 2 ^ 31 < a.toNat + 64 := by
  rw [not_and_or, not_le]

theorem State.isD4_eq_false_iff (s : State) : s.isD4 = false ↔ s.variant = .d4m := by
  unfold State.isD4
  cases s.variant <;> simp

/-- The rows of Table 7.8 marked S after DESC_READ: when each fails, and its code. -/
def State.submissionChecks (s : State) (addr : Word) (d : ChainDesc) : List (Prop × Nat) :=
  [(∃ c, s.chainAt addr = some c, 0x02), (d.chain = 0 ∨ 8 < d.chain, 0x03),
    (d.fieldBad = true, 0x04), (d.formatOk = false, 0x05),
    (s.variant = .d4m ∧ (0xB ∈ d.fmts ∨ d.sched = true), 0x06),
    (d.chain = 4 ∧ ((d.func < 0x40 ∧ builtinExists d.func = false) ∨ d.func = 0x10 ∨ d.func = 0x11), 0x07),
    ((d.hasStat = true ∧ s.ctx.limit.toNat < d.ctxFirst + d.rows) ∨
      (d.hasStat = false ∧ (d.ctxFirst ≠ 0 ∨ d.gen ≠ 0)), 0x08),
    (∃ c ∈ s.chains, c.d.overlaps d = true, 0x09), (d.addressBad = true, 0x0A), (d.lengthBad = true, 0x0B),
    ((d.mergesTiles = true ∧ d.wsSlots < s.wsLeast d) ∨ (d.mergesTiles = false ∧ d.wsSlots ≠ 0), 0x0C),
    (d.scope ≠ 0 ∧ (¬ (d.pv = true ∨ d.chain = 5 ∨ d.chain = 6 ∨ d.chain = 8) ∨ s.scopeConfigured d.scope = false), 0x0D),
    (64 ≤ s.chains.length, 0x0E), (s.gen3 = true ∧ d.notGen3 = true, 0x0F)]

/-- The code of a submission is that of the first check of Table 7.8 that fails. -/
theorem State.firstCode_submission (s : State) (addr : Word) (d : ChainDesc) :
    FirstCode (s.submissionChecks addr d) (s.submissionCode addr d) := by
  unfold State.submissionCode
  refine .ite Option.isSome_iff_exists <| .ite ?chain <| .ite Iff.rfl <| .ite ?format <| .ite ?variant <| .ite ?function <|
    .ite_ite ?contexts ?noContexts <| .ite List.any_eq_true <| .ite Iff.rfl <| .ite Iff.rfl <| .ite_ite ?slots ?noSlots <|
    .ite ?scope <| .ite Iff.rfl <| .ite ?gen3 rfl
  case chain | format | contexts | noContexts | slots | noSlots | gen3 => simp
  case variant => simp [State.isD4_eq_false_iff]
  case function => simp [or_assoc]
  case scope => simp [and_assoc]

/-! ## The queue (R154) -/

/-- The read of the front submission's descriptor is under way or done, or its address is unusable: none starts. -/
theorem State.submitGo_idle {s : State} {q : Submission} {r : List Submission} (hq : s.chn.queue = q :: r)
    (h : q.reading = true ∨ q.data.isSome = true ∨ ¬ DescUsable q.addr) : s.submitGo = s := by
  have hb : (q.reading || q.data.isSome || !descAddrOk q.addr.toNat) = true := by
    simpa only [Bool.or_eq_true, Bool.not_eq_true', ← Bool.not_eq_true, descAddrOk_iff, or_assoc] using h
  rw [State.submitGo, hq]
  exact if_pos hb

/-- The queue of submissions is `l`. -/
abbrev State.withQueue (s : State) (l : List Submission) : State := { s with chn := { s.chn with queue := l } }

/-- A submission that comes to an empty queue has its descriptor read at once. -/
theorem State.submitGo_reads (s : State) {v : Word} (h : DescUsable v) :
    (s.withQueue [{ addr := v }]).submitGo =
      (s.withQueue [{ addr := v, reading := true }]).issueRead .descriptor [(v.toNat, 64)] := by
  simp [State.submitGo, (descAddrOk_iff _).2 h]

section
variable {s : State} (rq : Requester) (v : Word)

theorem State.submitWrite_state (hn : s.img.st ≠ .normal) : s.submitWrite rq v = s.regFault .chn .state rq 0x040 := if_neg hn

variable (hn : s.img.st = .normal)
include hn

theorem State.submitWrite_full (hl : 16 ≤ s.chn.queue.length) : s.submitWrite rq v =
    ((({ s with chn := { s.chn with qfull := true } } : State).regFault .chn .queue rq 0x040).pageEvent .chn 2) :=
  (if_pos hn).trans (if_pos hl)

theorem State.submitWrite_joins (hl : s.chn.queue.length < 16) :
    s.submitWrite rq v = (s.withQueue (s.chn.queue ++ [{ addr := v }])).submitGo :=
  (if_pos hn).trans (if_neg (Nat.not_le.2 hl))

theorem State.submitWrite_empty (hq : s.chn.queue = []) :
    s.submitWrite rq v = (s.withQueue [{ addr := v }]).submitGo := by
  rw [State.submitWrite_joins rq v hn (by simp [hq]), hq]
  rfl

/-- A submission that comes behind others, or whose address is unusable, joins the queue. -/
theorem State.submitWrite_waits {q : Submission} {r : List Submission} (hl : s.chn.queue.length < 16)
    (hq : s.chn.queue ++ [{ addr := v }] = q :: r)
    (h : q.reading = true ∨ q.data.isSome = true ∨ ¬ DescUsable q.addr) :
    s.submitWrite rq v = s.withQueue (s.chn.queue ++ [{ addr := v }]) :=
  (State.submitWrite_joins rq v hn hl).trans (State.submitGo_idle hq h)

end

theorem exec_dlChnSubmit {s t : State} {rq : Requester} {v : Word} (h : s.performs rq .chn) (ht : s.submitWrite rq v = t) :
    exec (.dlChnSubmit rq v) s = .next ((t.settle).answerWrite (accessOf rq .chn 0x040)) :=
  (State.writes_command h rfl (by decide) rfl).trans (by rw [← ht]; rfl)

/-! ## The judgement of a submission (R154) -/

section
variable {s : State} {q : Submission} {r : List Submission} (hq : s.chn.queue = q :: r)
include hq

/-- An unusable address, or a descriptor whose read failed: DESC_READ with TAG 0. -/
theorem State.submissionStep_unread
    (h : ¬ DescUsable q.addr ∨ q.data = some none) :
    s.submissionStep = ((s.withQueue r).logRefusal q.addr 0x01 0).submitGo := by
  rw [State.submissionStep, hq]
  dsimp only
  split
  case isTrue => rfl
  case isFalse hok =>
    have hu : descAddrOk q.addr.toNat = true := by simpa using hok
    rw [h.resolve_left (not_not_intro ((descAddrOk_iff _).1 hu))]
    rfl

variable (hu : DescUsable q.addr)
include hu

/-- With its address usable, the front submission waits for its descriptor. -/
theorem State.submissionStep_waits (hd : q.data = none) (hr : q.reading = true) : s.submissionStep = s := by
  simp only [State.submissionStep, hq, hd, (descAddrOk_iff _).2 hu, Bool.not_true, Bool.false_eq_true, if_false]
  exact State.submitGo_idle hq (.inl hr)

/-- With its descriptor read, it is judged. -/
theorem State.submissionStep_judges {bs : List Byte} (hd : q.data = some (some bs)) :
    s.submissionStep = ((s.withQueue r).judgeSubmission q.addr (some bs)).submitGo := by
  simp only [State.submissionStep, hq, hd, (descAddrOk_iff _).2 hu, Bool.not_true, Bool.false_eq_true, if_false]

end

section
variable (s : State) (addr : Word) {bs : List Byte}

/-- A submission that passes becomes an armed chain in the lowest free slot. -/
theorem State.judgeSubmission_arms {i : Nat} (h0 : s.submissionCode addr (parseChain (wordsOf 16 bs)) = 0)
    (hi : s.chn.slots.findIdx? (·.isNone) = some i) :
    let d := parseChain (wordsOf 16 bs)
    s.judgeSubmission addr (some bs) = { s with chn := { s.chn with
      nextUid := s.chn.nextUid + 1
      slots := s.chn.slots.set i (some {
        uid := s.chn.nextUid, addr := addr, d := d, live := List.replicate d.rows false
        zs := List.replicate d.rows none }) } } := by
  simp only [State.judgeSubmission, h0, State.arm, hi]

/-- A submission that fails is refused with its code, and its completion word written where it can be. -/
theorem State.judgeSubmission_refuses (h0 : s.submissionCode addr (parseChain (wordsOf 16 bs)) ≠ 0) :
    let d := parseChain (wordsOf 16 bs)
    let code := s.submissionCode addr d
    let u := s.logRefusal addr code d.tag
    s.judgeSubmission addr (some bs) = if d.doneAddr % 8 = 0 ∧ d.doneAddr + 8 ≤ 2 ^ 31 then
      u.issueWrite (.refusedWord d.tag) (cellsAt d.doneAddr (doneBytes d.tag code 0 s.step)) else u := by
  unfold State.judgeSubmission
  dsimp only
  split
  case h_1 h => exact absurd h h0
  case h_2 => simp [spadTop]

end

theorem exec_submissionCheck {s t : State} (hr : s.fclkRuns = true) (h : s.submissionStep = t) :
    exec .submissionCheck s = .next t.settle := State.clocked_of_eq hr h

/-! ## Cancels (R161, R314) -/

theorem exec_dlChnCancel {s t : State} {rq : Requester} {v : Word} (h : s.performs rq .chn) (ht : s.cancel rq v = t) :
    exec (.dlChnCancel rq v) s = .next ((t.settle).answerWrite (accessOf rq .chn 0x044)) :=
  (State.writes_command h rfl (by decide) rfl).trans (by rw [← ht]; rfl)

theorem State.cancel_unknown {s : State} {v : Word} (rq : Requester) (h : s.chainAt v = none) :
    s.cancel rq v = s.regFault .chn .state rq 0x044 := by
  rw [State.cancel, h]

theorem State.cancel_ends {s : State} {v : Word} {c : Chain} (rq : Requester) (h : s.chainAt v = some c) :
    s.cancel rq v = (s.endChain c.uid 0x12).issueWords := by
  rw [State.cancel, h]

/-- Settles O39: a write of DL_CHN_SUBMIT is `submitWrite`, the judgement `submissionStep`, and the code of a submission is the
first of Table 7.8 by `State.firstCode_submission`. That a cancel of a chain that is being ended already has no effect and is no
fault is the model's choice (log entry 38; a word that is issued stays, log entry 40). -/
theorem submitAndCancel : Obligations.SubmitAndCancel := by
  intro s rq v
  refine ⟨fun h => ⟨fun hn => ?outside, fun hn hl => ?full, fun hn hq ha hb => ?reads, fun hn hq hu => ?unusable,
      fun q r hn hq hl hu => ?behind⟩,
    fun h => ⟨fun hc => exec_dlChnCancel h (State.cancel_unknown rq hc),
      fun c hc => exec_dlChnCancel h (State.cancel_ends rq hc)⟩,
    fun q r hr hq => ⟨fun hu => ?unread, fun hu hd hg => ?waits, fun bs hu hd => ⟨fun i h0 hi => ?arms, fun h0 => ?refused⟩⟩,
    fun addr d => ⟨fun i _ => (s.firstCode_submission addr d).eq_of_fails, (s.firstCode_submission addr d).eq_zero⟩⟩
  case outside => exact exec_dlChnSubmit h (State.submitWrite_state rq v hn)
  case full => exact exec_dlChnSubmit h (State.submitWrite_full rq v hn hl)
  case reads => exact exec_dlChnSubmit h ((State.submitWrite_empty rq v hn hq).trans (s.submitGo_reads ⟨ha, hb⟩))
  case unusable =>
    have hfront : s.chn.queue ++ [({ addr := v } : Submission)] = [{ addr := v }] := by rw [hq]; rfl
    exact exec_dlChnSubmit h
      (State.submitWrite_waits rq v hn (by simp [hq]) hfront (.inr (.inr (not_descUsable_iff.2 hu))))
  case behind =>
    have hfront : s.chn.queue ++ [({ addr := v } : Submission)] = q :: (r ++ [{ addr := v }]) := by rw [hq]; rfl
    exact exec_dlChnSubmit h
      (State.submitWrite_waits rq v hn hl hfront (hu.imp_right (Or.imp_right not_descUsable_iff.2)))
  case unread => exact exec_submissionCheck hr (State.submissionStep_unread hq hu)
  case waits => exact exec_submissionCheck hr (State.submissionStep_waits hq hu hd hg)
  case arms =>
    refine exec_submissionCheck hr ((State.submissionStep_judges hq hu hd).trans ?_)
    rw [State.judgeSubmission_arms _ _ h0 hi]
  case refused =>
    refine exec_submissionCheck hr ((State.submissionStep_judges hq hu hd).trans ?_)
    rw [State.judgeSubmission_refuses _ _ h0]

end Sys2Proof.Machine

/-! PROOFS. Chapter 7, doorbells: which key a begun item has where two slots hold chains of one serial number. -/
namespace Sys2Proof.Machine

/-- An admitted chain of CH_RMSQ, serial number 0, with one tile that is there and judged, and `n` as its next item key. -/
def twinChain (n : Nat) : Chain :=
  { uid := 0, addr := 0, d := parseChain [0x20000000, 0, 0, 0, 0, 0x00010000], st := .admitted, nextKey := n
    arrivals := [{ kind := false, ord := 0, addr := 0, itid := 0, rows := some [true] }] }

/-- A DOORBELL at the head of P3, and two slots whose chains have one serial number and different item keys. -/
def twinState : State :=
  { State.reset with
    port := { State.reset.port with p3 := [(false, .p3 (1 <<< 28))] }
    chn := { State.reset.chn with slots := [some (twinChain 0), some (twinChain 1)] } }

/-- The item keys of each slot's chain. -/
def State.itemKeys (s : State) : List (List Nat) := s.chains.map fun c => c.items.map (·.key)

/-- The key of the chain that is found first goes to the item of both. -/
theorem twinState_spawnPass : (twinState.spawnPass 0 .first).itemKeys = [[0], [0]] := by decide +kernel

/-- A first item begun for each chain of a serial number under the chain's own next key. -/
def State.beginOwn (s : State) (uid : Nat) : State :=
  s.modChain uid fun c => { c with
    nextKey := c.nextKey + 1, begun := c.begun ++ [(.first, false, 0)]
    items := c.items ++ [{ key := c.nextKey, ord := 0, pass := .first, pre := false }] }

theorem twinState_beginOwn : ((twinState.beginOwn 0).itemAdvance 0 0).itemKeys = [[0], [1]] := by decide +kernel

/-- Refutes O49, in its last clause: `twinState` begins its tile's first item. The statement speaks of every state, and reads
the key in the chain that is changed, where `spawnPass` reads it in the chain that `chainOf` finds; with two chains of one
serial number the second chain's item has another key. (Serial numbers of chains that were submitted differ.) -/
theorem not_doorbells : ¬ Obligations.Doorbells := by
  unfold Obligations.Doorbells
  intro h
  obtain ⟨-, -, hspawn⟩ := h twinState (1 <<< 28) false (by decide +kernel) (by decide +kernel)
  obtain ⟨-, -, -, -, -, hbegins⟩ := hspawn (twinChain 0) (by decide +kernel)
  obtain ⟨-, hnew⟩ := hbegins .first 0 (by decide +kernel) (by decide +kernel)
  have hkeys : (twinState.spawnPass 0 .first).itemKeys = ((twinState.beginOwn 0).itemAdvance 0 0).itemKeys :=
    congrArg State.itemKeys (hnew (by decide +kernel))
  rw [twinState_spawnPass, twinState_beginOwn] at hkeys
  exact absurd hkeys (by decide)

end Sys2Proof.Machine

/-! PROOFS. Chapter 8, cross-shard checks (R182): what a write of DL_TREE_CHK_CMD (R317) and a CHECK message come to, and the
combination of the operands. -/
namespace Sys2Proof.Machine

/-! ## Taking a tree message from its port -/

@[simp] theorem treePopped_tree (s : State) (via : TreeVia) : (treePopped s via).tree = s.tree := by cases via <;> rfl

@[simp] theorem treePopped_step (s : State) (via : TreeVia) : (treePopped s via).step = s.step := by cases via <;> rfl

/-- The message at the head of its port's queue leaves the queue and acts, and the units go on. -/
theorem State.treeTaken_front {s : State} {via : TreeVia} {m : TreeMsg} (h : treeFront s via m) (act : State → State) :
    s.treeTaken via m act = .next (act (treePopped s via)).settle := by
  obtain ⟨ht, hq⟩ := h
  cases via with
  | p4 =>
    obtain ⟨r, hr⟩ := List.head?_eq_some_iff.1 hq
    simp only [State.treeTaken, State.takeP4, hr, ht, if_true, treePopped]
  | remote =>
    obtain ⟨⟨rung, q⟩, hp, rfl⟩ := Option.map_eq_some_iff.1 hq
    obtain ⟨r, hr⟩ := List.head?_eq_some_iff.1 hp
    simp only [State.treeTaken, State.takeP3, hr, ht, if_true, treePopped, State.popP3]

/-! ## The write of DL_TREE_CHK_CMD -/

/-- The conditions of STATE and of COMMAND, as R317 gives them. -/
theorem State.checkRefusal_eq (s : State) (v : Word) {id scope : Nat} (hid : bitsOf v 7 0 = id)
    (hscope : bitsOf v 9 8 = scope) :
    s.checkRefusal v =
      if s.tree.fwBusy = true ∨ ((scope = 1 ∨ scope = 2) ∧ s.scopeConfigured scope = false) ∨
        (∃ c ∈ s.tree.checks, c.id = id ∧ c.step = s.step ∧ c.own.isSome = true) then some .state
      else if id < 0x10 ∨ scope = 0 ∨ scope = 3 then some .command else none := by
  subst hid hscope
  rw [ite_or, ite_or, State.checkRefusal]
  simp [and_assoc, or_assoc]

theorem exec_dlTreeChkCmd {s t : State} {rq : Requester} {v : Word} (h : s.performs rq .tree) (ht : s.checkWrite rq v = t) :
    exec (.dlTreeChkCmd rq v) s = .next ((t.settle).answerWrite (accessOf rq .tree 0x050)) :=
  (State.writes_command h rfl (by decide) rfl).trans (by rw [← ht]; rfl)

theorem State.checkWrite_refused {s : State} {rq : Requester} {v : Word} {c : Cause} (h : s.checkRefusal v = some c) :
    s.checkWrite rq v = s.regFault .tree c rq 0x050 := by
  rw [State.checkWrite, h]

theorem State.checkWrite_starts {s : State} {rq : Requester} {v : Word} (h : s.checkRefusal v = none) :
    s.checkWrite rq v =
      (({ s with tree := { s.tree with fwBusy := true } } : State).startCheck (bitsOf v 7 0) (bitsOf v 9 8)
        s.tree.chkVal).1 := by
  rw [State.checkWrite, h]

/-! ## A CHECK message from a child -/

/-- The place of the sender of a CHECK message among the operands: TREE, LEVEL, CHILD. -/
def checkPlace (m : TreeMsg) : Bool × Nat × Nat := (TreeMsgF.tree m, TreeMsgF.level m, TreeMsgF.child m)

/-- A check with the operand of a message kept. -/
def CheckSt.gather (c : CheckSt) (m : TreeMsg) : CheckSt :=
  { c with
    ops := c.ops ++ [(checkPlace m, (BitVec.ofNat 64 (fieldAt m.payload 0 8), BitVec.ofNat 64 (fieldAt m.payload 8 8)))]
    heads := c.heads ++ [(checkPlace m, TreeMsgF.word0 m)] }

/-- The credit of a CHECK message returns (Table 12.8). -/
def State.creditCheck (s : State) (m : TreeMsg) : State := s.returnCredit (if TreeMsgF.tree m then 5 else 8) 0 1

/-- The check of the message's id that runs in another step: its owner has begun it, and it has not concluded. -/
def State.runningCheck (s : State) (m : TreeMsg) : Option CheckSt :=
  s.tree.checks.find? fun c => c.id == TreeMsgF.checkId m && c.own.isSome && !c.concluded && c.step != TreeMsgF.step m

theorem State.tryCheck_unstarted {s : State} {c : CheckSt} (h : c.own = none) : s.tryCheck c = (s, none) := by
  rw [State.tryCheck, h]

/-- A message of another step than the one that the id's check runs in is stale. -/
theorem State.takeCheck_running {s : State} {m : TreeMsg} {c : CheckSt}
    (hn : s.checkOf (TreeMsgF.checkId m) (TreeMsgF.step m) = none) (hr : s.runningCheck m = some c) :
    s.takeCheck m = ((s.treeStale m c.step).creditCheck m, none) := by
  rw [State.runningCheck] at hr
  simp only [State.takeCheck, hn, hr]
  rfl

section
variable {s : State} {m : TreeMsg} {c : CheckSt} (hm : TreeMsgF.child m ≠ 0)
include hm

/-- A message for a check that is known here is a duplicate or one more operand. -/
theorem State.takeCheck_known (hc : s.checkOf (TreeMsgF.checkId m) (TreeMsgF.step m) = some c) :
    s.takeCheck m =
      if c.concluded = true ∨ ∃ o ∈ c.ops, o.1 = checkPlace m then ((s.count 18 1).creditCheck m, none)
      else (s.setCheck (c.gather m)).tryCheck (c.gather m) := by
  simp only [State.takeCheck, hc, if_neg hm]
  exact if_congr (by simp [checkPlace]) rfl rfl

/-- Where the id's check does not run, a message of a step that has passed is stale, and another is its check's first operand. -/
theorem State.takeCheck_new (hn : s.checkOf (TreeMsgF.checkId m) (TreeMsgF.step m) = none) (hr : s.runningCheck m = none) :
    let c : CheckSt := { id := TreeMsgF.checkId m, step := TreeMsgF.step m, scope := (m.payload.getD 16 0).toNat }
    s.takeCheck m =
      if stepBelow (TreeMsgF.step m) s.step then ((s.treeStale m s.step).creditCheck m, none)
      else (s.setCheck (c.gather m)).tryCheck (c.gather m) := by
  rw [State.runningCheck] at hr
  simp only [State.takeCheck, hn, hr, if_neg hm]
  rfl

end

/-- Where the id's check of the message's own step is not known, its running check is of another step. -/
theorem State.runningCheck_eq {s : State} {m : TreeMsg}
    (hn : s.checkOf (TreeMsgF.checkId m) (TreeMsgF.step m) = none) :
    s.runningCheck m =
      s.tree.checks.find? fun c => decide (c.id = TreeMsgF.checkId m ∧ c.own.isSome = true ∧ c.concluded = false) := by
  refine List.find?_congr fun c hc => ?_
  have hstep : c.id = TreeMsgF.checkId m → c.step ≠ TreeMsgF.step m := by
    simpa using List.find?_eq_none.1 hn c hc
  by_cases hid : c.id = TreeMsgF.checkId m
  · simp [hid, hstep hid]
  · simp [hid]

@[simp] theorem treePopped_checkOf (s : State) (via : TreeVia) (id : Nat) (step : Word) :
    (treePopped s via).checkOf id step = s.checkOf id step := by
  rw [State.checkOf, treePopped_tree, State.checkOf]

@[simp] theorem treePopped_runningCheck (s : State) (via : TreeVia) (m : TreeMsg) :
    (treePopped s via).runningCheck m = s.runningCheck m := by
  rw [State.runningCheck, treePopped_tree, State.runningCheck]

/-- TREE_CHECK with no result for the schedule engine. -/
theorem exec_treeCheck {s t : State} {via : TreeVia} {m : TreeMsg} (h : treeFront s via m)
    (ht : (treePopped s via).takeCheck m = (t, none)) : exec (.treeCheck via m) s = .next t.settle :=
  (State.treeTaken_front h _).trans (by rw [ht])

/-! ## The combination of the operands -/

/-- The choice that a fold makes: one of the values, and none comes before it. -/
theorem foldl_choice {α β : Type} (f : α → β) (lt : β → β → Prop) [DecidableRel lt] (hasymm : ∀ a b, lt a b → ¬ lt b a)
    (htrans : ∀ a b c, ¬ lt a b → ¬ lt b c → ¬ lt a c) (l : List α) (b : β) :
    let r := l.foldl (fun b a => if lt (f a) b then f a else b) b
    r ∈ b :: l.map f ∧ ∀ x ∈ b :: l.map f, ¬ lt x r := by
  have hirr (a : β) : ¬ lt a a := fun h => hasymm a a h h
  induction l generalizing b with
  | nil => simpa using hirr b
  | cons a l ih =>
    have hstep : (if lt (f a) b then f a else b) ∈ [b, f a] ∧ ∀ x ∈ [b, f a], ¬ lt x (if lt (f a) b then f a else b) := by
      split
      case isTrue h => simp [hasymm _ _ h, hirr]
      case isFalse h => simp [h, hirr]
    obtain ⟨hmem, hle⟩ := ih (if lt (f a) b then f a else b)
    refine ⟨?_, ?_⟩
    · rcases List.mem_cons.1 hmem with h | h
      · exact List.mem_append_left (l.map f) (h ▸ hstep.1)
      · exact List.mem_append_right [b, f a] h
    · have hsplit : b :: (a :: l).map f = [b, f a] ++ l.map f := rfl
      rw [hsplit, List.forall_mem_append]
      exact ⟨fun x hx => htrans _ _ _ (hstep.2 x hx) (hle _ List.mem_cons_self), fun x hx => hle x (List.mem_cons_of_mem _ hx)⟩

theorem State.scopeRoot_returnCredit (s : State) (cls stream n scope : Nat) :
    (s.returnCredit cls stream n).scopeRoot scope = s.scopeRoot scope := by
  unfold State.returnCredit
  split <;> rfl

/-- The least MIN of a check's own value and its operands. -/
def CheckSt.least (c : CheckSt) (v : DWord) : DWord :=
  (c.ops.map (·.2)).foldl (fun a p => if p.1.toNat < a.toNat then p.1 else a) v

/-- The greatest MAX of a check's own value and its operands. -/
def CheckSt.greatest (c : CheckSt) (v : DWord) : DWord :=
  (c.ops.map (·.2)).foldl (fun a p => if p.2.toNat > a.toNat then p.2 else a) v

theorem CheckSt.least_spec (c : CheckSt) (v : DWord) :
    c.least v ∈ v :: c.ops.map (·.2.1) ∧ ∀ x ∈ v :: c.ops.map (·.2.1), (c.least v).toNat ≤ x.toNat := by
  have h := foldl_choice (·.1) (fun a b : DWord => a.toNat < b.toNat) (fun a b => by omega) (fun a b c => by omega)
    (c.ops.map (·.2)) v
  simpa [CheckSt.least] using h

theorem CheckSt.greatest_spec (c : CheckSt) (v : DWord) :
    c.greatest v ∈ v :: c.ops.map (·.2.2) ∧ ∀ x ∈ v :: c.ops.map (·.2.2), x.toNat ≤ (c.greatest v).toNat := by
  have h := foldl_choice (·.2) (fun a b : DWord => a.toNat > b.toNat) (fun a b => by omega) (fun a b c => by omega)
    (c.ops.map (·.2)) v
  simpa [CheckSt.greatest] using h

/-- The operands' credits return (Table 12.8). -/
def State.creditOps (s : State) (c : CheckSt) : State :=
  c.ops.foldl (fun (s : State) o => s.returnCredit (if o.1.1 then 5 else 8) 0 1) s

theorem State.scopeRoot_creditOps (s : State) (c : CheckSt) (scope : Nat) :
    (s.creditOps c).scopeRoot scope = s.scopeRoot scope :=
  List.foldlRecOn (motive := fun t : State => t.scopeRoot scope = s.scopeRoot scope) c.ops _ rfl
    fun t ht _ _ => (t.scopeRoot_returnCredit _ _ _ _).trans ht

/-- With its own value and every operand here, the root of the scope concludes a check, and another participant sends what it
has combined up. -/
theorem State.tryCheck_combines {s : State} {c : CheckSt} {v : DWord} (hv : c.own = some v) (hs : c.sent = false)
    (hops : ∀ k ∈ s.operands c.scope, ∃ o ∈ c.ops, o.1 = k) :
    s.tryCheck c =
      if s.scopeRoot c.scope then (s.creditOps c).concludeCheck c (c.least v) (c.greatest v)
      else (((s.creditOps c).setCheck { c with sent := true }).sendUp c.scope 2
        fun tree level child dst =>
          (s.creditOps c).checkMsg c (c.least v) (c.greatest v) tree level child dst).takeDown { c with sent := true } := by
  have hall : (s.operands c.scope).all (fun k => c.ops.any fun o => o.1 == k) = true := by
    simpa using hops
  rw [← s.scopeRoot_creditOps c, State.tryCheck, hv]
  simp only [hs, hall, List.foldl_cons, ite_self, Bool.not_true, Bool.or_self, Bool.false_eq_true, if_false]
  rfl

/-! ## The statement -/

/-- Settles O41: a write goes by `checkRefusal`, a CHECK message by `takeCheck`, and a check with everything here by
`tryCheck_combines`. That STATE is judged before COMMAND (log entry 73), and that a message of another step than the running
check's is stale (log entry 45), are the model's choices. -/
theorem treeChecks : Obligations.TreeChecks := by
  unfold Obligations.TreeChecks
  intro s
  refine ⟨fun rq v h => ?write, fun via m c hf hm hc => ?known, fun via m hf hm hn => ?unknown, fun c v hv hs hops => ?combined⟩
  case write =>
    have hid := bitsOf_eq_toNat_extractLsb' v (hi := 7) (lo := 0) (len := 8) rfl
    have hscope := bitsOf_eq_toNat_extractLsb' v (hi := 9) (lo := 8) (len := 2) rfl
    have hr := s.checkRefusal_eq v hid hscope
    refine ⟨fun hst => ?_, fun hst hco => ?_, fun hst hco => ?_⟩
    · exact exec_dlTreeChkCmd h (State.checkWrite_refused (hr.trans (if_pos hst)))
    · exact exec_dlTreeChkCmd h (State.checkWrite_refused ((hr.trans (if_neg hst)).trans (if_pos hco)))
    · rw [← hid, ← hscope]
      exact exec_dlTreeChkCmd h (State.checkWrite_starts ((hr.trans (if_neg hst)).trans (if_neg hco)))
  case known =>
    have htake := State.takeCheck_known hm ((treePopped_checkOf s via _ _).trans hc)
    refine ⟨fun hdup => exec_treeCheck hf (htake.trans (if_pos hdup)), fun hcon hnew hown => ?_⟩
    have hfresh : ¬ (c.concluded = true ∨ ∃ o ∈ c.ops, o.1 = checkPlace m) := by
      rintro (h | ⟨o, ho, hk⟩)
      · exact Bool.false_ne_true (hcon.symm.trans h)
      · exact hnew o ho hk
    exact exec_treeCheck hf ((htake.trans (if_neg hfresh)).trans (State.tryCheck_unstarted hown))
  case unknown =>
    have hn' := (treePopped_checkOf s via _ _).trans hn
    have hrun := (treePopped_runningCheck s via m).trans (State.runningCheck_eq hn)
    refine ⟨fun c hc => exec_treeCheck hf (State.takeCheck_running hn' (hrun.trans hc)), fun hno hb => ?_, fun hno hb => ?_⟩
    all_goals
      have hnone := hrun.trans (List.find?_eq_none.2 fun c hc => by simpa using hno c hc)
      have htake := State.takeCheck_new hm hn' hnone
      rw [treePopped_step, hb] at htake
    · exact exec_treeCheck hf (htake.trans (if_pos rfl))
    · exact exec_treeCheck hf ((htake.trans (if_neg Bool.false_ne_true)).trans (State.tryCheck_unstarted rfl))
  case combined =>
    obtain ⟨hmin, hle⟩ := c.least_spec v
    obtain ⟨hmax, hge⟩ := c.greatest_spec v
    refine ⟨c.least v, c.greatest v, fun p hp => ?_, hmin, hmax, State.tryCheck_combines hv hs hops⟩
    have h1 : p.1 ∈ v :: c.ops.map (·.2.1) := by simpa using List.mem_map_of_mem (f := Prod.fst) hp
    have h2 : p.2 ∈ v :: c.ops.map (·.2.2) := by simpa using List.mem_map_of_mem (f := Prod.snd) hp
    exact ⟨hle _ h1, hge _ h2⟩

end Sys2Proof.Machine

/-! PROOFS. Chapter 8, UP and DOWN messages: their receipt (R253), their judgement under Table 8.4 (R181), and the merges of a
node (R176 to R178). -/
namespace Sys2Proof.Machine

/-! ## Receipt -/

/-- UP and DOWN messages enter the node buffer alike. -/
theorem exec_treeUp_front {s : State} {via : TreeVia} {m : TreeMsg} (h : treeFront s via m) :
    exec (.treeUp via m) s = .next ((treePopped s via).takeHeld via m).settle :=
  State.treeTaken_front h _

theorem exec_treeDown_front {s : State} {via : TreeVia} {m : TreeMsg} (h : treeFront s via m) :
    exec (.treeDown via m) s = .next ((treePopped s via).takeHeld via m).settle :=
  State.treeTaken_front h _

/-! ## Table 8.4 -/

/-- The rows of Table 8.4 for a message whose row-block is known here: held until its tile and the admission, then stale, a
duplicate, or used. -/
def State.judgeFor (s : State) (h : HeldMsg) (c : Chain) : State :=
  if (c.d.mergesTiles = true ∧ h.remote = true ∧ h.down = false ∧ h.tile = false) ∨ c.admitted = false then s
  else if c.step ≠ h.step then (s.treeStale h.msg c.step).releaseHeld h
  else if h.key ∈ s.tree.used then (s.count 18 1).releaseHeld h
  else
    ({ s with
      tree := { s.tree with held := swapHeld h { h with stage := 1 } s.tree.held, used := s.tree.used ++ [h.key] }
      ctx := { s.ctx with waits := s.ctx.waits ++ [.tree h.key] } } : State).pumpCtx

section
variable {s : State} {h : HeldMsg} (h0 : h.stage = 0)
include h0

theorem State.judgeHeld_no_chain (hb : s.blockChain h.ctx h.gen = none) :
    s.judgeHeld h = if stepBelow h.step s.step then (s.treeStale h.msg s.step).releaseHeld h else s := by
  simp only [State.judgeHeld, h0, hb, ne_eq, not_true_eq_false, if_false]

theorem State.judgeHeld_chain {c : Chain} (hb : s.blockChain h.ctx h.gen = some c) : s.judgeHeld h = s.judgeFor h c := by
  simp only [State.judgeHeld, h0, hb, ne_eq, not_true_eq_false, if_false]
  rw [State.judgeFor, ite_or]
  simp [and_assoc]

end

/-! ## The node -/

/-- The operands of a chain's scope that its node has still to merge. -/
def State.operandsLeft (s : State) (c : Chain) : List (Bool × Nat × Nat) := (s.operands c.d.scope).drop c.nodePos

theorem exec_treeNodeMerge {s t : State} {slot : Fin 64} {c : Chain} (hr : s.fclkRuns = true)
    (hin : s.chainIn slot.val = some c) (h : s.nodeGo 40 c.uid = t) : exec (.treeNodeMerge slot) s = .next t.settle :=
  State.clocked_of_eq (act := fun s => s.treeNode slot.val) hr (by rw [State.treeNode, hin]; exact h)

section
variable {s : State} {c : Chain} {n : Nat} (hc : s.chainOf c.uid = some c) (hrun : c.running = true) (hleaf : c.leaf = true)
  (hfin : c.final = false) (htree : c.d.treeScoped = true)
include hc hrun hleaf hfin htree

/-- Every operand is merged. -/
theorem State.nodeGo_done (hl : s.operandsLeft c = []) : s.nodeGo (n + 1) c.uid = s.nodeDone c := by
  rw [State.operandsLeft] at hl
  simp only [State.nodeGo, hc, hrun, hleaf, hfin, htree, hl]
  rfl

/-- The next operand is missing. -/
theorem State.nodeGo_waits (hl : s.operandsLeft c ≠ []) (hn : s.nextOperands c (s.operandsLeft c) = none) :
    s.nodeGo (n + 1) c.uid = s := by
  obtain ⟨k, ks, hk⟩ := List.exists_cons_of_ne_nil hl
  rw [hk] at hn
  rw [State.operandsLeft] at hk
  simp only [State.nodeGo, hc, hrun, hleaf, hfin, htree, hk, hn]
  rfl

/-- The next operands are here, and their tiles are read where the chain merges tiles. -/
theorem State.nodeGo_merges {ms : List HeldMsg} (hl : s.operandsLeft c ≠ [])
    (hn : s.nextOperands c (s.operandsLeft c) = some ms) (ht : c.d.mergesTiles = false ∨ c.foldData.isSome = true) :
    s.nodeGo (n + 1) c.uid = (s.nodeMerge c ms).nodeGo n c.uid := by
  obtain ⟨k, ks, hk⟩ := List.exists_cons_of_ne_nil hl
  have hread : (!c.d.mergesTiles || c.foldData.isSome) = true := by simpa using ht
  rw [hk] at hn
  rw [State.operandsLeft] at hk
  simp only [State.nodeGo, hc, hrun, hleaf, hfin, htree, hk, hn, hread]
  rfl

end

/-- The node's result goes up once nothing is written any more and no earlier chain has still to send. -/
theorem State.nodeDone_sends {s : State} {c : Chain} (hroot : s.scopeRoot c.d.scope = false) (hup : c.sentUp = false)
    (hw : c.writes = 0) (hb : s.sendsBefore c = false) :
    s.nodeDone c = (s.modChain c.uid fun c => { c with sentUp := true }).sendUp c.d.scope 0
      fun tree level child dst => s.blockMsg c false c.nodeRecs tree level child dst := by
  simp [State.nodeDone, hroot, hup, hw, hb]

/-! ## The statement -/

/-- Settles O51: receipt is `takeHeld`, Table 8.4 is `judgeHeld`, and a node goes on by `nodeGo`. That a message for an ARMED
chain is held until the admission, also one below the current step, is the model's choice (log entry 43). -/
theorem treeMessages : Obligations.TreeMessages := by
  unfold Obligations.TreeMessages
  intro s
  refine ⟨fun via m hf => ?receipt, fun h h0 => ⟨fun hb => ?noChain, fun c hb => ?chain⟩,
    fun slot c hr hin hc hrun hleaf hfin htree => ⟨fun hl hn => ?waits, fun ms hl hn ht => ?merges,
      fun hl hroot hup hw hb => ?sends⟩⟩
  case receipt =>
    rw [exec_treeUp_front hf, exec_treeDown_front hf, State.takeHeld, treePopped_tree]
    exact ⟨rfl, rfl⟩
  case noChain =>
    have hj := State.judgeHeld_no_chain h0 hb
    exact ⟨fun hbelow => hj.trans (if_pos hbelow), fun hnot => hj.trans (if_neg (by simp [hnot]))⟩
  case chain =>
    have hj := State.judgeHeld_chain h0 hb
    have hgoes {p : Prop} (hl : ¬ p) (ha : c.admitted = true) : ¬ (p ∨ c.admitted = false) := by simp [hl, ha]
    refine ⟨fun hwait => ?_, fun hl ha hs => ?_, fun hl ha hs hu => ?_, fun hl ha hs hu => ?_⟩
    · exact hj.trans (if_pos hwait)
    · exact hj.trans ((if_neg (hgoes hl ha)).trans (if_pos hs))
    · exact hj.trans ((if_neg (hgoes hl ha)).trans ((if_neg (not_not.2 hs)).trans (if_pos hu)))
    · exact hj.trans ((if_neg (hgoes hl ha)).trans ((if_neg (not_not.2 hs)).trans (if_neg hu)))
  case waits => exact exec_treeNodeMerge hr hin (State.nodeGo_waits hc hrun hleaf hfin htree hl hn)
  case merges => exact exec_treeNodeMerge hr hin (State.nodeGo_merges hc hrun hleaf hfin htree hl hn ht)
  case sends =>
    exact exec_treeNodeMerge hr hin
      ((State.nodeGo_done hc hrun hleaf hfin htree hl).trans (State.nodeDone_sends hroot hup hw hb))

end Sys2Proof.Machine

/-! PROOFS. Chapter 9, the registry: the recipe and its reference (R200), entries on chip (R196), the registry commands (R198,
Table 9.5) and the T of a decode (R194). -/
namespace Sys2Proof.Machine

/-! ## The recipe (R200) -/

/-- 2^j bounds q / r above, as `gePow2` judges it of the inverse. -/
theorem gePow2_neg_iff_clog_le {q r : Nat} (hq : 0 < q) (hr : 0 < r) (j : Int) :
    gePow2 r q (-j) = true ↔ Int.clog 2 ((q : ℚ) / r) ≤ j := by
  have hinv : ((q : ℚ) / r)⁻¹ = r / q := inv_div _ _
  have hx : (0 : ℚ) < r / q := by positivity
  have hlog := Int.zpow_le_iff_le_log (b := 2) (x := -j) (by norm_num) hx
  push_cast at hlog
  rw [gePow2_iff hq, hlog, ← hinv, Int.log_inv]
  omega

/-- The exponent that `RegEntry.recipe` forms from the floor of the logarithm is its ceiling. -/
theorem floorLog2_up_eq_clog {q r : Nat} (hq : 0 < q) (hr : 0 < r) :
    (if gePow2 r q (-floorLog2 q r) = true then floorLog2 q r else floorLog2 q r + 1) = Int.clog 2 ((q : ℚ) / r) := by
  have hx : (0 : ℚ) < q / r := by positivity
  have hlo : Int.log 2 ((q : ℚ) / r) ≤ Int.clog 2 ((q : ℚ) / r) :=
    (Int.log_mono_right hx (Int.self_le_zpow_clog (by norm_num) _)).trans_eq (Int.log_zpow (by norm_num) _)
  have hup : Int.clog 2 ((q : ℚ) / r) ≤ Int.log 2 ((q : ℚ) / r) + 1 :=
    (Int.le_zpow_iff_clog_le (by norm_num) hx).1 (Int.lt_zpow_succ_log_self (by norm_num) _).le
  rw [floorLog2_eq_log hq hr]
  simp only [gePow2_neg_iff_clog_le hq hr]
  split <;> omega

/-- 2^j × fmax reaches n / d with its margin, as the statement has it of naturals. -/
theorem scaleFits_iff (n d top mg : Nat) (j : Int) :
    n * 2 ^ mg * 2 ^ (-j).toNat ≤ top * 2 ^ j.toNat * d ↔ gePow2 (d * top) (n * 2 ^ mg) (-j) = true := by
  unfold gePow2
  split
  case isTrue h =>
    obtain ⟨m, hm⟩ := Int.eq_ofNat_of_zero_le h
    have h0 : j.toNat = 0 := by omega
    simp [h0, mul_comm]
  case isFalse h =>
    have h0 : (-j).toNat = 0 := by omega
    simp [h0, mul_comm, mul_assoc]

theorem f32_den_pos {w : Word} {b : Bool} {n d : Nat} (h : f32 w = .fin b n d) : 0 < d := by
  cases f32_shape w with
  | nan hw => simp [hw] at h
  | inf s hw => simp [hw] at h
  | fin s m hw =>
    rw [hw] at h
    obtain ⟨-, -, rfl⟩ := Val.fin.inj h
    exact Fmt.magVal_den_pos _ _

/-- A finite reference has its T from the ceiling of the logarithm of ref × 2^mg / fmax, held to the exponents of FP32. -/
theorem RegEntry.recipe_of_fin {e : RegEntry} {ref : Word} {n d : Nat} (h : f32 ref = .fin false n d) (hn : n ≠ 0) :
    e.recipe ref = pow2Word (max (-126) (min 127 (Int.clog 2
      (((n * 2 ^ (marginOf e.kind.toNat + b2n e.cold) : Nat) : ℚ) / (d * (if e.smax then 57344 else 448) : Nat))))) := by
  have hd := f32_den_pos h
  have ht : 0 < (if e.smax then 57344 else 448) := by split <;> decide
  rw [← floorLog2_up_eq_clog (by positivity) (Nat.mul_pos hd ht)]
  simp only [RegEntry.recipe, h, if_neg hn]

/-- The least exponent that fits, and the recipe's T of it. -/
theorem RegEntry.recipe_least {e : RegEntry} {ref : Word} {n d : Nat} (h : f32 ref = .fin false n d) (hn : n ≠ 0) :
    ∃ k : Int,
      let fits := fun (j : Int) => n * 2 ^ (marginOf e.kind.toNat + b2n e.cold) * 2 ^ (-j).toNat ≤
        (if e.smax then 57344 else 448) * 2 ^ j.toNat * d
      fits k ∧ (∀ j, j < k → ¬ fits j) ∧ e.recipe ref = pow2Word (max (-126) (min 127 k)) := by
  have hq : 0 < n * 2 ^ (marginOf e.kind.toNat + b2n e.cold) := by positivity
  have hr : 0 < d * (if e.smax then 57344 else 448) := Nat.mul_pos (f32_den_pos h) (by split <;> decide)
  refine ⟨_, ?_, fun j hj => ?_, e.recipe_of_fin h hn⟩
  · exact (scaleFits_iff ..).2 ((gePow2_neg_iff_clog_le hq hr _).2 le_rfl)
  · exact fun hf => ((gePow2_neg_iff_clog_le hq hr _).1 ((scaleFits_iff ..).1 hf)).not_gt hj

/-- A reference of +0 has no logarithm: T is 1.0. -/
theorem RegEntry.recipe_zero (e : RegEntry) : e.recipe 0 = one32 := by
  have h0 : f32 0 = .fin false 0 (2 ^ 149) := by decide
  simp only [RegEntry.recipe, h0, if_pos]

/-! ## The reference (R200) -/

/-- The code of a finite value without a sign is its magnitude code. -/
theorem f32_of_lt_inf {w : Word} (h : w.toNat < 0x7F800000) :
    f32 w = .fin false (Fmt.fp32.magVal w.toNat).1 (Fmt.fp32.magVal w.toNat).2 := by
  have hm : w.toNat % Fmt.fp32.signBit = w.toNat := Nat.mod_eq_of_lt (h.trans (by decide))
  have hs : w.toNat / Fmt.fp32.signBit = 0 := Nat.div_eq_of_lt (h.trans (by decide))
  have hf : w.toNat % Fmt.fp32.signBit ≤ Fmt.fp32.maxCode := hm.trans_le (Nat.le_of_lt_succ h)
  rw [f32, Fmt.decode_of_finite hf, hm, hs]
  rfl

theorem f32_lt_of_toNat_lt {a b : Word} (hb : b.toNat < 0x7F800000) (h : a.toNat < b.toNat) :
    (f32 a).lt (f32 b) = true := by
  have hv := (Fmt.fp32.lt_val_iff (Fmt.magVal_den_pos _ a.toNat) b.toNat).1 (Fmt.val_strictMono .fp32 h)
  rw [f32_of_lt_inf hb, f32_of_lt_inf (h.trans hb)]
  exact decide_eq_true (Int.ofNat_lt.2 hv)

/-- Codes of finite values without a sign are ordered as their values are. -/
theorem fmax_of_toNat_le {a b : Word} (hb : b.toNat < 0x7F800000) (h : a.toNat ≤ b.toNat) : fmax a b = b := by
  have hnan {w : Word} (hw : w.toNat < 0x7F800000) : (f32 w).isNaN = false := by rw [f32_of_lt_inf hw]; rfl
  rcases h.eq_or_lt with he | hl
  · rw [BitVec.eq_of_toNat_eq he, fmax_self (hnan hb)]
  · rw [fmax_comm, fmax_of_lt (hnan hb) (hnan (h.trans_lt hb)) (f32_lt_of_toNat_lt hb hl)]

/-- A maximum over a list is one of its words, and the largest. -/
theorem foldl_fmax_largest {l : List Word} (hl : ∀ w ∈ l, w.toNat < 0x7F800000) {a : Word} (ha : a.toNat < 0x7F800000) :
    l.foldl fmax a ∈ a :: l ∧ ∀ w ∈ a :: l, w.toNat ≤ (l.foldl fmax a).toNat := by
  induction l generalizing a with
  | nil => simp
  | cons b l ih =>
    obtain ⟨hb, hl⟩ := List.forall_mem_cons.1 hl
    rw [List.foldl_cons]
    rcases Nat.le_total a.toNat b.toNat with hab | hba
    · obtain ⟨hmem, hle⟩ := ih hl hb
      rw [fmax_of_toNat_le hb hab]
      exact ⟨.tail _ hmem, List.forall_mem_cons.2 ⟨hab.trans (hle b (.head _)), hle⟩⟩
    · obtain ⟨hmem, hle⟩ := ih hl ha
      obtain ⟨hla, hll⟩ := List.forall_mem_cons.1 hle
      rw [fmax_comm, fmax_of_toNat_le ha hba]
      refine ⟨?_, List.forall_mem_cons.2 ⟨hla, List.forall_mem_cons.2 ⟨hba.trans hla, hll⟩⟩⟩
      exact List.mem_cons.2 ((List.mem_cons.1 hmem).imp_right (List.mem_cons_of_mem b))

/-- The reference is the largest of the history entries that count, or +0 where none is larger. -/
theorem RegEntry.ref_largest (e : RegEntry) (h : ∀ w ∈ e.hist.take (min 16 e.hcount.toNat), w.toNat < 0x7F800000) :
    (∀ w ∈ e.hist.take (min 16 e.hcount.toNat), w.toNat ≤ e.ref.toNat) ∧
    (e.ref ∈ e.hist.take (min 16 e.hcount.toNat) ∨ (e.ref = 0 ∧ ∀ w ∈ e.hist.take (min 16 e.hcount.toNat), w = 0)) := by
  have href : (e.hist.take (min 16 e.hcount.toNat)).foldl fmax 0 = e.ref := rfl
  have hlargest := foldl_fmax_largest h (a := 0) (by decide)
  rw [href] at hlargest
  obtain ⟨hmem, -, hle⟩ := hlargest.imp_right List.forall_mem_cons.1
  refine ⟨hle, (List.mem_cons.1 hmem).symm.imp_right fun h0 => ⟨h0, fun w hw => ?_⟩⟩
  have hw0 := hle w hw
  rw [h0] at hw0
  exact BitVec.eq_of_toNat_eq (Nat.le_zero.1 hw0)

/-! ## Entries on chip (R196) -/

/-- The entry of an id, where it is on chip. -/
def State.entryAt (s : State) (tid : Nat) : Option RegEntry := (s.regLine tid).map (·.e)

theorem State.regLine_tid {s : State} {tid : Nat} {l : RegLine} (h : s.regLine tid = some l) : l.tid = tid :=
  beq_iff_eq.1 (List.find?_some (p := fun l : RegLine => l.tid == tid) h)

theorem State.regLine_of_lines_eq {s t : State} (h : t.num.lines = s.num.lines) : t.regLine = s.regLine := by
  funext tid
  rw [State.regLine, h, State.regLine]

/-- Lines that are changed in place are found as before. -/
theorem State.regLine_of_lines_map {s t : State} {f : RegLine → RegLine} (hf : ∀ l, (f l).tid = l.tid)
    (h : t.num.lines = s.num.lines.map f) (tid : Nat) : t.regLine tid = (s.regLine tid).map f := by
  rw [State.regLine, h, List.find?_map, State.regLine]
  congr 2
  funext l
  simp [hf]

theorem State.regLine_of_lines_filter {s t : State} {tid : Nat}
    (h : t.num.lines = s.num.lines.filter (fun l => l.tid != tid)) (k : Nat) :
    t.regLine k = if k = tid then none else s.regLine k := by
  rw [State.regLine, h, List.find?_filter, State.regLine]
  split
  case isTrue hk =>
    subst hk
    simp
  case isFalse hk =>
    congr 1
    funext l
    by_cases hl : l.tid = k <;> simp [hl, hk]

theorem State.regLine_setEntry (s : State) (tid : Nat) (e : RegEntry) (k : Nat) : (s.setEntry tid e).regLine k =
    (s.regLine k).map fun l => if l.tid == tid then { l with e := e, dirty := true } else l :=
  State.regLine_of_lines_map (fun l => by split <;> rfl) rfl k

theorem State.regLine_setEntry_self {s : State} {tid : Nat} {l : RegLine} (h : s.regLine tid = some l) (e : RegEntry) :
    (s.setEntry tid e).regLine tid = some { l with e := e, dirty := true } := by
  rw [State.regLine_setEntry, h, Option.map_some, if_pos (beq_iff_eq.2 (State.regLine_tid h))]

theorem State.entryAt_setEntry_other (s : State) {tid k : Nat} (hk : k ≠ tid) (e : RegEntry) :
    (s.setEntry tid e).entryAt k = s.entryAt k := by
  rw [State.entryAt, State.regLine_setEntry, State.entryAt]
  cases h : s.regLine k with
  | none => rfl
  | some l => simp [State.regLine_tid h, hk]

/-- The use of an entry on chip, which its line's age notes (R196). -/
def State.noteUse (s : State) (tid : Nat) : State :=
  { s with num := { s.num with
      clock := s.num.clock + 1
      lines := s.num.lines.map (fun q => if q.tid == tid then { q with used := s.num.clock + 1 } else q) } }

theorem State.needEntry_onChip {s : State} {tid : Nat} {l : RegLine} (h : s.regLine tid = some l) :
    s.needEntry tid = (s.noteUse tid, some l.e) := by
  rw [State.needEntry, h]
  rfl

theorem State.regLine_noteUse (s : State) (tid k : Nat) : (s.noteUse tid).regLine k =
    (s.regLine k).map fun q => if q.tid == tid then { q with used := s.num.clock + 1 } else q :=
  State.regLine_of_lines_map (fun l => by split <;> rfl) rfl k

theorem State.exists_regLine_noteUse {s : State} {tid : Nat} {l : RegLine} (h : s.regLine tid = some l) :
    ∃ q, (s.noteUse tid).regLine tid = some q := by
  rw [State.regLine_noteUse, h]
  exact ⟨_, rfl⟩

theorem State.entryAt_noteUse (s : State) (tid k : Nat) : (s.noteUse tid).entryAt k = s.entryAt k := by
  rw [State.entryAt, State.regLine_noteUse, Option.map_map, State.entryAt]
  congr 1
  funext q
  dsimp only [Function.comp]
  split <;> rfl

/-! ## What a command does to an entry (Table 9.5) -/

/-- What REGISTER, SET and REWIND make of an entry. -/
def TenCmd.entryAfter (c : TenCmd) (e : RegEntry) : RegEntry :=
  if c.op = 1 then e.registerAs (bitOf c.v 27) (c.v.extractLsb' 24 3) (c.v.extractLsb' 21 3)
  else if c.op = 2 then { e with smax := bitOf c.v 27, level := c.v.extractLsb' 24 3, kind := c.v.extractLsb' 21 3 }
  else { e with cur := List.replicate 5 0 }

section
variable {c : TenCmd} (e : RegEntry)

theorem TenCmd.entryAfter_register (h : c.op = 1) :
    c.entryAfter e = e.registerAs (bitOf c.v 27) (c.v.extractLsb' 24 3) (c.v.extractLsb' 21 3) := if_pos h

theorem TenCmd.entryAfter_set (h : c.op = 2) : c.entryAfter e =
    { e with smax := bitOf c.v 27, level := c.v.extractLsb' 24 3, kind := c.v.extractLsb' 21 3 } := by
  rw [TenCmd.entryAfter, if_neg (by omega), if_pos h]

theorem TenCmd.entryAfter_other (h1 : c.op ≠ 1) (h2 : c.op ≠ 2) : c.entryAfter e = { e with cur := List.replicate 5 0 } := by
  rw [TenCmd.entryAfter, if_neg h1, if_neg h2]

end

theorem RegEntry.registered_eq (e : RegEntry) : e.registered = decide (1 ≤ e.kind.toNat ∧ e.kind.toNat ≤ 5) :=
  (Bool.decide_and _ _).symm

section
variable {s : State} {c : TenCmd} {tid : Nat} {l : RegLine} (hn : s.tidNamed tid = false) (hl : s.regLine tid = some l)
include hn hl

theorem State.tenEntry_flush (hop : c.op = 4) : ∃ t, s.tenEntry c tid = .done t ∧
    t.num.lines = s.num.lines.filter (fun q => q.tid != tid) ∧
    t.num.evicting = if l.dirty then s.num.evicting ++ [tid] else s.num.evicting := by
  simp only [State.tenEntry, hn, hop, hl]
  cases l.dirty
  · exact ⟨_, rfl, rfl, rfl⟩
  · exact ⟨_, rfl, rfl, rfl⟩

/-- The other commands use the entry, record it for a replay, and put what Table 9.5 makes of it. -/
theorem State.tenEntry_eq_setEntry (hop : c.op ≠ 4) (hp : s.earlierPending tid c.step = false) :
    ∃ t : State, s.tenEntry c tid = .done (t.setEntry tid (c.entryAfter l.e)) ∧ t.num.lines = (s.noteUse tid).num.lines := by
  have hlines := congrArg NumUnit.lines (State.num_of_rowUnits ((s.noteUse tid).rowUnits_recordEntry tid c.step l.e))
  simp only [State.tenEntry, hn, if_neg hop, hp, State.needEntry_onChip hl, Bool.false_eq_true, if_false]
  split
  case h_1 h1 =>
    rw [TenCmd.entryAfter_register _ h1]
    exact ⟨_, rfl, hlines⟩
  case h_2 h2 =>
    rw [TenCmd.entryAfter_set _ h2]
    exact ⟨_, rfl, hlines⟩
  case h_3 h1 h2 =>
    rw [TenCmd.entryAfter_other _ h1 h2]
    exact ⟨_, rfl, hlines⟩

theorem State.tenEntry_puts (hop : c.op ≠ 4) (hp : s.earlierPending tid c.step = false) :
    ∃ t, s.tenEntry c tid = .done t ∧ (∀ k, k ≠ tid → t.entryAt k = s.entryAt k) ∧
      (t.regLine tid).map (fun q => (q.e, q.dirty)) = some (c.entryAfter l.e, true) := by
  obtain ⟨t, ht, hlines⟩ := State.tenEntry_eq_setEntry hn hl hop hp
  have hfind := State.regLine_of_lines_eq hlines
  obtain ⟨q, hq⟩ := State.exists_regLine_noteUse hl
  refine ⟨_, ht, fun k hk => ?_, ?_⟩
  · rw [State.entryAt_setEntry_other _ hk, State.entryAt, hfind]
    exact s.entryAt_noteUse tid k
  · rw [State.regLine_setEntry_self (hfind ▸ hq)]
    rfl

end

/-! ## A write of DL_TEN_CMD (R198) -/

/-- The command that a write `w` of DL_TEN_CMD starts, `v` with the operation put into it. -/
def State.tenStart (s : State) (rq : Requester) (v : Word) (op : Nat) (w : Word) : TenCmd :=
  { rq := rq, v := w, op := op, step := s.step, next := (v.extractLsb' 0 16).toNat, left := s.num.cmdCount.toNat }

theorem bitsOf_tenOp (v : Word) {op : Nat} (h4 : op ≤ 4) : bitsOf (setBits v 31 28 op) 31 28 = op := by
  rw [bitsOf_setBits v (by decide)]
  omega

theorem bitsOf_tenFirst (v : Word) (op : Nat) : bitsOf (setBits v 31 28 op) 15 0 = (v.extractLsb' 0 16).toNat :=
  (bitsOf_setBits_below v (by decide) op).trans (bitsOf_eq_toNat_extractLsb' v rfl)

section
variable {s : State} {rq : Requester} {w : Word}

theorem State.tenCommand_busy (hb : s.num.cmd.isSome = true) :
    s.tenCommand rq w = tenReported s w s.num.cmdCount.toNat 1 := if_pos hb

variable (hb : s.num.cmd = none)
include hb

theorem State.tenCommand_refused
    (h : bitsOf w 31 28 = 0 ∨ 5 ≤ bitsOf w 31 28 ∨ 65536 < bitsOf w 15 0 + s.num.cmdCount.toNat) :
    s.tenCommand rq w = tenReported s w s.num.cmdCount.toNat 2 := by
  have hr : (bitsOf w 31 28 = 0 || decide (bitsOf w 31 28 ≥ 5) ||
      decide (bitsOf w 15 0 + s.num.cmdCount.toNat > 65536)) = true := by
    simpa [or_assoc] using h
  simp only [State.tenCommand, hb, hr]
  rfl

theorem State.tenCommand_starts {v : Word} (hr : (v.extractLsb' 0 16).toNat + s.num.cmdCount.toNat ≤ 65536) {op : Nat}
    (h1 : 1 ≤ op) (h4 : op ≤ 4) : s.tenCommand rq (setBits v 31 28 op) =
      (s.setTenCmd (s.tenStart rq v op (setBits v 31 28 op))).tenGo := by
  have hno : (decide (op = 0) || decide (op ≥ 5) ||
      decide ((v.extractLsb' 0 16).toNat + s.num.cmdCount.toNat > 65536)) = false := by
    simp only [Bool.or_eq_false_iff, decide_eq_false_iff_not]
    omega
  simp only [State.tenCommand, bitsOf_tenOp v h4, bitsOf_tenFirst, hb, hno]
  rfl

end

section
variable {s : State} {rq : Requester} (h : s.performs rq .ten) (v : Word)
include h

theorem State.writesOp_ten {op : Nat} (h1 : 1 ≤ op) (h4 : op ≤ 4) : s.writesOp rq .ten 0x044 op v =
    .next (((s.tenCommand rq (setBits v 31 28 op)).settle).answerWrite (accessOf rq .ten 0x044)) := by
  have hc : s.command rq .ten 0x044 (setBits v 31 28 op) = s.tenCommand rq (setBits v 31 28 op) := by
    have hres : (decide (op = 0) || decide (op ≥ 5)) = false := by simp; omega
    show (s.noteCommand rq .ten 0x044 (reservedCause (decide (bitsOf (setBits v 31 28 op) 31 28 = 0) ||
      decide (bitsOf (setBits v 31 28 op) 31 28 ≥ 5)))).tenCommand rq _ = _
    rw [bitsOf_tenOp v h4, hres]
    rfl
  rw [State.writesOp, State.writes_command h rfl (by decide) rfl, hc]

/-- REGISTER, SET, REWIND and FLUSH, where one argument covers the four. -/
theorem exec_tenCommands {t : Nat → Word → State}
    (ht : ∀ op, 1 ≤ op → op ≤ 4 → s.tenCommand rq (setBits v 31 28 op) = t op (setBits v 31 28 op)) :
    let answers := fun (c : Instr) (t : State) => exec c s = .next ((t.settle).answerWrite (accessOf rq .ten 0x044))
    answers (.register rq v) (t 1 (setBits v 31 28 1)) ∧ answers (.set rq v) (t 2 (setBits v 31 28 2)) ∧
    answers (.rewind rq v) (t 3 (setBits v 31 28 3)) ∧ answers (.flush rq v) (t 4 (setBits v 31 28 4)) := by
  have hop : ∀ op, 1 ≤ op → op ≤ 4 → s.writesOp rq .ten 0x044 op v = _ :=
    fun op h1 h4 => (State.writesOp_ten h v h1 h4).trans (by rw [ht op h1 h4])
  exact ⟨hop 1 (by decide) (by decide), hop 2 (by decide) (by decide), hop 3 (by decide) (by decide),
    hop 4 (by decide) (by decide)⟩

/-- A write of DL_TEN_CMD with a reserved OP is recorded as COMMAND, and then judged. -/
theorem exec_tenReserved (hv : bitsOf v 31 28 = 0 ∨ 5 ≤ bitsOf v 31 28) :
    exec (.registerWrite rq (regAt .ten 0x044) v) s =
      .next ((((s.regFault .ten .command rq 0x044).tenCommand rq v).settle).answerWrite (accessOf rq .ten 0x044)) := by
  have hc : s.command rq .ten 0x044 v = (s.regFault .ten .command rq 0x044).tenCommand rq v := by
    have hres : (decide (bitsOf v 31 28 = 0) || decide (bitsOf v 31 28 ≥ 5)) = true := by simpa using hv
    show (s.noteCommand rq .ten 0x044 (reservedCause (decide (bitsOf v 31 28 = 0) ||
      decide (bitsOf v 31 28 ≥ 5)))).tenCommand rq _ = _
    rw [hres]
    rfl
  rw [exec_registerWrite, ← hc]
  exact State.writes_command h rfl (by decide) rfl

end

/-! ## A command of one entry -/

@[simp] theorem State.setTenCmd_cmd (s : State) (c : TenCmd) : (s.setTenCmd c).num.cmd = some c := rfl

/-- A command behind its last entry. -/
def TenCmd.ended (c : TenCmd) (code : Nat) (finished : Bool) : TenCmd :=
  { c with next := c.next + 1, left := 0, code := code, finished := finished }

/-- Where the last entry is processed and none waits, a command finishes, a FLUSH once its write-backs are made. -/
theorem State.tenGo_last {s u : State} {c d : TenCmd} (hf : c.finished = false) (h1 : c.left = 1)
    (ha : (s.setTenCmd c).tenAdvance 2 = u.setTenCmd d) (hd : d.finished = false) (h0 : d.left = 0) (hw : d.waiting = []) :
    (s.setTenCmd c).tenGo = u.setTenCmd { d with finished := decide (d.op ≠ 4) || u.num.evicting.isEmpty } := by
  have hwait : (u.setTenCmd d).tenWaiting = u.setTenCmd d := by
    simp [State.tenWaiting, hw]
  have hcond : (d.left = 0 && d.waiting.isEmpty && (d.op != 4 || u.num.evicting.isEmpty)) =
      (decide (d.op ≠ 4) || u.num.evicting.isEmpty) := by
    by_cases h4 : d.op = 4 <;> simp [h0, hw, h4]
  simp only [State.tenGo, State.setTenCmd_cmd, hf, h1, ha, hwait]
  show (if (d.left = 0 && d.waiting.isEmpty && (d.op != 4 || u.num.evicting.isEmpty)) = true then _ else _) = _
  rw [hcond]
  split
  case isTrue hfin =>
    rw [hfin]
    rfl
  case isFalse hfin =>
    rw [Bool.eq_false_of_not_eq_true hfin, ← hd]

section
variable {s : State} {c : TenCmd} (hf : c.finished = false) (h1 : c.left = 1) (hw : c.waiting = [])
include hf h1 hw

theorem State.tenGo_done {t : State} (he : (s.setTenCmd c).tenEntry c c.next = .done t) : (s.setTenCmd c).tenGo =
    t.setTenCmd (c.ended c.code (decide (c.op ≠ 4) || t.num.evicting.isEmpty)) := by
  have ha : (s.setTenCmd c).tenAdvance 2 = t.setTenCmd (c.ended c.code false) := by
    simp [State.tenAdvance, hf, h1, he, TenCmd.ended]
  exact State.tenGo_last hf h1 ha rfl rfl hw

theorem State.tenGo_inUse (h0 : c.code = 0) (hn : s.tidNamed c.next = true) : (s.setTenCmd c).tenGo =
    ((s.setTenCmd c).regFault .ten .state c.rq 0x044).setTenCmd
      (c.ended 3 (decide (c.op ≠ 4) || s.num.evicting.isEmpty)) := by
  have he : (s.setTenCmd c).tenEntry c c.next = .inUse := if_pos hn
  have ha : (s.setTenCmd c).tenAdvance 2 =
      ((s.setTenCmd c).regFault .ten .state c.rq 0x044).setTenCmd (c.ended 3 false) := by
    simp [State.tenAdvance, hf, h1, he, h0, TenCmd.ended, State.tenInUse]
  exact State.tenGo_last hf h1 ha rfl rfl hw

end

/-- TEN_CMD_DONE of a command that has finished (R198). -/
theorem State.tenCmdDone_finished {s : State} {c : TenCmd} (hc : s.num.cmd = some c) (hf : c.finished = true)
    (h0 : c.left = 0) : s.tenCmdDone = tenReported { s with num := { s.num with cmd := none } } c.v
      (c.next - bitsOf c.v 15 0) c.code := by
  simp only [State.tenCmdDone, hc, hf, h0]
  rfl

/-! ## The T of a decode (R194, R200) -/

/-- Fixes T for a step: in its window, or for its chains where none is pending. -/
def State.fixT (s : State) (tid : Nat) (step t : Word) : State :=
  if (s.window tid step).isSome then s.modWindow tid step (fun w => { w with t := some t }) else s.keepT tid step t

theorem State.find?_decodeT_of_fixedT_none {s : State} {tid : Nat} {step : Word} (h : s.fixedT tid step = none) :
    s.num.decodeT.find? (fun p => p.1 == tid && p.2.1 == step) = none := by
  unfold State.fixedT at h
  split at h
  case h_1 => cases h
  case h_2 => exact Option.map_eq_none_iff.1 h

theorem State.window_modWindow_self (s : State) (tid : Nat) (step t : Word) :
    (s.modWindow tid step (fun w => { w with t := some t })).window tid step =
      (s.window tid step).map (fun w => { w with t := some t }) := by
  have hkey : (fun w : TenWindow => w.tid == tid && w.step == step) ∘
      (fun w => if w.tid == tid && w.step == step then { w with t := some t } else w) =
      fun w => w.tid == tid && w.step == step := by
    funext w
    dsimp only [Function.comp]
    split <;> rfl
  rw [State.window, State.modWindow, List.find?_map, hkey, State.window]
  refine Option.map_congr fun w hw => if_pos ?_
  exact List.find?_some (p := fun w : TenWindow => w.tid == tid && w.step == step) hw

theorem State.fixedT_congr {s t : State} (hw : t.num.windows = s.num.windows) (hd : t.num.decodeT = s.num.decodeT) :
    t.fixedT = s.fixedT := by
  funext tid step
  rw [State.fixedT, State.window, hw, hd, State.fixedT, State.window]

theorem State.fixedT_setEntry (s : State) (tid : Nat) (e : RegEntry) : (s.setEntry tid e).fixedT = s.fixedT :=
  State.fixedT_congr rfl rfl

theorem State.fixedT_fixT {s : State} {tid : Nat} {step : Word} (h : s.fixedT tid step = none) (t : Word) :
    (s.fixT tid step t).fixedT tid step = some t := by
  have hd := State.find?_decodeT_of_fixedT_none h
  unfold State.fixT
  split
  case isTrue hw =>
    obtain ⟨w, hw⟩ := Option.isSome_iff_exists.1 hw
    have hT := s.window_modWindow_self tid step t
    rw [hw] at hT
    simp [State.fixedT, hT]
  case isFalse hw =>
    have hT : (s.keepT tid step t).window tid step = none := Option.not_isSome_iff_eq_none.1 hw
    have hkept : (s.keepT tid step t).num.decodeT = s.num.decodeT ++ [(tid, step, t)] := rfl
    simp [State.fixedT, hT, hkept, List.find?_append, hd]

theorem State.regLine_fixT (s : State) (tid : Nat) (step t : Word) : (s.fixT tid step t).regLine = s.regLine :=
  State.regLine_of_lines_eq (by unfold State.fixT; split <;> rfl)

/-- The state after a decode that takes the recipe: the entry is recorded for a replay, and holds the T as SCALE. -/
def State.recipeTaken (s : State) (step : Word) (tid : Nat) (e : RegEntry) : State :=
  (((s.noteUse tid).recordEntry tid step e).setEntry tid { e with scale := e.recipe e.ref }).fixT tid step (e.recipe e.ref)

/-- The recipe's T is SCALE and the step's T. -/
theorem State.recipeTaken_spec {s : State} {step : Word} {tid : Nat} {l : RegLine} (hT : s.fixedT tid step = none)
    (hl : s.regLine tid = some l) :
    ((s.recipeTaken step tid l.e).regLine tid).map (·.e.scale) = some (l.e.recipe l.e.ref) ∧
    (s.recipeTaken step tid l.e).fixedT tid step = some (l.e.recipe l.e.ref) := by
  have hnum := State.num_of_rowUnits ((s.noteUse tid).rowUnits_recordEntry tid step l.e)
  have hfind := State.regLine_of_lines_eq (congrArg NumUnit.lines hnum)
  have hfix := State.fixedT_congr (congrArg NumUnit.windows hnum) (congrArg NumUnit.decodeT hnum)
  obtain ⟨q, hq⟩ := State.exists_regLine_noteUse hl
  constructor
  · rw [State.recipeTaken, State.regLine_fixT, State.regLine_setEntry_self (hfind ▸ hq)]
    rfl
  · refine State.fixedT_fixT ?_ _
    rw [State.fixedT_setEntry, hfix]
    exact hT

section
variable {s : State} {step : Word} {tid fmt : Nat} {l : RegLine} (hg : s.gen3 = false) (hfmt : hasTensorScale fmt = true)
  (hp : s.earlierPending tid step = false) (hT : s.fixedT tid step = none) (hl : s.regLine tid = some l)
include hg hfmt hp hT hl

theorem State.decodeScale_onChip : s.decodeScale step tid fmt =
    if l.e.registered && l.e.cold then (s.noteUse tid, some l.e.scale)
    else if l.e.registered then (s.recipeTaken step tid l.e, some (l.e.recipe l.e.ref))
    else ((s.noteUse tid).fixT tid step one32, some one32) := by
  simp only [State.decodeScale, hg, hfmt, hp, hT, State.needEntry_onChip hl]
  cases l.e.registered <;> rfl

end

/-! ## The statement -/

/-- Settles O32: a write of DL_TEN_CMD goes by `tenCommand`, an entry by Table 9.5, the recipe is the ceiling of a logarithm,
and a decode fixes the T it takes. That KIND 1 to 5 is registered, and when the T of a step is fixed, are the model's readings
(log entries 47 and 48). -/
theorem registryCommands : Obligations.RegistryCommands := by
  refine ⟨fun s rq v => ⟨fun h => ?written, fun c hr hc hf h0 => ?done⟩, fun s c tid l hn hp hl => ?entry,
    fun e ref => ⟨e.recipe_zero, fun n d hf hn => ?least, e.ref_largest⟩, fun s step tid fmt l hg hfmt hp hT hl => ?decode⟩
  case written =>
    refine ⟨fun hb => ?busy, fun hb hr => ?range, fun hv => ?reserved, fun hb hr => ?starts, fun hb hr hn hnamed => ?inUse,
      fun hb hr hn t ht => ?worked⟩
    case busy =>
      have ha := exec_tenCommands h v (t := fun _ w => tenReported s w _ 1) fun op _ _ => State.tenCommand_busy hb
      exact ha
    case range =>
      have ha := exec_tenCommands h v (t := fun _ w => tenReported s w _ 2) fun op _ _ =>
        State.tenCommand_refused hb (.inr (.inr (by rwa [bitsOf_tenFirst])))
      exact ha
    case reserved =>
      rw [← bitsOf_eq_toNat_extractLsb' v (hi := 31) rfl] at hv
      refine (exec_tenReserved h v hv).trans ?_
      cases hb : s.num.cmd with
      | none =>
        rw [State.tenCommand_refused (s := s.regFault .ten .command rq 0x044) hb (by omega)]
        rfl
      | some c =>
        rw [State.tenCommand_busy (s := s.regFault .ten .command rq 0x044) (congrArg Option.isSome hb)]
        rfl
    case starts =>
      have ha := exec_tenCommands h v (t := fun op w => (s.setTenCmd (s.tenStart rq v op w)).tenGo) fun op =>
        State.tenCommand_starts hb hr
      exact ha
    case inUse =>
      have ha := exec_tenCommands h v (t := fun op w => ((s.setTenCmd (s.tenStart rq v op w)).regFault .ten .state rq
        0x044).setTenCmd ((s.tenStart rq v op w).ended 3 (decide (op ≠ 4) || s.num.evicting.isEmpty)))
        fun op h1 h4 => (State.tenCommand_starts hb hr h1 h4).trans (State.tenGo_inUse rfl hn rfl rfl hnamed)
      exact ha
    case worked =>
      have ha := exec_tenCommands h v (t := fun op w => (t op w).setTenCmd
        ((s.tenStart rq v op w).ended 0 (decide (op ≠ 4) || (t op w).num.evicting.isEmpty)))
        fun op h1 h4 => (State.tenCommand_starts hb hr h1 h4).trans (State.tenGo_done rfl hn rfl (ht op _ h1 h4))
      exact ha
  case done =>
    rw [← bitsOf_eq_toNat_extractLsb' c.v (hi := 15) rfl]
    exact State.clocked_of_eq hr (State.tenCmdDone_finished hc hf h0)
  case entry =>
    by_cases hop : c.op = 4
    case pos =>
      obtain ⟨t, ht, hlines, hevict⟩ := State.tenEntry_flush hn hl hop
      have hfind := State.regLine_of_lines_filter hlines
      refine ⟨t, ht, fun k hk => by rw [hfind, if_neg hk], fun h1 => by omega, fun h2 => by omega, fun h3 => by omega,
        fun _ => ⟨by rw [hfind, if_pos rfl], hevict⟩⟩
    case neg =>
      obtain ⟨t, ht, hother, hself⟩ := State.tenEntry_puts hn hl hop hp
      refine ⟨t, ht, hother, ?_⟩
      rw [hself]
      refine ⟨fun h1 => ?_, fun h2 => ?_, fun h3 => ?_, fun h4 => absurd h4 hop⟩
      · rw [TenCmd.entryAfter_register _ h1, RegEntry.registerAs, RegEntry.registered_eq]
        rfl
      · rw [TenCmd.entryAfter_set _ h2]
        rfl
      · rw [TenCmd.entryAfter_other _ (by omega) (by omega)]
        rfl
  case least => exact RegEntry.recipe_least hf hn
  case decode =>
    have hr := l.e.registered_eq
    have hd := State.decodeScale_onChip hg hfmt hp hT hl
    dsimp only
    rw [hd]
    refine ⟨fun hreg => ?_, fun hreg hc => ?_, fun hreg hc => ?_⟩
    · rw [decide_eq_false hreg] at hr
      rw [hr]
      exact ⟨rfl, State.fixedT_fixT (s := s.noteUse tid) hT one32⟩
    · rw [decide_eq_true hreg] at hr
      rw [hr, hc]
      rfl
    · rw [decide_eq_true hreg] at hr
      obtain ⟨hput, hfix⟩ := State.recipeTaken_spec hT hl
      rw [hr, hc]
      exact ⟨rfl, hfix, hput⟩

end Sys2Proof.Machine

/-! PROOFS. Chapter 10, the schedule engine: a group changed in place (R214), a command's groups one after another (R221),
tokens (R220), η formed (R218, R219), the restart loop (R216) and the skew check's result (R220). -/
namespace Sys2Proof.Machine

/-! ## A group changed in place -/

theorem modifyAt_eq_modify {α : Type} (l : List α) (i : Nat) (f : α → α) : modifyAt l i f = l.modify i f := by
  rw [List.modify_eq_set_getElem?, modifyAt]
  cases l[i]? <;> rfl

theorem State.group_modGroup_self {s : State} {k : Nat} (hk : k < s.sch.groups.length) (f : SchGroup → SchGroup) :
    (s.modGroup k f).group k = f (s.group k) := by
  simp [State.group, State.modGroup, modifyAt_eq_modify, hk]

theorem State.group_modGroup_other (s : State) {k j : Nat} (h : j ≠ k) (f : SchGroup → SchGroup) :
    (s.modGroup k f).group j = s.group j := by
  simp [State.group, State.modGroup, modifyAt_eq_modify, h.symm]

theorem State.modGroup_modGroup (s : State) (k : Nat) (f g : SchGroup → SchGroup) :
    (s.modGroup k f).modGroup k g = s.modGroup k (fun h => g (f h)) := by
  simp only [State.modGroup, modifyAt_eq_modify, List.modify_modify_eq]
  rfl

/-- A change is known by what it makes of the group it is made to. -/
theorem State.modGroup_congr {s : State} {k : Nat} {f g : SchGroup → SchGroup} (h : f (s.group k) = g (s.group k)) :
    s.modGroup k f = s.modGroup k g := by
  unfold State.group at h
  unfold State.modGroup modifyAt
  cases hk : s.sch.groups[k]? with
  | none => rfl
  | some a =>
    rw [List.getD_eq_getElem?_getD, hk, Option.getD_some] at h
    simp only [h]

/-! ## Logging leaves the engine alone -/

@[simp] theorem State.count_sch (s : State) (n k : Nat) : (s.count n k).sch = s.sch := by
  unfold State.count
  split <;> rfl

@[simp] theorem State.pumpLogGo_sch (n : Nat) (s : State) : (s.pumpLogGo n).sch = s.sch := by
  induction n generalizing s with
  | zero => rfl
  | succ n ih =>
    rw [State.pumpLogGo]
    split
    · rfl
    split
    · rfl
    dsimp only
    split
    · exact ih _
    split
    · exact ih _
    · rfl

@[simp] theorem State.logEvent_sch (s : State) (code : Nat) (p : Page) (a0 a1 a2 a3 : Word) (tag : BitVec 16) :
    (s.logEvent code p a0 a1 a2 a3 tag).sch = s.sch := by
  have hc := s.count_sch 32 1
  unfold State.logEvent
  dsimp only
  split
  · exact (State.pumpLogGo_sch _ _).trans hc
  split
  · exact hc
  · exact hc

@[simp] theorem State.logConfig_sch (s : State) (k : Nat) : (s.logConfig k).sch = s.sch := by
  unfold State.logConfig
  split
  · exact s.logEvent_sch ..
  · rfl

/-! ## Bits of GSTAT (Table 10.7) -/

/-- The bits of a word after a field is put into it. -/
theorem getLsbD_setBits (w : Word) {i : Nat} (hi : i < 32) (hi' lo v : Nat) :
    (setBits w hi' lo v).getLsbD i = if lo ≤ i ∧ i ≤ hi' then v.testBit (i - lo) else w.getLsbD i := by
  have hin : lo ≤ i ∧ i - lo < hi' + 1 - lo ↔ lo ≤ i ∧ i ≤ hi' := by omega
  have hbit : (setBits w hi' lo v).getLsbD i =
      (w.getLsbD i && !decide (lo ≤ i ∧ i ≤ hi') || (decide (lo ≤ i ∧ i ≤ hi') && v.testBit (i - lo))) := by
    simp only [← hin]
    simp [setBits, BitVec.getLsbD_or, BitVec.getLsbD_and, BitVec.getLsbD_not, BitVec.getLsbD_ofNat, hi,
      Nat.testBit_mul_two_pow, Nat.testBit_two_pow_sub_one, Bool.and_assoc, -BitVec.getLsbD_eq_getElem]
  rw [hbit]
  by_cases h : lo ≤ i ∧ i ≤ hi' <;> simp [h]

namespace SchGroup

theorem getLsbD_setStat (g : SchGroup) {b i : Nat} (hi : i < 32) (v : Bool) :
    (g.setStat b v).gstat.getLsbD i = if i = b then v else g.gstat.getLsbD i := by
  have hb : b ≤ i ∧ i ≤ b ↔ i = b := by omega
  rw [setStat, getLsbD_setBits _ hi, if_congr hb rfl rfl]
  split
  · cases v <;> simp_all [b2n]
  · rfl

/-- A status bit that has a value already is not changed. -/
theorem setStat_of_eq {g : SchGroup} {b : Nat} {v : Bool} (h : g.gstat.getLsbD b = v) : g.setStat b v = g := by
  have hs : (g.setStat b v).gstat = g.gstat := by
    refine BitVec.eq_of_getLsbD_eq fun i hi => ?_
    rw [getLsbD_setStat g hi]
    split
    case isTrue hb => rw [hb, h]
    case isFalse => rfl
  exact congrArg (fun w => { g with gstat := w }) hs

theorem missed_setStat (g : SchGroup) {b : Nat} (hb : 15 < b) (v : Bool) : (g.setStat b v).missed = g.missed :=
  bitsOf_setBits_below g.gstat hb (b2n v)

/-- A release sets READY and ends what was missed. -/
theorem release_status (g : SchGroup) (eta : Word) (forced : Bool) :
    (g.release eta forced).ready = true ∧ (g.release eta forced).missed = 0 := by
  have hword : ∀ c f : Bool, bitOf (BitVec.ofNat 32 (2 ^ 31 + b2n c * 2 ^ 26 + b2n f * 2 ^ 25)) 31 = true ∧
      bitsOf (BitVec.ofNat 32 (2 ^ 31 + b2n c * 2 ^ 26 + b2n f * 2 ^ 25)) 15 0 = 0 := by decide
  exact hword g.cfgErr forced

end SchGroup

/-! ## RELEASE and FORCE (R221) -/

/-- A group releases: it is held, and has an η, formed or forced. -/
def SchGroup.frees (force : Bool) (g : SchGroup) : Bool := g.held && (force || g.formed.isSome)

/-- What RELEASE, or FORCE with its η, does to a group that releases. -/
def State.freeGroup (force : Bool) (forceEta : Word) (s : State) (k : Nat) : State :=
  if (s.group k).frees force then groupReleased s k (s.group k).missed
    (fun h => h.release (if force then forceEta else (s.group k).formed.getD 0) force) else s

theorem State.afterRelease_modGroup (s : State) (k missed : Nat) (f : SchGroup → SchGroup) :
    (s.modGroup k f).afterRelease k missed = groupReleased s k missed f := by
  rw [State.afterRelease, State.modGroup_modGroup]
  rfl

theorem State.releaseGroup_eq (s : State) (force : Bool) (k : Nat) :
    s.releaseGroup force k = (s.freeGroup force s.sch.forceEta k, (s.group k).frees force) := by
  unfold State.releaseGroup State.freeGroup SchGroup.frees
  simp only [State.afterRelease_modGroup]
  cases (s.group k).held with
  | false => rfl
  | true =>
    cases force with
    | true => rfl
    | false => cases (s.group k).formed <;> rfl

theorem groupReleased_forceEta (s : State) (k missed : Nat) (f : SchGroup → SchGroup) :
    (groupReleased s k missed f).sch.forceEta = s.sch.forceEta := by
  unfold groupReleased
  split
  · rfl
  · rw [State.logConfig_sch]
    rfl

theorem group_groupReleased_other (s : State) {k j : Nat} (h : j ≠ k) (missed : Nat) (f : SchGroup → SchGroup) :
    (groupReleased s k missed f).group j = s.group j := by
  unfold groupReleased
  split
  · exact s.group_modGroup_other h f
  · rw [State.group, State.logConfig_sch]
    exact s.group_modGroup_other h _

theorem State.freeGroup_forceEta (s : State) (force : Bool) (e : Word) (k : Nat) :
    (s.freeGroup force e k).sch.forceEta = s.sch.forceEta := by
  unfold State.freeGroup
  split
  · exact groupReleased_forceEta ..
  · rfl

theorem State.group_freeGroup_other (s : State) (force : Bool) (e : Word) {k j : Nat} (h : j ≠ k) :
    (s.freeGroup force e k).group j = s.group j := by
  unfold State.freeGroup
  split
  · exact group_groupReleased_other s h ..
  · rfl

/-- A command acts on its groups one after another; each is judged as before the command, as none changes another. -/
theorem State.foldl_releaseGroup (force : Bool) {ks : List Nat} (hks : ks.Nodup) (s : State) (b : Bool) :
    ks.foldl (fun (p : State × Bool) k => let q := p.1.releaseGroup force k; (q.1, p.2 && q.2)) (s, b) =
      (ks.foldl (State.freeGroup force s.sch.forceEta) s, b && ks.all (fun k => (s.group k).frees force)) := by
  induction ks generalizing s b with
  | nil => simp
  | cons k ks ih =>
    obtain ⟨hk, hks⟩ := List.nodup_cons.1 hks
    have hsame : ks.all (fun j => ((s.freeGroup force s.sch.forceEta k).group j).frees force) =
        ks.all (fun j => (s.group j).frees force) := by
      refine Bool.eq_iff_iff.2 ?_
      rw [List.all_eq_true, List.all_eq_true]
      refine forall₂_congr fun j hj => ?_
      have hne : j ≠ k := by
        rintro rfl
        exact hk hj
      rw [State.group_freeGroup_other s force _ hne]
    rw [List.foldl_cons, State.releaseGroup_eq]
    simp only [ih hks, State.freeGroup_forceEta, hsame, List.foldl_cons, List.all_cons, Bool.and_assoc]

/-- The groups that a command acts on. -/
def State.schActed (s : State) (all : Bool) (grp : Nat) : List Nat :=
  if all then (List.range 64).filter (fun k => (s.group k).held) else [grp]

theorem State.schCommand_eq (s : State) (force all : Bool) (grp : Nat) :
    s.schCommand force all grp =
      (((s.schActed all grp).foldl (State.freeGroup force s.sch.forceEta) s).maybeCheck,
        (s.schActed all grp).all (fun k => (s.group k).frees force)) := by
  have hnodup : (s.schActed all grp).Nodup := by
    unfold State.schActed
    split
    · exact List.nodup_range.filter _
    · exact List.nodup_singleton grp
  have hfold := State.foldl_releaseGroup force hnodup s true
  rw [Bool.true_and] at hfold
  show (let r := (s.schActed all grp).foldl _ (s, true); (r.1.maybeCheck, r.2)) = _
  rw [hfold]

section
variable {s : State} {rq : Requester} (h : s.performs rq .sch) (v : Word)
include h

/-- A write of DL_SCH_CMD acts, and is answered. -/
theorem State.writes_sch {w : Word} {t : State} (ht : s.schWrite rq w = t) :
    s.writes rq .sch 0x048 w = .next ((t.settle).answerWrite (accessOf rq .sch 0x048)) :=
  (State.writes_command h rfl (by decide) rfl).trans (by rw [← ht]; rfl)

/-- A write of DL_SCH_CMD with a reserved OP is recorded as COMMAND. -/
theorem exec_schReserved (hv : (v.extractLsb' 28 4).toNat = 0 ∨ 3 ≤ (v.extractLsb' 28 4).toNat) :
    exec (.registerWrite rq (regAt .sch 0x048) v) s =
      .next (((s.regFault .sch .command rq 0x048).settle).answerWrite (accessOf rq .sch 0x048)) := by
  rw [exec_registerWrite]
  refine State.writes_sch h ?_
  rw [State.schWrite, bitsOf_eq_toNat_extractLsb' v (hi := 31) (lo := 28) (len := 4) rfl]
  exact if_neg (by omega)

/-- RELEASE and FORCE act, and what they refuse is recorded as STATE. -/
theorem exec_schCommand {force ok : Bool} {t : State}
    (ht : s.schCommand force (v.getLsbD 6) (v.extractLsb' 0 6).toNat = (t, ok)) :
    exec (if force then .force rq v else .release rq v) s =
      .next (((if ok then t else t.regFault .sch .state rq 0x048).settle).answerWrite (accessOf rq .sch 0x048)) := by
  have hw (op : Nat) (hop : op = 1 ∨ op = 2) : s.schWrite rq (setBits v 31 28 op) =
      let r := s.schCommand (op == 2) (v.getLsbD 6) (v.extractLsb' 0 6).toNat
      if r.2 then r.1 else r.1.regFault .sch .state rq 0x048 := by
    have h28 : bitsOf (setBits v 31 28 op) 31 28 = op := by
      rw [bitsOf_setBits v (by decide)]
      omega
    have h6 : bitOf (setBits v 31 28 op) 6 = v.getLsbD 6 :=
      (getLsbD_setBits v (by decide) 31 28 op).trans (if_neg (by decide))
    have h0 : bitsOf (setBits v 31 28 op) 5 0 = (v.extractLsb' 0 6).toNat :=
      (bitsOf_setBits_below v (by decide) op).trans (bitsOf_eq_toNat_extractLsb' v rfl)
    rw [State.schWrite, h28, h6, h0]
    exact if_pos hop
  cases force with
  | false => exact State.writes_sch h ((hw 1 (.inl rfl)).trans (by rw [show (1 == 2) = false from rfl, ht]))
  | true => exact State.writes_sch h ((hw 2 (.inr rfl)).trans (by rw [show (2 == 2) = true from rfl, ht]))

end

/-! ## A step token (R214, R218, R220) -/

/-- What a token makes of a group, by its enable bit and the step of the window that opens. -/
def SchGroup.tokened (g : SchGroup) (on : Bool) (step : Word) : SchGroup :=
  if g.held then g.miss else if on then g.advance.take step else g.advance

theorem State.scheduleToken_sch {s : State} (h : s.variant = .d4) :
    s.scheduleToken.sch = { s.sch with
      groups := s.sch.groups.zipIdx.map (fun gk => gk.1.tokened (s.sch.gen.getLsbD gk.2) s.step)
      live := s.sch.gen, checking := false, checked := false } := by
  have hd : s.isD4 = true := by rw [State.isD4, h]
  rw [State.scheduleToken, if_pos hd]
  exact List.foldlRecOn (motive := fun t : State => t.sch = _) (List.range 64) _ rfl
    fun t ht k _ => (t.logConfig_sch k).trans ht

theorem State.group_scheduleToken {s : State} (h : s.variant = .d4) {k : Nat} (hk : k < s.sch.groups.length) :
    s.scheduleToken.group k = (s.group k).tokened (s.sch.gen.getLsbD k) s.step := by
  simp [State.group, State.scheduleToken_sch h, hk]

/-- The CFG_ERR of a snapshot, alone in GSTAT. -/
theorem cfgErrWord_eq (b : Bool) : BitVec.ofNat 32 (b2n b * 2 ^ 26) = if b then 0x04000000 else (0 : Word) := by
  cases b <;> rfl

/-! ## Configuration errors (R215) -/

theorem SchCfg.badRate_iff (w : Word) : badRate w = true ↔ nonFin32 w = true ∨ (f32 w).lt Val.zero = true :=
  Bool.or_eq_true_iff

theorem SchCfg.bad_iff (c : SchCfg) : c.bad = true ↔
    c.warmKind = 3 ∨ 6 ≤ c.decay ∨ c.clip = 3 ∨ nonFin32 c.lfact = true ∨
     (∃ w ∈ [c.peak, c.floor, c.init], nonFin32 w = true ∨ (f32 w).lt Val.zero = true) ∨ Val.zero.lt (f32 c.lfact) = true ∨
     (c.warm = 0 ∧ c.warmKind ≠ 0) ∨ (c.len = 0 ∧ c.decay ≠ 0) := by
  simp only [← SchCfg.badRate_iff, List.exists_mem_cons_iff, List.not_mem_nil, false_and, exists_false, or_false]
  simp only [SchCfg.bad, Bool.or_eq_true, Bool.and_eq_true, decide_eq_true_eq, beq_iff_eq, bne_iff_ne, ge_iff_le]
  tauto

/-! ## Forming η (R218, R219) -/

/-- The group with ηb and η formed, and no φ waited for. -/
def SchGroup.withEta (g : SchGroup) (b e : Word) : SchGroup :=
  ({ g with etab := some b, formed := some e } : SchGroup).setStat 30 false

/-- The group with ηb formed, and no φ waited for. -/
def SchGroup.withBase (g : SchGroup) (b : Word) : SchGroup := ({ g with etab := some b } : SchGroup).setStat 30 false

/-- η is there: the group waits for the skew check, or releases. -/
def State.etaOut (s : State) (k : Nat) (b e : Word) : State :=
  if (s.group k).conf.check then s.modGroup k (fun h => (h.withEta b e).setStat 29 true)
  else groupReleased s k (s.group k).missed (fun h => (h.withEta b e).release e false)

theorem State.etaOut_releases {s : State} {k : Nat} (h : (s.group k).conf.check = false) (b e : Word) :
    s.etaOut k b e = groupReleased s k (s.group k).missed (fun h => (h.withEta b e).release e false) := if_neg (by simp [h])

theorem State.etaOut_waits {s : State} {k : Nat} (h : (s.group k).conf.check = true) (b e : Word) :
    s.etaOut k b e = s.modGroup k (fun h => (h.withEta b e).setStat 29 true) := if_pos h

/-- ηb is there: it is η with CLIP 0, else it takes the φ that is here or waits for one (R219). -/
def State.baseTaken (s : State) (k : Nat) : State :=
  let b := (s.group k).conf.base
  if (s.group k).conf.clip = 0 then s.etaOut k b b
  else match (s.group k).phi with
    | some p => (s.modGroup k (fun h => { h with etab := some b })).applyPhi k b p
    | none => s.modGroup k (fun h => ({ h with etab := some b } : SchGroup).setStat 30 true)

section
variable {s : State} {k : Nat}

theorem State.baseTaken_unclipped (h : (s.group k).conf.clip = 0) :
    s.baseTaken k = s.etaOut k (s.group k).conf.base (s.group k).conf.base := if_pos h

theorem State.baseTaken_waits (h : (s.group k).conf.clip ≠ 0) (hp : (s.group k).phi = none) :
    s.baseTaken k =
      s.modGroup k (fun h => ({ h with etab := some (s.group k).conf.base } : SchGroup).setStat 30 true) := by
  simp only [State.baseTaken, if_neg h, hp]

theorem State.baseTaken_clips (h : (s.group k).conf.clip ≠ 0) {p : Word} (hp : (s.group k).phi = some p) :
    s.baseTaken k =
      (s.modGroup k (fun h => { h with etab := some (s.group k).conf.base })).applyPhi k (s.group k).conf.base p := by
  simp only [State.baseTaken, if_neg h, hp]

end

theorem exec_etaFormed {s t : State} {k : Fin 64} (hr : s.fclkRuns = true) (h : s.formEta k.val = t) :
    exec (.etaFormed k) s = .next t.settle :=
  State.clocked_of_eq (act := fun s => s.formEta k.val) hr h

theorem State.formEta_idle {s : State} {k : Nat} (h : (s.group k).snap = none ∨ (s.group k).ready = true ∨
    (s.group k).held = true ∨ (s.group k).etab.isSome = true) : s.formEta k = s := by
  refine if_pos ?_
  rcases h with h | h | h | h <;> simp [h]

section
variable {s : State} {k : Nat} (hk : k < s.sch.groups.length)

include hk in
theorem State.etaReady_withBase (b e : Word) : (s.modGroup k (fun h => h.withBase b)).etaReady k e = s.etaOut k b e := by
  have hconf : ((s.group k).withBase b).conf = (s.group k).conf := rfl
  have hmissed : ((s.group k).withBase b).missed = (s.group k).missed := SchGroup.missed_setStat _ (by decide) false
  simp only [State.etaReady, State.group_modGroup_self hk, State.modGroup_modGroup, State.afterRelease_modGroup, hconf,
    hmissed]
  rfl

variable (hwait : (s.group k).waitClip = false)

include hk in
theorem State.applyPhi_nonfinite {p : Word} (hp : nonFin32 p = true) (b : Word) :
    (s.modGroup k (fun h => { h with etab := some b })).applyPhi k b p =
      ((s.modGroup k (fun h => (h.withBase b).setStat 27 true)).logEvent 0x54 .sch (BitVec.ofNat 32 k) (s.group k).win 0
        0).pageEvent .sch 3 := by
  simp only [State.applyPhi, if_pos hp, State.modGroup_modGroup, State.group_modGroup_self hk]
  rfl

include hwait

/-- A group that waits for no φ has its bit clear already. -/
theorem State.modGroup_etab (b : Word) :
    s.modGroup k (fun h => { h with etab := some b }) = s.modGroup k (fun h => h.withBase b) :=
  State.modGroup_congr (SchGroup.setStat_of_eq (g := { s.group k with etab := some b }) hwait).symm

include hk

theorem State.applyPhi_finite {p : Word} (hp : nonFin32 p = false) (b : Word) :
    (s.modGroup k (fun h => { h with etab := some b })).applyPhi k b p =
      s.etaOut k b (if p = one32 then b else fmul b p) := by
  have hlate : ({ s.group k with etab := some b } : SchGroup).waitClip = false := hwait
  simp only [State.applyPhi, hp, State.modGroup_modGroup, State.group_modGroup_self hk, hlate, Bool.false_and,
    Bool.false_eq_true, if_false]
  exact State.etaReady_withBase hk b _

variable (hsnap : (s.group k).snap.isSome = true) (hready : (s.group k).ready = false) (hheld : (s.group k).held = false)
  (hetab : (s.group k).etab = none)
  (hturn : ∀ j, j < k → (s.group j).ready ∨ (s.group j).snap = none ∨ (s.group j).etab.isSome ∨ (s.group j).held)
include hsnap hready hheld hetab hturn

/-- A group whose turn it is forms ηb, and goes on by its clipping. -/
theorem State.formEta_turn : s.formEta k = (s.baseTaken k).maybeCheck := by
  have hidle : (List.range k).all
      (fun j => let h := s.group j; h.ready || h.snap.isNone || h.etab.isSome || h.held) = true := by
    simpa [or_assoc] using hturn
  have hnone : (s.group k).snap.isNone = false := by simpa using hsnap
  have hout := State.etaReady_withBase hk (s.group k).conf.base (s.group k).conf.base
  rw [← State.modGroup_etab hwait] at hout
  simp only [State.formEta, hidle, hnone, hready, hheld, hetab, hout, State.modGroup_modGroup]
  rfl

end

/-! ## The base step size (R216) -/

/-- The restart loop ends with what is left of k below the length of the cycle it lies in, where the fuel lasts: the length
at least doubles. -/
theorem SchCfg.cycle_spec {mult : Nat} (hm : 2 ≤ mult) (n : Nat) {kc len : Nat} (hlen : 0 < len) (hk : kc < len * 2 ^ n) :
    ∃ m, (cycle mult n kc len).2 = len * mult ^ m ∧ (cycle mult n kc len).1 < (cycle mult n kc len).2 ∧
      kc = (cycle mult n kc len).1 + ((List.range m).map (fun j => len * mult ^ j)).sum := by
  induction n generalizing kc len with
  | zero => exact ⟨0, by simp [cycle], by simpa [cycle] using hk, by simp [cycle]⟩
  | succ n ih =>
    rw [cycle]
    split
    case isTrue hge =>
      have hnext : kc - len < len * mult * 2 ^ n := by
        have : len * 2 * 2 ^ n ≤ len * mult * 2 ^ n := by gcongr
        rw [pow_succ'] at hk
        rw [mul_assoc] at this
        omega
      obtain ⟨m, hend, hlt, hsum⟩ := ih (by positivity) hnext
      refine ⟨m + 1, by rw [hend, pow_succ', mul_assoc], hlt, ?_⟩
      have hpow (j : Nat) : len * mult ^ (j + 1) = len * mult * mult ^ j := by rw [pow_succ', mul_assoc]
      simp only [List.range_succ_eq_map, List.map_cons, List.map_map, List.sum_cons, Function.comp_def, hpow, pow_zero,
        mul_one]
      omega
    case isFalse hlt => exact ⟨0, by simp, by simpa using hlt, by simp⟩

theorem SchCfg.mult_pos (c : SchCfg) : 1 ≤ c.mult := Nat.le_max_left ..

namespace SchCfg
variable (c : SchCfg) (k : Nat)

theorem place_plain (h : c.restart = false) :
    c.place k = (if c.decay = 1 ∨ c.decay = 2 then min k c.len else k, c.len) := by
  simp only [place, h, Bool.false_eq_true, if_false, Bool.or_eq_true, decide_eq_true_eq]
  split <;> rfl

variable {c k}

theorem place_mod (h : c.restart = true) (hlen : c.len ≠ 0) (hm : c.mult = 1) : c.place k = (k % c.len, c.len) := by
  rw [place, if_pos h, if_pos hm, if_neg hlen]

theorem place_restart (h : c.restart = true) (hm : c.mult ≠ 1) : c.place k = cycle c.mult 33 k c.len := by
  rw [place, if_pos h, if_neg hm]

/-- The cycle of a restart that k lies in: 33 passes reach the last one of 32 bits. -/
theorem place_cycle (h : c.restart = true) (hlen : c.len ≠ 0) (hm : c.mult ≠ 1) (hk : k < 2 ^ 32) :
    ∃ m, (c.place k).2 = c.len * c.mult ^ m ∧ (c.place k).1 < (c.place k).2 ∧
      k = (c.place k).1 + ((List.range m).map (fun j => c.len * c.mult ^ j)).sum := by
  have h2 : 2 ≤ c.mult := by
    have := c.mult_pos
    omega
  rw [place_restart h hm]
  exact cycle_spec h2 33 (Nat.pos_of_ne_zero hlen) (by omega)

/-- Past the warm-up, ηb comes from the decay factor at k's place. -/
theorem base_decays (h : c.warmKind = 0 ∨ c.warm ≤ c.iter) :
    let k := if c.warmKind ≠ 0 then c.iter - c.warm else c.iter
    c.base = rne32 ((f32 c.floor).add ((f32 (fsub c.peak c.floor)).mul (f32 (c.factor (c.place k).1 (c.place k).2)))) := by
  refine if_neg ?_
  simp only [Bool.and_eq_true, decide_eq_true_eq]
  omega

theorem base_warms (hk : c.warmKind ≠ 0) (hi : c.iter < c.warm) :
    c.base = rne32 ((f32 c.init).add (if c.warmKind = 1 then (f32 (fsub c.peak c.init)).mul (ratio c.iter c.warm)
      else (f32 (fsub c.peak c.init)).mul
        (half.sub (half.mul (f32 (engineEval 0x11 (.turn (c.iter * 2 ^ 31 / c.warm)))))))) := by
  refine if_pos ?_
  simp [hk, hi]

end SchCfg

/-! ## The skew check's result (R220) -/

theorem SchGroup.inCheck_eq (g : SchGroup) (step : Word) :
    g.inCheck step = (g.waitCheck && decide (g.win = step) && g.hashed) := by
  rw [SchGroup.inCheck, beq_eq_decide]

/-- The groups of a window that wait for the check, changed by `f`. -/
def State.onChecked (s : State) (step : Word) (f : SchGroup → SchGroup) : List SchGroup :=
  s.sch.groups.map (fun g => if g.waitCheck && decide (g.win = step) && g.hashed then f g else g)

/-- The check of the current window is no longer under way. -/
def State.checkReturned (s : State) (step : Word) : State :=
  if step = s.step then { s with sch := { s.sch with checking := false, checked := true } } else s

theorem State.checkReturned_groups (s : State) (step : Word) : (s.checkReturned step).sch.groups = s.sch.groups := by
  unfold State.checkReturned
  split <;> rfl

theorem State.releaseChecked_eq (s : State) (step : Word) : s.releaseChecked step =
    { s with sch := { s.sch with
      groups := s.onChecked step (fun g => if g.missed = 0 then g.release (g.formed.getD nan32) false else g) } } := by
  have hg (g : SchGroup) : (if g.inCheck step && g.missed == 0 then g.release (g.formed.getD nan32) false else g) =
      if g.waitCheck && decide (g.win = step) && g.hashed then
        if g.missed = 0 then g.release (g.formed.getD nan32) false else g else g := by
    rw [g.inCheck_eq]
    simp only [Bool.and_eq_true, beq_iff_eq, ite_and]
  simp only [State.releaseChecked, State.onChecked, hg]

theorem State.skewResult_agrees (s : State) (step : Word) {mn mx : DWord} (h : mn = mx) :
    s.skewResult step mn mx = (s.checkReturned step).releaseChecked step := if_pos h

theorem State.skewResult_differs (s : State) (step : Word) {mn mx : DWord} (h : mn ≠ mx) :
    s.skewResult step mn mx =
      let t := s.checkReturned step
      ((({ t with
        sch := { t.sch with skew := true, groups := t.onChecked step (fun g => (g.setStat 29 false).setStat 28 true) }
        tree := { t.tree with schMismatch := true, statId := 1, statMin := mn, statMax := mx } } : State).logEvent 0x50 .sch
          step 0 0 0).pageEvent .sch 1).pageEvent .tree 2 := by
  simp only [State.onChecked, ← SchGroup.inCheck_eq]
  exact if_neg h

/-! ## The statement -/

/-- Settles O37: a command's groups are judged apart (`schCommand_eq`), a token is `tokened`, η comes by `formEta_turn` and its
value by `SchCfg`'s lemmas, and the check's result is one map over the groups. That a held group takes the loaded ITER, what a
group that catches up waits for (log entry 50), and that a rate of minus zero is not negative (log entry 51), are the model's
choices. -/
theorem scheduleEngine : Obligations.ScheduleEngine := by
  refine ⟨fun s rq v force h => ?command, fun s k hd hk => ?token, SchCfg.bad_iff, fun s k hr => ?forms, fun c => ?value,
    fun s step mn mx => ?skew⟩
  case command =>
    have hrun := s.schCommand_eq force (v.getLsbD 6) (v.extractLsb' 0 6).toNat
    refine ⟨fun hall => exec_schCommand h v (ok := true) (hrun.trans (congrArg _ ?_)),
      fun ⟨k, hk, hnot⟩ => exec_schCommand h v (ok := false) (hrun.trans (congrArg _ ?_)), exec_schReserved h v⟩
    · exact List.all_eq_true.2 hall
    · exact List.all_eq_false.2 ⟨k, hk, ne_true_of_eq_false hnot⟩
  case token =>
    have hg := State.group_scheduleToken hd hk
    refine ⟨fun hheld => ?_, fun hheld hoff => ?_, fun hheld hon => ?_, by rw [State.scheduleToken_sch hd]⟩
    · exact hg.trans (if_pos hheld)
    · rw [hg, SchGroup.tokened, hheld, hoff]
      rfl
    · rw [hg, SchGroup.tokened, hheld, hon, ← cfgErrWord_eq]
      rfl
  case forms =>
    refine ⟨fun g => ⟨rfl, rfl, g.release_status _ false⟩, fun hidle => exec_etaFormed hr (State.formEta_idle hidle),
      fun hk hsnap hready hheld hetab hwait hturn => ?_⟩
    have hform := State.formEta_turn hk hwait hsnap hready hheld hetab hturn
    refine ⟨fun h0 hc => ?_, fun h0 hc => ?_, fun h0 hp => ?_, fun p h0 hp hfin => ⟨fun hc => ?_, fun hc => ?_⟩,
      fun p h0 hp hnon => ?_⟩
    · rw [State.baseTaken_unclipped h0, State.etaOut_releases hc] at hform
      exact exec_etaFormed hr hform
    · rw [State.baseTaken_unclipped h0, State.etaOut_waits hc] at hform
      exact exec_etaFormed hr hform
    · rw [State.baseTaken_waits h0 hp] at hform
      exact exec_etaFormed hr hform
    · rw [State.baseTaken_clips h0 hp, State.applyPhi_finite hk hwait hfin, State.etaOut_releases hc] at hform
      exact exec_etaFormed hr hform
    · rw [State.baseTaken_clips h0 hp, State.applyPhi_finite hk hwait hfin, State.etaOut_waits hc] at hform
      exact exec_etaFormed hr hform
    · rw [State.baseTaken_clips h0 hp, State.applyPhi_nonfinite hk hnon] at hform
      exact exec_etaFormed hr hform
  case value =>
    refine ⟨fun h1 hi => ?_, fun h1 hi => ?_, fun h => ⟨_, SchCfg.base_decays h, ?_⟩, fun h => ?_,
      fun h hlen hm => ?_, fun h hlen hm hk => SchCfg.place_cycle h hlen hm hk⟩
    · exact (SchCfg.base_warms (by omega) hi).trans (by rw [if_pos h1])
    · exact (SchCfg.base_warms (by omega) hi).trans (by rw [if_neg h1.ne'])
    · refine ⟨fun hd => ?_, fun hd => ?_, fun hd => ?_, fun hd => ?_, fun hd => ?_, fun hd => ?_⟩ <;>
        rw [SchCfg.factor, hd] <;> rfl
    · rw [SchCfg.place_plain _ _ h]
      exact ⟨rfl, rfl⟩
    · rw [SchCfg.place_mod h hlen hm]
      exact ⟨rfl, rfl⟩
  case skew =>
    have hgroups := s.checkReturned_groups step
    refine ⟨fun hmn => ?_, fun hmn => ?_⟩
    · rw [s.skewResult_agrees step hmn, State.releaseChecked_eq, State.onChecked, hgroups]
      rfl
    · rw [s.skewResult_differs step hmn]
      simp only [State.onChecked, hgroups]
      rfl

end Sys2Proof.Machine

/-! PROOFS. Chapter 11, the image commands: what a write of DL_IMG_CMD comes to (R247, Table 11.10), and what each command does
where the state allows it (R230, R231, R239, R242, R243, R246). -/
namespace Sys2Proof.Machine

/-! ## Which operations the state allows (Table 11.10) -/

section
variable {s : State} {op : Nat}

theorem imgAllowed_reserved (st : ImgState) (h : op = 0 ∨ 8 ≤ op) : imgAllowed st op = false := by
  rcases h with rfl | h
  · rfl
  · obtain ⟨n, rfl⟩ := Nat.exists_eq_add_of_le' h
    rfl

theorem State.imgCause_reserved (h : op = 0 ∨ 8 ≤ op) : s.imgCause op = some .command :=
  if_pos (by simpa using h)

/-- Of the operations that are not reserved, one that the state does not allow is a fault where no command is busy. -/
theorem State.imgCause_named (hop : 1 ≤ op ∧ op ≤ 7) :
    s.imgCause op = if s.img.cmd = none ∧ imgAllowed s.img.st op = false then some .state else none := by
  have hres : (op = 0 || decide (op ≥ 8)) = false := by simp; omega
  simp [State.imgCause, hres]

theorem State.imgCommand_busy (hb : s.img.cmd.isSome = true) : s.imgCommand op = imgReported s op 1 := if_pos hb

variable (hc : s.img.cmd = none)
include hc

theorem State.imgCommand_disallowed (ha : imgAllowed s.img.st op = false) : s.imgCommand op = imgReported s op 2 := by
  simp only [State.imgCommand, hc, ha]
  rfl

theorem State.imgCommand_fill (ha : imgAllowed s.img.st 5 = true) :
    s.imgCommand 5 = { s with img := { s.img with fragQ := s.img.fragQ ++ [{ addr := s.img.addr.toNat }] } } := by
  simp [State.imgCommand, hc, ha]

theorem State.imgCommand_abort (ha : imgAllowed s.img.st 6 = true) :
    s.imgCommand 6 = imgEnding (s.imgAbort .awaiting 0) 6 0 := by
  simp only [State.imgCommand, hc, ha]
  rfl

theorem State.imgCommand_leave (ha : imgAllowed s.img.st 7 = true) :
    s.imgCommand 7 = imgEnding (s.imgAbort .normal 0) 7 0 := by
  simp only [State.imgCommand, hc, ha]
  rfl

end

/-! ## A write of DL_IMG_CMD -/

section
variable {s t : State} {rq : Requester} (h : s.performs rq .img) (v : Word)
include h

/-- A write of DL_IMG_CMD acts on the state with its fault recorded, and is answered. -/
theorem State.writes_img {w : Word} {op : Nat} (hop : bitsOf w 31 28 = op)
    (ht : (s.noteCommand rq .img 0x040 (s.imgCause op)).imgCommand op = t) :
    s.writes rq .img 0x040 w = .next ((t.settle).answerWrite (accessOf rq .img 0x040)) := by
  subst hop
  exact (State.writes_command h rfl (by decide) rfl).trans (by rw [← ht]; rfl)

/-- A reserved OP is recorded as COMMAND, and reports BUSY or STATE. -/
theorem exec_imgReserved (hv : (v.extractLsb' 28 4).toNat = 0 ∨ 8 ≤ (v.extractLsb' 28 4).toNat) :
    exec (.registerWrite rq (regAt .img 0x040) v) s =
      .next (((imgReported (s.regFault .img .command rq 0x040) (v.extractLsb' 28 4).toNat
        (if s.img.cmd.isSome then 1 else 2)).settle).answerWrite (accessOf rq .img 0x040)) := by
  rw [exec_registerWrite]
  refine State.writes_img h (bitsOf_eq_toNat_extractLsb' v rfl) ?_
  rw [State.imgCause_reserved hv]
  cases hc : s.img.cmd with
  | some c => exact State.imgCommand_busy (s := s.regFault .img .command rq 0x040) (congrArg Option.isSome hc)
  | none => exact State.imgCommand_disallowed (s := s.regFault .img .command rq 0x040) hc (imgAllowed_reserved _ hv)

variable {op : Nat} (hop : 1 ≤ op ∧ op ≤ 7)
include hop

theorem State.writesOp_img (ht : (s.noteCommand rq .img 0x040 (s.imgCause op)).imgCommand op = t) :
    s.writesOp rq .img 0x040 op v = .next ((t.settle).answerWrite (accessOf rq .img 0x040)) := by
  refine State.writes_img h ?_ ht
  rw [bitsOf_setBits v (by decide)]
  omega

/-- While a command is busy another reports BUSY. -/
theorem State.writesOp_img_busy (hb : s.img.cmd.isSome = true) : s.writesOp rq .img 0x040 op v =
    .next (((imgReported s op 1).settle).answerWrite (accessOf rq .img 0x040)) := by
  refine State.writesOp_img h v hop ?_
  rw [State.imgCause_named hop, if_neg fun hn => Option.isSome_iff_ne_none.1 hb hn.1]
  exact State.imgCommand_busy hb

/-- A command that the state does not allow is recorded as STATE, and reports it. -/
theorem State.writesOp_img_disallowed (hc : s.img.cmd = none) (ha : imgAllowed s.img.st op = false) :
    s.writesOp rq .img 0x040 op v = .next (((imgReported (s.regFault .img .state rq 0x040) op 2).settle).answerWrite
      (accessOf rq .img 0x040)) := by
  refine State.writesOp_img h v hop ?_
  rw [State.imgCause_named hop, if_pos ⟨hc, ha⟩]
  exact State.imgCommand_disallowed (s := s.regFault .img .state rq 0x040) hc ha

/-- A command that the state allows records no fault. -/
theorem State.writesOp_img_allowed (ha : imgAllowed s.img.st op = true) (ht : s.imgCommand op = t) :
    s.writesOp rq .img 0x040 op v = .next ((t.settle).answerWrite (accessOf rq .img 0x040)) := by
  refine State.writesOp_img h v hop ?_
  rw [State.imgCause_named hop, if_neg fun hn => Bool.eq_false_iff.1 hn.2 ha]
  exact ht

end

/-- In NORMAL with no command busy CHECKED, ROLLBACK, EXPORT and PREPARE are each judged on their own. -/
theorem exec_imgNormal {s : State} {rq : Requester} (h : s.performs rq .img) (v : Word) (hc : s.img.cmd = none)
    (hst : s.img.st = .normal) :
    let answers := fun (c : Instr) (t : State) => exec c s = .next ((t.settle).answerWrite (accessOf rq .img 0x040))
    answers (.checked rq v) s.imgChecked ∧ answers (.rollback rq v) s.imgRollback ∧
      answers (.exportImg rq v) s.imgExport ∧ answers (.prepare rq v) s.imgPrepare := by
  have ha : (s.img.st == .normal) = true := by simpa using hst
  have acts {op : Nat} {t : State} (hop : 1 ≤ op ∧ op ≤ 7) := State.writesOp_img_allowed (t := t) h v hop
  refine ⟨acts (by decide) ha ?_, acts (by decide) ha ?_, acts (by decide) ha ?_, acts (by decide) ha ?_⟩ <;>
    simp [State.imgCommand, imgAllowed, hc, hst]

/-! ## What the commands of NORMAL do -/

section
variable {s : State}

theorem State.quiet_iff :
    s.quiet = true ↔ s.chains = [] ∧ s.tbl.cmd = none ∧ s.ctx.cmdBusy = false ∧ s.num.cmd = none := by
  simp [State.quiet, and_assoc]

theorem State.retainedAt_iff {w : Word} : s.retainedAt w = true ↔ ∃ c ∈ s.img.retained, c.step = w := by
  simp [State.retainedAt]

/-- CHECKED frees what is kept of the steps up to its own, from DL_IMG_CHECKED to the current one (R230). -/
theorem State.imgChecked_eq : s.imgChecked =
    if (s.img.argStep = s.img.checked ∨ stepAbove s.img.argStep s.img.checked = true) ∧
        (s.img.argStep = s.step ∨ stepBelow s.img.argStep s.step = true) then
      imgEnding { s with img := { s.img with
        checked := s.img.argStep
        log := s.img.log.filter (fun r => stepAbove r.1 s.img.argStep)
        retained := s.img.retained.filter (fun c => stepAbove c.step s.img.argStep) } } 1 0
    else imgEnding s 1 5 := by
  rw [← ite_not]
  refine if_congr ?_ rfl rfl
  simp only [Bool.or_eq_true, Bool.and_eq_true, Bool.not_eq_true', bne_iff_ne, not_and_or, not_or, Bool.not_eq_true, ne_eq]

/-- ROLLBACK asks for quiet, and then for a retained step above DL_IMG_CHECKED that is not above the current one (R231). -/
theorem State.imgRollback_eq : s.imgRollback =
    if ¬ s.quiet = true then imgEnding s 2 3
    else if ¬ s.retainedAt s.img.argStep = true ∨ stepAbove s.img.argStep s.step = true ∨
        stepAbove s.img.argStep s.img.checked = false then imgEnding s 2 4
    else { s with img := { s.img with cmd := some { op := 2, step := s.img.argStep } } } := by
  refine if_congr (by simp) rfl (if_congr ?_ rfl rfl)
  simp [or_assoc]

/-- EXPORT asks for a retained step, an aligned address and a fragment size of Table 11.6 (R239). -/
theorem State.imgExport_eq : s.imgExport =
    if ¬ s.retainedAt s.img.argStep = true then imgEnding s 3 4
    else if s.img.addr.toNat % 32 ≠ 0 ∨ s.img.frag.toNat < 4096 ∨ 1048576 < s.img.frag.toNat ∨
        s.img.frag.toNat ≠ 2 ^ Nat.log2 s.img.frag.toNat then imgEnding s 3 5
    else { s with img := { s.img with cmd := some {
      op := 3, step := s.img.argStep, gen := s.img.argGen, addr := s.img.addr.toNat, size := s.img.size.toNat
      frag := s.img.frag.toNat } } } := by
  refine if_congr (by simp) rfl (if_congr ?_ rfl rfl)
  simp only [Bool.or_eq_true, decide_eq_true_eq, or_assoc, gt_iff_lt]

/-- PREPARE asks for quiet and no open context (R242). -/
theorem State.imgPrepare_eq : s.imgPrepare =
    if ¬ s.quiet = true ∨ s.ctxOpen ≠ 0 then imgEnding s 4 3 else imgEnding (s.imgAwait .awaiting) 4 0 :=
  if_congr (by simp) rfl rfl

end

/-! ## The statement -/

/-- Settles O33: a write of DL_IMG_CMD is `imgCommand` with the fault of `imgCause`, and each command that the state allows goes
by its own lemma above. That the reads of the image checks stop (log entry 10), which commands count as busy for PREPARE (log
entry 57) and that BUSY comes before STATE (log entry 73) are the model's choices. -/
theorem imageCommands : Obligations.ImageCommands := by
  refine ⟨fun s rq v h => ?replay, fun s rq v h => ?imports⟩
  case replay =>
    have busy {op : Nat} (hop : 1 ≤ op ∧ op ≤ 7) := State.writesOp_img_busy h v hop
    have refused {op : Nat} (hop : 1 ≤ op ∧ op ≤ 7) := State.writesOp_img_disallowed h v hop
    refine ⟨exec_imgReserved h v,
      fun hb => ⟨busy (by decide) hb, busy (by decide) hb, busy (by decide) hb, busy (by decide) hb⟩,
      fun hc hst => ?_, fun hc hst => ?_⟩
    · have ha : (s.img.st == .normal) = false := by simpa using hst
      exact ⟨refused (by decide) hc ha, refused (by decide) hc ha, refused (by decide) hc ha, refused (by decide) hc ha⟩
    · obtain ⟨checked, rollback, exported, prepared⟩ := exec_imgNormal h v hc hst
      simp only [← State.quiet_iff, ← State.retainedAt_iff]
      refine ⟨fun hr => ?_, fun hr => ?_, fun hq => ?_, fun hq hr => ?_, fun hq hr hup hck => ?_, fun hr => ?_,
        fun hr hf => ?_, fun hr h32 hlo hhi hpow => ?_, fun hq => ?_, fun hq ho => ?_⟩
      · rw [checked, State.imgChecked_eq, if_neg hr]
      · rw [checked, State.imgChecked_eq, if_pos hr]
      · rw [rollback, State.imgRollback_eq, if_pos hq]
      · rw [rollback, State.imgRollback_eq, if_neg (not_not.2 hq), if_pos hr]
      · rw [rollback, State.imgRollback_eq, if_neg (not_not.2 hq), if_neg (by simp [hr, hup, hck])]
      · rw [exported, State.imgExport_eq, if_pos hr]
      · rw [exported, State.imgExport_eq, if_neg (not_not.2 hr), if_pos hf]
      · rw [exported, State.imgExport_eq, if_neg (not_not.2 hr), if_neg (by omega)]
      · rw [prepared, State.imgPrepare_eq, if_pos hq]
      · rw [prepared, State.imgPrepare_eq, if_neg (by simp [hq, ho])]
        rfl
  case imports =>
    have busy {op : Nat} (hop : 1 ≤ op ∧ op ≤ 7) := State.writesOp_img_busy h v hop
    have refused {op : Nat} (hop : 1 ≤ op ∧ op ≤ 7) := State.writesOp_img_disallowed h v hop
    have acts {op : Nat} {t : State} (hop : 1 ≤ op ∧ op ≤ 7) := State.writesOp_img_allowed (t := t) h v hop
    refine ⟨fun hb => ⟨busy (by decide) hb, busy (by decide) hb, busy (by decide) hb⟩, fun hc hst => ?_,
      fun hc hst => refused (by decide) hc (by rw [hst]; rfl), fun hc hst => ?_, fun hc hst => ?_⟩
    · have ha : imgAllowed s.img.st 5 = false ∧ imgAllowed s.img.st 6 = false := by
        rcases hst with hst | hst <;> rw [hst] <;> decide
      exact ⟨refused (by decide) hc ha.1, refused (by decide) hc ha.2, refused (by decide) hc ha.2⟩
    · have ha : imgAllowed s.img.st 5 = true := by
        rcases hst with hst | hst <;> rw [hst] <;> rfl
      exact acts (by decide) ha (State.imgCommand_fill hc ha)
    · have ha : imgAllowed s.img.st 6 = true := by
        rcases hst with hst | hst | hst <;> rw [hst] <;> rfl
      exact ⟨acts (by decide) ha (State.imgCommand_abort hc ha), acts (by decide) ha (State.imgCommand_leave hc ha)⟩

end Sys2Proof.Machine

/-! PROOFS. Chapter 11, a fill: a fragment's copy ends (R243), the image is checked (R244), the block resumes (R245). -/
namespace Sys2Proof.Machine

/-! ## What logging and a window that opens leave alone -/

/-- The step, the image unit and the messages in the node buffer. -/
def State.windowView (s : State) : Word × ImgUnit × List HeldMsg := (s.step, s.img, s.tree.held)

theorem foldl_windowView {α : Type} {f : State → α → State} (hf : ∀ s a, (f s a).windowView = s.windowView) (l : List α)
    (s : State) : (l.foldl f s).windowView = s.windowView :=
  List.foldlRecOn (motive := fun t : State => t.windowView = s.windowView) l f rfl fun t ht a _ => (hf t a).trans ht

section
variable (s : State)

@[simp] theorem State.windowView_pageEvent (p : Page) (b : Nat) : (s.pageEvent p b).windowView = s.windowView := rfl

@[simp] theorem State.windowView_count (n k : Nat) : (s.count n k).windowView = s.windowView := by
  unfold State.count
  split <;> rfl

@[simp] theorem State.windowView_pumpLogGo (n : Nat) : (s.pumpLogGo n).windowView = s.windowView := by
  induction n generalizing s with
  | zero => rfl
  | succ n ih =>
    rw [State.pumpLogGo]
    split
    · rfl
    split
    · rfl
    dsimp only
    split
    · exact ih _
    split
    · exact ih _
    · rfl

@[simp] theorem State.windowView_logEvent (code : Nat) (p : Page) (a0 a1 a2 a3 : Word) (tag : BitVec 16) :
    (s.logEvent code p a0 a1 a2 a3 tag).windowView = s.windowView := by
  have hc := s.windowView_count 32 1
  unfold State.logEvent
  dsimp only
  split
  · exact (State.windowView_pumpLogGo _ _).trans hc
  split
  · exact hc
  · exact hc

@[simp] theorem State.windowView_returnCredit (cls stream n : Nat) :
    (s.returnCredit cls stream n).windowView = s.windowView := by
  unfold State.returnCredit
  split <;> rfl

@[simp] theorem State.windowView_treeStale (m : TreeMsg) (own : Word) : (s.treeStale m own).windowView = s.windowView := by
  simp [State.treeStale]

@[simp] theorem State.windowView_dropCheck (c : CheckSt) (own : Word) : (s.dropCheck c own).windowView = s.windowView := by
  unfold State.dropCheck
  extract_lets tree s1 s2
  have hops : s2.windowView = s.windowView := foldl_windowView (fun t o => by simp) c.ops s1
  split
  · simpa using hops
  · exact hops

/-- What a token makes stale of the checks leaves the image unit and the node buffer alone (R182). -/
@[simp] theorem State.windowView_ageChecks : s.ageChecks.windowView = s.windowView :=
  (foldl_windowView (fun t c => t.windowView_dropCheck c t.step) _ _).trans rfl

@[simp] theorem State.windowView_logConfig (k : Nat) : (s.logConfig k).windowView = s.windowView := by
  unfold State.logConfig
  split
  · simp
  · rfl

/-- The snapshots of a token are the engine's own (R218). -/
@[simp] theorem State.windowView_scheduleToken : s.scheduleToken.windowView = s.windowView := by
  unfold State.scheduleToken
  split
  · exact foldl_windowView (fun t k => t.windowView_logConfig k) _ _
  · rfl

variable {s}

/-- An empty node buffer has nothing to judge. -/
theorem State.windowView_judgeAll (hheld : s.tree.held = []) : s.judgeAll.windowView = s.windowView := by
  simp [State.judgeAll, State.windowView, hheld]

theorem State.takeTokens_none (ht : s.img.tokens = []) : s.takeTokens = s := by
  have hs : ({ s with img := { s.img with tokens := [] } } : State) = s := by rw [← ht]
  simp [State.takeTokens, ht, hs]

end

/-! ## The intake (R243) -/

section
variable {s : State}

/-- The fragment whose copy is made leaves the intake, and the next is taken up. -/
theorem State.fragCopyDone_copied {f : FragIn} {rest : List FragIn} {i : Nat} (hq : s.img.fragQ = f :: rest)
    (hi : f.copying = some i) (hf : f.copied = true) (ha : i ∈ s.img.accepted) :
    s.fragCopyDone = ({ s with img := { s.img with fragQ := rest, copied := s.img.copied ++ [i] } } : State).intake
      rest.length := by
  simp [State.fragCopyDone, State.popFrag, hq, hi, hf, ha]

/-! ## The image checks (R244) -/

theorem State.imageChecks_start (hall : s.img.allCopied = true) (hc : s.img.checking = false) : s.imageChecks =
    ({ s with img := { s.img with checking := true, checkData := false, staged := [] } } : State).issueRead .imgCheck
      [(s.img.stage.toNat, 64)] := by
  simp [State.imageChecks, hall, hc]

/-- The checks conclude once the staged image is read. -/
theorem State.imageChecks_conclude (hall : s.img.allCopied = true) (hc : s.img.checking = true)
    (hd : s.img.checkData = true) : s.imageChecks =
      if s.imageFault s.img.staged = 0 then
        { s with img := { s.img with st := .resumable, checking := false, checkData := false } }
      else s.imageReject (s.imageFault s.img.staged) := by
  simp only [State.imageChecks, hall, hc, hd]
  cases s.imageFault s.img.staged <;> rfl

/-! ## The resumption (R245) -/

theorem State.applyDone_iff : s.applyDone = true ↔
    s.img.st = .applying ∧ s.img.applyLeft = [] ∧ ∀ w ∈ s.p0.writes, w.tag ≠ .imgApply := by
  simp [State.applyDone, and_assoc]

/-- The image unit of a block that resumes: nothing of the fill stays, and only the image's step is retained, by its copy. -/
def ImgUnit.resumed (u : ImgUnit) (copy : StepCopy) : ImgUnit :=
  { u.discard with
    st := .normal, checked := u.fillStep - 1, log := [], stopped := false, expect := none
    retained := if u.logSize = 0 then [] else [copy], everRetained := u.everRetained || u.logSize != 0 }

/-- The copy that a block keeps of the step it resumes at. -/
def State.resumeCopy (s : State) : StepCopy :=
  { step := s.img.fillStep, seed := s.applyConfig.num.seed, groups := s.applyConfig.sch.copyWords }

/-- A block that resumes, before the window of its step opens. -/
def State.resumeStart (s : State) : State :=
  { s.applyConfig with step := s.img.fillStep, stepSeen := true, img := s.img.resumed s.resumeCopy }

/-- A resumption opens the window of the image's step, and takes the tokens that waited. -/
theorem State.resume_eq (hd : s.applyDone = true) : s.resume =
    ((s.resumeStart.sentinelToken.ageChecks.judgeAll.scheduleToken.logEvent 0x61 .img s.img.fillStep 0 0 0).pageEvent
      .img 2).takeTokens := if_pos hd

/-- With no message and no token that waits, a block resumes at the image's step. -/
theorem State.windowView_resume (hd : s.applyDone = true) (ht : s.img.tokens = []) (hheld : s.tree.held = []) :
    s.resume.windowView = (s.img.fillStep, s.img.resumed s.resumeCopy, []) := by
  have hstart : s.resumeStart.sentinelToken.windowView = (s.img.fillStep, s.img.resumed s.resumeCopy, s.tree.held) := rfl
  have hage := (State.windowView_ageChecks _).trans hstart
  have hjudge := (State.windowView_judgeAll ((congrArg (·.2.2) hage).trans hheld)).trans hage
  have hview : ((s.resumeStart.sentinelToken.ageChecks.judgeAll.scheduleToken.logEvent 0x61 .img s.img.fillStep 0 0
      0).pageEvent .img 2).windowView = (s.img.fillStep, s.img.resumed s.resumeCopy, s.tree.held) := by
    rw [State.windowView_pageEvent, State.windowView_logEvent, State.windowView_scheduleToken, hjudge]
  rw [State.resume_eq hd, State.takeTokens_none ((congrArg (·.2.1.tokens) hview).trans ht), hview, hheld]

end

/-! ## The statement -/

/-- Settles O35: a copy's end and the checks go by the lemmas on `fragCopyDone` and `imageChecks`; the window that opens at a
resumption leaves the image unit alone, which is as `ImgUnit.resumed` says. That a rejected image stops the reads of its checks
(`imageReject`) is the model's choice (log entry 10). -/
theorem imageFill : Obligations.ImageFill := by
  refine ⟨fun s hr => ⟨fun f rest i hq hi hf ha => State.clocked_of_eq hr (State.fragCopyDone_copied hq hi hf ha),
    fun hall hc => State.clocked_of_eq hr (State.imageChecks_start hall hc),
    fun hall hc hd h0 => State.clocked_of_eq hr ((State.imageChecks_conclude hall hc hd).trans (if_pos h0)),
    fun hall hc hd h0 => State.clocked_of_eq hr ((State.imageChecks_conclude hall hc hd).trans (if_neg h0))⟩,
    fun s hr hst hleft hw ht hheld => ?_⟩
  have hview := State.windowView_resume (State.applyDone_iff.2 ⟨hst, hleft, hw⟩) ht hheld
  have hstep : s.resume.step = s.img.fillStep := congrArg (·.1) hview
  have himg : s.resume.img = s.img.resumed s.resumeCopy := congrArg (·.2.1) hview
  refine ⟨s.resume, State.clocked_of_eq hr rfl, hstep, ?_⟩
  rw [himg]
  exact ⟨rfl, rfl, rfl, rfl, rfl, apply_ite (List.map StepCopy.step) _ _ _⟩

end Sys2Proof.Machine

/-! PROOFS. The queue, one fc with nothing to do (log entry 4), the state after reset, and the invariant along a step. -/
namespace Sys2Proof.Machine

/-- Settles O1: `step` takes the queue apart. -/
theorem stepTakesFront : Obligations.StepTakesFront := by
  intro s c rest h
  simp only [step, h]

/-- Settles O3: the registers of `State.reset` are evaluated. -/
theorem resetRegisters : Obligations.ResetRegisters := by
  unfold Obligations.ResetRegisters
  decide +kernel

/-! ## The invariant (R94, R295, R300, R323, R331) -/

/-- Settles O4: at reset every header is clear, no counter has counted, nothing is held and nothing is on P0. -/
theorem resetSound : Obligations.ResetSound where
  headers := by decide
  counters := by decide
  queue := by decide
  sizes := by decide
  mode := by decide
  clock := by decide
  ids := by decide
  banks := by decide

/-- An answer whose next state is sound. -/
def Answer.Sound (a : Answer) : Prop := ∀ t, a = .next t → t.Inv

namespace Answer.Sound

variable {s t : State}

theorem next (h : t.Inv) : Answer.Sound (.next t) := by
  rintro _ ⟨⟩
  exact h

theorem access (b : BusReq) (h : s.Inv) : Answer.Sound (.next (s.portAccess b)) := next (State.portAccess_inv b h)

theorem clocked {act : State → State} (h : s.Inv) (ha : ∀ u : State, u.Inv → (act u).Inv) :
    Answer.Sound (s.clocked act) := by
  refine next ?_
  split
  · exact State.settle_inv (ha s h)
  · exact h

theorem taken {m : Header} {act : State → State} (h : s.Inv) (ha : ∀ u : State, u.Inv → (act u).Inv) :
    Answer.Sound (s.taken m act) :=
  next (State.takeP3_inv _ _ h fun _ _ hu => State.settle_inv (ha _ (State.returnP3_inv _ _ hu)))

theorem treeTaken {via : TreeVia} {m : TreeMsg} {act : State → State} (h : s.Inv) (ha : ∀ u : State, u.Inv → (act u).Inv) :
    Answer.Sound (s.treeTaken via m act) := by
  refine next ?_
  cases via with
  | p4 => exact State.takeP4_inv _ _ h fun _ hu => State.settle_inv (ha _ hu)
  | remote => exact State.takeP3_inv _ _ h fun _ _ hu => State.settle_inv (ha _ hu)

end Answer.Sound

/-- A check of the schedule engine goes on to the engine (R220). -/
theorem execTreeCheck_sound {s : State} (via : TreeVia) (m : TreeMsg) (h : s.Inv) : Answer.Sound (execTreeCheck via m s) := by
  unfold execTreeCheck
  refine .treeTaken h fun u hu => ?_
  have hc := State.takeCheck_inv m hu
  dsimp only
  split
  · exact State.skewResult_inv _ _ _ hc
  · exact hc

theorem execScrubRead_sound {s : State} (h : s.Inv) : Answer.Sound (execScrubRead s) := by
  unfold execScrubRead
  refine .clocked h fun u hu => ?_
  split
  · exact State.scrub_inv hu
  · exact hu

theorem execLifeCmdDone_sound {s : State} (h : s.Inv) : Answer.Sound (execLifeCmdDone s) := by
  refine .next ?_
  split
  · exact h
  · exact State.lifeDone_inv h

theorem execEventQueueFlush_sound {s : State} (h : s.Inv) : Answer.Sound (execEventQueueFlush s) := by
  refine .next ?_
  split
  · exact h
  · exact State.pumpLog_inv h

/-- Every command keeps a sound state sound. The commands that are not named are each one register access. -/
theorem exec_sound (c : Instr) {s : State} (h : s.Inv) : Answer.Sound (exec c s) := by
  cases c with
  | doorbell m => exact .taken h fun _ => State.takeBell_inv _
  | step m => exact .taken h fun _ => State.stepToken_inv _
  | imgFrag m => exact .taken h fun _ => State.fragBell_inv _
  | fault m => exact .taken h fun _ => State.faultNotice_inv _ _
  | treeTile m => exact .taken h fun _ => State.pairTile_inv _
  | arvBadType m => exact .taken h fun _ => State.takeBad_inv _
  | treeUp via m => exact .treeTaken h fun _ => State.takeHeld_inv _ _
  | treeDown via m => exact .treeTaken h fun _ => State.takeHeld_inv _ _
  | treeCheck via m => exact execTreeCheck_sound via m h
  | treeNodeMerge slot => exact .clocked h fun _ => State.treeNode_inv _
  | laneRequestEval g r => exact .next (State.settle_inv (State.takeLane_inv _ _ h))
  | laneRequestFetch g m => exact .next (State.settle_inv (State.takeLane_inv _ _ h))
  | spadReadData id data => exact .next (State.busGo_inv (State.readAnswer_inv _ _ h))
  | spadWriteAck id err => exact .next (State.writeAnswer_inv _ _ h)
  | submissionCheck => exact .clocked h fun _ => State.submissionStep_inv
  | workItemIssue n => exact .clocked h fun _ => State.issue_inv _
  | evaluationResult id => exact .clocked h fun _ => State.evalResult_inv _
  | sorusRefetch id => exact .clocked h fun _ => State.sorusRefetch_inv _
  | partialCapsuleFold slot => exact .clocked h fun _ => State.fold_inv _
  | rowBlockComplete slot => exact .clocked h fun _ => State.rowBlock_inv _
  | residencyFillDone => exact .clocked h fun _ => State.fillDone_inv
  | tensorWindowClose tid => exact .clocked h fun _ => State.closeWindow_inv _
  | etaFormed g => exact .clocked h fun _ => State.formEta_inv _
  | scrubRead => exact execScrubRead_sound h
  | sentinelJudge => exact .clocked h fun _ => State.judgeSample_inv
  | senSelftest => exact .clocked h fun _ => State.selfTest_inv
  | tblCmdDone => exact .clocked h fun _ => State.tblCmdDone_inv
  | epochSwitchAccept => exact .clocked h fun _ => State.switchAccept_inv
  | ctxCmdDone => exact .clocked h fun _ => State.ctxCmdDone_inv
  | tenCmdDone => exact .clocked h fun _ => State.tenCmdDone_inv
  | exportBegin => exact .clocked h fun _ => State.exportBegin_inv
  | imgCmdDone => exact .clocked h fun _ => State.imgCmdDone_inv
  | fragmentCopyDone => exact .clocked h fun _ => State.fragCopyDone_inv
  | imageChecks => exact .clocked h fun _ => State.imageChecks_inv
  | imgResumed => exact .clocked h fun _ => State.resume_inv
  | cntFrozen => exact .clocked h fun _ hs => State.busGo_inv (State.frozen_inv hs)
  | lifeCmdDone => exact execLifeCmdDone_sound h
  | eventQueueFlush => exact execEventQueueFlush_sound h
  | idleRest => exact .next (State.idleExpires_inv h)
  | enterResting => exact .next (State.enterResting_inv h)
  | dormantSecondCheck => exact .next (State.secondCheck_inv h)
  | recallAck via w => exact .next (State.recallAnswer_inv _ _ h)
  | dormantEntry => exact .next (State.enterDormant_inv h)
  | wakingDone => exact .next (State.wakingDone_inv h)
  | restingToReady => exact .next (State.nowReady_inv h)
  | vddOk ok => exact .next (State.vddReport_inv _ h)
  | guardBandEntry mV => exact .next (State.guardEntry_inv _ h)
  | guardBandRelease mV => exact .next (State.guardRelease_inv _ h)
  | grantExpiry => exact .next (State.grantExpires_inv h)
  | forecast f r => exact .next (State.forecastSlot_inv _ h)
  | ballastHoldEnd => exact .next (State.holdEnds_inv h)
  | outboundCreditWord g => exact .next (State.creditIn_inv _ _ h)
  | grant f | wake f | restRd f | restWr f => exact .next (State.restFrame_inv f h)
  | hostChipReset => exact .next (State.busGo_inv (State.startReset_inv 1 h))
  | alwaysOnPowerOn => exact .next (State.powerOn_inv h)
  | blockResetEnd => exact .next (State.endReset_inv h)
  | calibrationLoad trim guard coef thr => exact .next (State.loadCal_inv _ _ _ _ h)
  | gwdCompat3Change level => exact .next (State.strapLevel_inv _ h)
  | lifetimeSecond mV temp => exact .next (State.second_inv _ _ h)
  | portMessageAccepted m => exact .next (State.ingress_inv _ h)
  | _ => exact .access _ h

/-- Settles O5: one fc keeps the invariant, and so does every command (`exec_sound`); the queue is no part of it. -/
theorem stepKeepsSound : Obligations.StepKeepsSound := by
  intro s t h hst
  cases hp : s.pending with
  | nil =>
    simp only [step, hp] at hst
    cases hst
    exact State.busGo_inv (State.fcPasses_inv h)
  | cons c rest =>
    rw [stepTakesFront s c rest hp] at hst
    exact exec_sound c (s := { s with pending := rest }) h t hst

end Sys2Proof.Machine

/-! PROOFS. One fc with no command and no access that waits (R281, Table 16.5, log entry 4), and the bounds of the envelope. -/
namespace Sys2Proof.Machine

theorem step_of_pending_nil {s : State} (h : s.pending = []) : step s = .next s.fcPasses.busGo := by
  unfold step
  rw [h]

/-! ## Accesses that wait for nothing -/

theorem State.busGo_of_behind_nil {s : State} (h : s.port.behind = []) : s.busGo = s := by
  simp [State.busGo, h, State.drainBus]

theorem State.serveShadow_of_waits_nil {s : State} (h : s.port.waits = []) : s.serveShadow = s := by
  have hp : ({ s.port with waits := [] } : PortUnit) = s.port := by rw [← h]
  simp [State.serveShadow, h, hp]

@[simp] theorem State.count_port (s : State) (n k : Nat) : (s.count n k).port = s.port := by
  unfold State.count
  split <;> rfl

@[simp] theorem State.count_pwr (s : State) (n k : Nat) : (s.count n k).pwr = s.pwr := by
  unfold State.count
  split <;> rfl

@[simp] theorem State.working_count (s : State) (n k : Nat) : (s.count n k).working = s.working := by
  unfold State.count
  split <;> rfl

/-! ## The fc -/

/-- ACTIVE is READY with work issued (R272). -/
theorem State.active_eq (s : State) : s.active = (decide (s.pwr.st = .ready) && s.working) := by
  unfold State.active
  cases s.pwr.st <;> rfl

/-- FC_ACTIVE (34) or FC_READY (33) counts in READY, and neither elsewhere (Table 16.5). -/
def State.countFc (s : State) : State := if s.pwr.st = .ready then s.count (if s.working then 34 else 33) 1 else s

/-- DROOP_FC (26) counts in a guard band. -/
def State.countDroop (s : State) : State := if s.pwr.guardBand = 0 then s else s.count 26 1

@[simp] theorem State.countFc_port (s : State) : s.countFc.port = s.port := by
  unfold State.countFc
  split <;> simp

@[simp] theorem State.countFc_pwr (s : State) : s.countFc.pwr = s.pwr := by
  unfold State.countFc
  split <;> simp

@[simp] theorem State.countFc_working (s : State) : s.countFc.working = s.working := by
  unfold State.countFc
  split <;> simp

@[simp] theorem State.countDroop_port (s : State) : s.countDroop.port = s.port := by
  unfold State.countDroop
  split <;> simp

@[simp] theorem State.countDroop_pwr (s : State) : s.countDroop.pwr = s.pwr := by
  unfold State.countDroop
  split <;> simp

@[simp] theorem State.countDroop_working (s : State) : s.countDroop.working = s.working := by
  unfold State.countDroop
  split <;> simp

theorem State.countFc_eq (s : State) :
    (if s.active then s.count 34 1 else if s.pwr.st == .ready then s.count 33 1 else s) = s.countFc := by
  unfold State.countFc
  rw [State.active_eq]
  by_cases hr : s.pwr.st = .ready
  · cases hw : s.working <;> simp [hr]
  · simp [hr]

/-- The report of a change from or to ACTIVE is due exactly in READY where it is not what was shown last (R278). -/
theorem State.activeChange_eq (s : State) :
    s.activeChange = if s.pwr.st = .ready ∧ s.working ≠ s.pwr.shownActive then s.reportState else s := by
  unfold State.activeChange
  rw [State.active_eq]
  by_cases hr : s.pwr.st = .ready
  · simp [hr]
  · simp [hr]

@[simp] theorem State.reportState_port (s : State) : s.reportState.port = s.port := rfl

theorem State.activeChange_port (s : State) : s.activeChange.port = s.port := by
  rw [State.activeChange_eq]
  split <;> rfl

/-- What an fc does while FCLK runs and no read waits. -/
theorem State.fcPasses_runs {s : State} (h : s.fclkRuns = true) (hw : s.port.waits = []) :
    s.fcPasses = ({ s with fc := s.fc + 1 } : State).countFc.countDroop.envStep.activeChange := by
  have hport : (({ s with fc := s.fc + 1 } : State).countFc.countDroop.envStep.activeChange).port = s.port := by
    rw [State.activeChange_port, show ∀ t : State, t.envStep.port = t.port from fun _ => rfl, State.countDroop_port,
      State.countFc_port]
  unfold State.fcPasses
  rw [if_pos h]
  dsimp only
  rw [State.countFc_eq]
  refine State.serveShadow_of_waits_nil ?_
  exact (congrArg PortUnit.waits hport).trans hw

theorem State.fcPasses_gated {s : State} (h : s.fclkRuns = false) : s.fcPasses = s := by
  simp [State.fcPasses, h]

theorem State.fcPasses_port {s : State} (h : s.fclkRuns = true) (hw : s.port.waits = []) : s.fcPasses.port = s.port := by
  rw [State.fcPasses_runs h hw, State.activeChange_port, show ∀ t : State, t.envStep.port = t.port from fun _ => rfl,
    State.countDroop_port, State.countFc_port]

/-! ## The envelope (R281, R282) -/

/-- The most that E moves in one fc. -/
def State.envMost (s : State) : Nat := 4 * s.pwr.rateInForce * 65536 / s.pwr.fclk.toNat

theorem State.envNext_near (s : State) : s.envNext ≤ s.envAhead + s.envMost ∧ s.envAhead ≤ s.envNext + s.envMost := by
  unfold State.envNext
  dsimp only
  rw [show 4 * s.pwr.rateInForce * 65536 / s.pwr.fclk.toNat = s.envMost from rfl]
  generalize s.envMost = most
  simp only [Nat.max_def, Nat.min_def]
  split_ifs <;> omega

theorem State.clampEnv_le (s : State) (e : Nat) : s.clampEnv e ≤ s.pwr.icapActs * 65536 := Nat.min_le_left _ _

theorem State.idle_le_clampEnv {s : State} (h : s.pwr.st = .ready) (e : Nat) :
    Nat.min (s.asEnv s.idleCoef) (s.pwr.icapActs * 65536) ≤ s.clampEnv e := by
  unfold State.clampEnv
  simp only [h, beq_self_eq_true, if_true]
  exact Nat.le_min.2 ⟨Nat.min_le_right _ _, (Nat.min_le_left _ _).trans (Nat.le_max_left _ _)⟩

/-- Settles O2: with no read that waits an fc is its counts, the envelope's step and the report (`fcPasses_runs`), and the
envelope moves by at most the rate in force. -/
theorem emptyQueueIsOneFc : Obligations.EmptyQueueIsOneFc := by
  refine ⟨fun s hp hb => ⟨fun hg => ?_, fun hr hw => ?_⟩, fun s => ?_⟩
  · rw [step_of_pending_nil hp, State.fcPasses_gated hg, State.busGo_of_behind_nil hb]
  · have hport := State.fcPasses_port hr hw
    rw [step_of_pending_nil hp, State.busGo_of_behind_nil (hport ▸ hb), State.fcPasses_runs hr hw, State.activeChange_eq]
    have hpwr : (({ s with fc := s.fc + 1 } : State).countFc.countDroop.envStep).pwr = s.pwr := by
      rw [show ∀ t : State, t.envStep.pwr = t.pwr from fun _ => rfl, State.countDroop_pwr, State.countFc_pwr]
    have hwork : (({ s with fc := s.fc + 1 } : State).countFc.countDroop.envStep).working = s.working := by
      rw [show ∀ t : State, t.envStep.working = t.working from fun _ => rfl, State.countDroop_working,
        State.countFc_working]
      rfl
    have hdroop : ({ s with fc := s.fc + 1 } : State).countFc.countDroop =
        if s.pwr.guardBand = 0 then ({ s with fc := s.fc + 1 } : State).countFc
        else ({ s with fc := s.fc + 1 } : State).countFc.count 26 1 := by
      rw [State.countDroop, State.countFc_pwr]
    rw [hpwr, hwork, hdroop]
    rfl
  · exact ⟨s.envNext_near.1, s.envNext_near.2, fun e => ⟨s.clampEnv_le e, fun h => State.idle_le_clampEnv h e⟩⟩

end Sys2Proof.Machine

/-! PROOFS. Chapter 14, page headers: PG_ERR_INFO (R295) and DL_GLB_EVSUM (R296). -/
namespace Sys2Proof.Machine

theorem State.hdr_setHdr_ne (s : State) {p q : Page} (h : q ≠ p) (x : PageHdr) : (s.setHdr p x).hdr q = s.hdr q := by
  rw [State.hdr_setHdr, if_neg fun hpq => h hpq.1.symm]

/-! ## PG_ERR_INFO (R295) -/

/-- What PG_ERR_INFO holds after a fault: the first record stays, with OVF. -/
def ErrInfo.after (e : ErrInfo) (c : Cause) (rq : Requester) (w : BitVec 18) : ErrInfo :=
  if e.cause = 0 then
    { cause := BitVec.ofNat 4 c.code, ovf := false, src := (srcOf rq).1, core := (srcOf rq).2, waddr := w }
  else { e with ovf := true }

theorem State.recordFault_eq (s : State) (p : Page) (c : Cause) (rq : Requester) (w : BitVec 18) :
    s.recordFault p c rq w =
      s.setHdr p { s.hdr p with err := (s.hdr p).err.after c rq w, event := (s.hdr p).event ||| 1 } := rfl

theorem State.recordFault_hdr_self {s : State} (hl : s.hdrs.length = 20) (p : Page) (c : Cause) (rq : Requester)
    (w : BitVec 18) : (s.recordFault p c rq w).hdr p =
      { s.hdr p with err := (s.hdr p).err.after c rq w, event := (s.hdr p).event ||| 1 } := by
  rw [State.recordFault_eq, State.hdr_setHdr_self hl]

/-- A read of PG_ERR_INFO is no pair, no free value and no read that waits. -/
theorem State.readReg_errInfo {s : State} {p : Page} (h : s.pagePresent p = true) (rq : Requester) :
    s.readReg rq p 0x018 = (s.setHdr p { s.hdr p with err := {} }, (s.hdr p).err.word) := by
  have hpair : pairAt p 0x018 = none := by cases p <;> rfl
  unfold State.readReg
  simp [h, hpair, State.clearRead, State.regWord, State.headerWord]

theorem State.readWaits_header (s : State) (p : Page) {off : Nat} (h : off < 0x040) : s.readWaits p off = false := by
  unfold State.readWaits
  split
  · omega
  · omega
  · rfl

/-- Settles O12: `recordFault` puts `ErrInfo.after`, and the read puts the empty record. -/
theorem errorInfo : Obligations.ErrorInfo := by
  refine ⟨fun s p q c rq w hl => ?_, fun s rq p hs => ?_⟩
  · dsimp only
    rw [State.recordFault_hdr_self hl]
    refine ⟨rfl, fun h0 => ?_, fun h0 => ?_, fun hq => ?_⟩
    · cases rq <;> exact if_pos h0
    · simp only [ErrInfo.after, if_neg h0]
    · rw [State.recordFault_eq, State.hdr_setHdr_ne s hq]
  · have hread := State.reads_serves (off := 0x018) hs rfl (s.readWaits_header p (by decide))
    rw [State.readReg_errInfo hs.2.2] at hread
    simp only [exec, execPgErrInfoRead, Page.number_toNat]
    exact hread

/-! ## DL_GLB_EVSUM (R296) -/

/-- The page has an enabled event set. -/
def State.summons (s : State) (p : Page) : Bool := decide ((s.hdr p).event &&& (s.hdr p).eventEn ≠ 0)

theorem foldl_evsum (s : State) (l : List Page) (a : Nat) :
    l.foldl (fun a p => let h := s.hdr p; if h.event &&& h.eventEn = 0 then a else a + 2 ^ p.bit) a =
      a + ((l.filter s.summons).map (fun p => 2 ^ p.bit)).sum := by
  induction l generalizing a with
  | nil => rfl
  | cons p l ih =>
    rw [List.foldl_cons, ih]
    dsimp only
    by_cases h : (s.hdr p).event &&& (s.hdr p).eventEn = 0
    · have hp : ¬ s.summons p = true := fun hp => of_decide_eq_true hp h
      rw [if_pos h, List.filter_cons_of_neg hp]
    · have hp : s.summons p = true := decide_eq_true h
      rw [if_neg h, List.filter_cons_of_pos hp, List.map_cons, List.sum_cons, Nat.add_assoc]

/-- DL_GLB_EVSUM is the sum of the bits of the pages that have an enabled event set. -/
theorem State.evsum_eq (s : State) : s.evsum = (((Page.all.filter s.summons).map Page.bit).map (2 ^ ·)).sum := by
  unfold State.evsum
  rw [foldl_evsum, Nat.zero_add, List.map_map]
  rfl

theorem Page.all_sorted : (Page.all.map Page.bit).SortedLT := by
  rw [show Page.all.map Page.bit = List.range 20 from rfl]
  exact List.sortedLT_range 20

theorem Page.mem_all (p : Page) : p ∈ Page.all := by cases p <;> decide

/-- Its binary digits are those pages' bits, which rise in the order of Table 14.1. -/
theorem State.testBit_evsum (s : State) (p : Page) : s.evsum.testBit p.bit = s.summons p := by
  have hsorted : ((Page.all.filter s.summons).map Page.bit).SortedLT :=
    (Page.all_sorted.pairwise.sublist (List.filter_sublist.map _)).sortedLT
  have hbits := Nat.bitIndices_sum_map_two_pow hsorted
  rw [← State.evsum_eq] at hbits
  rw [Bool.eq_iff_iff, ← Nat.mem_bitIndices, hbits, List.mem_map_of_injective Page.bit_injective, List.mem_filter]
  exact and_iff_right p.mem_all

theorem State.pageEvent_hdr_self {s : State} (hl : s.hdrs.length = 20) (p : Page) (b : Nat) :
    (s.pageEvent p b).hdr p = { s.hdr p with event := (s.hdr p).event ||| BitVec.ofNat 32 (2 ^ b) } := by
  rw [State.pageEvent, State.hdr_setHdr_self hl]

/-- Settles O13: `testBit_evsum`, a read of DL_GLB_EVSUM, and `pageEvent`, which does not ask for PG_EVENT_EN. -/
theorem eventSummary : Obligations.EventSummary := by
  refine ⟨State.testBit_evsum, fun s rq hs => ?_, fun s p b hl hb => ?_⟩
  · have hword : s.regWord .glb 0x050 = BitVec.ofNat 32 s.evsum := by
      simp [State.regWord, State.glbWord, word]
    rw [State.busRead_serves (off := 0x050) hs rfl rfl, ← hword]
    simp [State.readReg, hs.2.2, pairAt, State.clearRead]
  · rw [State.pageEvent_hdr_self hl]
    refine ⟨rfl, ?_⟩
    rw [BitVec.getLsbD_or, BitVec.getLsbD_ofNat, Nat.testBit_two_pow_self, decide_eq_true hb, Bool.and_self, Bool.or_true]

end Sys2Proof.Machine

/-! PROOFS. Chapters 14 and 15, registers that firmware writes: plain RW registers, what they read back, PG_SEQ (R297), the
header registers and the W1C bits. -/
namespace Sys2Proof.Machine

/-! ## REGISTER_WRITE of a page that serves -/

theorem exec_registerWrite_serves {s : State} {rq : Requester} {p : Page} (h : s.serves rq p) {off : BitVec 12}
    (ho : off.toNat % 4 = 0) (v : Word) : exec (.registerWrite rq (regAt p off) v) s =
      .next ((s.writeReg rq p off.toNat v).answerWrite (accessOf rq p off.toNat)) := by
  rw [exec_registerWrite, State.portAccess_clear h.1]
  exact congrArg _ (State.busWrite_serves h ho v)

/-- The state that the write of a register leaves, where it is known. -/
theorem exec_registerWrite_of_eq {s t : State} {rq : Requester} {p : Page} {off : BitVec 12} {v : Word}
    (ho : off.toNat % 4 = 0) (ht : s.writeReg rq p off.toNat v = t) (h : s.serves rq p) :
    exec (.registerWrite rq (regAt p off) v) s = .next (t.answerWrite (accessOf rq p off.toNat)) :=
  ht ▸ exec_registerWrite_serves h ho v

/-! ## Plain registers -/

section
variable (s : State) (rq : Requester) (v : Word)

theorem State.writeReg_lifeIn (i : Fin 64) :
    s.writeReg rq .life (BitVec.ofNat 12 (0x200 + 4 * i.val)).toNat v =
      s.rw .life (BitVec.ofNat 12 (0x200 + 4 * i.val)).toNat { s with life := { s.life with inp := s.life.inp.set i.val v } } := by
  have hoff : (BitVec.ofNat 12 (0x200 + 4 * i.val)).toNat = 0x200 + 4 * i.val := by
    rw [BitVec.toNat_ofNat]; omega
  have hi : (0x200 + 4 * i.val - 0x200) / 4 = i.val := by omega
  have hc : isCommand .life (0x200 + 4 * i.val) v = false := rfl
  rw [hoff]
  unfold State.writeReg State.writeLife
  rw [if_neg (by omega), hc]
  simp only [Bool.false_eq_true, if_false]
  rw [if_neg (by omega), if_neg (by omega), if_neg (by omega), if_pos (by omega), hi]

theorem State.writeReg_fclk : s.writeReg rq .pwr 0x050 v =
    if 1200 ≤ (v.extractLsb' 0 12).toNat ∧ (v.extractLsb' 0 12).toNat ≤ 2600 then
      s.rw .pwr 0x050 { s with pwr := { s.pwr with fclk := v.extractLsb' 0 12 } }
    else s.regFault .pwr .value rq 0x050 := by
  have hf : bitsOf v 11 0 = (v.extractLsb' 0 12).toNat := bitsOf_eq_toNat_extractLsb' v rfl
  have hof : BitVec.ofNat 12 (bitsOf v 11 0) = v.extractLsb' 0 12 := by rw [hf, BitVec.ofNat_toNat, BitVec.setWidth_eq]
  have hw : s.writeReg rq .pwr 0x050 v = if 1200 ≤ bitsOf v 11 0 ∧ bitsOf v 11 0 ≤ 2600 then
      s.rw .pwr 0x050 { s with pwr := { s.pwr with fclk := BitVec.ofNat 12 (bitsOf v 11 0) } }
    else s.regFault .pwr .value rq 0x050 := rfl
  rw [hw, hof, hf]

end

/-- Settles O17: each register is one case of `writeReg`. -/
theorem plainRegisters : Obligations.PlainRegisters := by
  intro s rq v
  dsimp only
  have plain : ∀ {p : Page} {off : BitVec 12} {t : State}, off.toNat % 4 = 0 → s.writeReg rq p off.toNat v = t → s.serves rq p →
      exec (.registerWrite rq (regAt p off) v) s = .next (t.answerWrite (accessOf rq p off.toNat)) :=
    exec_registerWrite_of_eq
  refine ⟨plain rfl rfl, plain rfl rfl, fun h1 h2 => ?_, fun hf => ?_, fun i => ?_, plain rfl rfl, plain rfl rfl,
    plain rfl rfl, plain rfl rfl, fun i => ?_, plain rfl rfl, plain rfl rfl, plain rfl rfl, plain rfl rfl, plain rfl rfl,
    plain rfl rfl, plain rfl rfl, fun i => ?_, plain rfl rfl, plain rfl rfl, plain rfl rfl, plain rfl rfl, plain rfl rfl,
    plain rfl rfl, plain rfl rfl, plain rfl rfl, plain rfl rfl, plain rfl rfl⟩
  · exact plain rfl ((s.writeReg_fclk rq v).trans (if_pos ⟨h1, h2⟩))
  · exact plain rfl ((s.writeReg_fclk rq v).trans (if_neg (by omega)))
  · exact plain (by rw [BitVec.toNat_ofNat]; omega) (s.writeReg_lifeIn rq v i)
  · refine plain (by rw [BitVec.toNat_ofNat]; omega) ?_
    fin_cases i <;> rfl
  · refine plain (by rw [BitVec.toNat_ofNat]; omega) ?_
    fin_cases i <;> rfl

end Sys2Proof.Machine

/-! PROOFS. Chapter 14, what a written register reads back (Table 0.4), PG_SEQ (R297), and the W1C bits. -/
namespace Sys2Proof.Machine

/-! ## Fields of a register as bits of the written word -/

/-- The bits [lo + len - 1 : lo]. -/
def fieldMask (lo len : Nat) : Word := BitVec.ofNat 32 ((2 ^ len - 1) * 2 ^ lo)

/-- A field put back at its place. -/
theorem ofNat_field (v : Word) (lo len : Nat) :
    BitVec.ofNat 32 ((v.extractLsb' lo len).toNat * 2 ^ lo) = v &&& fieldMask lo len := by
  apply BitVec.eq_of_getLsbD_eq
  intro i hi
  simp only [fieldMask, BitVec.getLsbD_and, BitVec.getLsbD_ofNat, Nat.testBit_mul_two_pow, BitVec.testBit_toNat,
    BitVec.getLsbD_extractLsb', Nat.testBit_two_pow_sub_one, hi, decide_true, Bool.true_and]
  by_cases hlo : lo ≤ i
  · simp [hlo, Nat.add_sub_cancel' hlo, Bool.and_comm]
  · simp [hlo]

/-- Fields in places of their own add up to the bits of all of them. -/
theorem and_add_and {v m n : Word} (h : m &&& n = 0) : (v &&& m) + (v &&& n) = v &&& (m ||| n) := by
  rw [BitVec.add_eq_or_of_and_eq_zero, BitVec.and_or_distrib_left]
  rw [show (v &&& m) &&& (v &&& n) = v &&& (m &&& n) by ac_nf, h]
  simp

theorem toNat_bit (v : Word) (i : Nat) : b2n (v.getLsbD i) = (v.extractLsb' i 1).toNat := by
  rw [BitVec.extractLsb'_toNat, pow_one, ← BitVec.testBit_toNat, Nat.testBit_eq_decide_div_mod_eq, Nat.shiftRight_eq_div_pow, b2n]
  rcases Nat.mod_two_eq_zero_or_one (v.toNat / 2 ^ i) with h | h <;> simp [h]

theorem setWidth_field (v : Word) (len : Nat) : (v.extractLsb' 0 len).setWidth 32 = v &&& fieldMask 0 len := by
  rw [← ofNat_field, pow_zero, Nat.mul_one, BitVec.ofNat_toNat]

theorem word_two (v : Word) (a b la lb : Nat) (h : fieldMask a la &&& fieldMask b lb = 0) :
    word [((v.extractLsb' a la).toNat, a), ((v.extractLsb' b lb).toNat, b)] = v &&& (fieldMask a la ||| fieldMask b lb) := by
  simp only [word, List.foldl_cons, List.foldl_nil, Nat.zero_add, BitVec.ofNat_add, ofNat_field]
  exact and_add_and h

theorem word_three (v : Word) (a b c la lb lc : Nat) (h : fieldMask a la &&& fieldMask b lb = 0)
    (hc : (fieldMask a la ||| fieldMask b lb) &&& fieldMask c lc = 0) :
    word [((v.extractLsb' a la).toNat, a), ((v.extractLsb' b lb).toNat, b), ((v.extractLsb' c lc).toNat, c)] =
      v &&& (fieldMask a la ||| fieldMask b lb ||| fieldMask c lc) := by
  simp only [word, List.foldl_cons, List.foldl_nil, Nat.zero_add, BitVec.ofNat_add, ofNat_field]
  rw [and_add_and h, and_add_and hc]

/-! ## PG_SEQ (R297) -/

/-- The register does not show the page headers. -/
def headerless (p : Page) (off : Nat) : Prop :=
  ∀ (s : State) (q : Page) (h : PageHdr), (s.setHdr q h).regWord p off = s.regWord p off

theorem headerless_of_register {p : Page} (hp : p ≠ .glb) {off : Nat} (ho : 0x040 ≤ off) : headerless p off := by
  intro s q h
  unfold State.regWord
  rw [if_neg (by omega), if_neg (by omega)]
  cases p with
  | glb => exact absurd rfl hp
  | _ => rfl

theorem State.rw_regWord {s t : State} {p : Page} {off : Nat} (h : headerless p off) :
    (s.rw p off t).regWord p off = t.regWord p off := by
  unfold State.rw
  split
  · rfl
  · exact h t p _

/-- PG_SEQ counts a write of RW fields exactly where it changed the register, and no other header moves. -/
theorem State.rw_hdr {s t : State} (hl : s.hdrs.length = 20) (ht : t.hdrs = s.hdrs) (p q : Page) (off : Nat) :
    (s.rw p off t).hdr q = { s.hdr q with
      seq := if q = p ∧ t.regWord p off ≠ s.regWord p off then (s.hdr q).seq + 1 else (s.hdr q).seq } := by
  have hh : ∀ r, t.hdr r = s.hdr r := fun r => by rw [State.hdr, State.hdr, ht]
  have hlt : t.hdrs.length = 20 := ht ▸ hl
  unfold State.rw
  by_cases hv : t.regWord p off = s.regWord p off
  · simp [hv, hh]
  · rw [if_neg hv]
    by_cases hq : q = p
    · subst hq
      simp [State.bumpSeq, State.hdr_setHdr_self hlt, hh, hv]
    · simp [State.bumpSeq, State.hdr_setHdr_ne t hq, hh, hq]

/-- A register that takes the bits `m` of what is written, and moves no header. -/
def State.takesBits (s : State) (rq : Requester) (v : Word) (p : Page) (off : BitVec 12) (m : Word) : Prop :=
  ∃ t : State, s.writeReg rq p off.toNat v = s.rw p off.toNat t ∧ t.hdrs = s.hdrs ∧ t.regWord p off.toNat = v &&& m

theorem State.takesBits_readsBack {s : State} {rq : Requester} {v : Word} {p : Page} {off : BitVec 12} {m : Word}
    (ht : s.takesBits rq v p off m) (ho : off.toNat % 4 = 0) (hr : headerless p off.toNat) (hs : s.serves rq p)
    (hl : s.hdrs.length = 20) :
    ∃ t : State, exec (.registerWrite rq (regAt p off) v) s = .next (t.answerWrite (accessOf rq p off.toNat)) ∧
      t.regWord p off.toNat = v &&& m ∧
      (t.hdr p).seq = (if v &&& m = s.regWord p off.toNat then (s.hdr p).seq else (s.hdr p).seq + 1) ∧
      ∀ q : Page, t.hdr q = { s.hdr q with seq := if q = p then (t.hdr q).seq else (s.hdr q).seq } := by
  obtain ⟨u, hw, hu, hm⟩ := ht
  refine ⟨s.rw p off.toNat u, exec_registerWrite_of_eq ho hw hs, (State.rw_regWord hr).trans hm, ?_, fun q => ?_⟩
  · rw [State.rw_hdr hl hu, hm]
    by_cases h : v &&& m = s.regWord p off.toNat <;> simp [h]
  · rw [State.rw_hdr hl hu]
    by_cases h : q = p <;> simp [h]

/-- Every register of the list takes its bits: its fields stand at the places that Table 0.4's register tables give. -/
theorem State.takesBits_rwRegisters (s : State) (rq : Requester) (v : Word) :
    ∀ r ∈ rwRegisters, s.takesBits rq v r.1 r.2.1 r.2.2 := by
  have whole : v = v &&& 0xFFFFFFFF := (BitVec.and_allOnes (x := v)).symm
  have idle : word [((v.extractLsb' 16 16).toNat, 16), ((v.extractLsb' 8 8).toNat, 8), (b2n (v.getLsbD 0), 0)] = v &&& 0xFFFFFF01 :=
    toNat_bit v 0 ▸ word_three v 16 8 0 16 8 1 rfl rfl
  have crz : word [(b2n (v.getLsbD 16), 16), ((v.extractLsb' 8 8).toNat, 8), ((v.extractLsb' 0 5).toNat, 0)] = v &&& 0x0001FF1F :=
    toNat_bit v 16 ▸ word_three v 16 8 0 1 8 5 rfl rfl
  have sen : word [((v.extractLsb' 8 5).toNat, 8), (b2n (v.getLsbD 1), 1), (b2n (v.getLsbD 0), 0)] = v &&& 0x00001F03 :=
    toNat_bit v 1 ▸ toNat_bit v 0 ▸ word_three v 8 1 0 5 1 1 rfl rfl
  simp only [rwRegisters, List.forall_mem_cons]
  exact ⟨⟨_, rfl, rfl, idle⟩,
    ⟨_, rfl, rfl, word_three v 16 12 0 10 4 8 rfl rfl⟩,
    ⟨_, rfl, rfl, whole⟩,
    ⟨_, rfl, rfl, setWidth_field v 16⟩,
    ⟨_, rfl, rfl, setWidth_field v 16⟩,
    ⟨_, rfl, rfl, crz⟩,
    ⟨_, rfl, rfl, setWidth_field v 21⟩,
    ⟨_, rfl, rfl, setWidth_field v 20⟩,
    ⟨_, rfl, rfl, rfl⟩,
    ⟨_, rfl, rfl, rfl⟩,
    ⟨_, rfl, rfl, setWidth_field v 17⟩,
    ⟨_, rfl, rfl, word_two v 16 0 5 16 rfl⟩,
    ⟨_, rfl, rfl, setWidth_field v 20⟩,
    ⟨_, rfl, rfl, setWidth_field v 2⟩,
    ⟨_, rfl, rfl, whole⟩,
    ⟨_, rfl, rfl, sen⟩,
    ⟨_, rfl, rfl, whole⟩,
    ⟨_, rfl, rfl, setWidth_field v 16⟩,
    ⟨_, rfl, rfl, whole⟩,
    ⟨_, rfl, rfl, whole⟩,
    ⟨_, rfl, rfl, whole⟩,
    ⟨_, rfl, rfl, whole⟩,
    ⟨_, rfl, rfl, setWidth_field v 10⟩,
    ⟨_, rfl, rfl, whole⟩,
    ⟨_, rfl, rfl, word_two v 4 0 4 4 rfl⟩, nofun⟩

theorem rwRegisters_registers : ∀ r ∈ rwRegisters, r.2.1.toNat % 4 = 0 ∧ r.1 ≠ .glb ∧ 0x040 ≤ r.2.1.toNat := by decide

/-- Settles O18: every register of the list takes its bits, and shows no header. -/
theorem writesReadBack : Obligations.WritesReadBack := by
  intro s rq v r hr hs hl
  obtain ⟨haligned, hpage, hoff⟩ := rwRegisters_registers r hr
  exact State.takesBits_readsBack (s.takesBits_rwRegisters rq v r hr) haligned (headerless_of_register hpage hoff) hs hl

end Sys2Proof.Machine

/-! PROOFS. Chapters 14 and 15, header registers and W1C bits, and the reads that clear, answer at once or wait (Table 0.4). -/
namespace Sys2Proof.Machine

/-- Settles O19: the header registers are `writeHeader`, each W1C bit one case of `writeReg`. -/
theorem statusWrites : Obligations.StatusWrites := by
  intro s rq v
  dsimp only
  have writes : ∀ {p : Page} {off : BitVec 12} {t : State}, off.toNat % 4 = 0 → s.writeReg rq p off.toNat v = t →
      s.serves rq p → exec (.registerWrite rq (regAt p off) v) s = .next (t.answerWrite (accessOf rq p off.toNat)) :=
    exec_registerWrite_of_eq
  refine ⟨fun p => writes rfl rfl, fun p => writes rfl rfl, fun p => writes rfl rfl, fun p off ho => ?_, writes rfl rfl,
    writes rfl rfl, writes rfl rfl, writes rfl rfl, writes rfl rfl, writes rfl rfl⟩
  simp only [List.mem_cons, List.not_mem_nil, or_false] at ho
  rcases ho with rfl | rfl | rfl | rfl | rfl <;> exact writes rfl rfl

/-! ## Reads (RC of Table 0.4) -/

/-- A register with no free value that is no half of a pair: a read returns it and clears what `clearRead` says. -/
def plainRead (p : Page) (off : Nat) : Bool :=
  pairAt p off == none && p != .dbg && !(p == .img && off == 0x058) && !(p == .ctx && off == 0x05C)

theorem State.readReg_plain {s : State} {p : Page} {off : Nat} (hp : s.pagePresent p = true) (h : plainRead p off = true)
    (rq : Requester) : s.readReg rq p off = (s.clearRead p off, s.regWord p off) := by
  simp only [plainRead, Bool.and_eq_true, beq_iff_eq, bne_iff_ne, Bool.not_eq_true', Bool.and_eq_false_iff,
    beq_eq_false_iff_ne] at h
  obtain ⟨⟨⟨hpair, hdbg⟩, himg⟩, hctx⟩ := h
  unfold State.readReg
  rw [hp, hpair]
  have hi : ¬ (p = .img ∧ off = 0x058 ∧ s.img.retained.isEmpty = true ∧ s.img.everRetained = true) := by tauto
  have hc : ¬ (p = .ctx ∧ off = 0x05C) := by tauto
  simp only [Bool.not_true, Bool.false_eq_true, if_false]
  rw [if_neg fun h => hdbg h.1, if_neg hi, if_neg hc]

/-- A read of a plain register that is answered at once. -/
theorem State.reads_plain {s : State} {rq : Requester} {p : Page} (h : s.serves rq p) {off : Nat} (ho : off % 4 = 0)
    (hp : plainRead p off = true) (hw : s.readWaits p off = false) {t : State} {w : Word} (ht : s.clearRead p off = t)
    (hv : s.regWord p off = w) : s.reads rq p off = .next (t.answerRead (accessOf rq p off) w) := by
  rw [State.reads_serves h ho hw, State.readReg_plain h.2.2 hp, ht, hv]

/-- A read of an upper half that its requester has not captured: the current one, and an RC pair clears (log entry 95). -/
theorem State.reads_pairHi {s : State} {rq : Requester} {p : Page} {off : Nat} {pid : PairId} (h : s.serves rq p)
    (hp : pairAt p off = some (pid, true)) (hn : lookupKey (rq, pid) s.pairs.captured = none) :
    s.reads rq p off = .next ((s.clearPair pid).answerRead (accessOf rq p off) ((s.pairValue pid).extractLsb' 32 32)) := by
  rw [State.reads_serves h (pairAt_aligned hp) (s.readWaits_pairHi hp), State.readReg_pair h.2.2 hp,
    State.readPair_hi_current hn]

/-! ## DL_CTX_QRESULT (R316) and DL_CNT_SHADOW_LO (R305) -/

theorem State.reads_qresult {s : State} {rq : Requester} (h : s.serves rq .ctx) (hw : s.readWaits .ctx 0x05C = false) :
    s.reads rq .ctx 0x05C = .next (s.answerRead (accessOf rq .ctx 0x05C) (s.queryWord s.ctx.query.toNat)) := by
  rw [State.reads_serves h rfl hw]
  simp [State.readReg, h.2.2, pairAt]

/-- A read that waits for the copy of its counter. -/
theorem State.reads_shadowWaits {s : State} {rq : Requester} (h : s.serves rq .cnt) (hw : s.readWaits .cnt 0x054 = true) :
    s.reads rq .cnt 0x054 = .next (s.waitRead (accessOf rq .cnt 0x054) true s.cnt.index.toNat) := by
  unfold State.reads
  rw [State.portAccess_clear h.1]
  simp [State.perform, State.busRead, accessOf, h.2.1, h.2.2, hw]

/-- Settles O16: the plain registers clear by `clearRead`, the upper halves by `clearPair`; DL_CTX_QRESULT and
DL_CNT_SHADOW_LO wait as `readWaits` says. That an upper half read without a capture clears is the model's reading (log
entry 95). -/
theorem readsThatAct : Obligations.ReadsThatAct := by
  refine ⟨fun s rq => ?_, fun s rq => ⟨fun h hl => ?_, fun h hl hd => ?_, fun h hc hf => ?_⟩⟩
  · have plain : ∀ {p : Page} {off : Nat} {t : State} {w : Word}, off % 4 = 0 → plainRead p off = true →
        s.readWaits p off = false → s.clearRead p off = t → s.regWord p off = w → s.serves rq p →
        s.reads rq p off = .next (t.answerRead (accessOf rq p off) w) :=
      fun ho hp hw ht hv h => State.reads_plain h ho hp hw ht hv
    have hspad : s.regWord .port 0x05C =
        match s.port.spadErr with | some a => BitVec.ofNat 32 (2 ^ 31 + a.toNat) | none => 0 := by
      simp only [State.regWord, State.portWord]
      cases s.port.spadErr <;> simp [word]
    exact ⟨plain rfl rfl rfl rfl rfl, plain rfl rfl rfl rfl rfl, plain rfl rfl rfl rfl rfl, plain rfl rfl rfl rfl rfl,
      plain rfl rfl rfl rfl rfl, plain rfl rfl rfl rfl hspad, plain rfl rfl rfl rfl rfl, plain rfl rfl rfl rfl rfl,
      plain rfl rfl rfl rfl rfl, fun h => State.reads_pairHi h rfl, fun h => State.reads_pairHi h rfl⟩
  · have hw : s.readWaits .ctx 0x05C = false := by simp [State.readWaits, Nat.not_lt.2 hl]
    refine (State.reads_qresult h hw).trans ?_
    rw [State.queryWord, if_neg (Nat.not_lt.2 hl)]
  · have hw : s.readWaits .ctx 0x05C = false := by
      rcases hd with hd | hd <;> simp [State.readWaits, hd]
    refine (State.reads_qresult h hw).trans ?_
    rw [State.queryWord, if_pos hl]
  · have hw : s.readWaits .cnt 0x054 = true := by
      simp only [State.readWaits, State.shadowReady, hc]
      simpa using hf
    exact State.reads_shadowWaits h hw

end Sys2Proof.Machine

/-! PROOFS. Chapters 3, 11, 13, 14 and 15, registers with a rule of their own: the event ring (R320), the replay log and the
staging area (R304), the weights of R69, the calibration page (R292, R302, R335) and the debug page (R306). -/
namespace Sys2Proof.Machine

/-- A command that is a write of one register, where what the write leaves is known. -/
theorem State.writes_of_eq {s t : State} {rq : Requester} {p : Page} (h : s.serves rq p) {off : Nat} {v : Word}
    (ho : off % 4 = 0) (ht : s.writeReg rq p off v = t) : s.writes rq p off v = .next (t.answerWrite (accessOf rq p off)) :=
  ht ▸ State.writes_serves h ho v

/-! ## What logging leaves alone -/

/-- The state without what an event that is logged may touch: headers, counters, the ring, P0, its current and what is sent. -/
def State.unlogged (s : State) : State := { s with hdrs := [], cnt := {}, log := {}, p0 := {}, env := {}, out := [] }

@[simp] theorem State.unlogged_pageEvent (s : State) (p : Page) (b : Nat) : (s.pageEvent p b).unlogged = s.unlogged := rfl

@[simp] theorem State.unlogged_count (s : State) (n k : Nat) : (s.count n k).unlogged = s.unlogged := by
  unfold State.count
  split <;> rfl

@[simp] theorem State.unlogged_pumpLogGo (n : Nat) (s : State) : (s.pumpLogGo n).unlogged = s.unlogged := by
  induction n generalizing s with
  | zero => rfl
  | succ n ih =>
    rw [State.pumpLogGo]
    split
    · rfl
    split
    · rfl
    dsimp only
    split
    · exact ih _
    split
    · exact ih _
    · rfl

@[simp] theorem State.unlogged_logEvent (s : State) (code : Nat) (p : Page) (a0 a1 a2 a3 : Word) (tag : BitVec 16) :
    (s.logEvent code p a0 a1 a2 a3 tag).unlogged = s.unlogged := by
  have hc := s.unlogged_count 32 1
  unfold State.logEvent
  dsimp only
  split
  · exact (State.unlogged_pumpLogGo _ _).trans hc
  split
  · exact hc
  · exact hc

@[simp] theorem State.img_logEvent (s : State) (code : Nat) (p : Page) (a0 a1 a2 a3 : Word) (tag : BitVec 16) :
    (s.logEvent code p a0 a1 a2 a3 tag).img = s.img := by
  have h := congrArg State.img (s.unlogged_logEvent code p a0 a1 a2 a3 tag)
  exact h

/-! ## The event ring (R320) -/

/-- Settles O21: each write is one case of `writeLog`. That STATE comes before VALUE is the model's reading (log entry 54). -/
theorem logRegisters : Obligations.LogRegisters := by
  intro s rq v h
  have writes : ∀ {off : Nat} {t : State}, off % 4 = 0 → s.writeReg rq .log off v = t →
      s.writes rq .log off v = .next (t.answerWrite (accessOf rq .log off)) := State.writes_of_eq h
  refine ⟨writes rfl rfl, writes rfl ?_, fun he => ?_, fun he ha => ?_, fun he ha => ?_⟩
  · show s.writeLogCtrl v = _
    unfold State.writeLogCtrl
    simp only [bitOf, Bool.and_eq_true, Bool.not_eq_true']
  · have state : ∀ size : Bool, s.writeLogRing rq size v = s.regFault .log .state rq (if size then 0x048 else 0x044) :=
      fun _ => if_pos he
    exact ⟨writes rfl (state false), writes rfl (state true)⟩
  · have value : ∀ size : Bool, s.writeLogRing rq size v = s.regFault .log .value rq (if size then 0x048 else 0x044) := by
      intro size
      simp [State.writeLogRing, he, ha]
    exact ⟨writes rfl (value false), writes rfl (value true)⟩
  · refine ⟨writes rfl ?_, fun hv => writes rfl ?_⟩
    · show s.writeLogRing rq false v = _
      simp [State.writeLogRing, he, ha]
    · show s.writeLogRing rq true v = _
      have hbig : ¬ 16777216 < v.toNat := by omega
      simp [State.writeLogRing, he, ha, hbig]

/-! ## The replay log and the staging area (R304) -/

/-- Nothing runs that needs the log, as `writeImgLog` judges it. -/
theorem State.imgLogFree_iff (s : State) : (!s.quiet || s.img.cmd.isSome) = false ↔
    s.chains = [] ∧ s.tbl.cmd = none ∧ s.ctx.cmdBusy = false ∧ s.num.cmd = none ∧ s.img.cmd = none := by
  simp [State.quiet, and_assoc]

/-- Releases a retained step, with REPLAY_UNCOVERED where it is above DL_IMG_CHECKED as it stands (R229). -/
def releaseRetained (checked : Word) (u : State) (c : StepCopy) : State :=
  if stepAbove c.step checked then (u.freeStep c.step).logEvent 0x58 .img c.step 0 0 0 else u.freeStep c.step

theorem releaseRetained_checked (checked : Word) (u : State) (c : StepCopy) :
    (releaseRetained checked u c).img.checked = u.img.checked := by
  unfold releaseRetained
  split
  · rw [State.img_logEvent]; rfl
  · rfl

/-- DL_IMG_CHECKED stands while steps are released, so that each step is judged by its value at the write. -/
theorem foldl_releaseStep (l : List StepCopy) (u : State) :
    l.foldl (fun (u : State) c => if stepAbove c.step u.img.checked then u.releaseStep c.step else u.freeStep c.step) u =
      l.foldl (releaseRetained u.img.checked) u := by
  induction l generalizing u with
  | nil => rfl
  | cons c l ih =>
    rw [List.foldl_cons, List.foldl_cons]
    exact (ih (releaseRetained u.img.checked u c)).trans (by rw [releaseRetained_checked])

theorem releaseRetained_retained (checked : Word) (u : State) (c : StepCopy) :
    (releaseRetained checked u c).img.retained = u.img.retained.filter (fun d => d.step != c.step) := by
  unfold releaseRetained
  split
  · rw [State.img_logEvent]; rfl
  · rfl

/-- A copy is gone once its step has been released. -/
theorem mem_foldl_releaseRetained {checked : Word} (l : List StepCopy) (u : State) {d : StepCopy}
    (h : d ∈ (l.foldl (releaseRetained checked) u).img.retained) :
    d ∈ u.img.retained ∧ ∀ c ∈ l, d.step ≠ c.step := by
  induction l generalizing u with
  | nil => exact ⟨h, nofun⟩
  | cons c l ih =>
    obtain ⟨hu, hl⟩ := ih _ h
    rw [releaseRetained_retained, List.mem_filter] at hu
    refine ⟨hu.1, fun c' hc' => ?_⟩
    rcases List.mem_cons.1 hc' with rfl | hc'
    · simpa using hu.2
    · exact hl c' hc'

theorem retained_released (s : State) (checked : Word) :
    (s.img.retained.foldl (releaseRetained checked) s).img.retained = [] :=
  List.eq_nil_iff_forall_not_mem.2 fun _ hd =>
    have ⟨hmem, hne⟩ := mem_foldl_releaseRetained _ s hd
    hne _ hmem rfl

section
variable {s : State} (rq : Requester) {v : Word}

theorem State.writeImgLog_busy (hf : ¬ (!s.quiet || s.img.cmd.isSome) = false) (size : Bool) :
    s.writeImgLog rq size v = s.regFault .img .state rq (if size then 0x060 else 0x05C) :=
  if_pos (Bool.not_eq_false _ ▸ hf)

theorem State.writeImgLog_misaligned (hf : (!s.quiet || s.img.cmd.isSome) = false) (ha : v.toNat % 4096 ≠ 0) (size : Bool) :
    s.writeImgLog rq size v = s.regFault .img .value rq (if size then 0x060 else 0x05C) := by
  unfold State.writeImgLog
  dsimp only
  rw [if_neg (by rw [hf]; exact Bool.false_ne_true), if_pos ha]

theorem State.writeImgLog_performed (hf : (!s.quiet || s.img.cmd.isSome) = false) (ha : v.toNat % 4096 = 0) (size : Bool) :
    s.writeImgLog rq size v =
      let freed := s.img.retained.foldl (releaseRetained s.img.checked) s
      s.rw .img (if size then 0x060 else 0x05C) { freed with img := { freed.img with
        log := [], logHead := 0, logSize := if size then v else freed.img.logSize
        logBase := if size then freed.img.logBase else v } } := by
  unfold State.writeImgLog
  dsimp only
  rw [if_neg (by rw [hf]; exact Bool.false_ne_true), if_neg (not_not_intro ha), List.foldl_map, foldl_releaseStep]
  cases size <;> rfl

end

/-- Settles O22: `writeImgLog` and `writeStage`; the fold over the retained steps leaves none (`retained_released`). That
STATE comes before VALUE is the model's reading (log entry 54). -/
theorem imageRegisters : Obligations.ImageRegisters := by
  intro s rq v h
  dsimp only
  rw [← State.imgLogFree_iff]
  have writes : ∀ {off : Nat} {t : State}, off % 4 = 0 → s.writeReg rq .img off v = t →
      s.writes rq .img off v = .next (t.answerWrite (accessOf rq .img off)) := State.writes_of_eq h
  have log : ∀ {size : Bool} {t : State}, s.writeImgLog rq size v = t → exec (.dlImgLogWrite rq size v) s =
      .next (t.answerWrite (accessOf rq .img (if size then 0x060 else 0x05C))) := by
    intro size t ht
    cases size <;> exact writes rfl ht
  refine ⟨fun size hf => log (State.writeImgLog_busy rq hf size), fun size hf ha => log (State.writeImgLog_misaligned rq hf ha size),
    fun size hf ha => ⟨log (State.writeImgLog_performed rq hf ha size), retained_released s s.img.checked⟩, fun hn hw => ?_, fun hst => ?_⟩
  · have state : ∀ size : Bool, s.writeStage rq size v = s.regFault .img .state rq (if size then 0x078 else 0x074) :=
      fun _ => if_pos ⟨hn, hw⟩
    exact ⟨writes rfl (state false), writes rfl (state true)⟩
  · have hst' : ¬ (s.img.st ≠ .normal ∧ s.img.st ≠ .awaiting) := by tauto
    refine ⟨writes rfl ?_, fun ha => writes rfl ?_, fun ha => writes rfl ?_⟩
    · show s.writeStage rq true v = _
      simp only [State.writeStage, if_neg hst', if_true]
    · show s.writeStage rq false v = _
      simp [State.writeStage, if_neg hst', ha]
    · show s.writeStage rq false v = _
      simp [State.writeStage, if_neg hst', ha]

/-! ## Arbitration (R69, R260) -/

/-- Settles O23: both writes are one case of `writeReg`, and a contended fc is `contend`. -/
theorem arbitration : Obligations.Arbitration := by
  refine ⟨fun s rq v => ⟨fun h => State.writes_of_eq h rfl rfl, fun h => State.writes_of_eq h rfl rfl⟩, fun s p _ => ?_⟩
  dsimp only [weights]
  unfold State.contend
  simp only [Nat.cast_add, ge_iff_le, decide_eq_true_eq]

/-! ## The calibration page (R292, R302, R335) -/

section
variable {s : State} {rq : Requester} {off : BitVec 12} {v : Word} {cal : CalUnit}

theorem exec_calWrite (h : s.serves rq .cal) (ha : off.toNat % 4 = 0) (h40 : 0x040 ≤ off.toNat) {t : State}
    (ht : s.writeCal rq off.toNat v = t) :
    exec (.calWrite rq off v) s = .next (t.answerWrite (accessOf rq .cal off.toNat)) := by
  refine State.writes_of_eq h ha (ht ▸ ?_)
  unfold State.writeReg
  rw [if_neg (by omega)]
  rfl

theorem State.writeCal_notLoaded (hp : s.cal.put off.toNat v = some cal) (hl : s.cal.loaded = false) :
    s.writeCal rq off.toNat v = s.regFault .cal .state rq off.toNat := by
  simp [State.writeCal, hp, hl]

/-- A loaded set on a variant that has the register. -/
theorem State.writeCal_loaded (hp : s.cal.put off.toNat v = some cal) (hl : s.cal.loaded = true)
    (hv : s.variant = .d4 ∨ off.toNat < 0x0C0) : s.writeCal rq off.toNat v =
      if (s.hdr .cal).lock then s.regFault .cal .locked rq off.toNat
      else if !cal.guardsFall && decide (off.toNat < 0x060) && decide (0x050 ≤ off.toNat) then
        s.regFault .cal .value rq off.toNat
      else
        (s.rw .cal off.toNat { s with cal := cal }).send
          (.calStore off ((s.rw .cal off.toNat { s with cal := cal }).regWord .cal off.toNat)) := by
  have hhas : ¬ (0x0C0 ≤ off.toNat ∧ s.isD4 = false) := by
    rcases hv with hv | hv
    · simp [State.isD4, hv]
    · omega
  unfold State.writeCal
  simp only [hp, hl, Bool.not_true, Bool.false_eq_true, if_false, if_neg hhas, BitVec.ofNat_toNat, BitVec.setWidth_eq]

theorem State.writeCal_absent (hp : s.cal.put off.toNat v = some cal) (hl : s.cal.loaded = true) (hv : s.variant = .d4m)
    (ho : 0x0C0 ≤ off.toNat) : s.writeCal rq off.toNat v = s := by
  simp [State.writeCal, hp, hl, ho, State.isD4, hv]

end

theorem State.regWord_cal_notLoaded {s : State} (h : s.cal.loaded = false) {o : Nat} (ho : 0x040 ≤ o) : s.regWord .cal o = 0 := by
  unfold State.regWord
  rw [if_neg (by omega)]
  simp [State.calWord, h]

/-- Settles O25: the causes in the order of `writeCal`. That LOCKED comes before VALUE is the model's reading (log entry
73). -/
theorem calibration : Obligations.Calibration := by
  refine fun s rq off v cal => ⟨fun hl o ho => State.regWord_cal_notLoaded hl ho, fun h ha h40 hp => ?_,
    fun trim guard coef thr => ?_⟩
  · have writes : ∀ {t : State}, s.writeCal rq off.toNat v = t →
        exec (.calWrite rq off v) s = .next (t.answerWrite (accessOf rq .cal off.toNat)) := exec_calWrite h ha h40
    refine ⟨fun hl => writes (State.writeCal_notLoaded hp hl), fun hl hv hk => writes ?_, fun hl hv hk hg h50 h60 => writes ?_,
      fun hl hv hk hg => writes ?_, fun hl hv ho => writes (State.writeCal_absent hp hl hv ho)⟩
    · rw [State.writeCal_loaded hp hl hv, if_pos hk]
    · rw [State.writeCal_loaded hp hl hv, if_neg (by simp [hk]), if_pos (by simp [hg, h50, h60])]
    · rw [State.writeCal_loaded hp hl hv, if_neg (by simp [hk]), if_neg]
      simp only [Bool.and_eq_true, Bool.not_eq_true', decide_eq_true_eq]
      rintro ⟨⟨hf, h60⟩, h50⟩
      rcases hg with hg | hg | hg
      · omega
      · omega
      · simp [hf] at hg
  · show Host.Outcome.next (s.loadCal trim guard.toList coef.toList thr.toList) = _
    unfold State.loadCal State.isD4
    cases s.variant <;> rfl

/-! ## The debug page (R306) -/

section
variable {s : State} {rq : Requester}

/-- With EN 0 the registers above DL_DBG_CTRL read zero. -/
theorem State.readReg_dbg_off (h : s.serves rq .dbg) (he : s.dbg.en = false) {off : Nat} (ho : 0x044 ≤ off) :
    s.readReg rq .dbg off = (s, 0) := by
  have hpair : pairAt .dbg off = none := rfl
  have hclear : s.clearRead .dbg off = s := by
    unfold State.clearRead
    rw [if_neg (by omega)]
  have hword : s.regWord .dbg off = 0 := by
    unfold State.regWord
    rw [if_neg (by omega)]
    show s.dbgWord off = 0
    unfold State.dbgWord
    rw [if_neg (by omega)]
    simp [he]
  unfold State.readReg
  rw [h.2.2, hpair]
  simp [he, hclear, hword]

/-- With EN 0 the registers above DL_DBG_CTRL ignore writes. -/
theorem State.writeReg_dbg_off (he : s.dbg.en = false) {off : Nat} (ho : 0x044 ≤ off) (v : Word) :
    s.writeReg rq .dbg off v = s := by
  have hc : isCommand .dbg off v = false := rfl
  unfold State.writeReg
  rw [if_neg (by omega), hc]
  show s.writeDbg rq off v = s
  unfold State.writeDbg
  split
  · omega
  · rw [if_neg (by simp [he])]
  · simp [State.inject, he]
  · rfl

/-- FLIP is a write of DL_DBG_INJECT with its OP. -/
theorem exec_flip (h : s.serves rq .dbg) (v : Word) {t : State} (ht : s.inject rq (setBits v 31 28 1) = t) :
    exec (.flip rq v) s = .next (t.answerWrite (accessOf rq .dbg 0x058)) :=
  State.writes_of_eq h rfl ht

theorem State.inject_flip (he : s.dbg.en = true) (v : Word) :
    s.inject rq (setBits v 31 28 1) = s.flipBit rq (v.extractLsb' 0 7).toNat := by
  have hop : bitsOf (setBits v 31 28 1) 31 28 = 1 := bitsOf_setBits v (by decide) 1
  have hbit : bitsOf (setBits v 31 28 1) 6 0 = (v.extractLsb' 0 7).toNat := by
    rw [bitsOf_setBits_below v (by decide), bitsOf_eq_toNat_extractLsb' v rfl]
  simp [State.inject, he, hop, hbit]

/-- The four spaces of DL_DBG_ESEL: the two banks, the ROM and the sori. -/
theorem State.flipBit_eq (s : State) (rq : Requester) (b : Nat) : s.flipBit rq b =
    if s.dbg.space = 2 then s.regFault .dbg .value rq 0x058
    else if s.dbg.space = 3 then
      (if s.dbg.pinna.toNat < s.pinnaCount ∧ s.dbg.index.toNat < 4096 ∧ b < 96 then
        match s.sorusAt s.dbg.index.toNat with
        | some (k, e) => s.setCopy k s.dbg.pinna.toNat e
            (some (s.sorusHeld s.dbg.pinna.toNat k e ^^^ BitVec.ofNat 96 (2 ^ b)))
        | none => s
      else s)
    else if s.dbg.index.toNat < s.bankEntries ∧ b < 96 then
      s.writeRam (decide (s.dbg.space = 1)) s.dbg.index.toNat
        (s.ramEntry (decide (s.dbg.space = 1)) s.dbg.index.toNat ^^^ BitVec.ofNat 96 (2 ^ b))
    else s := by
  have hcases : ∀ x : BitVec 2, x = 0 ∨ x = 1 ∨ x = 2 ∨ x = 3 := by decide
  unfold State.flipBit
  rcases hcases s.dbg.space with hx | hx | hx | hx <;> simp only [hx] <;> rfl

end

/-- Settles O26: with EN 0 nothing but DL_DBG_CTRL answers, and FLIP goes by the space of `flipBit_eq`. That LOCKED of
DL_DBG_CTRL still writes HALT is the model's reading (log entry 69). -/
theorem debugRegisters : Obligations.DebugRegisters := by
  refine ⟨fun s rq h he => ⟨fun off ho ha => ⟨?_, fun v => ?_⟩, fun v => exec_flip h v (by simp [State.inject, he])⟩,
    fun s rq v h => ⟨fun he h2 => ?_, fun he h2 hi hb => ?_, fun he h3 hp hi hb => ?_, fun he h2 hout => ?_, fun he => ?_,
      fun hk => ?_, fun hk => ?_⟩⟩
  · rw [State.busRead_serves h ha rfl, State.readReg_dbg_off h he ho]
  · exact exec_registerWrite_of_eq ha (State.writeReg_dbg_off he ho v) h
  · exact exec_flip h v ((State.inject_flip he v).trans ((s.flipBit_eq rq _).trans (if_pos h2)))
  · have hne : s.dbg.space ≠ 2 ∧ s.dbg.space ≠ 3 := ⟨fun hx => by simp [hx] at h2, fun hx => by simp [hx] at h2⟩
    refine ⟨_, exec_flip h v ((State.inject_flip he v).trans ((s.flipBit_eq rq _).trans
      ((if_neg hne.1).trans ((if_neg hne.2).trans (if_pos ⟨hi, hb⟩))))), fun b i => ?_⟩
    rw [State.ramEntry_writeRam]
    split_ifs with hbi
    · rw [hbi.1, hbi.2]
    · rfl
  · have hflip : s.flipBit rq (v.extractLsb' 0 7).toNat = _ :=
      (s.flipBit_eq rq _).trans ((if_neg (by rw [h3]; decide)).trans ((if_pos h3).trans (if_pos ⟨hp, hi, hb⟩)))
    refine ⟨fun hn => exec_flip h v ?_, fun k e hs => exec_flip h v ?_⟩
    · rw [State.inject_flip he, hflip, hn]
    · rw [State.inject_flip he, hflip, hs]
  · refine exec_flip h v ((State.inject_flip he v).trans ((s.flipBit_eq rq _).trans ((if_neg h2).trans ?_)))
    split_ifs with h3 hin hin
    · rcases hout with hb | ⟨hlt, -⟩ | ⟨-, hp | hi⟩
      · omega
      · simp [h3] at hlt
      · omega
      · omega
    · rfl
    · rcases hout with hb | ⟨-, hi⟩ | ⟨hx, -⟩
      · omega
      · omega
      · exact absurd hx h3
    · rfl
  · exact exec_registerWrite_of_eq rfl (if_pos he) h
  · refine exec_registerWrite_of_eq rfl ?_ h
    show s.writeDbg rq 0x040 v = _
    simp [State.writeDbg, hk, bitOf]
  · refine exec_registerWrite_of_eq rfl ?_ h
    show s.writeDbg rq 0x040 v = _
    simp [State.writeDbg, hk, bitOf]

end Sys2Proof.Machine

/-! PROOFS. Chapters 5, 13 and 14: the epoch switch (R101, R312), the end of a counter freeze (R305), the lifetime unit (R288 to
R291, R301) and block resets (R300). -/
namespace Sys2Proof.Machine

/-! ## The epoch switch (R101, R312) -/

/-- The code of an epoch switch that ends, with ITEM 0 and INDEX 0. -/
def switched (u : TblUnit) (code : BitVec 8) : TblUnit :=
  { u with switchPending := false, errCode := code, errItem := 0, errIndex := 0 }

section
variable {s : State}

theorem State.switchAccept_notSealed (hp : s.tbl.switchPending = true) (hs : (s.tbl.bank (!s.tbl.active)).sealed = false) :
    s.switchAccept = ({ s with tbl := switched s.tbl 0x0D } : State).pageEvent .tbl 3 :=
  (if_pos hp).trans (if_pos (congrArg Bool.not hs))

theorem State.switchAccept_flagged (hp : s.tbl.switchPending = true) (hs : (s.tbl.bank (!s.tbl.active)).sealed = true)
    (hf : ((s.tbl.bank (!s.tbl.active)).quarantine || (s.tbl.bank (!s.tbl.active)).fault) = true) :
    s.switchAccept = ({ s with tbl := switched s.tbl 0x0E } : State).pageEvent .tbl 3 :=
  (if_pos hp).trans ((if_neg (ne_of_eq_of_ne (congrArg Bool.not hs) Bool.false_ne_true)).trans (if_pos hf))

theorem State.switchAccept_accepted (hp : s.tbl.switchPending = true) (hs : (s.tbl.bank (!s.tbl.active)).sealed = true)
    (hf : ((s.tbl.bank (!s.tbl.active)).quarantine || (s.tbl.bank (!s.tbl.active)).fault) = false) :
    s.switchAccept = ({ s with tbl := switched { s.tbl with active := !s.tbl.active, number := s.tbl.number + 1 } 0 } :
      State).pageEvent .tbl 2 :=
  (if_pos hp).trans ((if_neg (ne_of_eq_of_ne (congrArg Bool.not hs) Bool.false_ne_true)).trans (if_neg (ne_of_eq_of_ne hf Bool.false_ne_true)))

end

/-- Settles O30: a write of SWITCH is `switchWrite`, and the boundary judges as `switchAccept`. -/
theorem epochSwitch : Obligations.EpochSwitch := by
  refine fun s rq v => ⟨fun h => ?_, fun hr hp => ⟨fun hs => ?_, fun hs hf => ?_, fun hs hf => ?_⟩⟩
  · have hbit : isCommand .tbl 0x040 (setBits v 31 31 1) = true := by
      show (setBits v 31 31 1).getLsbD 31 = true
      rw [getLsbD_setBits v (by decide)]
      rfl
    exact State.writes_command h rfl (by decide) hbit
  · exact State.clocked_of_eq hr (State.switchAccept_notSealed hp hs)
  · exact State.clocked_of_eq hr (State.switchAccept_flagged hp hs hf)
  · exact State.clocked_of_eq hr (State.switchAccept_accepted hp hs hf)

/-! ## The end of a freeze (R305) -/

/-- From reset: core 2 arms a freeze, a STEP token starts the copy, the core reads DL_CNT_SHADOW_LO before its counter is in
the shadow, and then PG_ERR_INFO of GLB, which comes behind that read (R261). -/
def readBehindShadow : Answer :=
  Sys2Proof.core.run 4 { State.reset with
    pending := [.next (.core 2) 0x20000000, .step (2 <<< 28), .dlCntShadowLoRead (.core 2), .pgErrInfoRead (.core 2) 0] }

/-- COPYING while FCLK runs, with a read behind that CNT_FROZEN takes up; ending the freeze alone leaves it behind. -/
def State.takesUpBehind (s : State) : Bool :=
  s.fclkRuns && decide (s.cnt.st = .copying) && Answer.meets (fun t => t.port.behind.isEmpty) (exec .cntFrozen s)
    && !s.frozen.settle.port.behind.isEmpty

theorem readBehindShadow_takesUpBehind : readBehindShadow.meets State.takesUpBehind = true := by decide +kernel

/-- Refutes O36, in its last clause: CNT_FROZEN also performs the accesses that waited behind a shadow read, as R261 asks, and
the clause leaves them behind. -/
theorem not_counterFreeze : ¬ Obligations.CounterFreeze := by
  intro hfreeze
  obtain ⟨s, -, hs⟩ := Answer.exists_of_meets readBehindShadow_takesUpBehind
  simp only [State.takesUpBehind, Bool.and_eq_true, decide_eq_true_eq] at hs
  obtain ⟨⟨⟨hr, hc⟩, hgone⟩, hstays⟩ := hs
  have hexec : exec .cntFrozen s = .next s.frozen.settle := by
    rw [State.frozen, if_pos hc]
    exact (hfreeze s (.core 2) 0).2.2 hr hc
  rw [hexec] at hgone
  simp only [Answer.meets] at hgone
  rw [hgone] at hstays
  cases hstays

end Sys2Proof.Machine

/-! PROOFS. Chapter 13, the lifetime unit: SNAP and RESTORE (R290, R301), and a second (R288, R289, R291). -/
namespace Sys2Proof.Machine

/-! ## DL_LIFE_CMD -/

section
variable {s : State} {rq : Requester}

theorem State.writeReg_lifeCmd (s : State) (rq : Requester) (v : Word) : s.writeReg rq .life 0x040 v =
    if (v.extractLsb' 28 4).toNat = 1 ∨ (v.extractLsb' 28 4).toNat = 2 then s.lifeCommand rq (v.extractLsb' 28 4).toNat
    else s.regFault .life .command rq 0x040 := by
  rw [← bitsOf_eq_toNat_extractLsb' v (show 31 + 1 - 28 = 4 from rfl)]
  rfl

/-- A command row of DL_LIFE_CMD (log entry 13). -/
theorem State.writesOp_life (h : s.serves rq .life) {op : Nat} (hop : op = 1 ∨ op = 2) (v : Word) {t : State}
    (ht : s.lifeCommand rq op = t) : s.writesOp rq .life 0x040 op v = .next (t.answerWrite (accessOf rq .life 0x040)) := by
  have hbits : ((setBits v 31 28 op).extractLsb' 28 4).toNat = op := by
    rw [← bitsOf_eq_toNat_extractLsb' _ (show 31 + 1 - 28 = 4 from rfl), bitsOf_setBits v (by decide)]
    omega
  refine State.writes_of_eq h rfl ?_
  rw [State.writeReg_lifeCmd, hbits, if_pos hop, ht]

theorem State.lifeCommand_idle (hb : s.life.busy = none) (op : Nat) :
    s.lifeCommand rq op = { s with life := { s.life with busy := some op, args := s.life.inp } } := by
  simp only [State.lifeCommand, hb]

theorem State.lifeCommand_busy (hb : s.life.busy.isSome = true) (op : Nat) :
    s.lifeCommand rq op = s.regFault .life .state rq 0x040 := by
  obtain ⟨k, hk⟩ := Option.isSome_iff_exists.1 hb
  simp only [State.lifeCommand, hk]

end

/-! ## LIFE_CMD_DONE -/

/-- A command that ends reports its code. -/
theorem State.lifeDone_reports {s : State} {op : Nat} (hb : s.life.busy = some op) :
    s.lifeDone = lifeReported (s.lifeEffect op).1 op (s.lifeEffect op).2 := by
  simp only [State.lifeDone, hb]
  rfl

theorem State.lifeEffect_restore {s : State} : s.lifeEffect 2 =
    if s.restoreCode = 0 then
      ({ s with life := { s.life with seeded := true, counts := s.life.counts.restore (s.life.args.flatMap wordBytes) } }, 0)
    else (s, s.restoreCode) := by
  unfold State.lifeEffect
  rw [if_neg (by decide)]
  split
  case h_1 h => rw [if_pos h]
  case h_2 h => rw [if_neg fun h0 => h h0]

theorem exec_lifeCmdDone {s : State} (hi : s.inReset = false) : exec .lifeCmdDone s = .next s.lifeDone := by
  simp [exec, execLifeCmdDone, hi]

/-- The checks of RESTORE in their order (R290), as the statement writes the variant. -/
theorem State.restoreCode_eq (s : State) : s.restoreCode =
    let bytes := s.life.args.flatMap wordBytes
    if s.life.seeded then 5
    else if fieldAt bytes 0 4 ≠ 0x444C4C52 then 1
    else if fieldAt bytes 4 4 ≠ (crc32c (bytes.drop 8)).toNat then 2
    else if fieldAt bytes 8 2 ≠ 1 then 3
    else if fieldAt bytes 10 1 ≠ (match s.variant with | .d4 => 0 | .d4m => 1) then 4 else 0 := by
  unfold State.restoreCode State.isD4
  cases s.variant <;> rfl

/-! ## A second -/

theorem State.working_iff (s : State) : s.working = true ↔ s.chn.flights ≠ [] ∨ s.p0.reads ≠ [] ∨ s.p0.writes ≠ [] ∨
    s.tbl.filling.isSome ∨ s.tbl.cmd.isSome ∨ s.ctx.cmdBusy ∨ s.num.cmd.isSome ∨ s.img.cmd.isSome := by
  simp [State.working, or_assoc]

/-- A count of seconds, which saturates at 48 bits, where a second belongs to it. -/
def tick (b : Bool) (n : Nat) : Nat := if b then Nat.min (n + 1) (2 ^ 48 - 1) else n

/-- The second belongs to the powered time and to the one state in which it ends (R288). -/
theorem LifeCounts.second_eq (c : LifeCounts) {st : PwrState} {active : Bool} (h : active = true → st = .ready) :
    c.second st active =
    { c with
      powered := tick true c.powered
      dormant := tick (decide (st = .dormant ∨ st = .waking)) c.dormant
      resting := tick (decide (st = .resting ∨ st = .entering)) c.resting
      ready := tick (decide (st = .ready) && !active) c.ready
      active := tick active c.active } := by
  cases active with
  | true => rw [h rfl]; rfl
  | false => cases st <;> rfl

/-- A thermal cycle ends 30 °C below the maximum after a rise (R289). -/
def thermalCycle (tmin tmax : Option Int) (t : Int) : Bool :=
  match tmin, tmax with | some _, some x => decide (t ≤ x - 30) | _, _ => false

/-- The minimum and the maximum that the next second finds. -/
def thermalRange (tmin tmax : Option Int) (t : Int) : Option Int × Option Int :=
  match tmin, tmax with
  | none, _ => (some t, none)
  | some m, none => if t < m then (some t, none) else (some m, if m + 30 ≤ t then some t else none)
  | some m, some x => if x < t then (some m, some t) else if t ≤ x - 30 then (some t, none) else (some m, some x)

theorem LifeUnit.thermal_eq (u : LifeUnit) (t : Int) : u.thermal t = { u with
    counts := { u.counts with
      therm := if thermalCycle u.tmin u.tmax t then Nat.min (u.counts.therm + 1) (2 ^ 32 - 1) else u.counts.therm }
    tmin := (thermalRange u.tmin u.tmax t).1, tmax := (thermalRange u.tmin u.tmax t).2 } := by
  obtain ⟨busy, seeded, anchored, err, anchor, calendar, record, inp, args, counts, tmin, tmax⟩ := u
  unfold LifeUnit.thermal thermalCycle thermalRange
  cases tmin with
  | none => rfl
  | some m =>
    cases tmax with
    | none =>
      by_cases hm : t < m
      · simp [hm]
      · by_cases hx : m + 30 ≤ t <;> simp [hm, hx]
    | some x =>
      by_cases hx : x < t
      · have hc : ¬ t ≤ x - 30 := by omega
        simp [hx, hc]
      · by_cases hc : t ≤ x - 30 <;> simp [hx, hc, satAdd]

/-- Settles O38: the writes are `lifeCommand`, an end is `lifeEffect`, and a second goes by the power state and `thermal`. That
SNAP counts itself is the model's reading (log entry 74). -/
theorem lifetime : Obligations.Lifetime := by
  refine ⟨fun s rq v => ⟨fun h => ?_, fun hi => ⟨fun hb => ?_, fun hb => ?_⟩⟩, fun s mV temp => ?_⟩
  · refine ⟨fun hb => ⟨?_, ?_⟩, fun hb => ⟨?_, ?_⟩, fun hop => ?_⟩
    · exact State.writesOp_life h (.inl rfl) v (State.lifeCommand_idle hb 1)
    · exact State.writesOp_life h (.inr rfl) v (State.lifeCommand_idle hb 2)
    · exact State.writesOp_life h (.inl rfl) v (State.lifeCommand_busy hb 1)
    · exact State.writesOp_life h (.inr rfl) v (State.lifeCommand_busy hb 2)
    · refine exec_registerWrite_of_eq rfl ((s.writeReg_lifeCmd rq v).trans (if_neg ?_)) h
      omega
  · rw [exec_lifeCmdDone hi, State.lifeDone_reports hb]
    rfl
  · rw [exec_lifeCmdDone hi, State.lifeDone_reports hb, State.lifeEffect_restore]
    intro bytes code
    have hcode : code = s.restoreCode := s.restoreCode_eq.symm
    rw [hcode]
    refine ⟨fun hc => ?_, fun hc => ?_⟩
    · rw [if_neg hc]
    · rw [if_pos hc]
  · intro c up works isActive cycle counts range
    have hactive : s.active = isActive := by
      rw [State.active_eq, Bool.eq_iff_iff, Bool.and_eq_true, decide_eq_true_eq, decide_eq_true_eq, State.working_iff]
    have hready : isActive = true → s.pwr.st = .ready := fun h => (of_decide_eq_true h).1
    show Host.Outcome.next (s.second mV temp) = _
    unfold State.second
    rw [hactive, LifeCounts.second_eq _ hready]
    simp only [LifeUnit.thermal_eq]
    cases mV <;> rfl

end Sys2Proof.Machine

/-! PROOFS. Chapter 14, block resets (R93, R94, R183, R300). -/
namespace Sys2Proof.Machine

/-- The torn entry is lost from the shadow bank alone (R94; log entry 65). -/
def State.ramAfterReset (s : State) (b : Bool) : Store Entry :=
  match s.tbl.tornEntry with
  | some i => if b = !s.tbl.active then Store.erase (s.tbl.bank b).ram i else (s.tbl.bank b).ram
  | none => (s.tbl.bank b).ram

theorem State.tblReset_eq (s : State) : s.tblReset =
    { bank0 := { sealed := true, ram := s.ramAfterReset false }, bank1 := { ram := s.ramAfterReset true }
      romDefects := s.tbl.romDefects } := by
  unfold State.tblReset State.ramAfterReset State.shadowBank
  cases s.tbl.tornEntry with
  | none => rfl
  | some i => cases s.tbl.active <;> rfl

theorem State.resetUnits_eq (s : State) (cause : BitVec 2) : s.resetUnits cause = resetState s cause := by
  unfold State.resetUnits
  rw [State.tblReset_eq]
  rfl

/-- Reads that waited are refused as the reset starts (Table 14.14; log entry 63). -/
theorem State.startReset_eq (s : State) (cause : BitVec 2) :
    s.startReset cause = s.port.waits.foldl (fun t w => t.refuseRead w.access) (resetState s cause) := by
  rw [State.startReset, State.resetUnits_eq]

theorem State.ramEntry_resetState {s : State} {b : Bool} {i : Nat} (h : b = !s.tbl.active → some i ≠ s.tbl.tornEntry) :
    (resetState s 1).ramEntry b i = s.ramEntry b i := by
  have hbank : ((resetState s 1).tbl.bank b).ram = s.ramAfterReset b := by cases b <;> rfl
  show Store.get (Config.freeEntry s.powerOns b) _ i = Store.get (Config.freeEntry s.powerOns b) _ i
  rw [hbank, State.ramAfterReset]
  cases ht : s.tbl.tornEntry with
  | none => rfl
  | some j =>
    by_cases hb : b = !s.tbl.active
    · have hij : i ≠ j := fun hij => h hb (by rw [ht, hij])
      simp [hb, Store.get, Store.get?_erase_other _ hij]
    · simp [hb]

/-! ## The accesses behind -/

/-- A read refused in a reset starts no wake: the ports stand. -/
theorem State.refuseRead_port {s : State} (h : s.inReset = true) (a : Access) : (s.refuseRead a).port = s.port := by
  unfold State.refuseRead State.refuseAccess State.answerRead
  simp only [h, Bool.not_true, Bool.and_false, Bool.false_eq_true, if_false]
  cases a.rq <;> rfl

theorem State.startReset_port (s : State) (cause : BitVec 2) :
    (s.startReset cause).port = { inited := false, behind := s.port.behind } := by
  rw [State.startReset_eq]
  refine (List.foldlRecOn (motive := fun t : State => t.inReset = true ∧ t.port = (resetState s cause).port) _ _ ⟨rfl, rfl⟩
    fun t ht w _ => ?_).2
  exact ⟨State.refuseRead_inReset ht.1 _, (State.refuseRead_port ht.1 _).trans ht.2⟩

theorem State.startReset_behind {s : State} (h : s.port.behind = []) (cause : BitVec 2) :
    (s.startReset cause).port.behind = [] := by
  rw [State.startReset_port]
  exact h

/-- A power-on finds no access that waits, and then resets what it has not lost. -/
theorem State.powerOn_eq (s : State) : s.powerOn = { resetState s 0 with
    powerOns := s.powerOns + 1, life := {}, cal := { s.cal with loaded := false }, hdrs := List.replicate 20 {}
    pwr := { st := .dormant, vddOk := s.pwr.vddOk }, port := { inited := false }
    tbl := { bank0 := { sealed := true }, romDefects := s.tbl.romDefects } } := by
  unfold State.powerOn
  dsimp only
  rw [State.startReset_eq]
  rfl

/-! ## The end of a reset -/

/-- What ends with the reset, before the power state is taken up. -/
def State.resetOver (s : State) : State := { s with inReset := false, fc := 0, pwr := { s.pwr with entering := .none } }

theorem State.endReset_ready {s : State} (hi : s.inReset = true) (hc : s.resetCause ≠ 0) (hv : s.pwr.vddOk = true) :
    s.endReset = (s.resetOver.setPwr .ready).creditInit := by
  have hup : (decide (s.resetCause ≠ 0) && s.pwr.vddOk) = true := by rw [decide_eq_true hc, hv, Bool.and_self]
  exact (if_pos hi).trans (if_pos hup)

theorem State.endReset_dormant {s : State} (hi : s.inReset = true) (h : s.resetCause = 0 ∨ s.pwr.vddOk = false) :
    s.endReset = (s.resetOver.setPwr .dormant).startHeldWake := by
  rcases h with h | h <;> simp [State.endReset, hi, h, State.resetOver]

/-- Settles O47: both entries are `startReset`, a power-on is `powerOn`, the end is `endReset`. That the power state is kept
(log entry 64) and that a torn entry is lost (log entry 65) are the model's reading. -/
theorem resets : Obligations.Resets := by
  intro s
  dsimp only
  have host : exec .hostChipReset s = .next (s.startReset 1).busGo := rfl
  refine ⟨?_, fun hb => ?_, fun rq v h => ⟨fun hv => ?_, fun hv => ?_⟩, ?_, fun hi => ⟨fun hc hv => ?_, fun h => ?_⟩,
    fun hi => ?_, fun b i => State.ramEntry_resetState, fun level => rfl⟩
  · rw [host, State.startReset_eq]
  · rw [host, State.busGo_of_behind_nil (State.startReset_behind hb 1), State.startReset_eq]
  · refine State.writes_of_eq h rfl ?_
    rw [← State.startReset_eq]
    exact if_pos hv
  · exact State.writes_of_eq h rfl (if_neg hv)
  · exact congrArg Host.Outcome.next s.powerOn_eq
  · exact congrArg Host.Outcome.next (State.endReset_ready hi hc hv)
  · exact congrArg Host.Outcome.next (State.endReset_dormant hi h)
  · exact congrArg Host.Outcome.next (if_neg (ne_of_eq_of_ne hi Bool.false_ne_true))

end Sys2Proof.Machine

/-! PROOFS. Chapter 13, the way up (R270, R277, R278, R335) and the supply: droop bands, grants, forecasts and the ballast hold
(R283 to R286). -/
namespace Sys2Proof.Machine

/-! ## Wakes -/

section
variable {s : State}

/-- A wake leaves DORMANT with VDD_DL in range and the calibration set loaded (R278, R335). -/
theorem State.startHeldWake_starts (hs : s.pwr.st = .dormant) (hi : s.inReset = false) (hh : s.pwr.wakeHeld = true)
    (hc : s.cal.loaded = true) (hv : s.pwr.vddOk = true) :
    s.startHeldWake = ({ s with pwr := { s.pwr with wakeHeld := false } } : State).setPwr .waking := by
  simp [State.startHeldWake, hs, hi, hh, hc, hv]

theorem State.startHeldWake_waits
    (h : s.pwr.st ≠ .dormant ∨ s.cal.loaded = false ∨ s.pwr.vddOk = false ∨ s.pwr.wakeHeld = false) : s.startHeldWake = s := by
  unfold State.startHeldWake
  rcases h with h | h | h | h <;> simp [h]

/-- In DORMANT a wake is kept with the higher of its targets. -/
theorem State.wake_dormant (hs : s.pwr.st = .dormant) (ready : Bool) : s.wake ready =
    ({ s with pwr := { s.pwr with
      wakeReady := ready || (s.pwr.wakeHeld && s.pwr.wakeReady), wakeHeld := true } } : State).startHeldWake := by
  simp only [State.wake, hs]

theorem State.wakingDone_ready (hi : s.inReset = false) (hs : s.pwr.st = .waking) (hv : s.pwr.vddOk = true)
    (hr : s.pwr.wakeReady = true) : s.wakingDone = { s with pwr := { s.pwr with rising := true, wakeReady := false } } := by
  simp [State.wakingDone, hi, hs, hv, hr]

theorem State.wakingDone_resting (hi : s.inReset = false) (hs : s.pwr.st = .waking) (hv : s.pwr.vddOk = true)
    (hr : s.pwr.wakeReady = false) :
    s.wakingDone = ({ s with pwr := { s.pwr with rising := false } } : State).setPwr .resting := by
  simp [State.wakingDone, hi, hs, hv, hr]

theorem State.setPwr_port (s : State) (p : PwrState) : (s.setPwr p).port = s.port := by
  unfold State.setPwr
  split <;> rfl

/-- READY is reached, and the commands that were held run in their order (R277, R309). -/
theorem State.nowReady_runs (hi : s.inReset = false) (hs : s.pwr.st = .resting ∨ s.pwr.st = .waking) (hr : s.pwr.rising = true) :
    s.nowReady =
      let up := ({ s with pwr := { s.pwr with rising := false, held := [] } } : State).setPwr .ready
      s.pwr.held.foldl State.runHeld (if s.port.inited then up.settle else up.creditInit.settle) := by
  unfold State.nowReady
  rw [if_pos ⟨hs, hr, hi⟩]
  dsimp only [State.becomeReady]
  rw [State.setPwr_port, apply_ite State.settle]

end

/-- Settles O44: the wakes by `startHeldWake`, WAKING's end by `wakingDone`, READY by `nowReady`. -/
theorem powerExits : Obligations.PowerExits := by
  refine ⟨fun s hi => ⟨fun ok h => ?_, fun hs hh hc => ?_, fun hs hv hr => ?_, fun hs hv hr => ?_, fun hs hr => ?_⟩,
    fun s => ⟨fun h => ?_, fun hs hi hh hc hv => State.startHeldWake_starts hs hi hh hc hv, fun hs hi hc ready => ?_⟩⟩
  · refine congrArg Host.Outcome.next (State.startHeldWake_waits ?_)
    rcases h with h | h | h | h
    · exact .inl h
    · exact .inr (.inr (.inl h))
    · exact .inr (.inr (.inr h))
    · exact .inr (.inl h)
  · exact congrArg Host.Outcome.next (State.startHeldWake_starts (s := { s with pwr := { s.pwr with vddOk := true } })
      hs hi hh hc rfl)
  · exact congrArg Host.Outcome.next (State.wakingDone_ready hi hs hv hr)
  · exact congrArg Host.Outcome.next (State.wakingDone_resting hi hs hv hr)
  · exact congrArg Host.Outcome.next (State.nowReady_runs hi hs hr)
  · exact State.startHeldWake_waits (.inr h)
  · have hwake : ∀ r : Bool, s.wake r = { s with pwr := { s.pwr with
        wakeReady := r || (s.pwr.wakeHeld && s.pwr.wakeReady), wakeHeld := true } } :=
      fun r => (State.wake_dormant hs r).trans (State.startHeldWake_waits (.inr (.inl hc)))
    rw [hwake, hwake, hwake]
    exact ⟨hs, rfl, rfl, rfl⟩

/-! ## Droop bands (R286) -/

section
variable {s : State}

theorem State.guardEntry_shallow (mV : Nat) (h : deepest (fun k => decide (mV < s.guardAt k)) ≤ s.pwr.guardBand) :
    s.guardEntry mV = s := by
  simp [State.guardEntry, h]

theorem State.guardEntry_deeper (hr : s.fclkRuns = true) (mV : Nat)
    (h : s.pwr.guardBand < deepest (fun k => decide (mV < s.guardAt k))) : s.guardEntry mV =
      let b := deepest (fun k => decide (mV < s.guardAt k))
      let t : State := { s with pwr := { s.pwr with guardBand := b } }
      if b = 4 then (t.logEvent 0x11 .pwr (BitVec.ofNat 32 mV) (BitVec.ofNat 32 (s.guardAt 3)) 0 0).pageEvent .pwr 3 else t := by
  simp [State.guardEntry, hr, Nat.not_le.2 h]

/-! ## Grants (R283) -/

/-- A GRANT frame with a right CRC, outside a reset. -/
theorem State.restFrame_grant (hi : s.inReset = false) {f : BitVec 80} (hg : frameGood f = true) (ht : frameType f = 6) :
    s.restFrame f = s.grantWord (frameData f) := by
  simp [State.restFrame, hg, ht, State.grantFrame, hi]

theorem State.grantWord_zero {w : Word} (h : w.extractLsb' 24 8 = 0) :
    s.grantWord w = if s.pwr.grant.isSome then s.setGrant none else s := by
  have hid : bitsOf w 31 24 = 0 := by
    rw [bitsOf_eq_toNat_extractLsb' w (show 31 + 1 - 24 = 8 from rfl), h]
    rfl
  unfold State.grantWord
  rw [hid]
  cases s.pwr.grant <;> rfl

theorem State.grantWord_id {w : Word} (h : w.extractLsb' 24 8 ≠ 0) : s.grantWord w =
    s.setGrant (some { id := w.extractLsb' 24 8, duration := (w.extractLsb' 0 16).toNat
                       rate := Nat.max 1 (Nat.min 160 (w.extractLsb' 16 8).toNat) }) := by
  have hid : bitsOf w 31 24 = (w.extractLsb' 24 8).toNat := bitsOf_eq_toNat_extractLsb' w rfl
  have hne : (w.extractLsb' 24 8).toNat ≠ 0 := fun h0 => h (BitVec.eq_of_toNat_eq h0)
  unfold State.grantWord
  simp only [hid, if_neg hne, BitVec.ofNat_toNat, BitVec.setWidth_eq,
    bitsOf_eq_toNat_extractLsb' w (show 23 + 1 - 16 = 8 from rfl), bitsOf_eq_toNat_extractLsb' w (show 15 + 1 - 0 = 16 from rfl)]

/-- RATE of a grant as it acts (R283). -/
theorem grantRate_eq (r : Nat) : Nat.max 1 (Nat.min 160 r) = if r = 0 then 1 else if 160 < r then 160 else r := by
  simp only [Nat.max_def, Nat.min_def]
  split_ifs <;> omega

/-! ## Forecasts (R284) -/

/-- A forecast is due: a change past DEADBAND, or the sixteenth slot in READY. -/
def State.forecastDue (s : State) : Prop :=
  let a := s.env.plan.getLastD 0 / 65536
  s.pwr.deadband.toNat ≤ (if a < s.pwr.lastSent.toNat then s.pwr.lastSent.toNat - a else a - s.pwr.lastSent.toNat) ∨
    (s.pwr.st = .ready ∧ 16 ≤ s.pwr.slots + 1)

theorem max_sub_min (a b : Nat) : Nat.max a b - Nat.min a b = if a < b then b - a else a - b := by
  simp only [Nat.max_def, Nat.min_def]
  split_ifs <;> omega

/-- What `forecastSlot` judges. -/
theorem State.forecast_iff (s : State) (taken : Bool) :
    (!taken && (decide (Nat.max (s.envAhead / 65536) s.pwr.lastSent.toNat - Nat.min (s.envAhead / 65536) s.pwr.lastSent.toNat ≥
      s.pwr.deadband.toNat) || (s.pwr.st == .ready && decide (s.pwr.slots + 1 ≥ 16)))) = true ↔
        taken = false ∧ s.forecastDue := by
  rw [max_sub_min]
  simp only [State.forecastDue, State.envAhead, Bool.and_eq_true, Bool.or_eq_true, Bool.not_eq_true', decide_eq_true_eq,
    beq_iff_eq, ge_iff_le]
  exact Iff.rfl

theorem State.forecastSlot_silent (hr : s.fclkRuns = true) {taken : Bool} (h : taken = true ∨ ¬ s.forecastDue) :
    s.forecastSlot taken = { s with pwr := { s.pwr with slots := s.pwr.slots + 1 } } := by
  have hnot : ¬ (taken = false ∧ s.forecastDue) := by
    rintro ⟨ht, hd⟩
    rcases h with h | h
    · rw [ht] at h
      cases h
    · exact h hd
  rw [← s.forecast_iff taken] at hnot
  unfold State.forecastSlot
  rw [if_neg (by simp [hr])]
  exact if_neg hnot

/-- What a FORECAST frame carries (Table 12.10). -/
def State.forecastData (s : State) : Nat :=
  let n := s.env.plan.headD 0 / 65536
  let a := s.env.plan.getLastD 0 / 65536
  let trend := if s.pwr.holding then 3 else if n < a then 1 else if a < n then 2 else 0
  s.pwr.grantId * 2 ^ 24 + trend * 2 ^ 22 + a * 2 ^ 12 + s.pwr.rateInForce * 2 ^ 4

theorem State.forecastSlot_sent (hr : s.fclkRuns = true) (h : s.forecastDue) : s.forecastSlot false =
    ({ s with pwr := { s.pwr with lastSent := BitVec.ofNat 10 (s.env.plan.getLastD 0 / 65536), slots := 0 } } : State).send
      (.rest (frameOf 7 0 0 0 s.forecastData)) := by
  have hdue := (s.forecast_iff false).2 ⟨rfl, h⟩
  unfold State.forecastSlot
  rw [if_neg (by simp [hr])]
  exact if_pos hdue

end

/-- Settles O45: bands by `deepest`, grants by `grantWord`, forecasts by `forecastDue`. That a slot's operands say whether another
frame takes it (log entry 61), and that a release and an expiry carry no time (logs 62 and 85), is the model's reading. -/
theorem supplyAndGrants : Obligations.SupplyAndGrants := by
  refine fun s => ⟨fun mV hr => ⟨fun hb => ?_, fun hb h4 => ?_, fun hb h4 => ?_, ?_⟩, ⟨fun f hi hg ht => ⟨fun h0 hn => ?_,
    fun h0 hn => ?_, fun hid => ?_⟩, fun g hg hd => ?_, fun g hg hd => ?_⟩, fun hr => ⟨fun hd => ?_, fun r => ⟨?_, ?_⟩, fun hd => ?_⟩,
    rfl⟩
  · exact congrArg Host.Outcome.next (State.guardEntry_shallow mV hb)
  · exact congrArg Host.Outcome.next ((State.guardEntry_deeper hr mV hb).trans (if_neg (Nat.ne_of_lt h4)))
  · exact congrArg Host.Outcome.next ((State.guardEntry_deeper hr mV hb).trans (if_pos h4))
  · exact congrArg Host.Outcome.next (if_pos hr)
  · have hgrant := (State.restFrame_grant hi hg ht).trans ((State.grantWord_zero h0).trans (if_neg (by simp [hn])))
    exact congrArg Host.Outcome.next hgrant
  · have hgrant := (State.restFrame_grant hi hg ht).trans ((State.grantWord_zero h0).trans (if_pos hn))
    exact congrArg Host.Outcome.next hgrant
  · have hgrant := (State.restFrame_grant hi hg ht).trans (State.grantWord_id hid)
    rw [grantRate_eq] at hgrant
    exact congrArg Host.Outcome.next hgrant
  · show Host.Outcome.next s.grantExpires = _
    simp only [State.grantExpires, hg, if_neg hd]
    rfl
  · show Host.Outcome.next s.grantExpires = _
    simp only [State.grantExpires, hg, if_pos hd]
  · exact congrArg Host.Outcome.next (State.forecastSlot_silent hr (.inr hd))
  · exact congrArg Host.Outcome.next (State.forecastSlot_silent hr (.inl rfl))
  · exact congrArg Host.Outcome.next (State.forecastSlot_silent hr (.inl (Bool.or_true r)))
  · exact congrArg Host.Outcome.next (State.forecastSlot_sent hr hd)

end Sys2Proof.Machine

/-! PROOFS. Chapter 13, the way down (R266, R270, R275, R276): RESTING and DORMANT are entered, the recall and its answers. -/
namespace Sys2Proof.Machine

section
variable {s : State}

theorem State.envRests_iff : s.envRests = true ↔ ∀ e ∈ s.env.plan, e ≤ 9 * 65536 :=
  List.all_eq_true.trans (forall₂_congr fun _ _ => decide_eq_true_iff)

theorem State.anyDirty_iff :
    s.anyDirty = true ↔ (∃ l ∈ s.num.lines, l.dirty = true) ∨ ∃ l ∈ s.ctx.lines, l.dirty = true := by
  simp [State.anyDirty]

theorem State.p0Idle_iff : s.p0Idle = true ↔ s.p0.reads = [] ∧ s.p0.writes = [] := by
  simp [State.p0Idle]

/-! ## RESTING is entered (R275) -/

theorem State.enterResting_enters (hs : s.pwr.st = .entering) (hi : s.inReset = false) (he : s.pwr.entering = .toResting)
    (hw : s.itemReady = false) (hf : s.chn.flights = []) (hc : s.commandBusy = false) (hp : s.p0Idle = true)
    (hr : s.envRests = true) (h3 : s.port.p3 = []) (h1 : s.port.p1 = []) (h4 : s.port.p4 = []) :
    s.enterResting = ({ s with pwr := { s.pwr with entering := .none, holding := false } } : State).setPwr .resting := by
  simp [State.enterResting, hs, hi, he, hw, hf, hc, hp, hr, h3, h1, h4]

theorem State.enterResting_waits (h : s.p0Idle = false ∨ s.commandBusy = true ∨ s.envRests = false) : s.enterResting = s := by
  unfold State.enterResting
  rcases h with h | h | h <;> simp [h]

/-! ## The second check (R276) -/

section
variable {f : Bool} (hs : s.pwr.st = .entering) (hi : s.inReset = false) (he : s.pwr.entering = .toDormant f false)
  (hw : s.p0.writes = [])
include hs hi he hw

theorem State.secondCheck_dirty (hd : s.anyDirty = true) : s.secondCheck = s.writeBacks := by
  simp [State.secondCheck, hs, hi, he, hw, hd]

theorem State.secondCheck_occupied (hd : s.anyDirty = false) (ho : s.occupied = true) :
    s.secondCheck = s.refuseDormant.abandonEntry := by
  simp [State.secondCheck, hs, hi, he, hw, hd, ho]

theorem State.secondCheck_recalls (hd : s.anyDirty = false) (ho : s.occupied = false) :
    s.secondCheck = ({ s with pwr := { s.pwr with entering := .toDormant f true } } : State).beginRecall := by
  simp [State.secondCheck, hs, hi, he, hw, hd, ho]

end

/-! ## DORMANT is entered (R270, R279) -/

theorem State.recallBegun_of_entering {f : Bool} (hs : s.pwr.st = .entering) (he : s.pwr.entering = .toDormant f true) :
    s.recallBegun = true := by
  simp [State.recallBegun, hs, he]

theorem State.enterDormant_enters (hb : s.recallBegun = true) (hi : s.inReset = false) (hr : s.recallComplete = true)
    (hp : s.p0Idle = true) (hl : s.lanesBusy = false) (ht : s.port.treeOut = []) (he : s.envRests = true) :
    s.enterDormant =
      let t := ({ s.loseDormant with pwr := { s.loseDormant.pwr with entering := .none, lateWake := none } } : State).setPwr .dormant
      match s.pwr.lateWake with | some ready => t.wake ready | none => t :=
  if_pos (by simp [hb, hi, hr, hp, hl, ht, he])

end

/-! ## The answers to a recall (R265, R266) -/

section
variable {s : State} {via : CreditPath} {w : Word}

theorem State.recallAnswer_reserved (h : cwOp w = 0 ∨ 4 < cwOp w ∨ 8 < cwClass w) : s.recallAnswer via w = s.badCredit via w :=
  if_pos (by simpa [cwReserved, or_assoc] using h)

theorem State.recallAnswer_ends (ho : cwOp w = 4) (hc : cwClass w ≤ 8) {k : Nat × Nat} (hk : recallKey via w = some k) :
    s.recallAnswer via w = { s with port := { s.port with
      recallSt := { s.port.recallSt with waiting := s.port.recallSt.waiting.erase k } } } := by
  have hr : cwReserved w = false := by simp [cwReserved, ho, hc]
  simp [State.recallAnswer, hr, ho, hk]

theorem recallKey_lane (g : Fin 8) (hc : cwClass w = 0) : recallKey (.lane g) w = some (0, g.val) := if_pos hc

theorem recallKey_arrive (h1 : 1 ≤ cwClass w) (h5 : cwClass w ≤ 5) : recallKey .arrive w = some (cwClass w, cwStream w) := by
  have h0 : cwClass w ≠ 0 := by omega
  simp [recallKey, creditPath, h0, h5]

theorem recallKey_tree (h6 : 6 ≤ cwClass w) : recallKey .tree w = some (cwClass w, cwStream w) := by
  have h0 : cwClass w ≠ 0 := by omega
  have h5 : ¬ cwClass w ≤ 5 := by omega
  simp [recallKey, creditPath, h0, h5]

end

/-- Settles O43. That the second check does the write-backs again is the model's reading (log entry 59). -/
theorem powerEntries : Obligations.PowerEntries := by
  refine ⟨fun s hs hi => ⟨fun he hw hf hc hr hww h3 h1 h4 hp => ?_, fun _ h => ?_, fun f he hw => ⟨fun hd => ?_, fun hd ho => ?_,
    fun hd ho => ?_⟩, fun f he hr hwait h3 h1 h4 hrd hww hf hl ht hp => ?_⟩, fun s via w => ?_⟩
  · exact congrArg Host.Outcome.next
      (State.enterResting_enters hs hi he hw hf hc (State.p0Idle_iff.2 ⟨hr, hww⟩) (State.envRests_iff.2 hp) h3 h1 h4)
  · refine congrArg Host.Outcome.next (State.enterResting_waits ?_)
    rcases h with h | h | h | ⟨e, hm, hlt⟩
    · exact .inl (Bool.eq_false_iff.2 fun hp => h (State.p0Idle_iff.1 hp).1)
    · exact .inl (Bool.eq_false_iff.2 fun hp => h (State.p0Idle_iff.1 hp).2)
    · exact .inr (.inl h)
    · exact .inr (.inr (Bool.eq_false_iff.2 fun hp => Nat.not_le.2 hlt (State.envRests_iff.1 hp e hm)))
  · exact congrArg Host.Outcome.next (State.secondCheck_dirty hs hi he hw (State.anyDirty_iff.2 hd))
  · have hclean := Bool.eq_false_iff.2 (mt State.anyDirty_iff.1 hd)
    exact congrArg Host.Outcome.next (State.secondCheck_occupied hs hi he hw hclean ho)
  · have hclean := Bool.eq_false_iff.2 (mt State.anyDirty_iff.1 hd)
    exact congrArg Host.Outcome.next (State.secondCheck_recalls hs hi he hw hclean ho)
  · have hdone : s.recallComplete = true := by simp [State.recallComplete, hr, hwait, h3, h1, h4]
    have hlanes : s.lanesBusy = false := by simp [State.lanesBusy, hf, hl]
    exact congrArg Host.Outcome.next (State.enterDormant_enters (State.recallBegun_of_entering hs he) hi hdone
      (State.p0Idle_iff.2 ⟨hrd, hww⟩) hlanes ht (State.envRests_iff.2 hp))
  · rw [← bitsOf_eq_toNat_extractLsb' w (hi := 27) (lo := 24) rfl, ← bitsOf_eq_toNat_extractLsb' w (hi := 31) (lo := 28) rfl,
      ← bitsOf_eq_toNat_extractLsb' w (hi := 23) (lo := 16) rfl]
    refine ⟨fun h => congrArg Host.Outcome.next (State.recallAnswer_reserved h), fun ho hc => ⟨fun g hv h0 => ?_,
      fun hv h1 h5 => ?_, fun hv h6 => ?_⟩⟩
    · subst hv
      exact congrArg Host.Outcome.next (State.recallAnswer_ends ho hc (recallKey_lane g h0))
    · subst hv
      exact congrArg Host.Outcome.next (State.recallAnswer_ends ho hc (recallKey_arrive h1 h5))
    · subst hv
      exact congrArg Host.Outcome.next (State.recallAnswer_ends ho hc (recallKey_tree h6))

end Sys2Proof.Machine

/-! PROOFS. Chapter 13, power requests from every state (R275 to R277, Table 13.4), and commands written on the way. -/
namespace Sys2Proof.Machine

section
variable {s : State}

/-! ## Wakes, from the states above DORMANT -/

theorem State.wake_ready (hs : s.pwr.st = .ready) (ready : Bool) : s.wake ready = s := by
  simp only [State.wake, hs]

theorem State.wake_resting (hs : s.pwr.st = .resting) (ready : Bool) :
    s.wake ready = if ready then { s with pwr := { s.pwr with rising := true } } else s := by
  simp only [State.wake, hs]

theorem State.wake_waking (hs : s.pwr.st = .waking) (ready : Bool) :
    s.wake ready = { s with pwr := { s.pwr with wakeReady := s.pwr.wakeReady || ready } } := by
  simp only [State.wake, hs]

theorem State.wake_toResting (hs : s.pwr.st = .entering) (he : s.pwr.entering = .toResting) (ready : Bool) : s.wake ready =
    if ready then ({ s with pwr := { s.pwr with entering := .none } } : State).setPwr .ready else s := by
  simp only [State.wake, State.abandonEntry, hs, he]

theorem State.wake_toDormant {f : Bool} (hs : s.pwr.st = .entering) (he : s.pwr.entering = .toDormant f false) (ready : Bool) :
    s.wake ready =
      let back := ({ s with pwr := { s.pwr with entering := .none } } : State).setPwr (if f then .resting else .ready)
      if f && ready then { back with pwr := { back.pwr with rising := true } } else back := by
  simp only [State.wake, State.abandonEntry, hs, he]

theorem State.wake_recalling {f : Bool} (hs : s.pwr.st = .entering) (he : s.pwr.entering = .toDormant f true) (ready : Bool) :
    s.wake ready = { s with pwr := { s.pwr with lateWake := some (ready || s.pwr.lateWake == some true) } } := by
  simp only [State.wake, hs, he]

/-! ## Requests for DORMANT (R276) -/

section
variable (resting : Bool)

/-- The first check of an entry to DORMANT, from RESTING or from READY: it refuses, or the write-backs begin. -/
def State.dormantFrom (s : State) (resting : Bool) : State :=
  if s.occupied then s.refuseDormant
  else ((({ s with pwr := { s.pwr with result := 0, entering := .toDormant resting false } } : State).setPwr .entering)).writeBacks

theorem State.dormantFrom_occupied (h : s.occupied = true) : s.dormantFrom resting = s.refuseDormant := if_pos h

theorem State.dormantFrom_free (h : s.occupied = false) : s.dormantFrom resting =
    (({ s with pwr := { s.pwr with result := 0, entering := .toDormant resting false } } : State).setPwr .entering).writeBacks :=
  if_neg (Bool.eq_false_iff.1 h)

end

theorem State.requestDormant_ready (hs : s.pwr.st = .ready) : s.requestDormant = s.dormantFrom false := by
  simp only [State.requestDormant, hs, State.dormantFrom]

theorem State.requestDormant_resting (hs : s.pwr.st = .resting) :
    s.requestDormant = if s.pwr.rising then s else s.dormantFrom true := by
  simp only [State.requestDormant, hs, State.dormantFrom]

theorem State.requestDormant_toResting (hs : s.pwr.st = .entering) (he : s.pwr.entering = .toResting) :
    s.requestDormant = s.dormantFrom false := by
  simp only [State.requestDormant, hs, he, State.dormantFrom]

/-- In WAKING, in DORMANT and on the way there, a request for DORMANT changes nothing. -/
theorem State.requestDormant_below
    (h : s.pwr.st = .waking ∨ s.pwr.st = .dormant ∨ (s.pwr.st = .entering ∧ ∃ f r, s.pwr.entering = .toDormant f r)) :
    s.requestDormant = s := by
  rcases h with hs | hs | ⟨hs, f, r, he⟩
  · simp only [State.requestDormant, hs]
  · simp only [State.requestDormant, hs]
  · simp only [State.requestDormant, hs, he]

/-! ## Requests for RESTING (R275) -/

theorem State.requestResting_ready (hs : s.pwr.st = .ready) :
    s.requestResting = ({ s with pwr := { s.pwr with result := 0, entering := .toResting } } : State).setPwr .entering := by
  simp only [State.requestResting, hs]

theorem State.requestResting_turns (hs : s.pwr.st = .entering) (he : s.pwr.entering = .toDormant false false) :
    s.requestResting = { s with pwr := { s.pwr with result := 0, entering := .toResting } } := by
  simp only [State.requestResting, hs, he]

/-- From every other state a request for RESTING is a wake. -/
theorem State.requestResting_wakes (hr : s.pwr.st ≠ .ready)
    (he : s.pwr.st = .entering → s.pwr.entering ≠ .toDormant false false) : s.requestResting = (s.pwrResult 0).wake false := by
  unfold State.requestResting
  split
  case h_1 hs => exact absurd hs hr
  case h_2 hs =>
    split
    · exact absurd ‹_› (he hs)
    · rfl
  case h_3 => rfl

/-! ## Writes of DL_PWR_REQ (Table 13.4) -/

/-- The state in which a request is judged: its target is written. -/
def State.aimed (s : State) (t : BitVec 2) : State := { s with pwr := { s.pwr with target := t } }

/-- The state of a request that is taken. -/
def State.asked (s : State) (t : BitVec 2) : State := (s.aimed t).pwrResult 0

theorem setBits_target (v : Word) (t : BitVec 2) : (setBits v 1 0 t.toNat).extractLsb' 0 2 = t :=
  BitVec.eq_of_toNat_eq <| by
    rw [← bitsOf_eq_toNat_extractLsb' _ (hi := 1) (lo := 0) rfl, bitsOf_setBits v (by omega)]
    exact Nat.mod_eq_of_lt t.isLt

theorem State.writePwr_target (rq : Requester) {v : Word} {t : BitVec 2} (ht : v.extractLsb' 0 2 = t) :
    s.writeReg rq .pwr 0x044 v = if t = s.pwr.target then s.pwrRequest t else (s.pwrRequest t).bumpSeq .pwr :=
  ht ▸ rfl

theorem State.writes_target {rq : Requester} (h : s.serves rq .pwr) (v : Word) (t : BitVec 2) {u : State}
    (hu : s.pwrRequest t = u) : s.writes rq .pwr 0x044 (setBits v 1 0 t.toNat) =
      .next ((if t = s.pwr.target then u else u.bumpSeq .pwr).answerWrite (accessOf rq .pwr 0x044)) :=
  State.writes_of_eq h rfl (hu ▸ State.writePwr_target rq (setBits_target v t))

/-! ## Commands written in RESTING and during a recall (R276, R277, R309, R312) -/

theorem State.commandWrite_held (hs : s.pwr.st = .resting) (rq : Requester) {p : Page} {off : Nat} (v : Word)
    (hsw : ¬ (p = .tbl ∧ off = 0x040)) : s.commandWrite rq p off v =
      { s with pwr := { s.pwr with
        held := s.pwr.held ++ [{ rq := rq, page := p, off := off, v := v, args := s.cmdArgs }], rising := true } } := by
  have hb : s.recallBegun = false := by simp [State.recallBegun, hs]
  simp [State.commandWrite, hb, hs, hsw, State.wake]

theorem isCommand_switch {v : Word} (hv : v.getLsbD 31 = true) : isCommand .tbl 0x040 v = true := hv

theorem State.commandWrite_switch (hs : s.pwr.st = .resting) (rq : Requester) (v : Word) : s.commandWrite rq .tbl 0x040 v =
    { s with tbl := { s.tbl with switchPending := true }, pwr := { s.pwr with rising := true } } := by
  have hb : s.recallBegun = false := by simp [State.recallBegun, hs]
  simp [State.commandWrite, hb, hs, State.wake, State.switchWrite]

theorem State.commandWrite_recalling (hb : s.recallBegun = true) (rq : Requester) (p : Page) (off : Nat) (v : Word) :
    s.commandWrite rq p off v = s.regFault p .state rq off :=
  if_pos hb

theorem State.writeReg_command {rq : Requester} {p : Page} {off : Nat} {v : Word} (h40 : ¬ off < 0x040)
    (hc : isCommand p off v = true) : s.writeReg rq p off v = s.commandWrite rq p off v :=
  (if_neg h40).trans (if_pos hc)

/-- The command registers but for the switch: each command is held whatever is written. -/
theorem commandRegister {p : Page} {off : BitVec 12}
    (h : (p, off) ∈ [(Page.tbl, (0x044 : BitVec 12)), (.ctx, 0x048), (.ten, 0x044), (.img, 0x040), (.chn, 0x040), (.chn, 0x044),
      (.arv, 0x04C), (.cnt, 0x040), (.sch, 0x048), (.tree, 0x050)]) :
    off.toNat % 4 = 0 ∧ ¬ off.toNat < 0x040 ∧ ¬ (p = .tbl ∧ off.toNat = 0x040) ∧ ∀ v, isCommand p off.toNat v = true := by
  simp only [List.mem_cons, Prod.mk.injEq, List.not_mem_nil, or_false] at h
  rcases h with ⟨rfl, rfl⟩ | ⟨rfl, rfl⟩ | ⟨rfl, rfl⟩ | ⟨rfl, rfl⟩ | ⟨rfl, rfl⟩ | ⟨rfl, rfl⟩ | ⟨rfl, rfl⟩ | ⟨rfl, rfl⟩ |
    ⟨rfl, rfl⟩ | ⟨rfl, rfl⟩ <;> exact ⟨rfl, by decide, by decide, fun _ => rfl⟩

end

/-- Settles O42. Which requests change nothing, and which turn an entry away, is the model's reading (log entry 58). -/
theorem powerRequests : Obligations.PowerRequests := by
  refine ⟨fun s rq v h => ?_, fun s rq v p off h hm => ?_⟩
  · have dormant {u : State} (hu : (s.aimed 0).requestDormant = u) := State.writes_target h v 0 hu
    have resting {u : State} (hu : (s.aimed 2).requestResting = u) := State.writes_target h v 2 hu
    have ready {u : State} (hu : (s.asked 3).wake true = u) := State.writes_target h v 3 hu
    have stays (hb) := dormant (State.requestDormant_below (s := s.aimed 0) hb)
    have wakes {u : State} (hr : s.pwr.st ≠ .ready) (he : s.pwr.st = .entering → s.pwr.entering ≠ .toDormant false false)
        (hu : (s.asked 2).wake false = u) := resting ((State.requestResting_wakes (s := s.aimed 2) hr he).trans hu)
    have awake {p : PwrState} (hs : s.pwr.st = p) (hp : p ≠ .entering) :
        s.pwr.st = .entering → s.pwr.entering ≠ .toDormant false false := fun he => absurd (hs.symm.trans he) hp
    refine ⟨fun hs => ?_, fun hs => ?_, fun hs => ?_, fun hs => ?_, fun hs => ⟨fun he => ?_, fun he => ?_, fun he => ?_,
      fun f he => ?_⟩, fun ht => ?_, fun hr hi hw hf => ?_⟩
    -- READY, RESTING, WAKING and DORMANT
    case refine_1 =>
      have hd := State.requestDormant_ready (s := s.aimed 0) hs
      exact ⟨fun ho => dormant (hd.trans (State.dormantFrom_occupied false ho)),
        fun ho => dormant (hd.trans (State.dormantFrom_free false ho)),
        resting (State.requestResting_ready (s := s.aimed 2) hs), ready (State.wake_ready (s := s.asked 3) hs true)⟩
    case refine_2 =>
      have hd := State.requestDormant_resting (s := s.aimed 0) hs
      have hd' (hr : s.pwr.rising = false) := hd.trans (if_neg (Bool.eq_false_iff.1 hr))
      exact ⟨fun hr => dormant (hd.trans (if_pos hr)), fun hr ho => dormant ((hd' hr).trans (State.dormantFrom_occupied true ho)),
        fun hr ho => dormant ((hd' hr).trans (State.dormantFrom_free true ho)),
        wakes (by simp [hs]) (awake hs nofun) (State.wake_resting (s := s.asked 2) hs false),
        ready (State.wake_resting (s := s.asked 3) hs true)⟩
    case refine_3 =>
      refine ⟨stays (.inl hs), wakes (by simp [hs]) (awake hs nofun) ?_, ready ?_⟩
      · exact (State.wake_waking (s := s.asked 2) hs false).trans (by rw [Bool.or_false]; rfl)
      · exact (State.wake_waking (s := s.asked 3) hs true).trans (by rw [Bool.or_true]; rfl)
    case refine_4 =>
      exact ⟨stays (.inr (.inl hs)), wakes (by simp [hs]) (awake hs nofun) (State.wake_dormant (s := s.asked 2) hs false),
        ready (State.wake_dormant (s := s.asked 3) hs true)⟩
    -- the entries: to RESTING, to DORMANT from READY and from RESTING, and the recall
    case refine_5 =>
      have hd := State.requestDormant_toResting (s := s.aimed 0) hs he
      exact ⟨wakes (by simp [hs]) (fun _ => by simp [he]) (State.wake_toResting (s := s.asked 2) hs he false),
        ready (State.wake_toResting (s := s.asked 3) hs he true), fun ho => dormant (hd.trans (State.dormantFrom_occupied false ho)),
        fun ho => dormant (hd.trans (State.dormantFrom_free false ho))⟩
    case refine_6 =>
      exact ⟨stays (.inr (.inr ⟨hs, _, _, he⟩)), resting (State.requestResting_turns (s := s.aimed 2) hs he),
        ready (State.wake_toDormant (s := s.asked 3) hs he true)⟩
    case refine_7 =>
      exact ⟨stays (.inr (.inr ⟨hs, _, _, he⟩)),
        wakes (by simp [hs]) (fun _ => by simp [he]) (State.wake_toDormant (s := s.asked 2) hs he false),
        ready (State.wake_toDormant (s := s.asked 3) hs he true)⟩
    case refine_8 =>
      exact ⟨stays (.inr (.inr ⟨hs, _, _, he⟩)),
        wakes (by simp [hs]) (fun _ => by simp [he]) (State.wake_recalling (s := s.asked 2) hs he false),
        ready (State.wake_recalling (s := s.asked 3) hs he true)⟩
    -- the reserved TARGET, and IDLE_REST
    case refine_9 =>
      refine (exec_registerWrite_of_eq (off := 0x044) rfl (State.writePwr_target rq ht) h).trans ?_
      simp only [eq_comm (a := (1 : BitVec 2))]
      rfl
    case refine_10 =>
      have hst : s.pwr.st = .ready := by
        simp only [State.isReady, Bool.and_eq_true, beq_iff_eq] at hr
        exact hr.1
      refine congrArg Host.Outcome.next ((if_pos ?_).trans (State.requestResting_ready hst))
      simpa [hr, hw, hf] using hi
  · obtain ⟨ho, h40, hsw, hc⟩ := commandRegister hm
    refine ⟨fun hs => ?_, fun hs hv ht => ?_, fun f hs he => ?_⟩
    · exact exec_registerWrite_of_eq ho ((State.writeReg_command h40 (hc v)).trans (State.commandWrite_held hs rq v hsw)) h
    · exact exec_registerWrite_of_eq rfl ((State.writeReg_command (by decide) (isCommand_switch hv)).trans (State.commandWrite_switch hs rq v)) ht
    · have hb := State.recallBegun_of_entering hs he
      exact ⟨exec_registerWrite_of_eq ho ((State.writeReg_command h40 (hc v)).trans (State.commandWrite_recalling hb rq _ _ v)) h,
        fun hv ht => exec_registerWrite_of_eq rfl
          ((State.writeReg_command (by decide) (isCommand_switch hv)).trans (State.commandWrite_recalling hb rq _ _ v)) ht⟩

end Sys2Proof.Machine

/-! PROOFS. Chapters 15 and 16, the event ring: what an event that is logged leaves (R319, R323). -/
namespace Sys2Proof.Machine

/-! ## The next record -/

/-- The ring can take a record. -/
def LogUnit.room (l : LogUnit) : Prop := l.en = true ∧ l.slots ≠ 0 ∧ (l.wr - l.rd).toNat ≠ l.slots

theorem LogUnit.room_iff (l : LogUnit) :
    ¬ l.room ↔ (!l.en || decide (l.slots = 0) || decide ((l.wr - l.rd).toNat = l.slots)) = true := by
  simp only [LogUnit.room, Bool.or_eq_true, Bool.not_eq_true', decide_eq_true_eq, not_and_or, ne_eq, not_not, or_assoc,
    Bool.not_eq_true]

theorem LogUnit.next_of_pend {l : LogUnit} (hh : l.held = []) {e : Event} {r : List Event} (hp : l.pend = e :: r) (ready : Bool) :
    l.next ready = some (e, { l with pend := r }) := by
  simp only [LogUnit.next, hh, ite_self, hp]

theorem LogUnit.next_of_held {l : LogUnit} (he : l.en = true) (hs : l.slots ≠ 0) {e : Event} {r : List Event} (hh : l.held = e :: r) :
    l.next true = some (e, { l with held := r }) := by
  simp only [LogUnit.next, he, hs, hh, Bool.and_true, decide_true, ne_eq, not_false_eq_true, if_true]

/-- The held records stay while the block is not READY or the ring can take none. -/
theorem LogUnit.next_keeps_held {l : LogUnit} {ready : Bool} (h : ready = false ∨ l.en = false ∨ l.slots = 0) {e : Event}
    {l' : LogUnit} (hn : l.next ready = some (e, l')) : l'.held = l.held ∧ l'.en = l.en ∧ l'.slots = l.slots := by
  have hoff : (ready && l.en && decide (l.slots ≠ 0)) = false := by rcases h with h | h | h <;> simp [h]
  unfold LogUnit.next at hn
  rw [hoff] at hn
  simp only [Bool.false_eq_true, if_false] at hn
  split at hn
  · obtain ⟨-, rfl⟩ := Prod.mk.inj (Option.some.inj hn)
    exact ⟨rfl, rfl, rfl⟩
  · cases hn

/-! ## One record offered -/

/-- The write of a record at the slot of DL_LOG_WR. -/
def State.writeRecord (s : State) (e : Event) : State :=
  ({ s with log := { s.log with writing := true, lostBefore := false } } : State).issueWrite .logRec
    (cellsAt (s.log.base.toNat + 32 * (s.log.wr.toNat % s.log.slots)) (eventBytes s.inst s.log.lostBefore e))

theorem State.pumpLogGo_stops {s : State} (h : s.log.writing = true ∨ s.log.next (s.pwr.st == .ready) = none) (n : Nat) :
    s.pumpLogGo n = s := by
  cases n with
  | zero => rfl
  | succ n =>
    rw [State.pumpLogGo]
    rcases h with h | h
    · rw [if_pos h]
    · split
      · rfl
      · simp only [h]

/-- The record at the front is masked, is lost, or its write starts. -/
theorem State.pumpLogGo_succ {s : State} (hw : s.log.writing = false) {e : Event} {l : LogUnit}
    (hn : s.log.next (s.pwr.st == .ready) = some (e, l)) (n : Nat) :
    let t : State := { s with log := l }
    (l.masked e.code = true → s.pumpLogGo (n + 1) = t.pumpLogGo n) ∧
    (l.masked e.code = false → ¬ l.room → s.pumpLogGo (n + 1) = t.loseRecord.pumpLogGo n) ∧
    (l.masked e.code = false → l.room → s.pumpLogGo (n + 1) = t.writeRecord e) := by
  rw [State.pumpLogGo, if_neg (by simp [hw])]
  simp only [hn]
  refine ⟨fun hm => if_pos hm, fun hm hr => ?_, fun hm hr => ?_⟩
  · rw [if_neg (by simp [hm]), if_pos (l.room_iff.1 hr)]
  · rw [if_neg (by simp [hm]), if_neg (fun h => l.room_iff.2 h hr)]
    rfl

theorem State.pumpLogGo_held (n : Nat) {s : State} (h : s.pwr.st ≠ .ready ∨ s.log.en = false ∨ s.log.slots = 0) :
    (s.pumpLogGo n).log.held = s.log.held := by
  induction n generalizing s with
  | zero => rfl
  | succ n ih =>
    by_cases hw : s.log.writing = true
    · rw [State.pumpLogGo_stops (.inl hw)]
    cases hn : s.log.next (s.pwr.st == .ready) with
    | none => rw [State.pumpLogGo_stops (.inr hn)]
    | some next =>
      obtain ⟨e, l⟩ := next
      have hoff : (s.pwr.st == .ready) = false ∨ s.log.en = false ∨ s.log.slots = 0 := h.imp_left (beq_false_of_ne ·)
      obtain ⟨hheld, hen, hslots⟩ := LogUnit.next_keeps_held hoff hn
      have ht : s.pwr.st ≠ .ready ∨ l.en = false ∨ l.slots = 0 := by rwa [hen, hslots]
      obtain ⟨masked, lost, starts⟩ := State.pumpLogGo_succ (Bool.eq_false_iff.2 hw) hn n
      cases hm : l.masked e.code with
      | true => exact (congrArg (·.log.held) (masked hm)).trans ((ih (s := { s with log := l }) ht).trans hheld)
      | false =>
        by_cases hr : l.room
        · exact (congrArg (·.log.held) (starts hm hr)).trans hheld
        · exact (congrArg (·.log.held) (lost hm hr)).trans ((ih (s := ({ s with log := l } : State).loseRecord) ht).trans hheld)

/-! ## Events that are logged, and their acknowledgements -/

section
variable {s : State}

theorem State.count_eq (s : State) (n k : Nat) : ∃ c, s.count n k = { s with cnt := c } := by
  unfold State.count
  split
  · exact ⟨_, rfl⟩
  · exact ⟨s.cnt, rfl⟩

/-- An event that nothing is before is offered at once. -/
theorem State.logEvent_alone (hu : s.p0Usable = true) (hh : s.log.held = []) (hp : s.log.pend = []) (hw : s.log.writing = false)
    (code : Nat) (p : Page) (a0 a1 a2 a3 : Word) (tag : BitVec 16) :
    let e : Event := { code := code, page := p, step := s.step, fc := s.fc, tag := tag, a0 := a0, a1 := a1, a2 := a2, a3 := a3 }
    let t := s.count 32 1
    let l := s.logEvent code p a0 a1 a2 a3 tag
    (s.log.masked code = true → l = t) ∧ (s.log.masked code = false → ¬ s.log.room → l = t.loseRecord) ∧
    (s.log.masked code = false → s.log.room → l = t.writeRecord e) := by
  obtain ⟨c, hc⟩ := s.count_eq 32 1
  intro e t l
  let q : State := { s with cnt := c, log := { s.log with pend := [e] } }
  have hl : l = q.pumpLogGo 1 := by
    have hfuel : s.log.held.length + (s.log.pend ++ [e]).length = 1 := by rw [hh, hp]; rfl
    show s.logEvent code p a0 a1 a2 a3 tag = _
    unfold State.logEvent
    rw [hc]
    refine (if_pos hu).trans ?_
    show State.pumpLogGo (s.log.held.length + (s.log.pend ++ [e]).length)
      { s with cnt := c, log := { s.log with pend := s.log.pend ++ [e] } } = _
    rw [hfuel, hp]
    rfl
  have ht : t = { q with log := { q.log with pend := [] } } := by
    show s.count 32 1 = { s with cnt := c, log := { s.log with pend := [] } }
    rw [hc, ← hp]
  rw [hl, ht]
  exact State.pumpLogGo_succ (s := q) hw (LogUnit.next_of_pend (l := q.log) hh rfl _) 0

theorem State.logEvent_queued (hu : s.p0Usable = false) (code : Nat) (p : Page) (a0 a1 a2 a3 : Word) (tag : BitVec 16) :
    let e : Event := { code := code, page := p, step := s.step, fc := s.fc, tag := tag, a0 := a0, a1 := a1, a2 := a2, a3 := a3 }
    s.logEvent code p a0 a1 a2 a3 tag = if s.log.held.length < 16 then
      { s.count 32 1 with log := { s.log with held := s.log.held ++ [e] } } else (s.count 32 1).loseRecord := by
  obtain ⟨c, hc⟩ := s.count_eq 32 1
  unfold State.logEvent
  rw [hc]
  exact if_neg (Bool.eq_false_iff.1 hu)

theorem State.pumpLog_nothing (hh : s.log.held = []) (hp : s.log.pend = []) : s.pumpLog = s := by
  unfold State.pumpLog
  rw [hh, hp]
  rfl

theorem State.logAck_written (hh : s.log.held = []) (hp : s.log.pend = []) :
    let t : State := { s with log := { s.log with wr := s.log.wr + 1, writing := false } }
    s.logAck false =
      if s.log.water ≠ 0 ∧ s.log.water.toNat ≤ (s.log.wr + 1 - s.log.rd).toNat then t.pageEvent .log 1 else t := by
  intro t
  have hcond : (t.log.water ≠ 0 && decide ((t.log.wr - t.log.rd).toNat ≥ t.log.water.toNat)) = true ↔
      s.log.water ≠ 0 ∧ s.log.water.toNat ≤ (s.log.wr + 1 - s.log.rd).toNat := by
    rw [Bool.and_eq_true, decide_eq_true_iff, decide_eq_true_iff]
  by_cases h : s.log.water ≠ 0 ∧ s.log.water.toNat ≤ (s.log.wr + 1 - s.log.rd).toNat
  · rw [if_pos h]
    exact (congrArg State.pumpLog (if_pos (hcond.2 h))).trans (State.pumpLog_nothing (s := t.pageEvent .log 1) hh hp)
  · rw [if_neg h]
    exact (congrArg State.pumpLog (if_neg (mt hcond.1 h))).trans (State.pumpLog_nothing (s := t) hh hp)

theorem State.logAck_failed (hh : s.log.held = []) (hp : s.log.pend = []) :
    s.logAck true = ({ s with log := { s.log with writing := false } } : State).loseRecord :=
  State.pumpLog_nothing (s := ({ s with log := { s.log with writing := false } } : State).loseRecord) hh hp

theorem State.pumpLog_held_first (hr : s.pwr.st = .ready) (hen : s.log.en = true) (hs : s.log.slots ≠ 0)
    (hw : s.log.writing = false) {e : Event} {r : List Event} (hh : s.log.held = e :: r) (hm : s.log.masked e.code = false)
    (hroom : (s.log.wr - s.log.rd).toNat ≠ s.log.slots) :
    s.pumpLog = ({ s with log := { s.log with held := r } } : State).writeRecord e := by
  have hn : s.log.next (s.pwr.st == .ready) = some (e, { s.log with held := r }) := by
    rw [hr]
    exact LogUnit.next_of_held hen hs hh
  obtain ⟨-, -, starts⟩ := State.pumpLogGo_succ hw hn (r.length + s.log.pend.length)
  rw [← starts hm ⟨hen, hs, hroom⟩, State.pumpLog, hh, List.length_cons, Nat.add_right_comm]

end

/-- Settles O48: `pumpLogGo_succ` is one record offered. That a record is masked at its turn, and held records wait for EN and
slots, is the model's reading (log entry 53). -/
theorem eventRing : Obligations.EventRing := by
  refine fun s => ⟨fun code p a0 a1 a2 a3 tag => ⟨fun hu hl => ?_, fun hu hl => ?_, fun hu hh hp hw => ?_⟩, rfl,
    fun hp hh => ⟨State.logAck_written hh hp, State.logAck_failed hh hp⟩, fun hi => ?_, State.pumpLogGo_held _,
    fun e r hr hen hs hw hh hm hroom => State.pumpLog_held_first hr hen hs hw hh hm hroom⟩
  · exact (State.logEvent_queued hu code p a0 a1 a2 a3 tag).trans (if_pos hl)
  · exact (State.logEvent_queued hu code p a0 a1 a2 a3 tag).trans (if_neg (Nat.not_lt.2 hl))
  · obtain ⟨c, hc⟩ := s.count_eq 32 1
    have halone := State.logEvent_alone hu hh hp hw code p a0 a1 a2 a3 tag
    dsimp only at halone ⊢
    rw [hc] at halone ⊢
    exact halone
  · exact congrArg Host.Outcome.next (if_neg (Bool.eq_false_iff.1 hi))

end Sys2Proof.Machine

/-! PROOFS. Chapter 12, ingress: messages that firmware forms (R254, R315) and messages that arrive (R262, R266, R342). -/
namespace Sys2Proof.Machine

/-! ## DL_ARV_RING -/

theorem toNat_append_word {n : Nat} (x : BitVec n) (y : Word) : (x ++ y).toNat = x.toNat * 2 ^ 32 + y.toNat := by
  rw [BitVec.toNat_append, ← Nat.shiftLeft_add_eq_or_of_lt y.isLt, Nat.shiftLeft_eq]

theorem ofNat_four_words (a b c d : Word) :
    BitVec.ofNat 128 (a.toNat + 2 ^ 32 * b.toNat + 2 ^ 64 * c.toNat + 2 ^ 96 * d.toNat) = d ++ c ++ b ++ a := by
  refine BitVec.eq_of_toNat_eq ?_
  have words : a.toNat + 2 ^ 32 * b.toNat + 2 ^ 64 * c.toNat + 2 ^ 96 * d.toNat =
      ((d.toNat * 2 ^ 32 + c.toNat) * 2 ^ 32 + b.toNat) * 2 ^ 32 + a.toNat := by omega
  have all : (d ++ c ++ b ++ a).toNat = ((d.toNat * 2 ^ 32 + c.toNat) * 2 ^ 32 + b.toNat) * 2 ^ 32 + a.toNat := by
    simp only [toNat_append_word]
  rw [BitVec.toNat_ofNat, words, ← all]
  exact Nat.mod_eq_of_lt (BitVec.isLt _)

/-- The header that the ring words and the written word form, with SOURCE 0b10 (R254). -/
def State.ringHeader (s : State) (v : Word) : Header :=
  let w := fun (i : Nat) => s.chn.ring.getD i 0
  ((v ++ w 2 ++ w 1 ++ w 0) &&& ~~~(BitVec.ofNat 128 (3 * 2 ^ 26))) ||| BitVec.ofNat 128 (2 * 2 ^ 26)

section
variable (s : State) (rq : Requester) (v : Word)

theorem State.ring_eq : s.ring rq v =
    let h := s.ringHeader v
    if ¬ (hType h = 1 ∨ hType h = 2 ∨ hType h = 3) then s.regFault .arv .value rq 0x04C
    else if classPlaces (.p3 h) ≤ s.placesUsed (p3HeaderClass h) 0 then
      (({ s with chn := { s.chn with ringFull := true } } : State).regFault .arv .queue rq 0x04C).pageEvent .arv 2
    else { s with port := { s.port with p3 := s.port.p3 ++ [(true, .p3 h)] } } := by
  unfold State.ring
  dsimp only
  rw [ofNat_four_words]
  refine if_congr ?_ rfl rfl
  simp only [State.ringHeader, Bool.and_eq_true, decide_eq_true_eq, not_or, ne_eq, and_assoc]

end

/-! ## PORT_MESSAGE_ACCEPTED -/

section
variable {s : State} {m : PortMsg}

theorem State.ingress_discards (h : s.inReset = true ∨ (s.port.inited = false ∧ s.port.recallSt.done = false)) :
    (s.ingress m).1 = s := by
  unfold State.ingress
  rw [if_pos (by simpa using h)]

theorem State.ingress_reserved (hr : s.inReset = false) (hi : s.port.inited = true ∨ s.port.recallSt.done = true) {via : TreeVia}
    {t : TreeMsg} (hm : msgClass (.tree via t) = none) :
    (s.ingress (.tree via t)).1 = s.logEvent 0x42 .tree (TreeMsgF.word0 t) 0 0 0 := by
  unfold State.ingress
  rw [if_neg (by rcases hi with h | h <;> simp [hr, h])]
  simp only [hm]

section
variable (hr : s.inReset = false) (hi : s.port.inited = true) {port cls stream : Nat} (hm : msgClass m = some (port, cls, stream))
include hr hi hm

/-- Outside a recall a message joins its queue where its class has a place, and is dropped with CREDIT_OVER otherwise. -/
theorem State.ingress_class (hn : s.port.recallSt.running = false) : (s.ingress m).1 =
    if classPlaces m ≤ s.placesUsed cls stream then s.creditOver port cls stream else (s.enqueue m).messageWakes := by
  unfold State.ingress
  rw [if_neg (by simp [hr, hi])]
  simp only [hm, hn, hi, Bool.false_eq_true, if_false, Bool.not_true, Bool.false_or, decide_eq_true_eq]
  split <;> rfl

/-- While a recall runs, a stream that has answered or has used up its credits has no place (R266). -/
theorem State.ingress_recall (hn : s.port.recallSt.running = true) :
    let r := s.port.recallSt
    let left := (lookupKey (cls, stream) r.left).getD 0
    (s.ingress m).1 = if (cls, stream) ∉ r.waiting ∨ left = 0 then s.creditOver port cls stream
      else ((({ s with port := { s.port with recallSt := { r with left := setKey (cls, stream) (left - 1) r.left } } } : State).enqueue
        m).messageWakes) := by
  unfold State.ingress
  rw [if_neg (by simp [hr, hi])]
  simp only [hm, hn, hi, if_true, Bool.not_true, Bool.false_or, Bool.or_eq_true, Bool.not_eq_true', decide_eq_true_eq,
    List.contains_eq_mem, decide_eq_false_iff_not]
  split <;> rfl

end

theorem State.enqueue_port : s.enqueue m = { s with port := match m with
    | .p3 _ | .tree .remote _ => { s.port with p3 := s.port.p3 ++ [(false, m)] }
    | .tree .p4 t => { s.port with p4 := s.port.p4 ++ [t] }
    | .lane g r => { s.port with p1 := s.port.p1 ++ [(g, laneBeats r)] } } := by
  cases m with
  | p3 h => rfl
  | tree via t => cases via <;> rfl
  | lane g r => rfl

end

/-- Settles O40. Which class a header of a reserved TYPE has is the model's reading (log entry 17); what arrives during a reset
is discarded (R300, log entry 18). -/
theorem ingress : Obligations.Ingress := by
  refine fun s => ⟨fun rq v hp => ?_, fun m port cls stream hr hi hn hm => ?_, fun m port cls stream hr hi hn hm => ?_,
    fun via m hr hi hm => congrArg Host.Outcome.next (State.ingress_reserved hr hi hm),
    fun m h => congrArg Host.Outcome.next (State.ingress_discards h)⟩
  · have hring := s.ring_eq rq v
    have answers {t : State} (ht : s.ring rq v = t) :
        exec (.dlArvRing rq v) s = .next ((t.settle).answerWrite (accessOf rq .arv 0x04C)) :=
      ht ▸ State.writes_command hp rfl (by decide) rfl
    exact ⟨fun h => answers (hring.trans (if_pos h)),
      fun h hf => answers (hring.trans ((if_neg (not_not.2 h)).trans (if_pos hf))),
      fun h hf => answers (hring.trans ((if_neg (not_not.2 h)).trans (if_neg (Nat.not_le.2 hf))))⟩
  · have hc := State.ingress_class hr hi hm hn
    refine ⟨fun hf => congrArg Host.Outcome.next (hc.trans (if_pos hf)), fun hf => congrArg Host.Outcome.next ?_⟩
    exact hc.trans ((if_neg (Nat.not_le.2 hf)).trans (congrArg State.messageWakes State.enqueue_port))
  · have hc := State.ingress_recall hr hi hm hn
    exact ⟨fun h => congrArg Host.Outcome.next (hc.trans (if_pos h)),
      fun hw hl => congrArg Host.Outcome.next (hc.trans (if_neg (not_or.2 ⟨not_not.2 hw, hl⟩)))⟩

end Sys2Proof.Machine

/-! PROOFS. Chapters 10 and 12, lane requests: bad, undefined, unfit, evaluated, fetched (R222, R224, R258, R336, R341). -/
namespace Sys2Proof.Machine

/-! ## A request is taken -/

/-- The state without a lane request at the head of its group. -/
def State.popLane (s : State) (g : Fin 8) (r : LaneReq) : State :=
  { s with port := { s.port with p1 := s.port.p1.erase (g, r) } }

theorem State.takeLane_eval {s : State} (ht : s.takes = true) {g : Fin 8} {r : LaneReq} (hl : lType r.hdr ≠ 1)
    (hq : s.port.p1.find? (fun p => p.1 == g) = some (g, r)) : s.takeLane g r = (s.popLane g r).admitEval g r := by
  have hb : laneBeats r = r := if_neg hl
  simp only [State.takeLane, hq, hb, ht, if_true, State.admitLane, if_neg hl, State.popLane]

theorem State.takeLane_fetch {s : State} (ht : s.takes = true) {g : Fin 8} {h : Header} (hl : lType h = 1)
    (hq : s.port.p1.find? (fun p => p.1 == g) = some (g, { hdr := h, mask := 0, ops := 0 })) :
    s.takeLane g { hdr := h, mask := 0, ops := 0 } = (s.popLane g { hdr := h, mask := 0, ops := 0 }).admitFetch g h := by
  have hb : laneBeats { hdr := h, mask := 0, ops := 0 } = { hdr := h, mask := 0, ops := 0 } := if_pos hl
  simp only [State.takeLane, hq, hb, ht, if_true, State.admitLane, if_pos hl, State.popLane]

/-! ## EVAL -/

section
variable (s : State) (g : Fin 8) (r : LaneReq)

/-- The request among the arbiter's lists. -/
def State.laneBase : LaneWork := { no := s.chn.nextLane, group := g, req := r, bank := s.activeBank }

/-- The function that a request names, of the active bank; none where it is not defined. -/
def State.laneHow : Option Resolved :=
  if lFunc r.hdr = 0x10 || lFunc r.hdr = 0x11 then none else s.resolve s.activeBank (lFunc r.hdr) (s.laneGrade r.hdr)

theorem State.laneHow_eq : s.laneHow r = if lFunc r.hdr = 0x10 ∨ lFunc r.hdr = 0x11 then none
    else s.resolve s.activeBank (lFunc r.hdr) (s.laneGrade r.hdr) :=
  if_congr (by simp only [Bool.or_eq_true, decide_eq_true_eq]) rfl rfl

/-- TYPE, FMT or GRADE of a request is reserved. -/
def State.laneBad : Prop := lType r.hdr ≠ 0 ∨ 2 < lFmt r.hdr ∨ (s.gen3 = false ∧ lGrade r.hdr = 3)

theorem State.laneBad_iff :
    s.laneBad r ↔ (decide (lType r.hdr ≠ 0) || decide (lFmt r.hdr > 2) || (!s.gen3 && decide (lGrade r.hdr = 3))) = true := by
  simp only [State.laneBad, Bool.or_eq_true, Bool.and_eq_true, Bool.not_eq_true', decide_eq_true_eq, gt_iff_lt, or_assoc]

/-- The active lanes of a request with their operands. -/
def State.laneOperands : List (Nat × Word) :=
  ((List.range 128).filter (fun k => r.mask.getLsbD k)).map (fun k => (k, s.laneOperand r k))

/-- A function's request waits with its active lanes, and its tables are wanted. -/
def State.laneWaits (f : Resolved) : State :=
  let xs := s.laneOperands r
  (((s.pushLane (s.laneBase g r)).count 6 (xs.filter (fun p => nonFin32 p.2)).length).modLane s.chn.nextLane (fun l => { l with
    how := some f, ws := (s.tablesOf f).eraseDups, todo := xs.map (fun p => (p.1, s.laneInput r p.2)) })).wantTables
      (s.tablesOf f).eraseDups

theorem State.admitEval_bad (h : s.laneBad r) : s.admitEval g r =
    ((((s.pushLane (s.laneBase g r)).logEvent 0x04 .port (BitVec.ofNat 32 g.val) (hLow r.hdr) 0 0).laneRefused s.chn.nextLane
      (lFmt r.hdr))).lanesGo :=
  if_pos ((s.laneBad_iff r).1 h)

section
variable {s r} (h : ¬ s.laneBad r)
include h

theorem State.admitEval_undefined (hn : s.laneHow r = none) : s.admitEval g r =
    ((((s.pushLane (s.laneBase g r)).logEvent 0x24 .tbl (BitVec.ofNat 32 g.val) (BitVec.ofNat 32 (lFunc r.hdr))
      (BitVec.ofNat 32 (lGrade r.hdr)) 0).laneRefused s.chn.nextLane (lFmt r.hdr))).lanesGo := by
  refine (if_neg (mt (s.laneBad_iff r).2 h)).trans ?_
  unfold State.laneHow at hn
  simp only [hn]
  rfl

/-- The bank of the function is quarantined or faulted, and the function reads it. -/
theorem State.admitEval_unfit {f : Resolved} (hf : s.laneHow r = some f)
    (hu : ((s.tbl.bank s.activeBank).quarantine || (s.tbl.bank s.activeBank).fault) = true ∧ s.usesRam f = true) :
    s.admitEval g r =
      ((((s.pushLane (s.laneBase g r)).logEvent 0x23 .tbl (BitVec.ofNat 32 g.val) (BitVec.ofNat 32 (lFunc r.hdr))
        (BitVec.ofNat 32 (b2n s.activeBank)) 0).laneRefused s.chn.nextLane (lFmt r.hdr))).lanesGo := by
  refine (if_neg (mt (s.laneBad_iff r).2 h)).trans ?_
  unfold State.laneHow at hf
  simp only [hf]
  exact if_pos (Bool.and_eq_true_iff.2 hu)

theorem State.admitEval_fit {f : Resolved} (hf : s.laneHow r = some f)
    (hu : ¬ (((s.tbl.bank s.activeBank).quarantine || (s.tbl.bank s.activeBank).fault) = true ∧ s.usesRam f = true)) :
    s.admitEval g r = if s.laneOperands r = [] then ((s.laneWaits g r f).laneFinish s.chn.nextLane).lanesGo
      else s.laneWaits g r f := by
  refine (if_neg (mt (s.laneBad_iff r).2 h)).trans ?_
  unfold State.laneHow at hf
  simp only [hf]
  refine (if_neg (mt Bool.and_eq_true_iff.1 hu)).trans ?_
  refine if_congr ?_ rfl rfl
  rw [List.isEmpty_iff, List.map_eq_nil_iff]
  exact Iff.rfl

end

end

/-! ## FETCH (R222, R224) -/

section
variable {s : State}

/-- The fetch of a group's answer among the arbiter's lists. -/
def State.laneFetch (s : State) (g : Fin 8) (h : Header) : LaneWork :=
  { no := s.chn.nextLane, group := g, req := { hdr := h, mask := 0, ops := 0 }, bank := s.activeBank, fetch := some (lGroup h, lStep h) }

theorem State.admitFetch_d4 (hv : s.variant = .d4) (g : Fin 8) (h : Header) :
    s.admitFetch g h = (s.pushLane (s.laneFetch g h)).lanesGo :=
  if_pos (by simp [State.isD4, hv])

/-- On Derlith-4M a fetch returns NaN. -/
theorem State.admitFetch_d4m (hv : s.variant = .d4m) (g : Fin 8) (h : Header) : s.admitFetch g h =
    ((((s.pushLane (s.laneFetch g h)).logEvent 0x56 .sch (BitVec.ofNat 32 g.val) (BitVec.ofNat 32 (lGroup h)) 0 0).modLane
      s.chn.nextLane (fun l => { l with returned := some [nan32] })).lanesGo) :=
  if_neg (by simp [State.isD4, hv])

section
variable {k : Nat} {step : Word}

theorem State.fetchAnswer_stale (h : s.groupOn k = false ∨ stepAbove (s.group k).gstep step = true) :
    s.fetchAnswer k step = some (nan32, true) :=
  if_pos (by simpa using h)

theorem State.fetchAnswer_fresh (h : ¬ (s.groupOn k = false ∨ stepAbove (s.group k).gstep step = true)) :
    s.fetchAnswer k step =
      if (s.group k).gstep = step ∧ (s.group k).given = true then some ((s.group k).eta, false) else none :=
  (if_neg (by simpa using h)).trans (if_congr (by simp only [Bool.and_eq_true, decide_eq_true_eq]) rfl rfl)

theorem State.fetchGo_waits {l : LaneWork} (hf : l.fetch = some (k, step)) (hn : s.fetchAnswer k step = none) :
    s.fetchGo l = s := by
  unfold State.fetchGo
  split
  · next hf' _ =>
    obtain ⟨rfl, rfl⟩ := Prod.mk.inj (Option.some.inj (hf'.symm.trans hf))
    simp only [hn]
  · rfl

theorem State.fetchGo_answers {l : LaneWork} (hf : l.fetch = some (k, step)) (hr : l.returned = none) {w : Word} {stale : Bool}
    (ha : s.fetchAnswer k step = some (w, stale)) : s.fetchGo l =
      (if stale then s.logEvent 0x55 .sch (BitVec.ofNat 32 l.group.val) (BitVec.ofNat 32 k) step 0 else s).modLane l.no
        (fun l => { l with returned := some [w] }) := by
  simp only [State.fetchGo, hf, hr, ha]

end

end

/-- Settles O52: `admitEval` by the function that the request names, `fetchAnswer` by the group's window. That NONFIN_OUT rises by
128 for a request that returns NaN, and the pages of the events, are the model's reading (log entry 31). -/
theorem laneRequests : Obligations.LaneRequests := by
  intro s g r ht
  refine ⟨fun hl hq => ?_, fun hl hq => ?_, fun k step => ⟨State.fetchAnswer_stale, fun h hs hg => ?_, fun h hs => ?_⟩,
    fun l _ k step hf hr => ⟨State.fetchGo_waits hf, fun w ha => ?_, fun w ha => ?_⟩⟩
  · have goes {t : State} (h : (s.popLane g r).admitEval g r = t) : exec (.laneRequestEval g r) s = .next t.settle :=
      congrArg (fun t => Host.Outcome.next (State.settle t)) ((State.takeLane_eval ht hl hq).trans h)
    have how := (s.popLane g r).laneHow_eq r
    refine ⟨fun h => goes (State.admitEval_bad _ g r h), fun h hn => goes (State.admitEval_undefined g h (how.trans hn)),
      fun f h hf => ?_⟩
    have fit hu := State.admitEval_fit (s := s.popLane g r) g h (how.trans hf) hu
    exact ⟨fun hu => goes (State.admitEval_unfit g h (how.trans hf) hu), fun hu hx => goes ((fit hu).trans (if_neg hx)),
      fun hu hx => goes ((fit hu).trans (if_pos hx))⟩
  · have goes {t : State} (h : (s.popLane g { hdr := r.hdr, mask := 0, ops := 0 }).admitFetch g r.hdr = t) :
        exec (.laneRequestFetch g r.hdr) s = .next t.settle :=
      congrArg (fun t => Host.Outcome.next (State.settle t)) ((State.takeLane_fetch ht hl hq).trans h)
    rw [← bitsOf_eq_toNat_extractLsb' r.hdr (hi := 37) (lo := 32) rfl]
    exact ⟨fun hv => goes (State.admitFetch_d4 (s := s.popLane g _) hv g r.hdr),
      fun hv => goes (State.admitFetch_d4m (s := s.popLane g _) hv g r.hdr)⟩
  · exact (State.fetchAnswer_fresh h).trans (if_pos ⟨hs, hg⟩)
  · refine (State.fetchAnswer_fresh h).trans (if_neg ?_)
    rintro ⟨hstep, hg⟩
    rcases hs with hne | hg'
    · exact hne hstep
    · exact Bool.false_ne_true (hg'.symm.trans hg)
  · exact State.fetchGo_answers hf hr ha
  · exact State.fetchGo_answers hf hr ha

end Sys2Proof.Machine

/-! PROOFS. Chapters 11, 12 and 16, step tokens: the event of a step that a token releases (R228, R334). -/
namespace Sys2Proof.Machine

/-- A STEP message. -/
def stepBell (w : Nat) : Header := BitVec.ofNat 128 (2 * 2 ^ 28 + w * 2 ^ 32)

/-- The state that a command leaves. -/
def Answer.state : Answer → State
  | .next s => s
  | .fault _ | .refused _ => State.reset

/-- From reset: a replay log and an event ring are set up, step 1 is retained, and the token of step 10 arrives, which releases
step 1 unchecked. -/
def tokenPastRetained : State :=
  Answer.state (Sys2Proof.core.run 5 { State.reset with
    pending := [.dlImgLogWrite (.core 2) true 0x10000, .registerWrite (.core 2) (regAt .log 0x048) 0x1000,
      .registerWrite (.core 2) (regAt .log 0x040) 1, .step (stepBell 1), .portMessageAccepted (.p3 (stepBell 10))] })

/-- The codes and the first two arguments of the events that wait for the ring. -/
def Answer.logged (a : Answer) : List (Nat × Word × Word) := a.state.log.pend.map (fun e => (e.code, e.a0, e.a1))

/-- REPLAY_UNCOVERED carries the released step alone: unused arguments are zero (Tables 16.1 and 16.3). -/
theorem tokenPastRetained_logged : Answer.logged (exec (.step (stepBell 10)) tokenPastRetained) = [(0x58, 1, 0)] := by decide +kernel

/-- Refutes O50, in its STEP clause: REPLAY_UNCOVERED of a step that a token releases has no second argument, and the clause gives
it the token's step. -/
theorem not_controlMessages : ¬ Obligations.ControlMessages := by
  intro hall
  have hstep := ((hall tokenPastRetained (stepBell 10) false (by decide +kernel) (by decide +kernel)).1 (by decide +kernel)
    (by decide +kernel)).2 (by decide +kernel)
  have hlogged := tokenPastRetained_logged
  rw [hstep] at hlogged
  exact absurd hlogged (by decide +kernel)

end Sys2Proof.Machine

/-! PROOFS. Chapters 9 and 16, self-checks: the scrubber (R326), the sentinel (R328 to R330), the end of a window and the dormancy
alarm (R195, R201, R205, R206, R211). -/
namespace Sys2Proof.Machine

/-! ## The scrubber (R326) -/

section
variable (s : State)

/-- The entry that the scrubber reads next. -/
def State.scrubEntry : Entry :=
  let pl := s.scrubAt s.tbl.scrubPos
  if pl.1 = 2 then s.romAt pl.2 else s.ramEntry (decide (pl.1 = 1)) pl.2

/-- What the check of that entry finds; a ROM entry without a defect is clean. -/
def State.scrubCheck : Ecc :=
  let pl := s.scrubAt s.tbl.scrubPos
  if pl.1 = 2 then s.romEcc pl.2 else eccOf s.scrubEntry

/-- The state once the scrubber has read an entry: it has moved on, and the read counts. -/
def State.scrubbed : State :=
  let m := (s.scrubRam false).length + (s.scrubRam true).length + romTop + 0x3000
  ({ s with tbl := { s.tbl with scrubPos := (s.tbl.scrubPos + 1) % m } } : State).count 30 1

theorem State.romEcc_scrubbed (a : Nat) : s.scrubbed.romEcc a = s.romEcc a := by
  unfold State.scrubbed
  dsimp only
  obtain ⟨c, hc⟩ := ({ s with tbl := { s.tbl with
    scrubPos := (s.tbl.scrubPos + 1) % ((s.scrubRam false).length + (s.scrubRam true).length + romTop + 0x3000) } } :
      State).count_eq 30 1
  rw [hc]
  rfl

/-- What a read of the scrubber does, by what its check finds. -/
theorem State.scrub_eq : s.scrub =
    let pl := s.scrubAt s.tbl.scrubPos
    match s.scrubCheck with
    | .clean => s.scrubbed
    | .corr e' =>
      let u := (s.scrubbed.count 31 1).countEcc pl.1
      let v := if pl.1 = 2 then u else (u.writeRam (decide (pl.1 = 1)) pl.2 e').countWrite (decide (pl.1 = 1))
      v.logEcc false pl.1 pl.2 s.scrubEntry true
    | .uncorr => (s.scrubbed.setFault pl.1).logEcc true pl.1 pl.2 s.scrubEntry true := by
  unfold State.scrubCheck
  dsimp only
  rw [← s.romEcc_scrubbed]
  rfl

theorem State.scrub_clean (h : s.scrubCheck = .clean) : s.scrub = s.scrubbed := by
  rw [State.scrub_eq, h]

section
variable {s} {pl : Nat × Nat} (hp : s.scrubAt s.tbl.scrubPos = pl)
include hp

theorem State.scrub_ram {e' : Entry} (h2 : pl.1 ≠ 2) (h : s.scrubCheck = .corr e') : s.scrub =
    (((((s.scrubbed.count 31 1).countEcc pl.1).writeRam (decide (pl.1 = 1)) pl.2 e').countWrite
      (decide (pl.1 = 1)))).logEcc false pl.1 pl.2 s.scrubEntry true := by
  rw [State.scrub_eq, h, hp]
  exact congrArg (State.logEcc · false pl.1 pl.2 s.scrubEntry true) (if_neg h2)

theorem State.scrub_rom {e' : Entry} (h2 : pl.1 = 2) (h : s.scrubCheck = .corr e') :
    s.scrub = ((s.scrubbed.count 31 1).countEcc 2).logEcc false pl.1 pl.2 s.scrubEntry true := by
  rw [State.scrub_eq, h, hp]
  refine (congrArg (State.logEcc · false pl.1 pl.2 s.scrubEntry true) (if_pos h2)).trans ?_
  rw [h2]

theorem State.scrub_uncorr (h : s.scrubCheck = .uncorr) :
    s.scrub = (s.scrubbed.setFault pl.1).logEcc true pl.1 pl.2 s.scrubEntry true := by
  rw [State.scrub_eq, h, hp]

end

theorem State.bank_setFault (b : Bool) : ((s.setFault (if b then 1 else 0)).tbl.bank b).fault = true := by
  cases b <;> rfl

end

/-! ## The sentinel judges (R328, R329) -/

section
variable (s : State) (q : Sample)

/-- A result settled in stage 1 passes. -/
theorem State.samplePasses_settled (h : q.settled = true) : s.samplePasses q = (s, true) := if_pos h

/-- A table's sample passes within its certificate. -/
theorem State.samplePasses_table (h : q.settled = false) (hc : q.how.composite = false) (he : q.entry ≠ none ∨ q.tail ≠ none) :
    s.samplePasses q = (s, !(f32 q.out).nonFinite && (((f32 q.out).sub q.ref).abs).le
      ((Val.fin false (8 * q.cert + (s.cal.thr.getD 0 0).toNat) 64).mul (s.certUnit q))) := by
  unfold State.samplePasses
  rw [if_neg (Bool.eq_false_iff.1 h)]
  dsimp only
  rw [hc, if_neg (by simp)]
  refine if_neg ?_
  rcases he with he | he <;> simp [Option.isNone_iff_eq_none, he]

theorem State.countViolation_none (h : s.sampleRam q = none) : s.countViolation q = s := by
  simp only [State.countViolation, h]

theorem State.countViolation_ram {b : Bool} (h : s.sampleRam q = some b) :
    let n := (if b then s.sen.viol1 else s.sen.viol0) + 1
    let t : State := { s with sen := if b then { s.sen with viol1 := n } else { s.sen with viol0 := n } }
    let u : State := { t with tbl := t.tbl.setBank b { t.tbl.bank b with quarantine := true } }
    s.countViolation q =
      if max 1 (s.cal.thr.getD 1 0).toNat ≤ n ∧ q.quarEn = true ∧ s.sen.barred = false ∧ (s.tbl.bank b).quarantine = false then
        ((u.pageEvent .sen 2).pageEvent .tbl 5).logEvent 0x69 .sen (BitVec.ofNat 32 (if b then 1 else 0)) (BitVec.ofNat 32 n) 0 0
      else t := by
  intro n t u
  have hbarred : t.sen.barred = s.sen.barred := by
    show (if b then { s.sen with viol1 := n } else { s.sen with viol0 := n } : SenUnit).barred = _
    cases b <;> rfl
  unfold State.countViolation
  rw [h]
  refine if_congr ?_ rfl rfl
  show (decide (n ≥ Nat.max 1 (s.senThr 1)) && q.quarEn && !t.sen.barred && !(s.tbl.bank b).quarantine) = true ↔ _
  rw [hbarred]
  simp only [Bool.and_eq_true, Bool.not_eq_true', decide_eq_true_eq, and_assoc]
  exact Iff.rfl

end

theorem State.judgeSample_head {s : State} {q : Sample} {r : List Sample} (h : s.sen.queue = q :: r) :
    let due := s.sen.testDue || (decide (s.senThr 3 ≠ 0) && decide ((s.sen.judged + 1) % 2 ^ (s.senThr 3 % 32) = 0))
    let t := ({ s with sen := { s.sen with queue := r, judged := s.sen.judged + 1, testDue := due } } : State).count 27 1
    let v := t.samplePasses q
    s.judgeSample = if v.2 then v.1 else v.1.violation q := by
  unfold State.judgeSample
  rw [h]
  rfl

/-! ## The self-test (R330) -/

theorem State.selfTest_due {s : State} (h : s.sen.testDue = true) :
    let k := s.sen.vector
    let got := Config.selfTestResult s.sen.tests k
    let want := Config.selfTestAnswer k
    let t : State := { s with sen := { s.sen with testDue := false, vector := (k + 1) % 64, tests := s.sen.tests + 1 } }
    let u := t.logEvent 0x6A .sen (BitVec.ofNat 32 k) got want 0
    s.selfTest = if got = want then t else { u with sen := { u.sen with quarEn := false, barred := true } } :=
  if_neg (by simp [h])

/-! ## A window closes (R195, R201, R211) -/

theorem State.needEntry_missing {s : State} {tid : Nat} (h : s.regLine tid = none) : (s.needEntry tid).2 = none := by
  unfold State.needEntry
  rw [h]
  dsimp only
  split <;> rfl

/-- T stays known to the chains of a window that closes (R194). -/
def State.keepWindow (s : State) (tid : Nat) (w : TenWindow) : State :=
  match w.t with | some x => s.keepT tid w.step x | none => s

/-- The entry after the end of a written window: the history push, which UNREG and Gen-3 mode have none of, and the counts. -/
def State.closedEntry (s : State) (w : TenWindow) (e : RegEntry) : RegEntry :=
  let e1 := if w.registered = true ∧ s.gen3 = false then
    { e with hist := e.amax :: e.hist.take 15, hcount := BitVec.ofNat 5 (min (e.hcount.toNat + 1) 16) } else e
  { e1 with last := e1.cur, lstep := e1.wstep, cur := List.replicate 5 0, amax := 0, isOpen := false }

theorem State.closed_eq (s : State) (w : TenWindow) (e : RegEntry) : e.closed (w.registered && !s.gen3) = s.closedEntry w e := by
  have hpush : (w.registered && !s.gen3) = true ↔ w.registered = true ∧ s.gen3 = false := by
    rw [Bool.and_eq_true, Bool.not_eq_true']
  unfold RegEntry.closed State.closedEntry
  simp only [hpush]

/-- The state that the end of a written window leaves, COLD aside. -/
def State.closedWindow (s : State) (tid : Nat) (w : TenWindow) (e : RegEntry) : State :=
  ((((((s.needEntry tid).1.keepTs tid w.step e).recordEntry tid w.step e).dropWindow tid w.step).keepWindow tid w)).dormancy tid
    (s.closedEntry w e)

section
variable {s : State} {tid : Nat} {w : TenWindow} (hr : s.recallBegun = false)
  (hw : s.num.windows.find? (fun w => w.tid == tid && w.closable && !s.earlierPending tid w.step) = some w)

include hr hw

theorem State.closeWindow_unwritten (h : w.wrote = false) :
    s.closeWindow tid = (s.dropWindow tid w.step).keepWindow tid w := by
  unfold State.closeWindow
  rw [if_neg (Bool.eq_false_iff.1 hr), hw]
  exact if_pos (by simp [h])

theorem State.closeWindow_missing (h : w.wrote = true) (hl : s.regLine tid = none) : s.closeWindow tid = (s.needEntry tid).1 := by
  have hn := State.needEntry_missing hl
  unfold State.closeWindow
  rw [if_neg (Bool.eq_false_iff.1 hr), hw]
  refine (if_neg (by simp [h])).trans ?_
  generalize s.needEntry tid = p at hn ⊢
  obtain ⟨t, e⟩ := p
  subst hn
  rfl

theorem State.closeWindow_written {l q : RegLine} (h : w.wrote = true) (hl : s.regLine tid = some l)
    (hq : (s.closedWindow tid w l.e).regLine tid = some q) : s.closeWindow tid =
      if (w.registered = true ∧ s.gen3 = false) ∧ q.e.cold = true ∧ 16 ≤ q.e.hcount.toNat then
        ((s.closedWindow tid w l.e).setEntry tid { q.e with cold := false }).logEvent 0x4C .ten (BitVec.ofNat 32 tid) q.e.lstep 0 0
      else s.closedWindow tid w l.e := by
  unfold State.closedWindow at hq ⊢
  rw [← State.closed_eq] at hq ⊢
  rw [State.needEntry_onChip hl] at hq ⊢
  unfold State.closeWindow
  rw [if_neg (Bool.eq_false_iff.1 hr), hw]
  refine (if_neg (by simp [h])).trans ?_
  rw [State.needEntry_onChip hl]
  show (match (((((s.noteUse tid).keepTs tid w.step l.e).recordEntry tid w.step l.e).dropWindow tid w.step).keepWindow tid w
    |>.dormancy tid (l.e.closed (w.registered && !s.gen3))).regLine tid with | some _ => _ | none => _) = _
  rw [hq]
  refine if_congr ?_ rfl rfl
  simp only [Bool.and_eq_true, Bool.not_eq_true', decide_eq_true_eq, and_assoc, ge_iff_le]
  exact Iff.rfl

end

/-! ## The dormancy alarm (R206) -/

section
variable (s : State) (tid : Nat) (e : RegEntry)

/-- The closings in a row in which every element was zero. -/
def RegEntry.dormantRun (e : RegEntry) : Nat :=
  if (e.last.getD 1 0).toNat = (e.last.getD 0 0).toNat then min (e.dormRun.toNat + 1) 65535 else 0

theorem State.dormancy_empty (h : (e.last.getD 0 0).toNat = 0) : s.dormancy tid e = s.setEntry tid e :=
  if_pos (BitVec.eq_of_toNat_eq h)

theorem State.dormancy_counted (h : (e.last.getD 0 0).toNat ≠ 0) : s.dormancy tid e =
    let e1 := { e with dormRun := BitVec.ofNat 16 e.dormantRun }
    if e.dormant = false ∧ max 1 s.num.dormN.toNat ≤ e.dormantRun ∧ 1 ≤ e.kind.toNat ∧ e.kind.toNat ≤ 5 ∧
        s.num.kmask.getLsbD (e.kind.toNat - 1) = true then
      ((s.setEntry tid { e1 with dormant := true }).logEvent 0x4E .ten (BitVec.ofNat 32 tid) e.lstep
        (BitVec.ofNat 32 e.dormantRun) 0).pageEvent .ten 2
    else if e.dormant = true ∧ (e.last.getD 1 0).toNat < (e.last.getD 0 0).toNat then
      (s.setEntry tid { e1 with dormant := false }).logEvent 0x4F .ten (BitVec.ofNat 32 tid) e.lstep 0 0
    else s.setEntry tid e1 := by
  have hrun : (if e.last.getD 1 0 == e.last.getD 0 0 then BitVec.ofNat 16 (satAdd 16 e.dormRun.toNat 1) else 0) =
      BitVec.ofNat 16 e.dormantRun := by
    simp only [RegEntry.dormantRun, beq_iff_eq, ← BitVec.toNat_inj]
    split <;> rfl
  have hsmall : (BitVec.ofNat 16 e.dormantRun).toNat = e.dormantRun := by
    refine Nat.mod_eq_of_lt ?_
    unfold RegEntry.dormantRun
    split <;> omega
  have hn : (if s.num.dormN = 0 then 1 else s.num.dormN.toNat) = max 1 s.num.dormN.toNat := by
    split
    · next h0 => rw [h0]; rfl
    · next h0 =>
      have hpos : s.num.dormN.toNat ≠ 0 := fun hz => h0 (BitVec.eq_of_toNat_eq hz)
      omega
  unfold State.dormancy
  rw [if_neg (fun h0 => h (congrArg BitVec.toNat h0))]
  dsimp only
  rw [hrun, hn, hsmall]
  refine if_congr ?_ rfl (if_congr ?_ rfl rfl)
  · simp only [Bool.and_eq_true, Bool.not_eq_true', decide_eq_true_eq, RegEntry.registered_iff, and_assoc, ge_iff_le]
    exact Iff.rfl
  · simp only [Bool.and_eq_true, decide_eq_true_eq]

end

/-! ## A write's counts (R199, R205) -/

theorem State.regLine_logged (s : State) (code : Nat) (p q : Page) (b : Nat) (a0 a1 a2 a3 : Word) (tag : BitVec 16) :
    ((s.logEvent code p a0 a1 a2 a3 tag).pageEvent q b).regLine = s.regLine :=
  State.regLine_of_lines_eq (congrArg NumUnit.lines (State.num_of_rowUnits
    ((State.rowUnits_pageEvent ..).trans (State.rowUnits_logEvent ..))))

section
variable {s : State} {tid : Nat} {l : RegLine} (h : s.regLine tid = some l)
include h

/-- The first element of a window leaves AMAX and the counts of the entry. -/
theorem State.regLine_firstWrite (step : Word) :
    ∃ q, (s.firstWrite tid step).regLine tid = some q ∧ q.e.amax = l.e.amax ∧ q.e.cur = l.e.cur := by
  unfold State.firstWrite
  split
  · next w l' hw hl =>
    obtain rfl := Option.some.inj (hl.symm.trans h)
    split
    · exact ⟨l', h, rfl, rfl⟩
    · have hrec : (s.recordEntry tid step l'.e).regLine tid = some l' := by
        rw [State.regLine_of_lines_eq (congrArg NumUnit.lines (State.num_of_rowUnits (s.rowUnits_recordEntry tid step l'.e)))]
        exact h
      exact ⟨_, State.regLine_setEntry_self hrec { l'.e with isOpen := true, wstep := step }, rfl, rfl⟩
  · exact ⟨l, h, rfl, rfl⟩

theorem State.regLine_countWritten (fmt : Nat) (step : Word) (hs : List Nat) (amax : Word) (wrote : Bool) (tag : BitVec 16) :
    ∃ q, (s.countWritten tid fmt step hs amax wrote tag).regLine tid = some q ∧ q.e.amax = fmax l.e.amax amax ∧
      q.e.cur = (List.range 5).map (fun i => BitVec.ofNat 32 (satAdd 32 (l.e.cur.getD i 0).toNat (hs.getD i 0))) := by
  unfold State.countWritten
  extract_lets s0 s1
  have h0 : s0.regLine tid = some l := by
    rw [State.regLine_of_lines_eq (s := s) (t := s0) (congrArg NumUnit.lines (State.num_of_rowUnits (by simp [s0])))]
    exact h
  obtain ⟨l1, h1, hamax, hcur⟩ : ∃ q, s1.regLine tid = some q ∧ q.e.amax = l.e.amax ∧ q.e.cur = l.e.cur := by
    show ∃ q, (if wrote then s0.firstWrite tid step else s0).regLine tid = some q ∧ _
    split
    · exact State.regLine_firstWrite h0 step
    · exact ⟨l, h0, rfl, rfl⟩
  rw [h1, ← hamax, ← hcur]
  dsimp only
  let e : RegEntry := { l1.e with
    cur := (List.range 5).map (fun i => BitVec.ofNat 32 (satAdd 32 (l1.e.cur.getD i 0).toNat (hs.getD i 0)))
    amax := fmax l1.e.amax amax }
  have hset : (s1.setEntry tid e).regLine tid = some { l1 with e := e, dirty := true } := State.regLine_setEntry_self h1 e
  refine ⟨{ l1 with e := e, dirty := true }, ?_, rfl, rfl⟩
  split
  · split
    · rw [State.regLine_logged]
      exact hset
    · exact hset
  · exact hset

end

/-- Settles O56. When a window closes and what its T is kept for, and the free values of the self-test and of the reference, are the
model's reading (log entries 48 and 78). -/
theorem selfChecks : Obligations.SelfChecks := by
  intro s hr
  have closes {tid : BitVec 16} {t : State} (ht : s.closeWindow tid.toNat = t) :
      exec (.tensorWindowClose tid) s = .next t.settle :=
    State.clocked_of_eq (act := fun s => s.closeWindow tid.toNat) hr ht
  refine ⟨fun hn => ?_, fun hn => ⟨fun h => ?_, fun e' h2 h => ?_, fun e' h2 h => ?_, fun h => ?_, rfl,
    fun b => State.bank_setFault _ b⟩, fun q h => s.samplePasses_settled q h, fun q h hc he => s.samplePasses_table q h hc he,
    fun q => ⟨fun h => s.countViolation_none q h, fun b h => ⟨fun ha => ?_, fun ha => ?_⟩⟩, fun q r h => ?_,
    fun hd => ⟨fun hg => ?_, fun hg => ?_⟩, fun tid w hrec hw => ⟨fun h => ?_, fun h hl => ?_, fun l h hl => ⟨fun q hq hc => ?_,
      fun q hq hp hcold h16 => ?_⟩⟩, fun tid e => ⟨fun h => ?_, fun h ha => ?_, fun h hwk => ?_, fun h ha hwk => ?_⟩,
    fun tid fmt step amax hs wrote tag l hl => ?_⟩
  · exact State.clocked_of_eq hr (if_neg (by simp [hn]))
  · exact State.clocked_of_eq hr ((if_pos (by simp [hn])).trans (s.scrub_clean h))
  · exact State.clocked_of_eq hr ((if_pos (by simp [hn])).trans (State.scrub_ram rfl h2 h))
  · exact State.clocked_of_eq hr ((if_pos (by simp [hn])).trans (State.scrub_rom rfl h2 h))
  · exact State.clocked_of_eq hr ((if_pos (by simp [hn])).trans (State.scrub_uncorr rfl h))
  · exact (s.countViolation_ram q h).trans (if_neg ha)
  · exact (s.countViolation_ram q h).trans (if_pos ha)
  · exact State.clocked_of_eq hr (State.judgeSample_head h)
  · exact State.clocked_of_eq hr ((State.selfTest_due hd).trans (if_pos hg))
  · exact State.clocked_of_eq hr ((State.selfTest_due hd).trans (if_neg hg))
  · exact closes (State.closeWindow_unwritten hrec hw h)
  · exact closes (State.closeWindow_missing hrec hw h hl)
  · exact closes ((State.closeWindow_written hrec hw h hl hq).trans (if_neg hc))
  · exact closes ((State.closeWindow_written hrec hw h hl hq).trans (if_pos ⟨hp, hcold, h16⟩))
  · exact s.dormancy_empty tid e h
  · exact (s.dormancy_counted tid e h).trans (if_pos ha)
  · have ha : ¬ e.dormant = false := fun hd => Bool.false_ne_true (hd.symm.trans hwk.1)
    exact (s.dormancy_counted tid e h).trans ((if_neg (fun h => ha h.1)).trans (if_pos hwk))
  · exact (s.dormancy_counted tid e h).trans ((if_neg ha).trans (if_neg hwk))
  · obtain ⟨q, hq, hamax, hcur⟩ := State.regLine_countWritten hl fmt step hs amax wrote tag
    refine ⟨q, hq, hamax, fun i hi => ?_⟩
    rw [hcur]
    have hget : ((List.range 5).map (fun i => BitVec.ofNat 32 (satAdd 32 (l.e.cur.getD i 0).toNat (hs.getD i 0)))).getD i 0 =
        BitVec.ofNat 32 (satAdd 32 (l.e.cur.getD i 0).toNat (hs.getD i 0)) := by
      simp [List.getD_eq_getElem?_getD, hi]
    rw [hget]
    exact Nat.mod_eq_of_lt (Nat.lt_of_le_of_lt (Nat.min_le_right _ _) (by decide))

end Sys2Proof.Machine

/-! PROOFS. Chapter 3, arbitration (R69): the two credits of a pinna cancel and stay within half a round of 0, so the chain class's
credit tells how often the class was granted. -/
namespace Sys2Proof.Machine

@[simp] theorem State.count_chn (s : State) (n k : Nat) : (s.count n k).chn = s.chn := by
  obtain ⟨c, hc⟩ := s.count_eq n k
  rw [hc]

/-! ## One contended fc -/

/-- The chain class's credit of pinna `p`. -/
def State.chainCredit (s : State) (p : Nat) : Int := (s.chn.pinnae.getD p {}).creditChn

/-- A round: CHN_WEIGHT + LANE_WEIGHT contended fc. -/
def State.roundLen (s : State) : Nat := (weights s).1 + (weights s).2

/-- What R69 keeps of pinna `p`: the credits cancel, and the chain class's lies within half a round of 0. -/
def State.CreditsBalance (s : State) (p : Nat) : Prop :=
  s.chn.pinnae.length = 40 ∧ (s.chn.pinnae.getD p {}).creditLane = -s.chainCredit p ∧
    -(s.roundLen : Int) ≤ 2 * s.chainCredit p ∧ 2 * s.chainCredit p < s.roundLen

theorem State.roundLen_pos (s : State) : 0 < s.roundLen :=
  Nat.add_pos_left (Nat.lt_of_lt_of_le Nat.one_pos (Nat.le_max_left _ _)) _

theorem State.roundLen_congr {s t : State} (h : weights t = weights s) : t.roundLen = s.roundLen :=
  congrArg (fun w => w.1 + w.2) h

theorem weights_contend {s : State} (p : Fin 40) (h : s.chn.pinnae.length = 40) : weights (s.contend p.val).1 = weights s := by
  rw [arbitration.2 s p h]
  simp only [weights, State.count_chn]

/-- A contended fc moves the chain class's credit up by its weight, and down by a round where the class is granted. -/
theorem State.CreditsBalance.contend {s : State} {p : Fin 40} (h : s.CreditsBalance p.val) :
    (s.contend p.val).1.CreditsBalance p.val ∧ (s.contend p.val).1.chainCredit p.val =
      s.chainCredit p.val + (weights s).1 - (if (s.contend p.val).2 then (s.roundLen : Int) else 0) := by
  obtain ⟨hlen, hlane, hlo, hhi⟩ := h
  have hp : p.val < s.chn.pinnae.length := by rw [hlen]; exact p.isLt
  have hround : (s.contend p.val).1.roundLen = s.roundLen := State.roundLen_congr (weights_contend p hlen)
  unfold State.CreditsBalance
  rw [hround, arbitration.2 s p hlen]
  simp only [State.chainCredit, State.roundLen, State.count_chn, List.length_set, List.getD_eq_getElem?_getD,
    List.getElem?_set_self hp, Option.getD_some, decide_eq_true_eq] at *
  split
  · refine ⟨⟨hlen, ?_, ?_, ?_⟩, ?_⟩ <;> dsimp only <;> omega
  · refine ⟨⟨hlen, ?_, ?_, ?_⟩, ?_⟩ <;> dsimp only <;> omega

/-! ## Many contended fc -/

/-- The chain class's grants of a run, by the credit that it leaves. -/
theorem State.CreditsBalance.grants {p : Fin 40} (n : Nat) {s : State} (h : s.CreditsBalance p.val) :
    let r := contendRun p.val n s
    r.1.CreditsBalance p.val ∧ weights r.1 = weights s ∧ r.2.length = n ∧
      r.1.chainCredit p.val + s.roundLen * (r.2.filter (fun b => b)).length = s.chainCredit p.val + n * (weights s).1 := by
  induction n generalizing s with
  | zero => exact ⟨h, rfl, rfl, by simp [contendRun]⟩
  | succ n ih =>
    obtain ⟨hbal, hcredit⟩ := h.contend
    have hw : weights (s.contend p.val).1 = weights s := weights_contend p h.1
    obtain ⟨hbal', hw', hlen, hsum⟩ := ih hbal
    refine ⟨hbal', hw'.trans hw, congrArg (· + 1) hlen, ?_⟩
    have hround : (s.contend p.val).1.roundLen = s.roundLen := State.roundLen_congr hw
    rw [hw, hround, hcredit] at hsum
    simp only [contendRun]
    cases hg : (s.contend p.val).2 <;> simp only [hg, List.filter_cons, List.length_cons, if_true, if_false, Bool.false_eq_true,
      Nat.cast_add, Nat.cast_one] at hsum ⊢ <;> linarith

/-- Multiples of `w` that differ by less than `w` are one. -/
theorem eq_of_mul_lt_mul_add {w a b : Int} (hw : 0 < w) (h1 : w * a < w * b + w) (h2 : w * b < w * a + w) : a = b := by
  have hab : a < b + 1 := lt_of_mul_lt_mul_left (by linarith) hw.le
  have hba : b < a + 1 := lt_of_mul_lt_mul_left (by linarith) hw.le
  omega

/-- A round leaves the chain class's credit within a round of what it was, so it grants the class exactly its weight. -/
theorem State.CreditsBalance.round_grants {s : State} {p : Fin 40} (h : s.CreditsBalance p.val) :
    ((contendRun p.val s.roundLen s).2.filter (fun b => b)).length = (weights s).1 := by
  have hpos : (0 : Int) < s.roundLen := Int.natCast_pos.mpr s.roundLen_pos
  obtain ⟨hbal, hw, -, hsum⟩ := h.grants s.roundLen
  have hround : (contendRun p.val s.roundLen s).1.roundLen = s.roundLen := State.roundLen_congr hw
  obtain ⟨-, -, hlo, hhi⟩ := h
  obtain ⟨-, -, hlo', hhi'⟩ := hbal
  rw [hround] at hlo' hhi'
  exact Int.ofNat_inj.mp (eq_of_mul_lt_mul_add hpos (by linarith) (by linarith))

/-- Settles O24: the credits balance from the write on (`CreditsBalance.grants`), so every round grants the chain class its weight
(`CreditsBalance.round_grants`) and the lane class the rest. -/
theorem arbitrationIsFair : Obligations.ArbitrationIsFair := by
  intro s p n hlen hchn hlane
  have hpos := s.roundLen_pos
  have h0 : s.CreditsBalance p.val := by
    refine ⟨hlen, ?_, ?_, ?_⟩ <;> rw [State.chainCredit, hchn]
    · rw [hlane, neg_zero]
    · omega
    · omega
  obtain ⟨h1, hw, -, -⟩ := h0.grants n
  have hround : (contendRun p.val n s).1.roundLen = s.roundLen := State.roundLen_congr hw
  have hchain := h1.round_grants
  have hrun := (h1.grants s.roundLen).2.2.1
  rw [hround, hw] at hchain
  have hsplit := List.length_eq_length_filter_add (l := (contendRun p.val s.roundLen (contendRun p.val n s).1).2) (fun b => b)
  rw [hrun, hchain] at hsplit
  exact ⟨hchain, (Nat.add_left_cancel hsplit).symm⟩

end Sys2Proof.Machine

/-! PROOFS. Chapter 3, the argument of an evaluation: the classes of an FP32 word (R49) and the binade of a finite one (R50, R54). -/
namespace Sys2Proof.Machine

/-! ## Fields of an FP32 word -/

/-- The magnitude code of a word. -/
def magOf (w : Word) : Nat := w.toNat % 2 ^ 31

theorem magOf_lt (w : Word) : magOf w < 2 ^ 31 := Nat.mod_lt _ (by positivity)

theorem toNat_extract_exponent (w : Word) : (w.extractLsb' 23 8).toNat = magOf w / 2 ^ 23 := by
  rw [BitVec.extractLsb'_toNat, Nat.shiftRight_eq_div_pow, magOf]
  omega

theorem toNat_extract_fraction (w : Word) : (w.extractLsb' 0 23).toNat = magOf w % 2 ^ 23 := by
  rw [BitVec.extractLsb'_toNat, Nat.shiftRight_zero, magOf]
  omega

theorem extract_magnitude_eq_zero_iff (w : Word) : w.extractLsb' 0 31 = 0 ↔ magOf w = 0 := by
  rw [← BitVec.toNat_inj, BitVec.extractLsb'_toNat, Nat.shiftRight_zero]
  exact Iff.rfl

theorem extract_exponent_eq_iff (w : Word) : w.extractLsb' 23 8 = 0xFF ↔ 0x7F800000 ≤ magOf w := by
  have hlt := magOf_lt w
  rw [← BitVec.toNat_inj, toNat_extract_exponent]
  show magOf w / 2 ^ 23 = 255 ↔ _
  omega

theorem extract_fraction_eq_zero_iff (w : Word) : w.extractLsb' 0 23 = 0 ↔ magOf w % 2 ^ 23 = 0 := by
  rw [← BitVec.toNat_inj, toNat_extract_fraction]
  exact Iff.rfl

/-! ## The classes of R49 -/

/-- A NaN, as the statement writes it. -/
abbrev wordNaN (w : Word) : Prop := w.extractLsb' 23 8 = 0xFF ∧ w.extractLsb' 0 23 ≠ 0
/-- An infinity. -/
abbrev wordInf (w : Word) : Prop := w.extractLsb' 23 8 = 0xFF ∧ w.extractLsb' 0 23 = 0
/-- A zero of either sign. -/
abbrev wordZero (w : Word) : Prop := w.extractLsb' 0 31 = 0

theorem f32_eq (w : Word) : f32 w =
    if magOf w ≤ 0x7F7FFFFF then .fin w.msb (Fmt.fp32.magVal (magOf w)).1 (Fmt.fp32.magVal (magOf w)).2
    else if 0x7F800000 = magOf w then .inf w.msb else .nan := by
  have hs : decide (w.toNat / Fmt.fp32.signBit % 2 = 1) = w.msb := by
    rw [BitVec.msb_eq_decide, decide_eq_decide]
    show w.toNat / 2 ^ 31 % 2 = 1 ↔ 2 ^ 31 ≤ w.toNat
    have := w.isLt
    omega
  simp only [f32, Fmt.decode, hs]
  simp only [show Fmt.fp32.infCode = some 0x7F800000 from rfl, Option.some.injEq]
  rfl

theorem f32_of_nan {w : Word} (h : wordNaN w) : f32 w = .nan := by
  have he := (extract_exponent_eq_iff w).1 h.1
  have hf := mt (extract_fraction_eq_zero_iff w).2 h.2
  rw [f32_eq, if_neg (by omega), if_neg (by omega)]

theorem f32_of_inf {w : Word} (h : wordInf w) : f32 w = .inf w.msb := by
  have he := (extract_exponent_eq_iff w).1 h.1
  have hf := (extract_fraction_eq_zero_iff w).1 h.2
  have hlt := magOf_lt w
  rw [f32_eq, if_neg (by omega), if_pos (by omega)]

theorem f32_of_finite {w : Word} (h : w.extractLsb' 23 8 ≠ 0xFF) :
    f32 w = .fin w.msb (Fmt.fp32.magVal (magOf w)).1 (Fmt.fp32.magVal (magOf w)).2 := by
  have he := mt (extract_exponent_eq_iff w).2 h
  rw [f32_eq, if_pos (by omega)]

/-- A word that is neither a NaN nor an infinity decodes to a quotient with its sign, which is 0 for the zeros alone. -/
theorem f32_of_not {w : Word} (hn : ¬ wordNaN w) (hi : ¬ wordInf w) :
    ∃ n d, f32 w = .fin w.msb n d ∧ 0 < d ∧ (n = 0 ↔ wordZero w) := by
  have hf : w.extractLsb' 23 8 ≠ 0xFF := fun h => if h0 : w.extractLsb' 0 23 = 0 then hi ⟨h, h0⟩ else hn ⟨h, h0⟩
  exact ⟨_, _, f32_of_finite hf, Fmt.magVal_den_pos _ _,
    (Fmt.magVal_num_eq_zero_iff _ _).trans (extract_magnitude_eq_zero_iff w).symm⟩

theorem not_inf_of_zero {w : Word} (h : wordZero w) : ¬ wordInf w := by
  intro hi
  have h0 := (extract_magnitude_eq_zero_iff w).1 h
  have he := (extract_exponent_eq_iff w).1 hi.1
  omega

/-! ## The binade of a finite value (R50, R54) -/

/-- A quotient of 24 significant bits has its binade and its significand. -/
theorem normalise_of_val {n d : Nat} (hd : 0 < d) {M : Nat} {E : Int} (hlo : 2 ^ 23 ≤ M) (hhi : M < 2 ^ 24)
    (h : (n : ℚ) / d = M * 2 ^ (E - 23)) : normalise n d = (E, M) := by
  have hn : 0 < n := by
    rcases Nat.eq_zero_or_pos n with rfl | hn
    · have : (0 : ℚ) < M * 2 ^ (E - 23) := by
        have : (0 : ℚ) < M := by exact_mod_cast (by omega : 0 < M)
        positivity
      simp at h
      rcases h with rfl | h
      · omega
      · exact absurd h (by positivity)
    · exact hn
  have hx : (0 : ℚ) < (n : ℚ) / d := by positivity
  have hE : floorLog2 n d = E := by
    have h1 : (2 : ℚ) ^ E ≤ n / d := by
      rw [h, show (2 : ℚ) ^ E = 2 ^ (23 : Int) * 2 ^ (E - 23) by rw [← zpow_add₀ (by norm_num)]; congr 1; ring]
      gcongr
      exact_mod_cast hlo
    have h2 : (n : ℚ) / d < 2 ^ (E + 1) := by
      rw [h, show (2 : ℚ) ^ (E + 1) = 2 ^ (24 : Int) * 2 ^ (E - 23) by rw [← zpow_add₀ (by norm_num)]; congr 1; ring]
      gcongr
      exact_mod_cast hhi
    have h1' := (Int.zpow_le_iff_le_log (b := 2) (by norm_num) hx).1 (by exact_mod_cast h1)
    have h2' := (Int.lt_zpow_iff_log_lt (b := 2) (by norm_num) hx).1 (by exact_mod_cast h2)
    rw [floorLog2_eq_log hn hd]
    omega
  obtain ⟨N, D, hD, hND, hround⟩ := roundUnits_eq n hd (E - 23)
  have hM : N / D = M := by
    have hq : (N : ℚ) / D = (M : ℚ) / (1 : Nat) := by rw [hND, h]; field_simp; simp
    rw [div_eq_of_cast_div_eq hq, Nat.div_one]
  simp only [normalise, hE, hround]
  exact Prod.ext rfl hM

/-- The binade of a subnormal is that of its leading bit, and its significand is shifted up to it. -/
theorem binadeOf_subnormal {w : Word} (h : magOf w < 2 ^ 23) :
    binadeOf w = ((Nat.log2 (magOf w) : Int) - 149, magOf w * 2 ^ (23 - Nat.log2 (magOf w))) := by
  have he : magOf w / 2 ^ 23 = 0 := Nat.div_eq_of_lt h
  simp only [binadeOf, toNat_extract_exponent, toNat_extract_fraction, he, if_pos, Nat.mod_eq_of_lt h]

theorem binadeOf_normal {w : Word} (h : 2 ^ 23 ≤ magOf w) :
    binadeOf w = (((magOf w / 2 ^ 23 : Nat) : Int) - 127, 2 ^ 23 + magOf w % 2 ^ 23) := by
  have he : magOf w / 2 ^ 23 ≠ 0 := by omega
  simp only [binadeOf, toNat_extract_exponent, toNat_extract_fraction, if_neg he]

/-- The significand of a nonzero value has 24 bits. -/
theorem binadeOf_significand {w : Word} (h0 : ¬ wordZero w) : 2 ^ 23 ≤ (binadeOf w).2 ∧ (binadeOf w).2 < 2 ^ 24 := by
  have h0' := mt (extract_magnitude_eq_zero_iff w).2 h0
  rcases Nat.lt_or_ge (magOf w) (2 ^ 23) with h | h
  · rw [binadeOf_subnormal h]
    have hlog : Nat.log2 (magOf w) < 23 := (Nat.log2_lt h0').2 h
    have hself := Nat.log2_self_le h0'
    have hnext : magOf w < 2 ^ (Nat.log2 (magOf w) + 1) := Nat.lt_log2_self
    constructor
    · calc 2 ^ 23 = 2 ^ Nat.log2 (magOf w) * 2 ^ (23 - Nat.log2 (magOf w)) := by rw [← pow_add]; congr 1; omega
        _ ≤ _ := Nat.mul_le_mul_right _ hself
    · calc _ < 2 ^ (Nat.log2 (magOf w) + 1) * 2 ^ (23 - Nat.log2 (magOf w)) := Nat.mul_lt_mul_of_pos_right hnext (by positivity)
        _ = 2 ^ 24 := by rw [← pow_add]; congr 1; omega
  · rw [binadeOf_normal h]
    have := Nat.mod_lt (magOf w) (show 0 < 2 ^ 23 by positivity)
    constructor <;> dsimp only <;> omega

/-- The value of a magnitude code is its significand in its binade. -/
theorem val_magOf {w : Word} (h0 : ¬ wordZero w) :
    Fmt.fp32.val (magOf w) = (binadeOf w).2 * 2 ^ ((binadeOf w).1 - 23) := by
  have h0' := mt (extract_magnitude_eq_zero_iff w).2 h0
  rcases Nat.lt_or_ge (magOf w) (2 ^ 23) with h | h
  · have hlog : Nat.log2 (magOf w) < 23 := (Nat.log2_lt h0').2 h
    rw [binadeOf_subnormal h, Fmt.val_subnormal .fp32 h]
    push_cast
    rw [mul_assoc, ← zpow_natCast, ← zpow_add₀ (by norm_num), Nat.cast_sub hlog.le]
    congr 2
    show (-126 : Int) - 23 = _
    push_cast
    ring
  · obtain ⟨i, hi⟩ : ∃ i, magOf w / 2 ^ 23 = i + 1 := Nat.exists_eq_add_of_le' (by omega)
    have hc : magOf w = (i + 1) * 2 ^ 23 + magOf w % 2 ^ 23 := by omega
    rw [binadeOf_normal h, hi]
    conv_lhs => rw [hc]
    rw [show (2 : Nat) ^ 23 = 2 ^ Fmt.fp32.fbits from rfl, Fmt.val_normal .fp32 i (Nat.mod_lt _ (by positivity))]
    congr 2
    show (i : Int) + -126 - 23 = _
    push_cast
    ring

/-- The normalisation of a finite nonzero FP32 value, a subnormal too. -/
theorem normalise_f32 {w : Word} {s : Bool} {n d : Nat} (h : f32 w = .fin s n d) (h0 : ¬ wordZero w) :
    normalise n d = binadeOf w := by
  have hd := f32_den_pos h
  rw [f32_eq] at h
  split at h
  · obtain ⟨-, rfl, rfl⟩ := Val.fin.inj h
    obtain ⟨hlo, hhi⟩ := binadeOf_significand h0
    exact normalise_of_val hd hlo hhi (val_magOf h0)
  · split at h <;> simp at h

end Sys2Proof.Machine

/-! PROOFS. Chapter 3, the stages of a table evaluation: special inputs (R49, R90), the interpolation and its clamp (R58 to R63), what
a segment and a tail give (R56, R57, R64, R88), and what Table 3.3 takes from G. -/
namespace Sys2Proof.Machine

/-! ## Stage 1 (R49, R90) -/

/-- Stage 1 answers NaN: the input is one, or a negative one that SPEC_NEG refuses. -/
abbrev Desc.refuses (d : Desc) (w : Word) : Prop :=
  wordNaN w ∨ (d.specNeg = true ∧ w.msb = true ∧ ¬ wordZero w ∧ ¬ wordInf w)

/-- The special-input code that an input falls under, 0 where none does. -/
abbrev Desc.codeOf (d : Desc) (w : Word) : Nat :=
  if wordZero w then (if w.msb = true then d.specNZ else d.specPZ)
  else if wordInf w then (if w.msb = true then d.specNI else d.specPI) else 0

theorem Desc.spec_of_refuses {d : Desc} {w : Word} (h : d.refuses w) : d.spec (f32 w) = some .nan := by
  rcases h with hn | ⟨hneg, hm, hz, hi⟩
  · rw [f32_of_nan hn]
    rfl
  · by_cases hn : wordNaN w
    · rw [f32_of_nan hn]
      rfl
    · obtain ⟨n, dd, hf, -, hn0⟩ := f32_of_not hn hi
      simp only [Desc.spec, specRule, hf, if_neg (mt hn0.1 hz), hneg, hm, Bool.and_self, if_true]

theorem Desc.spec_of_not_refuses {d : Desc} {w : Word} (h : ¬ d.refuses w) : d.spec (f32 w) = specVal (d.codeOf w) := by
  obtain ⟨hn, hneg⟩ := not_or.1 h
  by_cases hi : wordInf w
  · have hz : ¬ wordZero w := fun hz => not_inf_of_zero hz hi
    simp only [Desc.spec, specRule, f32_of_inf hi, Desc.codeOf, if_neg hz, if_pos hi]
  · obtain ⟨n, dd, hf, -, hn0⟩ := f32_of_not hn hi
    by_cases hz : wordZero w
    · simp only [Desc.spec, specRule, hf, if_pos (hn0.2 hz), Desc.codeOf, if_pos hz]
    · have hb : (d.specNeg && w.msb) = false := by
        rw [Bool.and_eq_false_iff, ← Bool.not_eq_true, ← Bool.not_eq_true]
        tauto
      simp only [Desc.spec, specRule, hf, if_neg (mt hn0.1 hz), hb, Bool.false_eq_true, if_false, Desc.codeOf, if_neg hz, if_neg hi]
      rfl

section
variable {look : Look} {t : TblRef} {d : Desc} {g : Grade} {w : Word}

theorem evalTable_settled {v : Val} (h : d.spec (f32 w) = some v) :
    evalTable look t d g (.x w) = { v := v, settled := true } := by
  simp only [evalTable, h]

theorem evalTable_passed (h : d.spec (f32 w) = none) :
    evalTable look t d g (.x w) = finishTable look t d g (frontEnd d.front (.x w)) := by
  simp only [evalTable, h]

end

/-! ## The interpolation and the seam clamp (R58 to R63) -/

/-- A field read as a two's complement number. -/
theorem sext_bitsOf {n : Nat} (e : BitVec n) {hi lo len : Nat} (h : hi + 1 - lo = len) (hlen : len ≠ 0) :
    sext len (bitsOf e hi lo) = (e.extractLsb' lo len).toInt := by
  rw [bitsOf_eq_toNat_extractLsb' e h]
  have hx := (e.extractLsb' lo len).isLt
  obtain ⟨m, rfl⟩ := Nat.exists_eq_succ_of_ne_zero hlen
  simp only [sext, Nat.mod_eq_of_lt hx, if_neg hlen, BitVec.toInt_eq_toNat_cond, Nat.succ_eq_add_one, Nat.add_sub_cancel]
  rw [pow_succ] at *
  split <;> split <;> omega

/-- A shift by a signed count is a product and a floored quotient. -/
theorem floorScale_sub (x : Int) (a sh : Nat) : floorScale x ((a : Int) - sh) = x * 2 ^ a / 2 ^ sh := by
  unfold floorScale
  split
  · obtain ⟨m, rfl⟩ := Nat.exists_eq_add_of_le (show sh ≤ a by omega)
    have hm : (((sh + m : Nat) : Int) - sh).toNat = m := by omega
    rw [hm, pow_add, mul_left_comm, Int.mul_ediv_cancel_left _ (by positivity)]
  · obtain ⟨m, rfl⟩ := Nat.exists_eq_add_of_le (show a ≤ sh by omega)
    have hm : (-((a : Int) - ((a + m : Nat) : Int))).toNat = m := by omega
    rw [hm, pow_add, mul_comm x, Int.mul_ediv_mul_of_pos _ _ (by positivity)]

theorem floorScale_ofNat_sub (x : Int) (a sh : Nat) [a.AtLeastTwo] :
    floorScale x (ofNat(a) - (sh : Int)) = x * 2 ^ ofNat(a) / 2 ^ sh := floorScale_sub x a sh

theorem floorScale_neg24 (x : Int) : floorScale x (-24) = x / 2 ^ 24 := rfl

section
variable (g : Grade) (d : Desc) (e : Entry) (h T : Nat)

theorem entC0_eq : entC0 e = (e.extractLsb' 0 28).toInt := sext_bitsOf e rfl (by decide)
theorem entC1_eq : entC1 e = (e.extractLsb' 28 20).toInt := sext_bitsOf e rfl (by decide)
theorem entC2_eq : entC2 e = (e.extractLsb' 48 14).toInt := sext_bitsOf e rfl (by decide)
theorem entC0N_eq : entC0N e h = if h = 0 then (e.extractLsb' 0 16).toInt else (e.extractLsb' 30 16).toInt := by
  rw [entC0N, sext_bitsOf e (len := 16) rfl (by decide), sext_bitsOf e (len := 16) rfl (by decide)]
theorem entC1N_eq : entC1N e h = if h = 0 then (e.extractLsb' 16 14).toInt else (e.extractLsb' 46 14).toInt := by
  rw [entC1N, sext_bitsOf e (len := 14) rfl (by decide), sext_bitsOf e (len := 14) rfl (by decide)]

theorem interpolate_eq : interpolate g d e h T = polyAt g d e h T := by
  cases g with
  | Q => simp only [interpolate, polyAt, entC0_eq, entC1_eq, entC2_eq, floorScale_ofNat_sub, floorScale_neg24]
  | L => simp only [interpolate, polyAt, entC0_eq, entC1_eq, floorScale_ofNat_sub]
  | N => simp only [interpolate, polyAt, entC0N_eq, entC1N_eq, floorScale_ofNat_sub]

/-- The endpoint values of R63 are those at T = 0 and T = 2^24. -/
theorem endpoints_eq : endpoints g d e h = (polyAt g d e h 0, polyAt g d e h (2 ^ 24)) := by
  cases g with
  | Q =>
    simp only [endpoints, polyAt, entC0_eq, entC1_eq, entC2_eq, floorScale_ofNat_sub]
    norm_num [mul_assoc, add_assoc]
  | L =>
    simp only [endpoints, polyAt, entC0_eq, entC1_eq, floorScale_ofNat_sub]
    norm_num [mul_assoc]
  | N =>
    simp only [endpoints, polyAt, entC0N_eq, entC1N_eq, floorScale_ofNat_sub]
    norm_num [mul_assoc]

/-- MONO declares a direction. -/
theorem entMono_iff : (entMono e = 1 ∨ entMono e = 2) ↔ (e.extractLsb' 76 2 = 1 ∨ e.extractLsb' 76 2 = 2) := by
  rw [entMono, bitsOf_eq_toNat_extractLsb' e rfl, ← BitVec.toNat_inj, ← BitVec.toNat_inj]
  exact Iff.rfl

theorem clampP_eq : clampP g d e h T =
    (polyClamped g d e h T, decide (polyClamped g d e h T ≠ polyAt g d e h T)) := by
  unfold clampP
  simp only [interpolate_eq, endpoints_eq]
  by_cases hm : e.extractLsb' 76 2 = 1 ∨ e.extractLsb' 76 2 = 2
  · have hp : polyClamped g d e h T = _ := if_pos hm
    rw [if_pos ((entMono_iff e).2 hm), hp]
  · have hp : polyClamped g d e h T = polyAt g d e h T := if_neg hm
    rw [if_neg (mt (entMono_iff e).1 hm), hp, decide_eq_false (not_not_intro rfl)]

end

/-! ## Stages 3 to 6 -/

section
variable {look : Look} {t : TblRef} {d : Desc} {g : Grade}

@[simp] theorem reconstruct_zero (r : Recon) (G : Val) : reconstruct 0 r G = G := rfl

/-- Table 3.3 makes NaN of NaN. -/
theorem reconstruct_nan (front : Nat) (r : Recon) : reconstruct front r .nan = .nan := by
  have hsign : ∀ b : Bool, signOfX b .nan = .nan := fun b => by cases b <;> rfl
  have hturn : (if r.neg then Val.neg .nan else .nan) = .nan := ite_self _
  unfold reconstruct
  split
  case h_1 => exact hsign _
  case h_6 => exact hsign _
  case h_9 => exact hturn
  case h_10 => exact hturn
  all_goals rfl

theorem entryOf_eq (g : Grade) (s : Nat) :
    entryOf g s = (if g = .N then s / 2 else s, if g = .N then s % 2 else 0) := by cases g <;> rfl

/-- An argument whose segment is read gives what the segment gives, through Table 3.3. -/
theorem segmentValue_finishTable {a : Arg} {s T : Nat} {r : Recon}
    (h : lookStage look t d g a = .read (entryOf g s).1 (entryOf g s).2 T (look t (entryOf g s).1) r) :
    segmentValue look t d g (finishTable look t d g a) s T (reconstruct d.front r) := by
  rw [entryOf_eq] at h
  simp only [segmentValue, finishTable, h]
  refine ⟨rfl, ?_, trivial, fun hn => ?_, fun e he => ?_⟩
  · cases look t (if g = .N then s / 2 else s) <;> rfl
  · rw [hn]
    exact ⟨rfl, rfl⟩
  · rw [he]
    simp only [interpStage, clampP_eq]
    refine ⟨?_, ?_⟩
    · rw [gVal, entOexp, bitsOf_eq_toNat_extractLsb' e rfl]
    · by_cases hp : polyClamped g d e (if g = .N then s % 2 else 0) T = polyAt g d e (if g = .N then s % 2 else 0) T
      · simp [hp, b2n]
      · simp [hp, b2n]

/-- A fraction's segment by UNIFORM indexing (R55). -/
theorem segmentValue_frac (F : Nat) (r : Recon) :
    segmentValue look t d g (finishTable look t d g (.frac F r)) (F / 2 ^ (32 - d.k)) (F / 2 ^ (8 - d.k) % 2 ^ 24)
      (reconstruct d.front r) := segmentValue_finishTable rfl

/-- A scalar's segment by BINADE indexing (R54). -/
theorem segmentValue_scalar {a : Val} {s T : Nat} (h : indexBinade d a = .at s T) (r : Recon) :
    segmentValue look t d g (finishTable look t d g (.scalar a r)) s T (reconstruct d.front r) :=
  segmentValue_finishTable (by simp only [lookStage, h])

/-- A scalar in a tail (R56). -/
theorem finishTable_tail {a G : Val} {which : Nat} (h : indexBinade d a = .tail G which) (r : Recon) :
    finishTable look t d g (.scalar a r) = { v := reconstruct d.front r G, tail := some (t, which) } := by
  simp only [finishTable, lookStage, h]
  rfl

/-- What DIRECT gives at an argument. -/
abbrev directVal (look : Look) (t : TblRef) (d : Desc) (g : Grade) (a : Val) : Val :=
  (finishTable look t { d with front := 0 } g (.scalar a {})).v

/-- The result of a scalar argument is Table 3.3's, of what DIRECT gives at it. -/
theorem finishTable_scalar_v (a : Val) (r : Recon) :
    (finishTable look t d g (.scalar a r)).v = reconstruct d.front r (directVal look t d g a) := by
  have hi : indexBinade { d with front := 0 } a = indexBinade d a := rfl
  rcases h : indexBinade d a with ⟨G, which⟩ | ⟨s, T⟩
  · rw [finishTable_tail h, directVal, finishTable_tail (hi.trans h)]
    rfl
  · simp only [directVal, finishTable, lookStage, h, hi]
    cases look t (entryOf g s).1 with
    | none => exact (reconstruct_nan _ _).symm
    | some e => cases g <;> rfl

end

end Sys2Proof.Machine

/-! PROOFS. Chapter 3, the front ends (R50 to R53, R338) and the segment index of BINADE (R54). -/
namespace Sys2Proof.Machine

/-! ## BINADE indexing (R54, R56, R338) -/

section
variable {d : Desc} {w : Word}

theorem indexBinade_lo (hn : ¬ wordNaN w) (h : wordZero w ∨ (¬ wordInf w ∧ (binadeOf w).1 < d.emin)) :
    indexBinade d (f32 w) = .tail (tailVal d.loLin d.loC (f32 w)) 0 := by
  have hi : ¬ wordInf w := h.elim not_inf_of_zero And.left
  obtain ⟨n, dd, hf, -, h0⟩ := f32_of_not hn hi
  by_cases hz : wordZero w
  · simp only [hf, indexBinade, if_pos (h0.2 hz)]
  · have hE := (h.resolve_left hz).2
    simp only [indexBinade, hf, if_neg (mt h0.1 hz), normalise_f32 hf hz, if_pos hE]

theorem indexBinade_hi (hn : ¬ wordNaN w) (hz : ¬ wordZero w)
    (h : wordInf w ∨ (d.emin ≤ (binadeOf w).1 ∧ d.emin + d.nbin ≤ (binadeOf w).1)) :
    indexBinade d (f32 w) = if w.msb then .tail (tailVal d.hinLin d.hinC (f32 w)) 2
      else .tail (tailVal d.hipLin d.hipC (f32 w)) 1 := by
  by_cases hi : wordInf w
  · simp only [f32_of_inf hi, indexBinade]
  · obtain ⟨n, dd, hf, -, h0⟩ := f32_of_not hn hi
    obtain ⟨hlo, hhi⟩ := h.resolve_left hi
    simp only [indexBinade, hf, if_neg (mt h0.1 hz), normalise_f32 hf hz, if_neg hlo.not_gt, ge_iff_le, if_pos hhi]

/-- Within the binades of the table a negative argument has a segment where SIGNED is set, and the LO tail otherwise. -/
theorem indexBinade_within (hn : ¬ wordNaN w) (hi : ¬ wordInf w) (hz : ¬ wordZero w) (hlo : d.emin ≤ (binadeOf w).1)
    (hhi : (binadeOf w).1 < d.emin + d.nbin) :
    let m := (binadeOf w).2 - 2 ^ 23
    let seg := ((binadeOf w).1 - d.emin).toNat * 2 ^ d.k + m / 2 ^ (23 - d.k)
    indexBinade d (f32 w) = if d.signed = false ∧ w.msb = true then .tail (tailVal d.loLin d.loC (f32 w)) 0
      else .at (if d.signed = true ∧ w.msb = true then seg + d.nbin * 2 ^ d.k else seg)
        ((m % 2 ^ (23 - d.k)) * 2 ^ (d.k + 1)) := by
  obtain ⟨n, dd, hf, -, h0⟩ := f32_of_not hn hi
  simp only [indexBinade, hf, if_neg (mt h0.1 hz), normalise_f32 hf hz, if_neg hlo.not_gt, ge_iff_le, if_neg hhi.not_ge,
    Bool.and_eq_true, Bool.not_eq_true']

end

/-! ## EXP2 and EXPE (R51) -/

/-- The exponential front end on a finite z: overflow, underflow, or the floor of z and its fraction. The check of |x| against 256
settles nothing that the range of z does not. -/
theorem frontExp_fin {s : Bool} {n d : Nat} {x : Val} (hd : 0 < d)
    (hx : -150 * (d : Int) < Val.signed s n → Val.signed s n < 128 * d → x.abs.lt (Val.ofNat 256) = true) :
    (128 * (d : Int) ≤ Val.signed s n → frontExp (.fin s n d) x = .done (.inf false)) ∧
    (Val.signed s n ≤ -150 * (d : Int) → frontExp (.fin s n d) x = .done Val.zero) ∧
    (-150 * (d : Int) < Val.signed s n → Val.signed s n < 128 * d → frontExp (.fin s n d) x =
      .frac ((Val.signed s n - Val.signed s n / d * d) * 2 ^ 32 / d).toNat { n := Val.signed s n / d }) := by
  have hlt : (Val.fin s n d).lt (Val.ofNat 128) = decide (Val.signed s n < 128 * d) := by
    show decide (Val.signed s (n * 1) < ((128 * d : Nat) : Int)) = _
    rw [mul_one, Nat.cast_mul]
    rfl
  have hle : (Val.fin s n d).le (Val.ofInt (-150)) = decide (Val.signed s n ≤ -150 * (d : Int)) := by
    rw [Val.le, Bool.eq_iff_iff]
    simp [Val.lt, Val.eq, Val.ofInt, Val.signed, le_iff_lt_or_eq]
  refine ⟨fun h => ?_, fun h => ?_, fun hlo hhi => ?_⟩
  · simp only [frontExp, hlt, decide_eq_false h.not_gt, Bool.not_false, Bool.or_true, if_true]
    cases s with
    | false => rfl
    | true => simp only [Val.signed, if_true] at h; omega
  · simp only [frontExp, hle, decide_eq_true h, if_true]
    cases s with
    | false => simp only [Val.signed, Bool.false_eq_true, if_false] at h; omega
    | true => exact ite_self _
  · simp only [frontExp, hlt, hle, hx hlo hhi, decide_eq_true hhi, decide_eq_false hlo.not_ge, Bool.not_true, Bool.or_self,
      Bool.false_eq_true, if_false]
    have hd' : (0 : Int) < d := by exact_mod_cast hd
    obtain ⟨r, hr⟩ := Int.eq_ofNat_of_zero_le (Int.emod_nonneg (Val.signed s n) hd'.ne')
    have hrd := Int.emod_lt_of_pos (Val.signed s n) hd'
    have hrem : Val.signed s n - Val.signed s n / d * d = r := by rw [← hr, Int.emod_def, mul_comm]
    have hF : r * 2 ^ 32 / d < 2 ^ 32 := by
      rw [Nat.div_lt_iff_lt_mul hd, mul_comm]
      have : r < d := by omega
      exact Nat.mul_lt_mul_of_pos_left this (by positivity)
    rw [hrem, Int.toNat_natCast, Nat.mod_eq_of_lt hF]
    congr 1

/-- EXP2 takes x and EXPE the product with log2 e: in both, the quotient zn / zd as the statement writes it. -/
theorem frontEnd_exp {w : Word} {front : Nat} (hfr : front = 2 ∨ front = 3) {s : Bool} {n dd : Nat} (hf : f32 w = .fin s n dd) :
    let zn : Int := Val.signed s n * (if front = 2 then 1 else 0x171547652B82F)
    let zd : Int := dd * (if front = 2 then 1 else 2 ^ 48)
    (128 * zd ≤ zn → frontEnd front (.x w) = .done (.inf false)) ∧
    (zn ≤ -150 * zd → frontEnd front (.x w) = .done Val.zero) ∧
    (-150 * zd < zn → zn < 128 * zd →
      frontEnd front (.x w) = .frac ((zn - zn / zd * zd) * 2 ^ 32 / zd).toNat { n := zn / zd }) := by
  have hd := f32_den_pos hf
  have habs : (Val.fin s n dd).abs.lt (Val.ofNat 256) = decide (n < 256 * dd) := by
    show decide (((n * 1 : Nat) : Int) < ((256 * dd : Nat) : Int)) = _
    rw [mul_one]
    exact decide_eq_decide.2 Nat.cast_lt
  have hbound : -150 * (dd : Int) < Val.signed s n → Val.signed s n < 128 * dd → n < 256 * dd := by
    cases s <;> simp only [Val.signed, if_true, if_false, Bool.false_eq_true] <;> omega
  rcases hfr with rfl | rfl
  · have hz : frontEnd 2 (.x w) = frontExp (.fin s n dd) (.fin s n dd) := by simp only [frontEnd, hf]
    simp only [if_true, mul_one]
    rw [hz]
    exact frontExp_fin hd fun h1 h2 => habs.trans (decide_eq_true (hbound h1 h2))
  · have hz : frontEnd 3 (.x w) = frontExp (.fin s (n * 0x171547652B82F) (dd * 2 ^ 48)) (.fin s n dd) := by
      simp only [frontEnd, hf, Val.mul, constLE, Bool.bne_false]
    have hsigned : Val.signed s n * 0x171547652B82F = Val.signed s (n * 0x171547652B82F) := by
      cases s <;> simp only [Val.signed, if_true, if_false, Bool.false_eq_true] <;> omega
    have hden : (dd : Int) * 2 ^ 48 = ((dd * 2 ^ 48 : Nat) : Int) := by push_cast; rfl
    simp only [show ¬ (3 = 2) by decide, if_false]
    rw [hz, hsigned, hden]
    refine frontExp_fin (by positivity) fun h1 h2 => habs.trans (decide_eq_true (hbound ?_ ?_)) <;>
      rw [← hsigned] at h1 h2 <;> omega

/-! ## The other front ends (R50, R52, R53) -/

section
variable {w : Word} (hn : ¬ wordNaN w) (hi : ¬ wordInf w) (hz : ¬ wordZero w)
include hn hi hz

/-- RECIP takes the significand, and keeps the sign and the exponent. -/
theorem frontEnd_recip : frontEnd 6 (.x w) =
    .scalar (sigVal (binadeOf w).2 0) { neg := w.msb, n := (binadeOf w).1 } := by
  obtain ⟨n, d, hf, -, h0⟩ := f32_of_not hn hi
  simp only [frontEnd, hf, if_neg (mt h0.1 hz), normalise_f32 hf hz]

/-- LOG2 and LN take the significand's distance from 1, with the exponent above it where it is 1.5 or more. -/
theorem frontEnd_log {front : Nat} (hfr : front = 4 ∨ front = 5) (hm : ¬ w.msb = true) : frontEnd front (.x w) =
    if 3 * 2 ^ 22 ≤ (binadeOf w).2 then .scalar ((sigVal (binadeOf w).2 (-1)).sub Val.one) { n := (binadeOf w).1 + 1 }
    else .scalar ((sigVal (binadeOf w).2 0).sub Val.one) { n := (binadeOf w).1 } := by
  obtain ⟨n, d, hf, -, h0⟩ := f32_of_not hn hi
  rcases hfr with rfl | rfl <;>
    simp only [frontEnd, hf, if_neg (mt h0.1 hz), normalise_f32 hf hz, if_neg hm, ge_iff_le]

/-- RSQRT and SQRT take the significand at the parity of the exponent, and keep half the exponent. -/
theorem frontEnd_root {front : Nat} (hfr : front = 7 ∨ front = 8) (hm : ¬ w.msb = true) : frontEnd front (.x w) =
    .scalar (sigVal (binadeOf w).2 ((binadeOf w).1 % 2)) { n := (binadeOf w).1 / 2 } := by
  obtain ⟨n, d, hf, -, h0⟩ := f32_of_not hn hi
  have hp : (binadeOf w).1 - 2 * ((binadeOf w).1 / 2) = (binadeOf w).1 % 2 := (Int.emod_def ..).symm
  rcases hfr with rfl | rfl <;>
    simp only [frontEnd, hf, if_neg (mt h0.1 hz), normalise_f32 hf hz, if_neg hm, hp]

end

/-- A turn's quadrant folds its fraction; the quarter turn itself has G = 1. -/
theorem frontTurn_eq (cos : Bool) {F : Nat} (hF : F < 2 ^ 32) :
    let a := if cos then (F + 2 ^ 30) % 2 ^ 32 else F
    let u := if a / 2 ^ 30 % 2 = 1 then 2 ^ 30 - a % 2 ^ 30 else a % 2 ^ 30
    frontTurn cos F = if u = 2 ^ 30 then .unit { neg := decide (2 ≤ a / 2 ^ 30) }
      else .frac (4 * u) { neg := decide (2 ≤ a / 2 ^ 30) } := by
  simp only [frontTurn, Nat.mod_eq_of_lt hF, ge_iff_le]

end Sys2Proof.Machine

/-! PROOFS. Chapter 3, table evaluations: what an evaluation answers through each front end (R49 to R64, R337, R338). -/
namespace Sys2Proof.Machine

section
variable {look : Look} {t : TblRef} {d : Desc} {g : Grade} {w : Word}

/-- DIRECT, where the argument lies in a tail. -/
theorem direct_tail (hf : d.front = 0) {lin : Bool} {c : Word} {which : Nat}
    (h : indexBinade d (f32 w) = .tail (tailVal lin c (f32 w)) which) :
    let o := finishTable look t d g (frontEnd d.front (.x w))
    o.v = (if lin then (f32 w).mul (f32 c) else f32 c) ∧ o.tail = some (t, which) ∧ o.looks = [] ∧ o.clamps = 0 := by
  have ho : finishTable look t d g (frontEnd d.front (.x w)) = { v := tailVal lin c (f32 w), tail := some (t, which) } := by
    rw [show frontEnd d.front (.x w) = .scalar (f32 w) {} by rw [hf]; rfl, finishTable_tail h, hf, reconstruct_zero]
  rw [ho]
  exact ⟨rfl, rfl, rfl, rfl⟩

/-- DIRECT, where the argument lies in a segment. -/
theorem direct_segment (hf : d.front = 0) {s T : Nat} (h : indexBinade d (f32 w) = .at s T) :
    segmentValue look t d g (finishTable look t d g (frontEnd d.front (.x w))) s T id := by
  have hr : reconstruct d.front {} = id := by rw [hf]; rfl
  rw [show frontEnd d.front (.x w) = .scalar (f32 w) {} by rw [hf]; rfl, ← hr]
  exact segmentValue_scalar h {}

/-- A front end that gives a scalar: Table 3.3's result of what DIRECT gives at it. -/
theorem frontEnd_scalar_v {a : Val} {r : Recon} (h : frontEnd d.front (.x w) = .scalar a r) :
    (finishTable look t d g (frontEnd d.front (.x w))).v = reconstruct d.front r (directVal look t d g a) := by
  rw [h, finishTable_scalar_v]

/-- ODD keeps the sign of its argument. -/
theorem odd_v (hf : d.front = 1) (hn : ¬ wordNaN w) :
    (finishTable look t d g (frontEnd d.front (.x w))).v = signOfX w.msb (directVal look t d g (f32 w).abs) := by
  have hs : (f32 w).sign = w.msb := by
    by_cases hi : wordInf w
    · rw [f32_of_inf hi]; rfl
    · obtain ⟨n, dd, h, -, -⟩ := f32_of_not hn hi
      rw [h]; rfl
  rw [frontEnd_scalar_v (a := (f32 w).abs) (r := { neg := w.msb }) (by rw [hf, ← hs]; rfl), hf]
  rfl

/-- EXP2 and EXPE: infinity above their range, zero below it, a segment within it. -/
theorem exp_value (hf : d.front = 2 ∨ d.front = 3) {s : Bool} {n dd : Nat} (hw : f32 w = .fin s n dd) :
    let o := finishTable look t d g (frontEnd d.front (.x w))
    let zn : Int := Val.signed s n * (if d.front = 2 then 1 else 0x171547652B82F)
    let zd : Int := dd * (if d.front = 2 then 1 else 2 ^ 48)
    let k := zn / zd
    let F := ((zn - k * zd) * 2 ^ 32 / zd).toNat
    (128 * zd ≤ zn → o.v = .inf false ∧ o.looks = []) ∧
    (zn ≤ -150 * zd → o.v = .fin false 0 1 ∧ o.looks = []) ∧
    (-150 * zd < zn → zn < 128 * zd →
      segmentValue look t d g o (F / 2 ^ (32 - d.k)) (F / 2 ^ (8 - d.k) % 2 ^ 24) (fun G => G.mul (Val.pow2 k))) := by
  obtain ⟨hover, hunder, hin⟩ := frontEnd_exp hf hw
  refine ⟨fun h => ?_, fun h => ?_, fun hlo hhi => ?_⟩
  · rw [hover h]
    exact ⟨rfl, rfl⟩
  · rw [hunder h]
    exact ⟨rfl, rfl⟩
  · rw [hin hlo hhi]
    have hr : ∀ r : Recon, reconstruct d.front r = fun G => G.mul (Val.pow2 r.n) := by
      intro r
      rcases hf with hf | hf <;> rw [hf] <;> rfl
    rw [← hr { n := _ }]
    exact segmentValue_frac _ _

/-- LOG2 and LN add the exponent; LN scales the sum by ln 2. -/
theorem log_v (hf : d.front = 4 ∨ d.front = 5) (hn : ¬ wordNaN w) (hi : ¬ wordInf w) (hz : ¬ wordZero w)
    (hm : ¬ w.msb = true) :
    let em := binadeOf w
    let r := if 3 * 2 ^ 22 ≤ em.2 then (Val.ofInt (em.1 + 1)).add (directVal look t d g ((sigVal em.2 (-1)).sub Val.one))
      else (Val.ofInt em.1).add (directVal look t d g ((sigVal em.2 0).sub Val.one))
    (finishTable look t d g (frontEnd d.front (.x w))).v = if d.front = 4 then r else r.mul constL2 := by
  have h := frontEnd_log hn hi hz hf hm
  have hr : ∀ (r : Recon) (G : Val), reconstruct d.front r G =
      if d.front = 4 then (Val.ofInt r.n).add G else ((Val.ofInt r.n).add G).mul constL2 := by
    intro r G
    rcases hf with hf | hf <;> rw [hf] <;> rfl
  by_cases hM : 3 * 2 ^ 22 ≤ (binadeOf w).2
  · simp only [if_pos hM] at h ⊢
    rw [frontEnd_scalar_v h, hr]
  · simp only [if_neg hM] at h ⊢
    rw [frontEnd_scalar_v h, hr]

end

/-- TURN_SIN and TURN_COS: 1 at a quarter turn, a segment elsewhere, with the sign of the half turn. -/
theorem turn_value (look : Look) (t : TblRef) {d : Desc} (g : Grade) {F : Nat} (hF : F < 2 ^ 32)
    (hf : d.front = 9 ∨ d.front = 0xA) :
    let o := evalTable look t d g (.turn F)
    let a := if d.front = 9 then F else (F + 2 ^ 30) % 2 ^ 32
    let q := a / 2 ^ 30
    let u := if q % 2 = 1 then 2 ^ 30 - a % 2 ^ 30 else a % 2 ^ 30
    (u = 2 ^ 30 → o.v = .fin (decide (2 ≤ q)) 1 1 ∧ o.looks = []) ∧
    (u ≠ 2 ^ 30 → segmentValue look t d g o (4 * u / 2 ^ (32 - d.k)) (4 * u / 2 ^ (8 - d.k) % 2 ^ 24)
      (fun G => if G.isZero then Val.zero else if 2 ≤ q then G.neg else G)) := by
  have ha : (if decide (d.front = 0xA) = true then (F + 2 ^ 30) % 2 ^ 32 else F) =
      if d.front = 9 then F else (F + 2 ^ 30) % 2 ^ 32 := by
    rcases hf with hf | hf <;> simp [hf]
  have he : evalTable look t d g (.turn F) = finishTable look t d g (frontTurn (decide (d.front = 0xA)) F) := by
    rcases hf with hf | hf <;> simp [evalTable, frontEnd, hf]
  have hr : ∀ (r : Recon) (G : Val), reconstruct d.front r G = if G.isZero then Val.zero else if r.neg then G.neg else G := by
    intro r G
    rcases hf with hf | hf <;> rw [hf] <;> rfl
  have ht := frontTurn_eq (decide (d.front = 0xA)) hF
  simp only [ha] at ht
  dsimp only
  rw [he, ht]
  refine ⟨fun hu => ?_, fun hu => ?_⟩
  · rw [if_pos hu]
    refine ⟨?_, rfl⟩
    show reconstruct d.front _ Val.one = _
    rw [hr]
    cases decide (2 ≤ (if d.front = 9 then F else (F + 2 ^ 30) % 2 ^ 32) / 2 ^ 30) <;> rfl
  · rw [if_neg hu]
    have hfun : (fun G : Val => if G.isZero then Val.zero else
        if 2 ≤ (if d.front = 9 then F else (F + 2 ^ 30) % 2 ^ 32) / 2 ^ 30 then G.neg else G) =
        reconstruct d.front { neg := decide (2 ≤ (if d.front = 9 then F else (F + 2 ^ 30) % 2 ^ 32) / 2 ^ 30) } := by
      funext G
      simp only [hr, decide_eq_true_eq]
    rw [hfun]
    exact segmentValue_frac _ _

/-- What a table evaluation gives. -/
theorem tableValues_hold : tableValues := by
  intro look t d g w
  dsimp only
  refine ⟨rfl, rfl, fun h => ?_, fun x h hx => ?_, fun h hnone => ?_, fun F hF hf => turn_value look t g hF hf⟩
  · rw [evalTable_settled (d.spec_of_refuses h)]
    exact ⟨rfl, rfl, rfl⟩
  · rw [evalTable_settled ((d.spec_of_not_refuses h).trans hx)]
    exact ⟨rfl, rfl, rfl⟩
  have hn : ¬ wordNaN w := (not_or.1 h).1
  rw [evalTable_passed ((d.spec_of_not_refuses h).trans hnone)]
  refine ⟨fun hf => ⟨fun hlo => direct_tail hf (indexBinade_lo hn hlo), fun hz hhi => ⟨fun hm => ?_, fun hm => ?_⟩,
      fun hz hi hlo hhi => ⟨fun hs hm => ?_, fun hs => ?_⟩⟩, fun hf => odd_v hf hn, fun s n dd hw hf => exp_value hf hw,
    fun hz hi hf => ?_, fun hz hi hm => ⟨fun hf => ?_, fun hf => ?_, fun hf => ?_, fun hf => ?_⟩⟩
  · exact direct_tail hf ((indexBinade_hi hn hz hhi).trans (if_neg hm))
  · exact direct_tail hf ((indexBinade_hi hn hz hhi).trans (if_pos hm))
  · exact direct_tail hf ((indexBinade_within hn hi hz hlo hhi).trans (if_pos ⟨hs, hm⟩))
  · exact direct_segment hf ((indexBinade_within hn hi hz hlo hhi).trans (if_neg hs))
  · rw [frontEnd_scalar_v (by rw [hf]; exact frontEnd_recip hn hi hz), hf]
    rfl
  · rw [log_v (.inl hf) hn hi hz hm, if_pos hf]
  · rw [log_v (.inr hf) hn hi hz hm, if_neg (by rw [hf]; decide)]
    rfl
  · rw [frontEnd_scalar_v (by rw [hf]; exact frontEnd_root hn hi hz (.inl rfl) hm), hf]
    rfl
  · rw [frontEnd_scalar_v (by rw [hf]; exact frontEnd_root hn hi hz (.inr rfl) hm), hf]
    rfl

end Sys2Proof.Machine

/-! PROOFS. Chapter 4, the built-ins: Table 4.3, and the composites of R79 on the native tables. -/
namespace Sys2Proof.Machine

/-! ## Table 4.3 -/

/-- The special words of Table 4.3: the zeros and the infinities. -/
def specialWords : List Word := [0, 0x80000000, 0x7F800000, 0xFF800000]

/-- What each built-in gives at the special words. -/
def specialRows : List (Nat × List Word) :=
  [(0x0, [0x3F800000, 0x3F800000, 0x7F800000, 0]), (0x1, [0x3F800000, 0x3F800000, 0x7F800000, 0]),
   (0x2, [0xFF800000, 0xFF800000, 0x7F800000, nan32]), (0x3, [0xFF800000, 0xFF800000, 0x7F800000, nan32]),
   (0x4, [0x7F800000, 0xFF800000, 0, 0x80000000]), (0x5, [0x7F800000, 0xFF800000, 0, nan32]),
   (0x6, [0, 0x80000000, 0x7F800000, nan32]), (0x8, [0x3F000000, 0x3F000000, 0x3F800000, 0]),
   (0x9, [0, 0x80000000, 0x3F800000, 0xBF800000]), (0xA, [0, 0x80000000, 0x3F800000, 0xBF800000]),
   (0xB, [0x3F317218, 0x3F317218, 0x7F800000, 0]), (0xC, [0, 0x80000000, 0x7F800000, 0x80000000]),
   (0xD, [0, 0x80000000, 0x7F800000, 0x80000000]), (0xE, [0, 0x80000000, 0x7F800000, 0x80000000])]

/-- The rows are those of `builtinSpecial`, at every grade. -/
theorem builtinSpecial_rows (g : Grade) : ∀ q ∈ specialRows, isPosFn q.1 = false ∧
    specialWords.map (fun w => (builtinSpecial q.1 g (f32 w)).map rne32) = q.2.map some := by
  cases g <;> decide +kernel

section
variable {look : Look} {id : Nat} {g : Grade} {x : Word}

theorem evalBuiltin_special (hid : isPosFn id = false) {v : Val} (h : builtinSpecial id g (f32 x) = some v) :
    evalBuiltin look id g (.x x) = { v := v, settled := true } := by
  simp only [evalBuiltin, hid, h, Bool.false_eq_true, if_false]

theorem evalBuiltin_specialWords {r : List Word} (hq : (id, r) ∈ specialRows) :
    specialWords.map (fun w => (evalBuiltin look id g (.x w)).bits) = r := by
  obtain ⟨hid, hrow⟩ := builtinSpecial_rows g _ hq
  refine List.map_injective_iff.2 (Option.some_injective Word) ?_
  rw [← hrow, List.map_map]
  refine List.map_congr_left fun w hw => ?_
  have hmem : (builtinSpecial id g (f32 w)).map rne32 ∈ r.map some := hrow ▸ List.mem_map_of_mem hw
  obtain ⟨c, -, hc⟩ := List.mem_map.1 hmem
  obtain ⟨v, hv, -⟩ := Option.map_eq_some_iff.1 hc.symm
  simp only [Function.comp_apply, evalBuiltin_special hid hv, hv, Option.map_some]
  rfl

theorem isPosFn_of_lt (h : id < 0xF) : isPosFn id = false := by
  simp only [isPosFn, Bool.or_eq_false_iff, beq_eq_false_iff_ne]
  omega

theorem evalBuiltin_nan (hid : id < 0xF) (h : wordNaN x) : (evalBuiltin look id g (.x x)).v = .nan := by
  rw [evalBuiltin_special (isPosFn_of_lt hid) (v := .nan) (by rw [f32_of_nan h]; rfl)]

/-- A finite word that is no zero. -/
abbrev wordFinite (x : Word) : Prop := x.extractLsb' 23 8 ≠ 0xFF ∧ x.extractLsb' 0 31 ≠ 0

theorem f32_of_wordFinite (h : wordFinite x) : ∃ n d, f32 x = .fin x.msb n d ∧ n ≠ 0 := by
  obtain ⟨n, d, hf, -, h0⟩ := f32_of_not (fun hn : wordNaN x => h.1 hn.1) (fun hi : wordInf x => h.1 hi.1)
  exact ⟨n, d, hf, mt h0.1 h.2⟩

/-- The logarithms and roots of a negative value. -/
theorem evalBuiltin_negative (hid : id ∈ [2, 3, 5, 6]) (h : wordFinite x) (hm : x.msb = true) :
    (evalBuiltin look id g (.x x)).v = .nan := by
  obtain ⟨n, d, hf, hn⟩ := f32_of_wordFinite h
  have hs : builtinSpecial id g (f32 x) = some .nan := by
    rw [hf, hm]
    simp only [List.mem_cons, List.not_mem_nil, or_false] at hid
    rcases hid with rfl | rfl | rfl | rfl <;> exact if_neg hn
  have hlt : id < 0xF := by simp at hid; omega
  rw [evalBuiltin_special (isPosFn_of_lt hlt) hs]

/-! ## The parts of a composite (R79) -/

/-- The exponential of a composite is the built-in EXP at Grade Q. -/
theorem nativeExp_fst (look : Look) (y : Word) : (nativeExp look y).1 = (evalBuiltin look 1 .Q (.x y)).bits := by
  cases h : builtinSpecial 1 .Q (f32 y) with
  | some v =>
    rw [evalBuiltin_special rfl h]
    simp only [nativeExp, h]
    rfl
  | none =>
    simp only [nativeExp, evalBuiltin, h]
    rfl

/-- A native table's descriptor passes every input but NaN, which is NaN in both. -/
theorem nativeG_v (look : Look) (f : RomFn) (y : Word) : (nativeG look f y).v =
    (evalTable look (.native (romRow f .Q)) ((romTable (romRow f .Q)).desc 0) .Q (.x y)).v := by
  have hpass : ∀ v : Val, v.isNaN = false → ((romTable (romRow f .Q)).desc 0).spec v = none := by
    intro v hv
    cases v with
    | nan => cases hv
    | inf s => cases s <;> rfl
    | fin s n d =>
      by_cases h0 : n = 0
      · subst h0; cases s <;> rfl
      · exact if_neg h0
  cases hv : (f32 y).isNaN with
  | false => rw [evalTable_passed (hpass _ hv)]; rfl
  | true =>
    have hy : f32 y = .nan := by
      cases h : f32 y <;> simp [h, Val.isNaN] at hv ⊢
    rw [evalTable_settled (v := .nan) (by rw [hy]; rfl)]
    show (finishTable look _ _ .Q (.scalar (f32 y) {})).v = .nan
    rw [hy]
    rfl

/-- An input that Table 4.3 passes, of a composite at Grades Q and L. -/
theorem evalBuiltin_composite (hid : isPosFn id = false) (h : builtinSpecial id g (f32 x) = none) (hc : isComposite id g = true) :
    evalBuiltin look id g (.x x) = evalComposite look id x := by
  simp only [evalBuiltin, hid, h, hc, Bool.false_eq_true, if_false, if_true]

theorem isComposite_of_mem (hid : id ∈ [8, 0xB, 0xC, 0xD, 0xE]) (hg : g ≠ .N) : isComposite id g = true := by
  revert hg
  simp only [List.mem_cons, List.not_mem_nil, or_false] at hid
  rcases hid with rfl | rfl | rfl | rfl | rfl <;> cases g <;> decide

/-- A composite other than GELU_ERF settles nothing at a finite input that is no zero. -/
theorem evalBuiltin_composite_finite (hid : id ∈ [8, 0xB, 0xC, 0xD]) (h : wordFinite x) (hg : g ≠ .N) :
    evalBuiltin look id g (.x x) = evalComposite look id x := by
  obtain ⟨n, d, hf, hn⟩ := f32_of_wordFinite h
  have hs : builtinSpecial id g (f32 x) = none := by
    rw [hf]
    simp only [List.mem_cons, List.not_mem_nil, or_false] at hid
    rcases hid with rfl | rfl | rfl | rfl <;> exact if_neg hn
  have hlt : id < 0xF := by simp at hid; omega
  exact evalBuiltin_composite (isPosFn_of_lt hlt) hs (isComposite_of_mem (by simp at hid ⊢; omega) hg)

/-! ## GELU_ERF beyond 16 (Table 4.3) -/

/-- A finite value is at least 16 in magnitude where its magnitude code is at least that of 16. -/
theorem sixteen_mul_le_iff {s : Bool} {n d : Nat} (h : f32 x = .fin s n d) : 16 * d ≤ n ↔ 0x41800000 ≤ magOf x := by
  have hd := f32_den_pos h
  rw [f32_eq] at h
  split at h
  case isFalse => split at h <;> simp at h
  obtain ⟨-, rfl, rfl⟩ := Val.fin.inj h
  rw [← (Fmt.val_strictMono .fp32).le_iff_le (a := 0x41800000)]
  show _ ↔ _ ≤ ((Fmt.fp32.magVal (magOf x)).1 : ℚ) / (Fmt.fp32.magVal (magOf x)).2
  rw [Fmt.val_le_iff .fp32 hd, show Fmt.fp32.magVal 0x41800000 = (2 ^ 23, 2 ^ 19) by decide]
  dsimp only
  omega

theorem Val.sixteen_le_fin (s : Bool) (n d : Nat) :
    (Val.ofNat 16).le (.fin s n d) = decide (((16 * d : Nat) : Int) ≤ Val.signed s n) := by
  rw [Val.le, Bool.eq_iff_iff, decide_eq_true_iff, le_iff_lt_or_eq]
  show (decide (((16 * d : Nat) : Int) < Val.signed s (n * 1)) ||
    decide (((16 * d : Nat) : Int) = Val.signed s (n * 1))) = true ↔ _
  rw [mul_one, Bool.or_eq_true, decide_eq_true_iff, decide_eq_true_iff]

theorem Val.fin_le_neg_sixteen (s : Bool) (n d : Nat) :
    (Val.fin s n d).le (Val.ofNat 16).neg = decide (Val.signed s n ≤ -((16 * d : Nat) : Int)) := by
  rw [Val.le, Bool.eq_iff_iff, decide_eq_true_iff, le_iff_lt_or_eq]
  show (decide (Val.signed s (n * 1) < -((16 * d : Nat) : Int)) ||
    decide (Val.signed s (n * 1) = -((16 * d : Nat) : Int))) = true ↔ _
  rw [mul_one, Bool.or_eq_true, decide_eq_true_iff, decide_eq_true_iff]

/-- GELU_ERF at Grades Q and L: x itself from 16 on, −0 from −16 down, the composite between. -/
theorem builtinSpecial_geluErf (h : wordFinite x) (hg : g ≠ .N) : builtinSpecial 0xE g (f32 x) =
    if 0x41800000 ≤ magOf x then some (if x.msb then .fin true 0 1 else f32 x) else none := by
  obtain ⟨n, d, hf, hn⟩ := f32_of_wordFinite h
  have hrule : builtinSpecial 0xE g (.fin x.msb n d) = if g = .N then none
      else if (Val.ofNat 16).le (.fin x.msb n d) then some (.fin x.msb n d)
      else if (Val.fin x.msb n d).le (Val.ofNat 16).neg then some (.fin true 0 1) else none := if_neg hn
  have hM := sixteen_mul_le_iff hf
  rw [hf, hrule, if_neg hg, Val.sixteen_le_fin, Val.fin_le_neg_sixteen]
  simp only [← hM, decide_eq_true_eq]
  cases x.msb with
  | false =>
    have hneg : ¬ (n : Int) ≤ -((16 * d : Nat) : Int) := by omega
    simp only [Val.signed, Bool.false_eq_true, if_false, Nat.cast_le, if_neg hneg]
  | true =>
    have hpos : ¬ ((16 * d : Nat) : Int) ≤ -(n : Int) := by omega
    simp only [Val.signed, if_true, if_neg hpos, neg_le_neg_iff, Nat.cast_le]

end

/-! ## The composites' values (R79) -/

/-- The sigmoid of an FP32 value, on the native tables SIGH and SIGK. -/
abbrev sigmaOf (look : Look) (a : Word) : Val :=
  (nativeG look (if (f32 a).sign then .sigk else .sigh) (nativeExp look (fneg (fabs a))).1).v

section
variable (look : Look) (x : Word)

theorem evalComposite_sigmoid_v : (evalComposite look 8 x).v = sigmaOf look x := rfl

theorem evalComposite_silu_v : (evalComposite look 0xC x).v = (f32 x).mul (sigmaOf look x) := rfl

theorem evalComposite_softplus_v : (evalComposite look 0xB x).v =
    ((f32 x).max Val.zero).add (nativeG look .l1p (nativeExp look (fneg (fabs x))).1).v := rfl

theorem evalComposite_geluTanh_v : (evalComposite look 0xD x).v =
    (f32 x).mul (sigmaOf look (fmul x (ffma (fmul x x) 0x3D922279 0x3FCC422A))) := rfl

theorem evalComposite_geluErf_v : (evalComposite look 0xE x).v =
    let p := fmul x x
    let d := ffma x x (fneg p)
    let t := (nativeExp look (rne32 ((f32 (fneg p)).mul (f32 0x3F000000)))).1
    let y := fmul t (fsub one32 (rne32 ((f32 d).mul (f32 0x3F000000))))
    let wv := f32 (rne32 ((f32 y).mul (nativeG look .mill (fabs x)).v))
    if (f32 x).sign then (f32 x).mul wv else (f32 x).mul (Val.one.sub wv) := rfl

end

/-- A word is its magnitude code, past 2^31 where its sign is set. -/
theorem toNat_eq_magOf (x : Word) : x.toNat = if x.msb then 2 ^ 31 + magOf x else magOf x := by
  have hlt := x.isLt
  rw [BitVec.msb_eq_decide, magOf]
  simp only [decide_eq_true_eq]
  split <;> omega

/-- What a built-in gives. -/
theorem builtinValues_hold : builtinValues := by
  intro look g x
  have rows {ids : List Nat} {r : List Word} (h : ∀ id ∈ ids, (id, r) ∈ specialRows) : ∀ id ∈ ids,
      specialWords.map (fun w => (evalBuiltin look id g (.x w)).bits) = r := fun id hid => evalBuiltin_specialWords (h id hid)
  dsimp only
  refine ⟨rows (by decide), rows (by decide), rows (by decide), rows (by decide), rows (by decide), rows (by decide),
    rows (by decide), rows (by decide), rows (by decide), fun id hid he hf => evalBuiltin_nan hid ⟨he, hf⟩,
    fun id hid hx hm => evalBuiltin_negative hid hx hm, fun hx hg => ?_⟩
  have comp (id : Nat) (hid : id ∈ [8, 0xB, 0xC, 0xD]) : (evalBuiltin look id g (.x x)).v = (evalComposite look id x).v :=
    congrArg EvalOut.v (evalBuiltin_composite_finite hid hx hg)
  have hgelu := builtinSpecial_geluErf hx hg
  have hmag := toNat_eq_magOf x
  refine ⟨?_, ?_, ?_, ?_, fun hm hbig => ?_, fun hbig => ?_, fun hsmall => ?_⟩
  · rw [comp 8 (by decide), evalComposite_sigmoid_v, sigmaOf, nativeG_v, nativeExp_fst]
  · rw [comp 0xC (by decide), evalComposite_silu_v, sigmaOf, nativeG_v, nativeExp_fst]
  · rw [comp 0xB (by decide), evalComposite_softplus_v, nativeG_v, nativeExp_fst]
  · rw [comp 0xD (by decide), evalComposite_geluTanh_v, sigmaOf, nativeG_v, nativeExp_fst]
  · rw [if_neg (by simp [hm])] at hmag
    have hM : 0x41800000 ≤ magOf x := hmag ▸ hbig
    rw [if_pos hM, if_neg (by simp [hm])] at hgelu
    rw [evalBuiltin_special rfl hgelu]
  · have hbig' : 0xC1800000 ≤ x.toNat := hbig
    have hm : x.msb = true := by rw [BitVec.msb_eq_decide, decide_eq_true_eq]; omega
    rw [if_pos hm] at hmag
    rw [if_pos (by omega), if_pos hm] at hgelu
    rw [evalBuiltin_special rfl hgelu]
  · have hM : ¬ 0x41800000 ≤ magOf x := by
      rcases hsmall with ⟨hm, hlt⟩ | ⟨hm, hlt⟩
      · have hlt' : x.toNat < 0x41800000 := hlt
        rw [if_neg (by simp [hm])] at hmag
        omega
      · have hlt' : x.toNat < 0xC1800000 := hlt
        rw [if_pos hm] at hmag
        omega
    rw [if_neg hM] at hgelu
    obtain ⟨n, d, hf, -⟩ := f32_of_wordFinite hx
    have hsign : (f32 x).sign = x.msb := by rw [hf]; rfl
    rw [evalBuiltin_composite rfl hgelu (isComposite_of_mem (by decide) hg), evalComposite_geluErf_v]
    dsimp only
    rw [nativeG_v, nativeExp_fst, hsign]
    rfl

end Sys2Proof.Machine

/-! PROOFS. Chapter 3, one fc of issue (R68, R157, R280, R306): under HALT, and with one evaluation ready. -/
namespace Sys2Proof.Machine

/-! ## What the counts of an evaluation leave alone -/

@[simp] theorem State.countSlots_chn (s : State) (p : Nat) (g : Grade) (k : Nat) : (s.countSlots p g k).chn = s.chn := by
  unfold State.countSlots
  split
  · rfl
  · simp

theorem State.countSlots_zero (s : State) (p : Nat) (g : Grade) : s.countSlots p g 0 = s := if_pos rfl

@[simp] theorem State.considerSample_chn (s : State) (taken : Nat) : (s.considerSample taken).1.chn = s.chn := by
  unfold State.considerSample
  split
  · rfl
  · dsimp only
    split
    · rfl
    · split
      · simp
      · rfl

/-- An evaluation in flight is held beside the chains and the lane requests. -/
theorem State.fly_chn (s : State) (chain : Option (Nat × Nat)) (lane : Nat) (bank own : Bool) (q : EvalReq) :
    (s.fly chain lane bank own q).chn.slots = s.chn.slots ∧ (s.fly chain lane bank own q).chn.lanes = s.chn.lanes := by
  unfold State.fly
  cases own <;> simp

/-! ## HALT (R306) -/

/-- What an fc without an evaluation leaves alone. -/
def State.Undisturbed (s t : State) : Prop := t.chn = s.chn ∧ t.port = s.port ∧ t.p0 = s.p0

/-- Ballast, where there is some, counts, draws current and ages its pinna. -/
theorem State.undisturbed_ballast (s : State) (idle : Bool) (p k : Nat) :
    s.Undisturbed (if idle then s else s.countBallast p k) := by
  obtain ⟨c, hc⟩ := s.count_eq 25 k
  split
  · exact ⟨rfl, rfl, rfl⟩
  · unfold State.countBallast
    rw [hc]
    exact ⟨rfl, rfl, rfl⟩

theorem State.issuePinna_halted (s : State) (ballast p : Nat) :
    s.Undisturbed (s.issuePinna [] true ballast p).1 ∧ (s.issuePinna [] true ballast p).2 = false :=
  ⟨s.undisturbed_ballast _ _ _, rfl⟩

/-- One pinna of an fc of issue, and whether work has waited in one so far. -/
def issueStep (items : List (Nat × Nat × Nat × Nat)) (halt : Bool) (ballast : Nat) (a : State × Bool) (p : Nat) :
    State × Bool :=
  ((a.1.issuePinna items halt ballast p).1, a.2 || (a.1.issuePinna items halt ballast p).2)

/-- A ready item that asks for no evaluation finishes (R173). -/
def finishStep (s : State) (it : Nat × Nat × Nat × Nat) : State :=
  match (s.chainOf it.2.2.1).bind (fun c => (c.item it.2.2.2).map (fun i => (c, i))) with
  | some (c, i) => if i.idle && i.results.isEmpty && s.storeAllows c i then s.finishItem it.2.2.1 it.2.2.2 else s
  | none => s

/-- An fc of issue: the lane request is chosen, every pinna issues, and the items that ask for nothing finish. -/
theorem State.issue_eq {s : State} (ht : s.takes = true) (ballast : Nat) : s.issue ballast =
    let items := if s.halting then [] else s.readyItems.filter (fun it => s.admitsNew || s.begun it)
    let t := if !s.halting && s.laneNow.isNone then s.chooseLane else s
    let r := (List.range t.pinnaCount).foldl (issueStep items s.halting ballast) (t, false)
    let u := items.foldl finishStep r.1
    let v : State := { u with chn := { u.chn with stamp := u.chn.stamp + 1 } }
    if r.2 then v.count 24 1 else v := by
  unfold State.issue
  rw [ht]
  rfl

theorem foldl_issueStep_halted (ballast : Nat) (ps : List Nat) (s : State) :
    let r := ps.foldl (issueStep [] true ballast) (s, false)
    s.Undisturbed r.1 ∧ r.2 = false := by
  induction ps generalizing s with
  | nil => exact ⟨⟨rfl, rfl, rfl⟩, rfl⟩
  | cons p ps ih =>
    obtain ⟨⟨hc, hp, h0⟩, hb⟩ := s.issuePinna_halted ballast p
    obtain ⟨⟨hc', hp', h0'⟩, hb'⟩ := ih (s.issuePinna [] true ballast p).1
    simp only [List.foldl_cons, issueStep, hb, Bool.or_self]
    exact ⟨⟨hc'.trans hc, hp'.trans hp, h0'.trans h0⟩, hb'⟩

/-- Under HALT no evaluation issues. -/
theorem State.issue_halted {s : State} (ht : s.takes = true) (hh : s.halting = true) (ballast : Nat) :
    (s.issue ballast).chn = { s.chn with stamp := s.chn.stamp + 1 } ∧ (s.issue ballast).port = s.port ∧
      (s.issue ballast).p0 = s.p0 := by
  obtain ⟨⟨hc, hp, h0⟩, hb⟩ := foldl_issueStep_halted ballast (List.range s.pinnaCount) s
  simp only [State.issue_eq ht, hh, if_true, Bool.not_true, Bool.false_and, Bool.false_eq_true, if_false, hb, List.foldl_nil, hc]
  exact ⟨trivial, hp, h0⟩

/-! ## One evaluation -/

/-- A fold that changes its value at one index alone. -/
theorem foldl_range_once {β : Type} {f : β → Nat → β} {b c : β} {k n : Nat} (hk : k < n) (hb : ∀ p, p ≠ k → f b p = b)
    (hf : f b k = c) (hc : ∀ p, p ≠ k → f c p = c) : (List.range n).foldl f b = c := by
  have hgo : ∀ m, (List.range m).foldl f b = if k < m then c else b := by
    intro m
    induction m with
    | zero => rfl
    | succ m ih =>
      rw [List.range_succ, List.foldl_append, ih, List.foldl_cons, List.foldl_nil]
      rcases lt_trichotomy m k with h | rfl | h
      · rw [if_neg (by omega), if_neg (by omega), hb m h.ne]
      · rw [if_neg (by omega), if_pos (by omega), hf]
      · rw [if_pos h, if_pos (by omega), hc m h.ne']
  rw [hgo n, if_pos hk]

section
variable {s : State} (hl : s.chn.lanes = [])
include hl

theorem State.lanePart_of_no_lanes (p : Nat) : s.lanePart p = none := by
  rw [State.lanePart, hl, List.find?_nil]

theorem State.laneNow_of_no_lanes : s.laneNow = none := by
  simp [State.laneNow, hl]

theorem State.laneReady_of_no_lanes (p : Nat) : s.laneReady p = false := by
  simp [State.laneReady, State.lanePart_of_no_lanes hl, State.laneNow_of_no_lanes hl]

theorem State.chooseLane_of_no_lanes : s.chooseLane = { s with chn := { s.chn with laneHead := none } } := by
  have hof : ∀ g, s.laneOf g = none := fun g => by simp [State.laneOf, hl]
  simp [State.chooseLane, hof]

/-- Nothing is ready for a pinna where no lane request waits and the one ready item wants no evaluation there. -/
theorem State.issuePinna_idle {stamp slot uid key p : Nat} {c : Chain} {i : Item} (hc : s.chainOf uid = some c)
    (hi : c.item key = some i) (hp : i.todo.any (fun q => q.pinna == p) = false) :
    s.issuePinna [(stamp, slot, uid, key)] false 0 p = (s, false) := by
  simp [State.issuePinna, hc, hi, hp, State.laneReady_of_no_lanes hl, State.lanePart_of_no_lanes hl]

end

/-- An empty pinna has room for a result of at most 8 evaluators' slots. -/
theorem Fill.place_empty {room k : Nat} (g : Grade) (h1 : 1 ≤ k) (h8 : k ≤ 8 * g.perEvaluator) :
    ∃ f, ({ room := room } : Fill).place 8 g k = some f ∧ f.grade = some g ∧ f.short = false := by
  have hg : ((none : Option Grade) == some g) = false := rfl
  have hfits : ¬ (decide (8 = 0) || decide (8 * g.perEvaluator < k)) = true := by simpa using h8
  simp only [Fill.place, hg, Bool.false_eq_true, if_false, if_neg (show ¬ k ≤ 0 by omega), Nat.sub_zero, Nat.zero_add]
  exact ⟨_, if_neg hfits, rfl, rfl⟩

/-- An empty pinna takes one evaluation that fits and that E covers. -/
theorem takeFor_single {charge : EvalReq → Grade × Nat} {cost : Grade → Nat} {p room : Nat} {q : EvalReq} (hp : q.pinna = p)
    (h0 : q.paid = 0) (h1 : 1 ≤ (charge q).2) (h8 : (charge q).2 ≤ 8 * (charge q).1.perEvaluator)
    (hroom : cost (charge q).1 * (charge q).2 ≤ room) :
    ∃ f : Fill, takeFor charge cost p 8 { room := room } [q] = (f, [q], [], 0) ∧ f.grade = some (charge q).1 ∧
      f.short = false := by
  obtain ⟨f, hplace, hgrade, hshort⟩ := Fill.place_empty (room := room) (charge q).1 h1 h8
  refine ⟨{ f with room := room - cost (charge q).1 * (charge q).2 }, ?_, hgrade, hshort⟩
  simp only [takeFor, hp, ne_eq, not_true_eq_false, if_false, h0, Nat.sub_zero, hplace, Option.isNone_some, Option.isSome_some,
    Bool.and_false, Bool.false_eq_true, Bool.or_true, Bool.true_and, decide_eq_true_eq, if_neg hroom.not_gt]

/-- The state after one evaluation of an item has issued in an empty pinna. -/
def State.issuedOne (s : State) (c : Chain) (i : Item) (q : EvalReq) : State :=
  (((s.showPinna q.pinna (s.slotCharge c i.ord q).1.code false).modItem c.uid i.key (fun i => { i with
    todo := [], inflight := i.inflight + 1 })).countSlots q.pinna (s.slotCharge c i.ord q).1 (s.slotCharge c i.ord q).2).fly
    (some (c.uid, i.key)) 0 c.bank true q

/-- A store, the evaluators of an empty pinna and E allow an evaluation of an item in this fc. -/
structure State.Allows (s : State) (c : Chain) (i : Item) (q : EvalReq) : Prop where
  unpaid : q.paid = 0
  store : s.storeAllows c i = true
  charged : 1 ≤ (s.slotCharge c i.ord q).2
  slots : (s.slotCharge c i.ord q).2 ≤ 8 * (s.slotCharge c i.ord q).1.perEvaluator
  room : s.slotCost (s.slotCharge c i.ord q).1 * (s.slotCharge c i.ord q).2 ≤ s.envRoom

section
variable {s : State} {stamp slot : Nat} {c : Chain} {i : Item} {q : EvalReq} (hc : s.chainOf c.uid = some c)
  (hi : c.item i.key = some i) (htodo : i.todo = [q]) (hq : s.Allows c i q)
include hc hi htodo hq

theorem State.fillChain_single : ∃ f : Fill,
    s.fillChain q.pinna 8 [(stamp, slot, c.uid, i.key)] = (s.issuedOne c i q, f, false) ∧ f.short = false := by
  obtain ⟨f, htake, hgrade, hshort⟩ := takeFor_single (charge := s.slotCharge c i.ord) rfl hq.unpaid hq.charged hq.slots hq.room
  have hown : (s.slotCharge c i.ord q).2 ≠ 0 := Nat.ne_of_gt hq.charged
  refine ⟨f, ?_, hshort⟩
  simp [State.fillChain, hc, hi, htodo, hq.store, hq.unpaid, htake, hgrade, State.countSlots_zero, State.issuedOne, hown]

/-- The pinna that the evaluation names issues it, and nothing waits. -/
theorem State.issuePinna_single (hl : s.chn.lanes = []) (hg : s.pwr.guardBand = 0) :
    s.issuePinna [(stamp, slot, c.uid, i.key)] false 0 q.pinna = (s.issuedOne c i q, false) := by
  obtain ⟨f, hfill, hshort⟩ := State.fillChain_single (stamp := stamp) (slot := slot) hc hi htodo hq
  have hn : s.evaluatorsAllowed = 8 := by simp only [State.evaluatorsAllowed, hg]
  have hwaits : ∀ t : State, t.waitsForEnv false = t := fun t => by simp only [State.waitsForEnv, Bool.or_false]
  simp [State.issuePinna, hn, hc, hi, htodo, hfill, hshort, hwaits, State.laneReady_of_no_lanes hl, State.lanePart_of_no_lanes hl]

end

/-! ### What the evaluation leaves -/

/-- An element that is changed in place is found as it has become. -/
theorem find?_map_changed {α : Type} {p : α → Bool} {f : α → α} (hf : ∀ a, p (f a) = p a) {l : List α} {a : α}
    (h : l.find? p = some a) : (l.map (fun a => if p a then f a else a)).find? p = some (f a) := by
  have hp : (p ∘ fun a => if p a then f a else a) = p := by
    funext b
    simp only [Function.comp_apply]
    split
    · exact hf b
    · rfl
  rw [List.find?_map, hp, h, Option.map_some, if_pos (List.find?_some h)]

theorem State.chains_modChain (s : State) (uid : Nat) (f : Chain → Chain) :
    (s.modChain uid f).chains = s.chains.map (fun c => if c.uid == uid then f c else c) := by
  simp only [State.chains, State.modChain, List.filterMap_map, List.map_filterMap]
  rfl

theorem State.chainOf_modChain {s : State} {uid : Nat} {f : Chain → Chain} (hf : ∀ c, (f c).uid = c.uid) {c : Chain}
    (h : s.chainOf uid = some c) : (s.modChain uid f).chainOf uid = some (f c) := by
  rw [State.chainOf, State.chains_modChain]
  exact find?_map_changed (fun c => by rw [hf]) h

/-- An item that is changed in place is found as it has become. -/
theorem State.item_modItem {s : State} {uid : Nat} {f : Item → Item} (hf : ∀ i, (f i).key = i.key) {c : Chain} {i : Item}
    (hc : s.chainOf uid = some c) (hi : c.item i.key = some i) :
    ∃ c', (s.modItem uid i.key f).chainOf uid = some c' ∧ c'.item i.key = some (f i) :=
  ⟨_, State.chainOf_modChain (f := fun c => { c with items := c.items.map (fun j => if j.key == i.key then f j else j) })
    (fun _ => rfl) hc, find?_map_changed (fun j => by rw [hf]) hi⟩

/-- The item has nothing left to issue, and waits for a result. -/
theorem State.issuedOne_item {s : State} {c : Chain} {i : Item} (q : EvalReq) (hc : s.chainOf c.uid = some c)
    (hi : c.item i.key = some i) :
    (s.issuedOne c i q).chn.lanes = s.chn.lanes ∧ ∃ c', (s.issuedOne c i q).chainOf c.uid = some c' ∧
      c'.item i.key = some { i with todo := [], inflight := i.inflight + 1 } := by
  obtain ⟨hslots, hlanes⟩ := State.fly_chn (((s.showPinna q.pinna (s.slotCharge c i.ord q).1.code false).modItem c.uid i.key
    (fun i => { i with todo := [], inflight := i.inflight + 1 })).countSlots q.pinna (s.slotCharge c i.ord q).1
    (s.slotCharge c i.ord q).2) (some (c.uid, i.key)) 0 c.bank true q
  rw [State.countSlots_chn] at hslots hlanes
  refine ⟨hlanes, ?_⟩
  rw [State.chainOf, State.chains, State.issuedOne, hslots]
  exact State.item_modItem (s := s.showPinna q.pinna (s.slotCharge c i.ord q).1.code false)
    (f := fun i => { i with todo := [], inflight := i.inflight + 1 }) (fun _ => rfl) hc hi

/-- No lane request is chosen. -/
def State.noLaneHead (s : State) : State := { s with chn := { s.chn with laneHead := none } }

/-- An fc with one evaluation ready and nothing else. -/
theorem State.issue_single {s : State} {stamp slot : Nat} {c : Chain} {i : Item} {q : EvalReq} (ht : s.takes = true)
    (hh : s.halting = false) (hl : s.chn.lanes = []) (hg : s.pwr.guardBand = 0) (ha : s.admitsNew = true)
    (hr : s.readyItems = [(stamp, slot, c.uid, i.key)]) (hc : s.chainOf c.uid = some c) (hi : c.item i.key = some i)
    (htodo : i.todo = [q]) (hp : q.pinna < s.pinnaCount) (hq : s.Allows c i q) :
    let u := s.noLaneHead.issuedOne c i q
    s.issue 0 = { u with chn := { u.chn with stamp := u.chn.stamp + 1 } } := by
  obtain ⟨hlanes, c', hc', hi'⟩ := State.issuedOne_item (s := s.noLaneHead) q hc hi
  have hfold : (List.range s.pinnaCount).foldl (issueStep [(stamp, slot, c.uid, i.key)] false 0) (s.noLaneHead, false) =
      (s.noLaneHead.issuedOne c i q, false) := by
    refine foldl_range_once hp (fun p hpq => ?_) ?_ (fun p hpq => ?_)
    · rw [issueStep, State.issuePinna_idle (s := s.noLaneHead) hl hc hi]
      · rfl
      · simp [htodo, hpq.symm]
    · have hq' : s.noLaneHead.Allows c i q := ⟨hq.unpaid, hq.store, hq.charged, hq.slots, hq.room⟩
      rw [issueStep, State.issuePinna_single (s := s.noLaneHead) hc hi htodo hq' hl hg]
      rfl
    · rw [issueStep, State.issuePinna_idle (hlanes.trans hl) hc' hi' rfl]
      rfl
  have hfinish : finishStep (s.noLaneHead.issuedOne c i q) (stamp, slot, c.uid, i.key) = s.noLaneHead.issuedOne c i q := by
    simp [finishStep, hc', hi', Item.idle]
  have hchoose : s.chooseLane = s.noLaneHead := State.chooseLane_of_no_lanes hl
  have hcount : s.noLaneHead.pinnaCount = s.pinnaCount := rfl
  simp [State.issue_eq ht, hh, State.laneNow_of_no_lanes hl, hchoose, hr, ha, hcount, hfold, hfinish]

end Sys2Proof.Machine

/-! PROOFS. Chapters 3 and 5, evaluations in flight: the result (R67, R88), the refetch of an entry (R88), and the end of a
residency fill (R105). -/
namespace Sys2Proof.Machine

/-! ## EVALUATION_RESULT and SORUS_REFETCH (R67, R88) -/

/-- The result of a flight that the sentinel takes goes into its queue. -/
def State.takeSample (t : State) (f : Flight) (o : Outcome) (tag : BitVec 16) : State :=
  match f.sampled with
  | some b => t.addSample f.pinna f.req.how f.bank f.req.input o b tag
  | none => t

section
variable {s : State} {id : Nat} {f : Flight} (hf : s.chn.flights.find? (fun f => f.id == id) = some f)
include hf

/-- A result whose entries are good, or are here again, leaves. -/
theorem State.evalResult_leaves
    (h : s.badLooks f.pinna (s.evaluate f.pinna f.req.how f.req.input) = ([], []) ∨ f.refetched = true) :
    s.evalResult id =
      let o := s.evaluate f.pinna f.req.how f.req.input
      let t := ({ s with chn := { s.chn with flights := s.chn.flights.filter (fun q => q.id != id) } } : State).count 4 o.clamps
      ((t.takeSample f o (s.flightTag f)).deliver f o.bits).holdBallast := by
  have hgo : ¬ (s.badLooks f.pinna (s.evaluate f.pinna f.req.how f.req.input) != ([], []) && !f.refetched) = true := by
    rcases h with h | h <;> simp [h]
  unfold State.evalResult
  rw [hf]
  exact if_neg hgo

/-- A result with a bad entry waits for its refetch. -/
theorem State.evalResult_waits (h : s.badLooks f.pinna (s.evaluate f.pinna f.req.how f.req.input) ≠ ([], []))
    (hr : f.refetched = false) : s.evalResult id = s := by
  have hwait : (s.badLooks f.pinna (s.evaluate f.pinna f.req.how f.req.input) != ([], []) && !f.refetched) = true := by
    simp [h, hr]
  unfold State.evalResult
  rw [hf]
  exact if_pos hwait

theorem State.sorusRefetch_idle
    (h : s.badLooks f.pinna (s.evaluate f.pinna f.req.how f.req.input) = ([], []) ∨ f.refetched = true) :
    s.sorusRefetch id = s := by
  unfold State.sorusRefetch
  rw [hf]
  refine if_pos ?_
  rcases h with h | h <;> simp [h]

/-- One bad entry is refetched once. -/
theorem State.sorusRefetch_one {e : TblRef × Nat}
    (h : s.badLooks f.pinna (s.evaluate f.pinna f.req.how f.req.input) = ([e], [])) (hr : f.refetched = false) :
    s.sorusRefetch id =
      let v := s.refetch (s.flightTag f) (keyOf e.1) f.pinna e.2 (s.entryPlace e.1 e.2) (s.rhizomeEntry e.1 e.2)
        (s.sorusEntry f.pinna e.1 e.2)
      { v with chn := { v.chn with
        flights := v.chn.flights.map (fun q => if q.id = id then { q with refetched := true } else q) } } := by
  unfold State.sorusRefetch
  rw [hf]
  simp [h, hr, State.refetchAll]

end

/-! ## The refetch of one entry (R88) -/

/-- A copy that its own check would have corrected is logged as such. -/
def State.logMended (s : State) (tag : BitVec 16) (i : Nat) (copy : Entry) : State :=
  match eccOf copy with
  | .corr _ => s.logEcc false 3 i copy false tag
  | _ => s

section
variable (s : State) (tag : BitVec 16) (k : TableKey) (p i : Nat) (plc : Nat × Nat) {e : Entry} (copy : Entry)

theorem State.refetch_clean (h : eccOf e = .clean) : s.refetch tag k p i plc e copy =
    ((s.count 19 1).setCopy k p i (some e)).logMended tag plc.2 copy := by
  unfold State.refetch
  rw [h]
  rfl

theorem State.refetch_corr {e' : Entry} (h : eccOf e = .corr e') : s.refetch tag k p i plc e copy =
    (((s.count 19 1).setCopy k p i (some e')).countEcc plc.1).logEcc false plc.1 plc.2 e false tag := by
  unfold State.refetch
  rw [h]

theorem State.refetch_uncorr (h : eccOf e = .uncorr) : s.refetch tag k p i plc e copy =
    (((s.count 19 1).setFault plc.1).logEcc true plc.1 plc.2 e false tag).logMended tag plc.2 copy := by
  unfold State.refetch
  rw [h]
  rfl

end

/-! ## RESIDENCY_FILL_DONE (R105) -/

theorem Chain.restamp_eq (was now : List TableKey → Bool) (stamp : Nat) (c : Chain) : c.restamp was now stamp =
    if was c.ws = false ∧ now c.ws = true then
      { c with items := c.items.map (fun i => if i.ready && !i.done then { i with stamp := stamp } else i) }
    else c := by
  unfold Chain.restamp
  cases was c.ws <;> cases now c.ws <;> rfl

theorem State.fillDone_filling {s : State} {k : TableKey} (h : s.tbl.filling = some k) :
    let blocks := ((List.range 64).filter (fun b => !s.tbl.resident.any (fun r => r.blocks.contains b))).take (s.keyBlocks k)
    let last := (lookupKey k s.tbl.wanted).getD s.tbl.admits
    let t : State := { s with tbl := { s.tbl with
      filling := none, resident := s.tbl.resident ++ [{ key := k, blocks := blocks, last := last }]
      wanted := dropKey k s.tbl.wanted } }
    let now := fun (c : Chain) => if s.wsResident c.ws = false ∧ t.wsResident c.ws = true then
        { c with items := c.items.map (fun i => if i.ready && !i.done then { i with stamp := s.fc + s.chn.stamp } else i) }
      else c
    let u : State := { t with chn := { t.chn with slots := s.chn.slots.map (Option.map now) } }
    s.fillDone = ((u.count 20 (s.keyEntries k)).spend 11 (s.keyEntries k)).startFill := by
  have hnow := fun t : State => funext (fun c : Chain => (c.restamp_eq s.wsResident t.wsResident s.readyTime).symm)
  intro blocks last t now u
  have hu : now = Chain.restamp s.wsResident t.wsResident s.readyTime := hnow t
  simp only [State.fillDone, h]
  simp only [u, hu]
  rfl

/-! ## The statement -/

/-- FCLK runs just where commands are taken. -/
theorem State.takes_of_fclkRuns {s : State} (h : s.fclkRuns = true) : s.takes = true := h

/-- Settles O54: `tableValues_hold` and `builtinValues_hold`, an fc of issue (`issue_halted`, `issue_single`), the result of a
flight and the refetch of its entry, and the end of a fill. Taking the lowest free blocks, and that a result waits for the refetch
of its entry, are the model's reading (log entries 6 and 27). -/
theorem evaluations : Obligations.Evaluations := by
  refine ⟨tableValues_hold, builtinValues_hold, fun s p i b d id g => ⟨rfl, rfl, rfl, rfl⟩, fun s hr => ?_⟩
  have ht := State.takes_of_fclkRuns hr
  have issues {ballast : Nat} {t : State} (h : s.issue ballast = t) : exec (.workItemIssue ballast) s = .next t.settle :=
    State.clocked_of_eq (act := fun s => s.issue ballast) hr h
  have leaves {id : Nat} {t : State} (h : s.evalResult id = t) : exec (.evaluationResult id) s = .next t.settle :=
    State.clocked_of_eq (act := fun s => s.evalResult id) hr h
  have refetches {id : Nat} {t : State} (h : s.sorusRefetch id = t) : exec (.sorusRefetch id) s = .next t.settle :=
    State.clocked_of_eq (act := fun s => s.sorusRefetch id) hr h
  refine ⟨fun ballast hen hhalt => ?_, fun stamp slot c i q hh hl hg ha hready hc hi htodo h0 hp hs h1 h8 hroom => ?_,
    fun id f hf => ⟨fun h => ?_, fun h h' => ?_, fun h => ?_, fun e h h' => ?_⟩,
    fun tag k p i plc e copy => ⟨fun h => ?_, fun e' h => ?_, fun h => ?_⟩, fun k hk => ?_⟩
  · have hh : s.halting = true := by simp only [State.halting, hen, hhalt, Bool.and_self]
    obtain ⟨hchn, hport, hp0⟩ := State.issue_halted ht hh ballast
    exact ⟨_, issues rfl, hchn, hport, hp0⟩
  · exact issues (State.issue_single ht hh hl hg ha hready hc hi htodo hp ⟨h0, hs, h1, h8, hroom⟩)
  · refine leaves ((State.evalResult_leaves hf h).trans ?_)
    unfold State.takeSample
    cases f.sampled <;> rfl
  · exact leaves (State.evalResult_waits hf h h')
  · exact refetches (State.sorusRefetch_idle hf h)
  · exact refetches (State.sorusRefetch_one hf h h')
  · refine (s.refetch_clean tag k p i plc copy h).trans ?_
    unfold State.logMended
    cases eccOf copy <;> rfl
  · exact s.refetch_corr tag k p i plc copy h
  · refine (s.refetch_uncorr tag k p i plc copy h).trans ?_
    unfold State.logMended
    cases eccOf copy <;> rfl
  · exact State.clocked_of_eq hr (State.fillDone_filling hk)

end Sys2Proof.Machine
